-- ==== Sys2Proof/Word.lean ====
section
/-!
DEFINITION. The word types of the hub (R10): physical addresses, line addresses, agent numbers and the few plain
operations on them that every later file uses.
-/
namespace Sys2Proof

/-- A byte of a line or of the register window. -/
abbrev Byte := BitVec 8
/-- A 64-bit register, parameter or descriptor word. -/
abbrev Word := BitVec 64
/-- A physical address PA[51:0] (R10). -/
abbrev Pa := BitVec 52
/-- A line address PA[51:6] (R10). -/
abbrev Line := BitVec 46
/-- A global agent ID: [15:7] hub number, [6:0] local agent number (R27). -/
abbrev Gaid := BitVec 16
/-- A local agent number (R27). -/
abbrev La := BitVec 7
/-- A transaction ID (R241). -/
abbrev Txid := BitVec 12
/-- The 64 bytes of a line, byte i in bits [8i+7:8i]. -/
abbrev LineBits := BitVec 512
/-- One bit for each byte of a line. -/
abbrev ByteMask := BitVec 64
/-- A hub number 0–511 (R198). -/
abbrev HubNo := BitVec 9

/-- PA of byte 0 of a line. -/
def Line.pa (l : Line) : Pa := l ++ (0 : BitVec 6)
/-- The line that holds a physical address. -/
def Pa.line (a : Pa) : Line := a.extractLsb' 6 46
/-- `GAID[15:7]`, the hub number (R27). -/
def Gaid.hub (g : Gaid) : HubNo := g.extractLsb' 7 9
/-- `GAID[6:0]`, the local agent number (R27). -/
def Gaid.la (g : Gaid) : La := g.extractLsb' 0 7
/-- The global agent ID of a local agent of a hub (R27). -/
def Gaid.mk (h : HubNo) (a : La) : Gaid := h ++ a

end Sys2Proof
end

