-- ==== Sys2Proof/Syntax.lean ====
section
/-!
DEFINITION. The commands of the hub: one constructor of `Instr` for each row of the opcode table, in the table's order,
and the plain data that the commands carry (flits, data, sideband words, and what the hub's surroundings and its own
error correctors present at the moment of the command).
-/
namespace Sys2Proof

/-- A 128-bit control flit without its opcode, which the command's row gives (R241). `low` holds the class-specific
bits [28:0], read by the accessors of `Machine/Operands.lean`. -/
structure Flit where
  txid   : Txid
  gaid   : Gaid
  line   : Line
  ticket : BitVec 16
  grant  : BitVec 3
  low    : BitVec 29
  deriving DecidableEq, Repr

/-- A line of data with its header bits `DIRTY` and `POISON` (R245). `sound` is false when the sender broke R246 or
R247 (wrong beats, or data not completed in time), which R256 makes malformed. -/
structure Payload where
  bytes  : LineBits
  dirty  : Bool
  poison : Bool
  sound  : Bool
  deriving DecidableEq, Repr

/-- A line of data as the mesh delivers it: a bit for each of its eight words that the corrector at the delivery finds uncorrectable (R333). -/
structure MeshData where
  line : Payload
  ue   : BitVec 8
  deriving DecidableEq, Repr

/-- Write data with its byte enables (R245): `WR_FULL`, `WR_PART`, `RSV_STORE`, `DEV_WR`. -/
structure WrData where
  bytes   : LineBits
  be      : ByteMask
  beValid : Bool
  poison  : Bool
  sound   : Bool
  deriving DecidableEq, Repr

/-- A single-bit or double-bit upset of one (13,8)-coded byte as its decoder meets it: the byte's index in its line and
the code bits flipped since it was stored (R331). -/
structure ByteUpset where
  idx  : BitVec 6
  flip : BitVec 13
  deriving DecidableEq, Repr

/-- What a corrector reports of one word (R330, R333). -/
inductive Err where
  | clean
  | corrected
  | uncorrectable
  deriving DecidableEq, Repr

/-- What the correctors report of the entry word that a mailbox command reads, and the bits of its tag that are read flipped where it is
uncorrectable (R97). -/
structure EntryErr (w : Nat) where
  err  : Err
  flip : BitVec w
  deriving DecidableEq, Repr

/-- What the fixed-stage correctors report at a lookup of one line: a bit for each way of the snoop filter set, of the
span directory set and of the hub-cache set (uncorrectable, then corrected), the hub-cache data, and the two parities. `sfFlips` and
`sdFlips` give, for a way whose word is uncorrectable, the bits of its tag that are read flipped (R97); a way not listed has its tag
read as it stands. -/
structure LookupErr where
  sfUe   : BitVec 16
  sfCe   : BitVec 16
  sdUe   : BitVec 8
  sdCe   : BitVec 8
  tagUe  : BitVec 16
  tagCe  : BitVec 16
  dataUe : Bool
  dataCe : Bool
  nruPar : Bool
  agePar : Bool
  sfFlips : List (BitVec 4 × BitVec 32)
  sdFlips : List (BitVec 3 × BitVec 34)
  deriving DecidableEq, Repr

/-- No corrector reports anything. -/
def LookupErr.none : LookupErr := ⟨0, 0, 0, 0, 0, 0, false, false, false, false, [], []⟩

/-- A coded word or byte that a scrubber reads (R339), with the place it is read from; for a directory way also the bits of its tag
that an uncorrectable word shows flipped (R97). -/
inductive ScrubTarget where
  | sf (hs : BitVec 7) (set : BitVec 14) (way : BitVec 4) (flip : BitVec 32)
  | sd (hs : BitVec 7) (set : BitVec 12) (way : BitVec 3) (flip : BitVec 34)
  | hcTag (hs : BitVec 7) (set : BitVec 10) (way : BitVec 4)
  | hcData (hs : BitVec 7) (set : BitVec 10) (way : BitVec 4)
  | control (hs : BitVec 7)
  | wbufByte (hs : BitVec 7) (line : Line) (upset : ByteUpset)
  | spillByte (line : Line) (upset : ByteUpset)
  | stagedByte (port : BitVec 4) (gaid : Gaid) (txid : Txid) (upset : ByteUpset)
  | postedByte (idx : BitVec 9) (upset : ByteUpset)
  | configWord (stop : BitVec 7) (pid : BitVec 16) (found : Word)
  | stopState (stop : BitVec 7)
  | uluhivaSram
  | ledger (rec : BitVec 6)
  | passEnd (hs : BitVec 7)
  deriving DecidableEq, Repr

/-- Link training of a port (R236, R259, R194). -/
inductive PortId where
  | ap (n : BitVec 4)
  | mp (n : BitVec 3)
  | sp (n : BitVec 3)
  deriving DecidableEq, Repr

/-- The outcome of a link training: full rate, the fallback rate, or none. -/
inductive Rate where
  | full
  | reduced
  | failed
  deriving DecidableEq, Repr

/-- A frame on an agent or memory port as its receiver reads it (R237), with the outcome of its CRC; slot i stands in bits [256i+255:256i] of
`slots`. -/
structure FrameHdr where
  fseq     : BitVec 16
  fack     : BitVec 16
  rpl      : Bool
  kinds    : BitVec 21
  credits  : Word
  crcOk    : Bool
  slots    : BitVec 1792
  deriving DecidableEq, Repr

/-- A message inside a span frame: its header (R205), its opcode and its flit (R207), with the data, byte enables and operand beat that
it carries. -/
structure SpanUnit where
  header : Word
  opc    : BitVec 6
  flit   : Flit
  data   : Option Payload
  be     : ByteMask
  operand : Option (BitVec 256)
  deriving DecidableEq, Repr

/-- A span frame as its receiver reads it (R192, R193). -/
structure SpanFrameIn where
  fseq  : BitVec 16
  fack  : BitVec 16
  rpl   : Bool
  kep   : Bool
  cred  : BitVec 24
  cset  : Bool
  fecOk : Bool
  crcOk : Bool
  tagOk : Bool
  units : List SpanUnit
  deriving DecidableEq, Repr

/-- A span message delivered at this hub: the sending hub, and its flit (R207). -/
structure SpanMsg where
  src  : HubNo
  flit : Flit
  deriving DecidableEq, Repr

/-- A span snoop delivered at this hub, and what its lookup's correctors report should it be served at once (R97, R226). -/
structure SpanSnoopIn where
  msg : SpanMsg
  err : LookupErr
  deriving DecidableEq, Repr

/-- The logical slice of a held entry that has become free, and what the correctors report at the lookup of the span snoop that takes it. -/
structure FreedEntry where
  ls  : BitVec 6
  err : LookupErr
  deriving DecidableEq, Repr

/-- The operand beat of a far atomic, and whether it came sound (R246, R256). -/
structure OperandBeat where
  bits  : BitVec 256
  sound : Bool
  deriving DecidableEq, Repr

/-- What a link keying exchange shows of the peer (R196, R199): its hub number, its versions, the attestation key that its certificate is for,
the outcome of the checks of its certificate and its signature, and the ECDH shared secret. -/
structure KeyingPeer where
  hub        : HubNo
  major      : BitVec 8
  minor      : BitVec 8
  attest     : BitVec 392
  certOk     : Bool
  sigOk      : Bool
  secret     : BitVec 384
  mapDigest  : BitVec 384
  deriving DecidableEq, Repr

/-- A notice that a reservation sends between slices (R175, R177, R179). -/
structure RsvNotice where
  anchor : Line
  line   : Line
  gaid   : Gaid
  txid   : Txid
  seq    : BitVec 12
  deriving DecidableEq, Repr

/-- How the test of an isolated slice ended (R364–R366, R369). -/
structure BistOutcome where
  done        : Bool
  patterns    : BitVec 32
  sigOk       : Bool
  memClean    : Bool
  repairs     : List (BitVec 16 × BitVec 8 × BitVec 3)
  repairsOk   : Bool
  recurred    : List (BitVec 16 × BitVec 8)
  saCov       : BitVec 10
  trCov       : BitVec 10
  durUs       : BitVec 16
  deriving DecidableEq, Repr

/-- A firmware image in flash as the loader finds it (R437, R438). -/
structure ImageHdr where
  release : BitVec 32
  keyHash : BitVec 384
  code    : BitVec 384
  sigOk   : Bool
  codeOk  : Bool
  deriving DecidableEq, Repr

/-- What the surroundings and the silicon present to a start (R426): the lock of the PLL, the readability of the OTP,
the rails, the corrector checks, the flash, the self-tests and the two images. -/
structure StartEnv where
  pllLocks    : Bool
  otpReadable : Bool
  railsOk     : Bool
  tj          : BitVec 16
  checkSlices : List (BitVec 7 × BitVec 16)
  checkPorts  : List (PortId × BitVec 16)
  checkOther  : Option (BitVec 16)
  flashOk     : Bool
  mirrorOk    : Bool
  burnFails   : List (BitVec 7 × BitVec 16 × BitVec 8)
  stopBist    : Bool
  bistPorts   : List PortId
  bistSlices  : List (BitVec 7 × BistOutcome)
  imageA      : ImageHdr
  imageB      : ImageHdr
  masterFound : BitVec 384
  ledgerUe    : List (BitVec 6)
  deriving DecidableEq, Repr

/-- What the OTP instrument programs (R442). -/
inductive OtpWrite where
  | generation (g : BitVec 2) (words : List Word) (digestOk : Bool)
  | lifecycle
  | keyHash (h : BitVec 384)
  deriving DecidableEq, Repr

/-- What is loaded at the test access port (R373). -/
inductive TapLoad where
  | bypass
  | idcode
  | samplePreload
  | statusSegment
  | accessMode
  deriving DecidableEq, Repr

/-- A port domain that may sleep (R31). -/
inductive Domain where
  | ap (n : BitVec 4)
  | mp (n : BitVec 3)
  | sp (n : BitVec 3)
  deriving DecidableEq, Repr

/-- A round arbiter (R322). -/
inductive ArbiterId where
  | egress (hs : BitVec 7)
  | memPort (mp : BitVec 3)
  | spanPort (sp : BitVec 3)
  deriving DecidableEq, Repr

/-- A packet that reaches the edge router of a sleeping domain (R319). -/
structure WakePacket where
  src  : BitVec 7
  data : Bool
  tag  : BitVec 32
  deriving DecidableEq, Repr

/-- A vendor-defined MCTP message body on the management port (R401). -/
structure MctpBody where
  vendor : BitVec 32
  kind   : Byte
  mailbox : Byte
  zero   : BitVec 16
  words  : List Word
  deriving DecidableEq, Repr

/-- The commands of the hub, one for each row of the opcode table, in its order. -/
inductive Instr where
  -- rounds and the slice pipeline
  | roundTick
  | sliceLookup (ls : BitVec 6) (tid : Byte) (e : LookupErr) (sent : Bool)
  | prefetchNotice (line : Line) (stream : Bool)
  -- agent requests
  | rdShared (p : BitVec 4) (f : Flit)
  | rdAny (p : BitVec 4) (f : Flit)
  | rdOwn (p : BitVec 4) (f : Flit)
  | upgrade (p : BitVec 4) (f : Flit)
  | rdOnce (p : BitVec 4) (f : Flit)
  | wrFull (p : BitVec 4) (f : Flit) (d : WrData)
  | wrPart (p : BitVec 4) (f : Flit) (d : WrData)
  | atom (p : BitVec 4) (f : Flit) (operand : OperandBeat)
  | rsvLoad (p : BitVec 4) (f : Flit)
  | rsvStore (p : BitVec 4) (f : Flit) (d : WrData)
  | fenceSweep (p : BitVec 4) (f : Flit)
  | devRd (p : BitVec 4) (f : Flit) (be : ByteMask)
  | devWr (p : BitVec 4) (f : Flit) (d : WrData)
  | wbDirty (p : BitVec 4) (f : Flit) (d : MeshData) (e : LookupErr)
  | evictClean (p : BitVec 4) (f : Flit) (e : LookupErr)
  | heldRepresentationPresent (p : BitVec 4) (gaid : Gaid) (txid : Txid)
  | dataPull (ls : BitVec 6) (tid : Byte) (upsets : List ByteUpset)
  -- agent answers
  | rspI (p : BitVec 4) (f : Flit)
  | rspS (p : BitVec 4) (f : Flit)
  | rspFwdS (p : BitVec 4) (f : Flit)
  | rspFwdI (p : BitVec 4) (f : Flit)
  | rspWb (p : BitVec 4) (f : Flit) (d : Payload) (ue : BitVec 8)
  | rspCross (p : BitVec 4) (f : Flit)
  | datFwd (p : BitVec 4) (f : Flit) (d : MeshData)
  | cmpAck (p : BitVec 4) (f : Flit)
  -- holds, tickets and agents that are late or dead
  | geckoHoldWorstClose (ls : BitVec 6) (tid : Byte)
  | geckoHoldEnd (ls : BitVec 6) (line : Line)
  | ticketLapse (ls : BitVec 6) (gaid : Gaid) (txid : Txid) (line : Line)
  | heldPlaceExpiry (ls : BitVec 6) (gaid : Gaid) (txid : Txid)
  | refusalAgeClear (gaid : Gaid)
  | agentSnoopDeadline (la : La) (gaid : Gaid) (txid : Txid) (line : Line)
  | agentGrace (la : La) (gaid : Gaid) (txid : Txid) (line : Line)
  | deadAgentNotice (la : La)
  | deadRequesterClose (ls : BitVec 6) (tid : Byte)
  | reclaimWalkVisit (hs : BitVec 7) (e : LookupErr) (intervened : Bool)
  | runaheadSelection (ls : BitVec 6)
  | sweepStep (ls : BitVec 6) (span : Bool) (set : BitVec 14) (way : BitVec 4)
  | scrubRead (t : ScrubTarget) (e : Err)
  | scrubPassLate (stop : BitVec 7)
  -- memory ports
  | memRd (ch : BitVec 4)
  | memWr (line : Line)
  | memDat (mp : BitVec 3) (mtag : Txid) (d : MeshData)
  | memWcmp (mp : BitVec 3) (mtag : Txid)
  | memPause (ch : BitVec 4) (lead : BitVec 12) (len : BitVec 7)
  | memPauseStart (ch : BitVec 4)
  | memPauseEnd (ch : BitVec 4)
  | memDown (ch : BitVec 4)
  | memReplayed (ch : BitVec 4)
  | failoverWindowEnd (ch : BitVec 4)
  | readLate (mp : BitVec 3) (mtag : Txid)
  | readLost (mp : BitVec 3) (mtag : Txid)
  | spillMove (ls : BitVec 6)
  | recallComplete (ls : BitVec 6) (line : Line)
  | fillInstall (ls : BitVec 6) (line : Line)
  | fillVictimWaitExpiry (ls : BitVec 6) (line : Line)
  -- reservations and devices
  | reservationProbe (n : RsvNotice)
  | reservationClear (n : RsvNotice)
  | reservationRelease (n : RsvNotice)
  | devTargetAnswer (p : BitVec 4) (la : La) (txid : Txid) (outcome : BitVec 2) (d : Payload)
  | devTimeout (txid : Txid)
  | postedWriteEntry
  -- links and bring-up
  | apFrame (port : PortId) (h : FrameHdr)
  | apLinkDown (p : BitVec 4)
  | apDeclare (p : BitVec 4) (w : Word)
  | apAgent (p : BitVec 4) (w : Word)
  | linkTraining (port : PortId) (r : Rate)
  | mpDeclare (mp : BitVec 3) (w : Word)
  | mpChanGeom (mp : BitVec 3) (w : Word)
  | mpChanFlow (mp : BitVec 3) (w : Word)
  -- power
  | pwrDeclare (p : BitVec 4) (w : Word)
  | pwrReq (p : BitVec 4) (w : Word)
  | pwrStepDone (p : BitVec 4) (w : Word)
  | pwrTelem (p : BitVec 4) (w : Word)
  | pwrSleepReq (p : BitVec 4) (w : Word)
  | sleepWalkDone (p : BitVec 4)
  | pwrWakeReq (p : BitVec 4) (w : Word)
  | dieStepWindowExpiry (p : BitVec 4)
  | capLoop
  | sensorRead (readings : List (BitVec 16))
  | pmbusRailRead (rail : BitVec 4) (status : BitVec 16) (pout : BitVec 16)
  | avsStep (up : Bool)
  | memPortIdle (mp : BitVec 3)
  | pointOfNoReturn (d : Domain)
  | powerDownComplete (d : Domain)
  | wakeRequest (d : Domain) (k : WakePacket)
  | domainServe (d : Domain)
  -- mesh and round checks
  | epochFlip
  | epochDrained
  | lockExpired (a : ArbiterId)
  | meshBudgetOverrun (src dst : BitVec 7) (cycles : BitVec 16)
  | meshProbeRound (bad : Bool)
  | aesKnownAnswerTest (engine : BitVec 1) (ok : Bool)
  | roundCompare (stop : BitVec 7) (seen : Byte)
  -- span links
  | spanFrame (sp : BitVec 3) (fr : SpanFrameIn)
  | spanLinkDown (sp : BitVec 3)
  | spanKeying (sp : BitVec 3) (k : KeyingPeer)
  | spanRekeyCount (sp : BitVec 3)
  | rekeyDeadline (sp : BitVec 3)
  | routeChangeAck (hub : HubNo)
  | hopTicket (sp : BitVec 3) (gaid : Gaid) (txid : Txid) (delay : BitVec 16)
  | hopTicketResend (sp : BitVec 3) (gaid : Gaid) (txid : Txid)
  -- span requests at the home
  | spanRdS (m : SpanMsg)
  | spanRdAny (m : SpanMsg)
  | spanRdO (m : SpanMsg)
  | spanUpgrade (m : SpanMsg)
  | spanRdOnce (m : SpanMsg)
  | spanWr (m : SpanMsg) (d : WrData)
  | spanAtom (m : SpanMsg) (operand : BitVec 256)
  | spanDevRd (m : SpanMsg) (be : ByteMask)
  | spanDevWr (m : SpanMsg) (d : WrData)
  | spanRepresent (gaid : Gaid) (txid : Txid)
  | spanWb (m : SpanMsg) (d : MeshData) (e : LookupErr)
  | spanEvict (m : SpanMsg) (e : LookupErr)
  -- span snoops at the holder, and answers
  | spanSnpS (m : SpanSnoopIn)
  | spanSnpO (m : SpanSnoopIn)
  | spanSnpInv (m : SpanSnoopIn)
  | spanSnpData (m : SpanSnoopIn)
  | spanSnoopEntryFree (ls : FreedEntry)
  | spanRspI (m : SpanMsg)
  | spanRspS (m : SpanMsg)
  | spanRspFwd (m : SpanMsg)
  | spanRspData (m : SpanMsg) (d : MeshData)
  | spanDat (m : SpanMsg) (d : MeshData)
  | spanCmp (m : SpanMsg)
  | spanTicket (m : SpanMsg)
  | spanDefer (m : SpanMsg)
  | spanDeferResend (gaid : Gaid) (txid : Txid)
  | spanCmpWb (m : SpanMsg)
  | spanCmpAck (m : SpanMsg)
  | spanRsvRelease (m : SpanMsg)
  | spanGrace (ls : BitVec 6) (tid : Byte) (hub : HubNo)
  | spanHubLostNotice (hub : HubNo)
  -- rotation and test
  | rotationStepStart
  | migrationCopyGroup (sf : List LookupErr) (rest : LookupErr)
  | drainRound
  | drainEnd
  | handoverMarker
  | sliceIsolation
  | bistComplete (r : BistOutcome)
  | fuseBurn (hs : BitVec 7) (mac : BitVec 16) (element : BitVec 8)
  | reinitialisationEnd
  | testPassLate
  | testAccessMode (t : TapLoad)
  | otpProgram (w : OtpWrite)
  -- errors, restarts, resets and starts
  | fatalError (src : BitVec 10) (inst : Byte) (syndrome : BitVec 16)
  | fatalPostedWriteDrop
  | lockstepMismatch
  | uluhivaRestartDone (masterFound : BitVec 384)
  | watchdogExpiry
  | pwrgoodRise
  | pwrgoodFall
  | resetNTakenLow
  | resetNRise
  | warmResetDrainEnd
  | startBegin (env : StartEnv)
  | startStepLimit (port : PortId)
  | thermtrip
  -- events, counters and the register window
  | logQueueTake
  | bwWindowEnd
  | mbCmdTailWrite (gaid : Gaid) (n : BitVec 3) (v : Word)
  | mbRspHeadWrite (gaid : Gaid) (n : BitVec 3) (v : Word)
  | evtStatusWrite (gaid : Gaid) (g : BitVec 5) (v : Word) (raised : BitVec 32)
  | evtMaskWrite (gaid : Gaid) (g : BitVec 5) (v : Word)
  | pmcWinPreset (gaid : Gaid) (i : BitVec 5) (v : Word)
  | statClr (gaid : Gaid)
  | freeze (gaid : Gaid) (v : Bool)
  | pmcReset (gaid : Gaid)
  | registerWrite (gaid : Gaid) (off : BitVec 16) (v : Word)
  -- mailbox commands
  | hubGetId (mb : BitVec 3)
  | mbNop (mb : BitVec 3)
  | paramRead (mb : BitVec 3)
  | paramStage (mb : BitVec 3)
  | paramCommit (mb : BitVec 3) (ackRounds : Nat)
  | paramDiscard (mb : BitVec 3)
  | protStageMbx (mb : BitVec 3)
  | protStageAgent (mb : BitVec 3)
  | protStagePmask (mb : BitVec 3)
  | protCommit (mb : BitVec 3) (ackRounds : Nat)
  | protDiscard (mb : BitVec 3)
  | protRead (mb : BitVec 3)
  | commitRound
  | hcClean (mb : BitVec 3)
  | hcInvalidate (mb : BitVec 3)
  | hcCleanInvalidate (mb : BitVec 3)
  | hcFillAndLock (mb : BitVec 3)
  | hcUnlock (mb : BitVec 3)
  | maintRangeWalk
  | sfReadEntry (mb : BitVec 3) (e : EntryErr 32)
  | sdReadEntry (mb : BitVec 3) (e : EntryErr 34)
  | hcReadTag (mb : BitVec 3) (e : Err)
  | spanSetAuthority (mb : BitVec 3)
  | spanSetCert (mb : BitVec 3)
  | spanRekey (mb : BitVec 3)
  | testArmAccess (mb : BitVec 3)
  | testFuseBurn (mb : BitVec 3)
  | testRetest (mb : BitVec 3)
  | evtLogRead (mb : BitVec 3)
  | ledgerRead (mb : BitVec 3)
  | fwSelect (mb : BitVec 3)
  | hubReset (mb : BitVec 3)
  -- the management path
  | mctpMessage (b : MctpBody)
  | mctpEidAssign (eid : Byte)
  | spdmGetVersion
  | spdmGetCapabilities
  | spdmNegotiateAlgorithms (p384 sha384 : Bool)
  | spdmGetDigests
  | spdmGetCertificate (slot : BitVec 4) (offset length : BitVec 16)
  | spdmChallenge (slot : BitVec 4) (nonce : BitVec 256)
  | spdmGetMeasurements (index : Byte) (nonce : BitVec 256) (signed : Bool)
  -- rows that stand last in the table
  | mpLinkDown (mp : BitVec 3)
  | pllLockLoss
  | pmbAlertN (high : Bool)
  deriving DecidableEq, Repr

end Sys2Proof
end

