-- ==== Sys2Proof/Decode.lean ====
section
/-!
DEFINITION. The command that a word spells. The opcode table gives no row any bits (a command is a message, a write or an
event, not an encoded word), so no word spells one.
-/
namespace Sys2Proof

/-- The command spelled by a word of the table's bits: none, since no row has bits. -/
def decodeTableWord (_nbits _w : Nat) : Option Instr := none

end Sys2Proof
end

