-- ==== Sys2Proof/Config.lean ====
section
/-!
DEFINITION. What an implementation or a single die fixes and the manual does not (values that differ from die to die), and
the free values: constants with no body, so that nothing in Lean can evaluate one or prove a value of it. A definition of
the model applies `Config.free` to the counter `State.freeCtr`, which every use advances.
-/
namespace Sys2Proof.Config

/-- Free value: a number the manual leaves open, fresh for each value of the counter (assumption log 3). -/
opaque free : Nat → Nat

/-- Free value of 64 bits for each value of the counter (assumption log 3). -/
opaque freeWord : Nat → BitVec 64

/-- Free value: the 512 data bits of a line whose content the manual does not state (assumption log 4). -/
opaque freeLine : Nat → BitVec 512

/-- The unique die identifier before the exclusion of zero (R35, R472). -/
opaque dieIdRaw : BitVec 64

/-- The unique die identifier: never zero (R35). -/
def dieId : BitVec 64 := if dieIdRaw = 0 then 1 else dieIdRaw

/-- `HUB_LOT` as programmed in OTP: lot, wafer and die position (R472), with its reserved bits clear. -/
opaque lotRaw : BitVec 64

/-- `HUB_LOT` with reserved bits [26:24] and [7:0] zero (R472, R13). -/
def lot : BitVec 64 := lotRaw &&& 0xFFFFFFFFF8FFFF00#64

/-- The device attestation public key, 49 bytes, byte i in bits [8i+7:8i] (R472). -/
opaque attestKey : BitVec 392

/-- The SHA-384 digest of the firmware public key, in OTP (R440). -/
opaque fwKeyHash : BitVec 384

/-- The hops of the routed path between two other hubs, which this hub's own routing table does not hold (R70, R71). -/
opaque hubDist : Nat → Nat → Nat

/-- The links at half rate on the routed path from one hub to another, but for a first link of this hub's own, which its span port shows
(R194, R229). -/
opaque halfHops : Nat → Nat → Nat

/-- The largest read bound declared at any other hub (R70). -/
opaque otherBmax : Nat

/-- SHA-384 (R196, R199, R378, R402), which the manual takes from its standard. -/
opaque sha384 : List (BitVec 64) → BitVec 384

/-- The digest of the boot ROM, measurement 2 of R402. -/
opaque bootRomDigest : BitVec 384

/-- An ECDSA P-384 signature of a digest by the device attestation key (R196, R402). -/
opaque sign : BitVec 384 → BitVec 768

/-- The digest of the certificate chain of SPDM slot 0 that an image carries, by the image's code digest (R402, R437). -/
opaque chainDigest : BitVec 384 → BitVec 384

/-- `len` bytes of the certificate chain of SPDM slot 0 from an offset, by the image's code digest (R402, R437). -/
opaque chainBytes : BitVec 384 → BitVec 16 → BitVec 16 → List (BitVec 8)

/-- Bytes of a standard message whose content the manual leaves to its standard (R402: SPDM capability and algorithm
fields; R400: MCTP control answers), by the message's code. -/
opaque standardBytes : Nat → List (BitVec 8)

/-- The sizes of the X, Y and Z rings of the torus that the hub is part of, by dimension (R200); no parameter holds them. -/
opaque ring : Nat → Nat

/-- HKDF-SHA-384 (R196), which the manual takes from its standard: the key and the salt of a direction of a link, from the shared secret. -/
opaque hkdf : BitVec 384 → Nat → BitVec 288

/-- AES-256-GCM (R191, R195), which the manual takes from its standard: the encrypted slots and the tag, from the key, the 96-bit IV, the
authenticated header and the slots. -/
opaque gcm : BitVec 256 → BitVec 96 → BitVec 64 → BitVec 1792 → BitVec 1920

/-- An ephemeral P-384 public key, fresh for each value of the counter (R196, assumption log 3). -/
opaque ephemeral : Nat → BitVec 392

/-- The credits of a span class and dateline set that a link starts with, which the manual does not give (R203, assumption log 88). -/
opaque spanCredit : Nat → Nat

end Sys2Proof.Config
end

