-- ==== Sys2Proof/Machine/State.lean ====
section
/-!
DEFINITION. The state of the hub as plain data: every register, table, array, buffer, queue, counter, mode and pin that the
manual gives it, the commands that wait, and the messages it has handed to its ports. Arrays are sparse tables.
-/
namespace Sys2Proof.Machine

/-- A sparse table by number, kept with strictly rising keys by `Machine/Tbl.lean`. -/
abbrev Tbl (α : Type) := List (Nat × α)

/-- The byte memory of the mailbox rings in the register window (R380), by window offset, canonical. -/
abbrev Memory := List Host.Cell

/-! ### Requests -/

/-- The requests an agent or a hub may present (R105). -/
inductive ReqOp where
  | rdShared | rdAny | rdOwn | upgrade | rdOnce | rsvLoad
  | wrFull | wrPart | rsvStore | atom
  deriving DecidableEq, Repr

/-- A coherent request as the slice judges it: the agent's flit with what its edge router or span engine stamps. -/
structure Req where
  op     : ReqOp
  gaid   : Gaid
  txid   : Txid
  line   : Line
  crit   : Bool
  stream : Bool
  pair   : Bool
  aop    : BitVec 2
  asize  : BitVec 2
  aoff   : BitVec 6
  rsvSeq : BitVec 12
  operand : BitVec 256
  span   : Bool
  src    : HubNo
  age    : Nat
  tkt    : Option Nat
  deriving DecidableEq, Repr

/-- A ticket in force: its round T, its request, and the hold with which its chain was built (R46, R47, R73). -/
structure Ticket where
  round : Nat
  req   : Req
  g     : Nat
  worst : Nat
  mem   : Bool
  claim : Bool
  deriving DecidableEq, Repr

/-- An unserved refusal of a GAID (R53): its request, and a round: of its first answer, or of the lapse of its ticket. -/
structure Refused where
  txid  : Txid
  line  : Line
  round : Nat
  deriving DecidableEq, Repr

/-- A held-place record (R54, R55): a line, or the calendar when `line` is none. -/
structure HeldPlace where
  line : Option Line
  gaid : Gaid
  txid : Txid
  born : Nat
  d    : Nat
  deriving DecidableEq, Repr

/-- A running gecko hold (R66): it runs through round `last`. -/
structure Hold where
  line : Line
  la   : Option La
  last : Nat
  way  : Option (BitVec 4)
  deriving DecidableEq, Repr

/-! ### Views of the directories -/

/-- A home view of the local agents (R80). `shr` covers `SHR` (no forwarder) and `SHF`; sharers in pointer order. -/
inductive SView where
  | unc
  | own (h : La)
  | shr (l : List La) (fwd : Option La)
  | brd (p : La) (fwd : Bool)
  | deg (exact : Bool)
  deriving DecidableEq, Repr

/-- A view of the hubs that hold a home line (R221). -/
inductive HView where
  | none
  | own (h : HubNo)
  | shr (l : List HubNo)
  | brd
  | deg
  deriving DecidableEq, Repr

/-! ### Transactions and gates -/

/-- The snoops (R105). -/
inductive SnpOp where
  | fwdS | fwdO | inv | data
  deriving DecidableEq, Repr

/-- The answers (R105). -/
inductive RspOp where
  | i | s | fwdS | fwdI | wb | cross
  deriving DecidableEq, Repr

/-- One snoop answer as the slice and the gate hold it. `dead` is the hub-internal `DEAD` bit (R140). -/
structure Answer where
  la   : La
  rsp  : RspOp
  kept : BitVec 2
  dead : Bool
  deriving DecidableEq, Repr

/-- Where a transaction's data comes from (R111, R112; the codes of `SRCD` in R461). -/
inductive Src where
  | hubCache | writeBuffer | forward | memory | span | none
  deriving DecidableEq, Repr

/-- A completion gate entry (R59): what it must still see, and what it has. `fwd`, `wbGate` and `cross` are the first forwarded data,
the first `RSP_WB` data sent with `GATE_COPY` and the first crossing-writeback data (R112), `fwdFrom` the agent of the first data;
`shut` is set once a span snoop has met the unreleased gate, which then takes no local data (R227). -/
structure Gate where
  expect   : List La
  answers  : List Answer
  fwdWait  : List La
  need     : Bool
  fwd      : Option Payload
  fwdFrom  : Option La
  wbGate   : Option Payload
  cross    : Option Payload
  prep     : Option Payload
  prepSrc  : Src
  pullWait : Bool
  acks     : Nat
  rsvOwner : Bool
  grant    : BitVec 3
  outcome  : BitVec 2
  lost     : Bool
  dup      : Bool
  spanCmp  : Bool
  spanAcks : Nat
  spanGot  : Nat
  spanData : Option Payload
  homeData : Option Payload
  spanGrant : BitVec 2
  spanFwd  : Bool
  wbData   : Bool
  shut     : Bool
  judged   : Bool
  released : Bool
  deriving DecidableEq, Repr

/-- Phases of a transaction. `waitPred` waits for its predecessor (R67), `waitWay` for its way (R92). -/
inductive TPhase where
  | waitPred | waitWay | accepted | looked
  deriving DecidableEq, Repr

/-- An open transaction in a tracker entry (R42). `specEn` and `rfwd` are `HUB_SPEC_READ_EN` and `SPAN_REMOTE_FWD` as they stood at its
acceptance (R73, R234); `given` is set where its gate released to a requester that was alive (R149). -/
structure Txn where
  tid     : Byte
  req     : Req
  acc     : Nat
  worst   : Nat
  phase   : TPhase
  view    : SView
  hview   : HView
  entry   : Option SView
  hentry  : Option HView
  way     : Option (BitVec 4)
  gate    : Gate
  snooped : List La
  wdata   : Option WrData
  mem     : Bool
  memRead : Bool
  lock    : Bool
  baseDue : Bool
  copies  : List HubNo
  copyDue : Nat
  added   : Nat
  hubAns  : List (HubNo × BitVec 2 × Bool)
  acked   : Option Nat
  deadReq : Bool
  credits : List (BitVec 4)
  spanReq : Bool
  homeAns : Bool
  wrote   : Bool
  relAt   : Nat
  sampled : Bool
  specEn  : Bool
  rfwd    : Bool
  given   : Bool
  deriving DecidableEq, Repr

/-- Who waits for a snoop's answer. -/
inductive SnpFor where
  | txn (tid : Byte)
  | backInv (idx : BitVec 2)
  | held (idx : BitVec 4)
  deriving DecidableEq, Repr

/-- A snoop offered to a port and not wholly answered (R139). `got` is the answer once in, while its data is due. -/
structure Snoop where
  la       : La
  port     : BitVec 4
  ls       : BitVec 6
  op       : SnpOp
  once     : Bool
  homeCopy : Bool
  gateCopy : Bool
  gaid     : Gaid
  txid     : Txid
  line     : Line
  who      : SnpFor
  offered  : Nat
  late     : Bool
  got      : Option Answer
  dataIn   : Bool
  deriving DecidableEq, Repr

/-- Why a back-invalidation runs: run-ahead, the sweep of a `DEG` way (set and way), a lost home hub, or the span
directory's run-ahead or sweep. -/
inductive BackKind where
  | runAhead
  | sweep (set : BitVec 14) (way : BitVec 4)
  | lostHome
  | spanRunAhead
  | spanSweep (set : BitVec 14) (way : BitVec 4)
  deriving DecidableEq, Repr

/-- A back-invalidation in flight (R94, R224). `due` is the round in which Span Grace ends for the hubs it waits for (R228). -/
structure BackInv where
  idx    : BitVec 2
  kind   : BackKind
  line   : Line
  start  : Nat
  view   : SView
  expect : List La
  hubs   : List HubNo
  data   : Bool
  due    : Nat
  deadOwner : Option La
  deriving DecidableEq, Repr

/-- A span snoop in one of the 16 held tracker entries of a logical slice (R42, R226). `settled` is set once a later lookup has decided
the line's entry. -/
structure HeldSnoop where
  idx    : BitVec 4
  op     : SnpOp
  once   : Bool
  home   : HubNo
  gaid   : Gaid
  txid   : Txid
  line   : Line
  view   : SView
  expect : List La
  fwdWait : List La
  snooped : List La
  answers : List Answer
  data   : Option Payload
  settled : Bool
  start  : Nat
  deriving DecidableEq, Repr

/-- A span snoop that waits for a held entry at the span engine (R226). -/
structure WaitSnoop where
  ls   : BitVec 6
  op   : SnpOp
  msg  : SpanMsg
  since : Nat
  deriving DecidableEq, Repr

/-! ### Slice arrays and buffers -/

/-- The parts of the write buffer and the spill store (R276). -/
inductive Place where
  | general | guaranteed | pool | recall | backInv
  deriving DecidableEq, Repr

/-- A memory write outstanding for a buffered line: its channel and tag; `ul` marks a `MEM_WR_UL`, which takes no credit (R277). -/
structure OutWrite where
  ch   : BitVec 4
  mtag : Txid
  ul   : Bool
  deriving DecidableEq, Repr

/-- A line of the write buffer or the spill store (R135, R275, R334). `wrote` names the channels that its data has been sent to, `again`
marks data newer than what was sent. `home` is false for a remote line that waits for `SPAN_CMP_WB` (R211). -/
structure WbLine where
  line   : Line
  ls     : BitVec 6
  bytes  : LineBits
  pois   : ByteMask
  wmask  : ByteMask
  bmask  : ByteMask
  place  : Place
  out    : List OutWrite
  wrote  : List (BitVec 4)
  again  : Bool
  lastWb : Option Gaid
  home   : Bool
  keep   : Bool
  dirty  : Bool
  sent   : Bool
  front  : Bool
  since  : Nat
  recallAt : Option Nat
  deriving DecidableEq, Repr

/-- A line of hub-cache data (R288) as its correctors would deliver it. -/
structure HcData where
  bytes : LineBits
  deriving DecidableEq, Repr

/-- Why a fill is in the fill buffer. -/
inductive FillKind where
  | demand (stream : Bool)
  | prefetch (stream : Bool)
  | chain
  | lock (way : BitVec 4) (mb : BitVec 3)
  deriving DecidableEq, Repr

/-- A line in the fill buffer, or a place that a chain copy keeps there (`data` none) (R291, R293, R295). -/
structure Fill where
  line   : Line
  kind   : FillKind
  data   : Option LineBits
  poison : Bool
  way    : Option (BitVec 4)
  victim : Option Line
  since  : Nat
  deriving DecidableEq, Repr

/-- A prefetch entry (R296). -/
structure Prefetch where
  line   : Line
  stream : Bool
  deriving DecidableEq, Repr

/-- A home reservation (R174). `probes` holds the watched lines whose probe has been applied, with its round (R180). -/
structure Rsv where
  gaid   : Gaid
  anchor : Line
  gran   : BitVec 2
  seq    : BitVec 12
  probes : List (Line × Nat)
  deriving DecidableEq, Repr

/-- A sweep of a `DEG` or `HUB_DEG` way (R102, R225). `live` counts its back-invalidations in flight; `loss` is the mark of
R144 case 4. -/
structure Sweep where
  span : Bool
  set  : BitVec 14
  way  : BitVec 4
  ptr  : Nat
  skip : List Nat
  live : Nat
  loss : Option La
  waiting : Bool
  deriving DecidableEq, Repr

/-- A reclaim walk (R146): the mask of dead agents, the next set, the sets left and the ways to revisit. -/
structure Walk where
  mask    : BitVec 128
  set     : BitVec 14
  left    : Nat
  revisit : List (BitVec 14 × BitVec 4)
  deriving DecidableEq, Repr

/-- The scrub of a slice: the round by which its pass is to be complete, and the sets of the span directory it has passed, with the
counts of them (R339, R340). -/
structure Scrub where
  due    : Nat
  sdPos  : Nat
  shadow : Tbl Nat
  late   : Bool
  deriving DecidableEq, Repr

/-- The error counts of a physical slice, in the order of `HUB_ERR_SLICE_n` (R352). -/
structure ErrCount where
  ueCtl : Nat
  ueHc  : Nat
  ueSd  : Nat
  ueSf  : Nat
  ceCtl : Nat
  ceHc  : Nat
  ceSd  : Nat
  ceSf  : Nat
  deriving DecidableEq, Repr

/-- `ROLE` of a physical slice (R475). -/
inductive Role where
  | newt | inService | underTest | substituted
  deriving DecidableEq, Repr

/-- A request in a slice's input buffer (R36): the round in which it was presented, and the ticket round it names. -/
structure Pres where
  req  : Req
  tktAt : Option Nat
  at_  : Nat
  deriving DecidableEq, Repr

/-- A writeback or clean notice whose entry change waits for the lookup of a request accepted before it (R128, R132, R231): an agent's, or
in `span` that of a hub, with `KEEP`. -/
structure WbWait where
  port  : BitVec 4
  la    : La
  line  : Line
  txid  : Txid
  dirty : Bool
  span  : Option (HubNo × Bool)
  deriving DecidableEq, Repr

/-- A physical slice. Its arrays are sparse: an unlisted entry is in its initialised state (R444). `lastC0` keeps the worst close of a line's last accepted
transaction (R63); `refused` holds requests whose ticket awaits the lookup of the line's open transaction (R63); `acksDue` the closed transactions whose `CMP_ACK` has
not arrived (R124); `wbWait` the writebacks and notices whose turn at the entry comes after a pending lookup (R128); `snpUsed` counts the snoop credits in use toward each port, and `snpBack` those that return when their snoops are offered (R43). -/
structure Slice where
  role      : Role
  inbuf     : List Pres
  refused   : List Pres
  acksDue   : List (Gaid × Txid × Line)
  wbWait    : List WbWait
  used      : Nat
  txns      : List Txn
  tickets   : List Ticket
  holds     : List Hold
  lastC0    : Tbl Nat
  places    : List HeldPlace
  snpUsed   : Tbl Nat
  snpBack   : List (BitVec 4)
  rsvWays   : List (Line × BitVec 4)
  rsvHWays  : List (Line × BitVec 3)
  sf        : Tbl Word
  nru       : Tbl (BitVec 16)
  sd        : Tbl Word
  presence  : Tbl Nat
  runQ      : List (BitVec 14)
  sdRunQ    : List (BitVec 12)
  backs     : List BackInv
  sweeps    : List Sweep
  walk      : Option Walk
  hubWalk   : List HubNo
  helds     : List HeldSnoop
  hcTag     : Tbl Word
  hcData    : Tbl HcData
  hcAge     : Tbl (BitVec 2)
  hcRsv     : List (BitVec 10 × BitVec 4)
  fills     : List Fill
  prefetches : List Prefetch
  wayErr    : Tbl (Nat × Nat)
  wayMark   : BitVec 16
  markDue   : BitVec 16
  wayDis    : BitVec 16
  wb        : List WbLine
  rsv       : List Rsv
  scrub     : Scrub
  errs      : ErrCount
  storm     : Nat × Nat
  deriving DecidableEq, Repr

/-! ### Memory ports -/

/-- What a memory read serves; `mirror` is a copy to a channel that returns to service (R280), from its read to its write's completion. -/
inductive ReadFor where
  | txn (tid : Byte)
  | prefetch (stream : Bool)
  | chain
  | lockFill (way : BitVec 4) (mb : BitVec 3)
  | mirror (written : Bool)
  deriving DecidableEq, Repr

/-- Decision on a speculative read (R119). -/
inductive Decision where
  | none | promoted | cancelled
  deriving DecidableEq, Repr

/-- A read at a memory edge router, queued or sent (R270). `pres` is the round of its presentation (R273); `fill` is, for a
transaction's read that may allocate a way (R290), whether its request is streaming. -/
structure MemRead where
  ch    : BitVec 4
  mtag  : Txid
  ls    : BitVec 6
  line  : Line
  who   : ReadFor
  spec  : Bool
  crit  : Bool
  lk    : Bool
  sent  : Bool
  dec   : Decision
  pres  : Option Nat
  held  : Option Payload
  late  : Bool
  stale : Bool
  retry : Bool
  aop   : Option Req
  fill  : Option Bool
  noAlloc : Bool
  deriving DecidableEq, Repr

/-- One of the 16 DDR5 channels as the hub sees it (R264, R270–R281). `copying` is, while its partner's regions are copied to it, the
window and the line of it that come next; `stale` marks a member of a mirrored pair that has failed and has not been copied since (R280); `lost` holds the tags of reads answered before their data came; `rdUsed` and `wrUsed` are the read and
write credits in use. -/
structure Chan where
  cap     : BitVec 16
  bound   : BitVec 8
  wmHigh  : BitVec 10
  wmLow   : BitVec 10
  rdCred  : BitVec 10
  wrCred  : BitVec 10
  geom    : Bool
  flow    : Bool
  announced : List (Nat × Nat)
  paused  : Bool
  down    : Bool
  failEnd : Option Nat
  pressure : Bool
  lock    : Option Txid
  lastUse : Nat
  replayed : Nat
  copying : Option (Nat × Nat)
  lost    : List Txid
  rdUsed  : Nat
  wrUsed  : Nat
  stale   : Bool
  deriving DecidableEq, Repr

/-! ### Ports -/

/-- `LINK` of a port view (R476). -/
inductive Link where
  | down | training | online | replaying
  deriving DecidableEq, Repr

/-- A unit that waits for a frame slot (R238): a control flit, or a data header with the beats that follow it. -/
inductive TxUnit where
  | flit (w : BitVec 128)
  | header (w : BitVec 128) (beats : List (BitVec 256))
  deriving DecidableEq, Repr

/-- A frame as the hub has sent it on an agent or memory port (R237), but for its CRC, which the rest gives. Slot i stands in bits
[256i+255:256i] of `slots`. -/
structure TxFrame where
  fseq    : BitVec 16
  fack    : BitVec 16
  rpl     : Bool
  kinds   : BitVec 21
  slots   : BitVec 1792
  credits : Word
  time    : Word
  deriving DecidableEq, Repr

/-- The sending side of an agent or memory port (R237–R239): the number of the next frame, whether it is to ask for a replay, the units and
the slots that wait, the credits freed since the last frame by the low bit of their field in the credit word, and the last 64 frames. -/
structure TxSide where
  seq   : BitVec 16
  ask   : Bool
  units : List TxUnit
  slots : List (BitVec 3 × BitVec 256)
  freed : Tbl Nat
  kept  : List TxFrame
  deriving DecidableEq, Repr

/-- A message that waits for its data (R247): its place in the frames, its opcode and flit, and the frames in which the data may still come. -/
structure RxMsg where
  pos  : BitVec 32
  opc  : BitVec 6
  flit : Flit
  left : Nat
  deriving DecidableEq, Repr

/-- A data header that has come (R245, R246): its place, its header word and `BE`, and the beats that have followed it. -/
structure RxHdr where
  pos   : BitVec 32
  word  : Word
  be    : ByteMask
  beats : List (BitVec 256)
  deriving DecidableEq, Repr

/-- The messages and headers of the frames that a port has taken which are not whole, oldest first, and the place of the message that was
delivered last: its frame's `FSEQ`, its slot and its unit (R256). -/
structure RxSide where
  msgs : List RxMsg
  hdrs : List RxHdr
  pos  : BitVec 32
  deriving DecidableEq, Repr

/-- The frame receiver and sender of a link (R237–R240, R192, R193). `bads` counts, for a frame, its sends that have failed their CRC in a row. -/
structure FrameState where
  rx      : BitVec 16
  ack     : BitVec 16
  rpl     : Bool
  replays : List Nat
  bads    : Tbl Nat
  credits : Word
  tx      : TxSide
  part    : RxSide
  deriving DecidableEq, Repr

/-- A request that an agent has outstanding at its edge router: presented, ticketed for T, or deferred to D+64. -/
structure Outst where
  la   : La
  gaid : Gaid
  txid : Txid
  line : Line
  wb   : Bool
  back : Option (Bool × Nat)
  refused : Bool
  deriving DecidableEq, Repr

/-- Write data staged at an edge router (R114), or the kept copy of a `WB_DIRTY` (R60). -/
structure Staged where
  la    : La
  gaid  : Gaid
  txid  : Txid
  line  : Line
  bytes : LineBits
  pois  : ByteMask
  be    : ByteMask
  wb    : Bool
  deriving DecidableEq, Repr

/-- A re-presentation in the edge router's hold store (R254), to be presented in round `at_`. -/
structure HeldRep where
  req   : Req
  at_   : Nat
  deriving DecidableEq, Repr

/-- The reservation record that an edge router keeps for a local agent (R179). -/
structure RsvRec where
  seq    : BitVec 12
  made   : BitVec 12
  home   : HubNo
  anchor : Line
  valid  : Bool
  deriving DecidableEq, Repr

/-- A local agent number's record (R27, R86, R257). -/
structure Agent where
  valid   : Bool
  online  : Bool
  caching : Bool
  device  : Bool
  port    : BitVec 4
  pos     : BitVec 5
  dead    : Bool
  parked  : Bool
  walking : Bool
  deriving DecidableEq, Repr

/-- The declaration of an agent port in progress (R251). -/
structure ApDecl where
  major : Byte
  minor : Byte
  count : BitVec 6
  reqC  : Byte
  snpC  : Byte
  rspC  : Byte
  datC  : Byte
  next  : Nat
  deriving DecidableEq, Repr

/-- A message on an agent port (R105, R241). -/
structure AgentMsg where
  opc     : BitVec 6
  gaid    : Gaid
  txid    : Txid
  line    : Line
  ticket  : BitVec 16
  grant   : BitVec 3
  outcome : BitVec 2
  dst     : La
  once    : Bool
  crit    : Bool
  data    : Option (LineBits × Bool × Bool)
  be      : ByteMask
  deriving DecidableEq, Repr

/-- An agent port. `reqCred`, `snpCred`, `rspCred` and `datCred` are the credits of each class that its die has granted and not yet been
sent messages for (R248); `stalled` holds, with the endpoint each came from, the messages that wait for one (R249), and `stallDue` a stall
of a device request's data that is still to be reported; `fallback` is `FALLBACK` as the bring-up found it (R258); `unused` marks a port that a failed or refused bring-up left unused (R24). -/
structure ApPort where
  link    : Link
  rate16  : Bool
  decl    : Option ApDecl
  online  : Bool
  frame   : FrameState
  outst   : List Outst
  staged  : List Staged
  holds   : List HeldRep
  snoops  : List Snoop
  cmpWbHeld : List (La × Line × Txid)
  deadMsgs : Nat
  sleepWalk : Option (Nat × Bool)
  parked  : Bool
  trained : Bool
  reqCred : Nat
  snpCred : Nat
  rspCred : Nat
  datCred : Nat
  stalled : List (Nat × AgentMsg)
  stallDue : Bool
  unused  : Bool
  fallback : Bool
  deriving DecidableEq, Repr

/-- A memory port; `unused` as for an agent port. -/
structure MpPort where
  link    : Link
  online  : Bool
  declared : Bool
  trained : Bool
  frame   : FrameState
  unused  : Bool
  deriving DecidableEq, Repr

/-- A message queued toward or kept by a span port. -/
structure SpanOut where
  sp    : BitVec 3
  dest  : HubNo
  src   : HubNo
  svc   : BitVec 3
  dset  : Bool
  epoch : Bool
  hops  : BitVec 4
  opc   : BitVec 6
  flit  : Flit
  data  : Option Payload
  operand : Option (BitVec 256)
  be     : ByteMask
  until_ : Option Nat
  deriving DecidableEq, Repr

/-- The AES-256-GCM key and the salt of one direction of a link (R195). -/
structure LinkKey where
  key  : BitVec 256
  salt : BitVec 32
  deriving DecidableEq, Repr

/-- A span frame as the hub has sent it (R192, R195), before encryption: its key slot's key, the count of frames in its IV, and its 28 slots, slot i
in bits [64i+63:64i]. -/
structure SpanTxFrame where
  fseq  : BitVec 16
  fack  : BitVec 16
  cred  : BitVec 24
  cset  : Bool
  kep   : Bool
  rpl   : Bool
  key   : LinkKey
  count : Nat
  slots : BitVec 1792
  deriving DecidableEq, Repr

/-- The sending side of a span port (R192, R193): the number of the next frame, whether it is to ask for a replay, the messages that wait, the slots of messages
begun that the last frame had no room for, the credits freed by class and dateline set (`SpanOut.credKey`), and the last 64 frames. -/
structure SpanTx where
  seq   : BitVec 16
  ask   : Bool
  msgs  : List SpanOut
  rest  : List Word
  freed : Tbl Nat
  kept  : List SpanTxFrame
  deriving DecidableEq, Repr

/-- A span port. `kep` is the key slot in use, `keys` marks the slots that hold keys, `tx` and `rx` are the keys of each direction by slot; `sent`
and `frames` count the frames sent and received under the key in force, which `rekeyLog2` limits (R195, R197, R234). `tagBad` lists the
frames that have failed their tag and have not come since. `creds` are the credits of each class and dateline set, by
`SpanOut.credKey`, and `waits` the messages that wait for one (R203). `queue` keeps the requests sent whose acceptance is not known yet, and
`hopHeld` those under hop tickets (R204). `idle` marks a keyed port that a route change has taken out of every route (R411). -/
structure SpPort where
  link    : Link
  trained : Bool
  half    : Bool
  keyed   : Bool
  kep     : Bool
  rekey   : Bool
  frames  : Nat
  keys    : BitVec 2
  peer    : HubNo
  frame   : FrameState
  tagBad  : List (BitVec 16)
  queue   : List SpanOut
  hopHeld : List SpanOut
  sent    : Nat
  tx      : Tbl LinkKey
  rx      : Tbl LinkKey
  rekeyLog2 : Nat
  peerKey : BitVec 392
  creds   : Tbl Nat
  waits   : List SpanOut
  wire    : SpanTx
  idle    : Bool
  deriving DecidableEq, Repr

/-- A span request refused at this home and kept by its span engine (R215). -/
structure SpanRep where
  req   : Req
  data  : Option WrData
  at_   : Nat
  deriving DecidableEq, Repr

/-- A span request of this proxy that comes back after `SPAN_DEFER` with `RETURN` = 1 (R212). -/
structure SpanBack where
  gaid : Gaid
  txid : Txid
  line : Line
  at_  : Nat
  deriving DecidableEq, Repr

/-! ### Device-region unit -/

/-- A device request at the device-region unit (R182–R186). `region` 64 stands for another
hub; `sent` is, once the request is sent, the round at which its timeout ends. -/
structure DevReq where
  dtx    : Txid
  gaid   : Gaid
  txid   : Txid
  line   : Line
  region : Nat
  target : La
  write  : Bool
  bytes  : LineBits
  be     : ByteMask
  pois   : ByteMask
  early  : Bool
  acked  : Bool
  irq    : Bool
  span   : Option HubNo
  posted : Bool
  sent   : Option Nat
  rsp    : Option (BitVec 2)
  got    : Option Payload
  deriving DecidableEq, Repr

/-- A fence that waits: its agent, transaction, line field and the early writes it waits for (R185). -/
structure Fence where
  gaid : Gaid
  txid : Txid
  line : Line
  wait : List Txid
  lost : Bool
  deriving DecidableEq, Repr

/-- The device-region unit. -/
structure DevUnit where
  reqs    : List DevReq
  fences  : List Fence
  dropped : List Gaid
  nextTx  : Txid
  irqSuspended : Bool
  deriving DecidableEq, Repr

/-! ### Notices between stops -/

/-- A notice that the slices apply in the arbitration phase of the round after its arrival (R38). -/
inductive Notice where
  | pause (ch : BitVec 4) (first last : Nat)
  | failover (ch : BitVec 4) (last : Nat)
  | wake (mp : BitVec 3) (serve : Nat)
  | asleep (mp : BitVec 3)
  | pressure (ch : BitVec 4) (on : Bool)
  | slots (n : Nat)
  | down (ch : BitVec 4)
  | up (ch : BitVec 4)
  deriving DecidableEq, Repr

/-- What the slices have applied of each channel's notices (R44): pauses in `busy`, failover windows in `failover` (R281). -/
structure ChNotice where
  busy     : List (Nat × Nat)
  failover : List (Nat × Nat)
  asleep   : Bool
  pressure : Bool
  down     : Bool
  deriving DecidableEq, Repr

/-! ### Mesh -/

/-- The requester classes of a round arbiter, as positions 0–3 of its table row (R322), with their loss counts (R323), what they may still use of
the grants of this round, and the grants of the next. -/
structure Arbiter where
  loss    : List Nat
  grants  : List Nat
  next    : List Nat
  pointer : Nat
  lockBy  : Option Nat
  lockAge : Nat
  deriving DecidableEq, Repr

/-- The route tables of R317: the inactive copy while a change is made, and the epoch. -/
structure Epoch where
  epoch    : Bool
  loaded   : Option (Tbl Nat)
  flipAt   : Option Nat
  draining : Bool
  waiting  : List (Tbl Nat)
  deriving DecidableEq, Repr

/-- The wake buffer of a port domain (R319). -/
structure WakeBuf where
  pkts : List WakePacket
  asked : Bool
  deriving DecidableEq, Repr

/-- The power state of a port domain (R319, R320, R413). -/
inductive DomState where
  | awake
  | closing (noReturn : Nat)
  | opening (until_ : Nat)
  | asleep
  | waking (first serve : Nat)
  deriving DecidableEq, Repr

/-- The routes of the epoch before, and the round in which the epoch changed (R202). -/
structure OldRoutes where
  table : Tbl Word
  flip  : Nat
  deriving DecidableEq, Repr

/-! ### Power -/

/-- A core die as the power manager knows it (R406, R407). Power in 0.25 W, current in 0.25 A; `told` is false while a placed grant waits to
be sent (R410); `budget` is that of the latest grant sent, `share` what the cap loop gives for the next. -/
structure Die where
  points  : List (Nat × Nat)
  closed  : Bool
  op      : Nat
  budget  : Nat
  share   : Nat
  wanted  : Option Nat
  grant   : Option (Nat × Nat)
  told    : Bool
  power   : Nat
  current : Nat
  temp    : Byte
  overs   : Nat
  deriving DecidableEq, Repr

/-- A current change that the governor has placed (R409): ΔI in 0.25 A and its rounds; `hub` for a port domain. -/
structure Change where
  di    : Nat
  first : Nat
  last  : Nat
  hub   : Bool
  deriving DecidableEq, Repr

/-- The power manager. -/
structure Power where
  dies     : Tbl Die
  waiting  : List (BitVec 4 × Nat × Bool)
  changes  : List Change
  doms     : Tbl DomState
  wakeBufs : Tbl WakeBuf
  tj       : BitVec 16
  hot      : BitVec 5
  slots    : Nat
  cut      : Nat
  hotOn    : Bool
  vcore    : Nat
  lastAvs  : Nat
  minCold  : Bool
  rails    : Tbl (BitVec 16 × Nat)
  hubPower : Nat
  memPower : Nat
  deriving DecidableEq, Repr

/-! ### Control core -/

/-- An entry of the mailbox privilege table (R392). -/
structure MbxPriv where
  level  : BitVec 2
  path   : Bool
  enable : Bool
  owners : BitVec 128
  deriving DecidableEq, Repr

/-- An entry of the agent access table (R393): `win` holds `WIN` of MWn in bits [2n+1:2n]. -/
structure AgentAcc where
  win    : BitVec 32
  remote : BitVec 2
  dev    : Word
  deriving DecidableEq, Repr

/-- A range of the parameter access masks (R395), a later one over an earlier one. -/
structure PMask where
  first : BitVec 16
  last  : BitVec 16
  wr    : BitVec 2
  rd    : BitVec 2
  deriving DecidableEq, Repr

/-- The protection tables (R392–R395). An agent entry that is not listed holds its start value. -/
structure Prot where
  mbx    : Tbl MbxPriv
  agents : Tbl AgentAcc
  masks  : List PMask
  deriving DecidableEq, Repr

/-- An item of the protection staging area (R396). -/
inductive ProtItem where
  | mbx (n : BitVec 3) (e : MbxPriv)
  | agent (a : Byte) (e : AgentAcc)
  | pmask (m : PMask)
  deriving DecidableEq, Repr

/-- The command a mailbox has in progress, when it outlasts its own step (R391). A maintenance command has its next set (1,024 when
its walk is over), the lines whose memory writes it waits for, once for each write, and the pinned chain copies it has yet to invalidate.
`ended` is a command whose response waits for the end of a restart (R347, R389). -/
inductive Long where
  | commit
  | maint (op : BitVec 3) (first last : Line) (set : Nat) (waitW pins : List Line)
  | fillLock (line : Line) (way : BitVec 4) (tries : Nat)
  | fuse (hs : BitVec 7) (mac : BitVec 16) (el : BitVec 8)
  | rekey (sp : BitVec 3)
  | ended (code detail : Byte) (w1 w2 : Word)
  deriving DecidableEq, Repr

/-- A command in progress: its code, tag, notify bit and what it waits for. -/
structure Busy where
  cmd    : BitVec 16
  tag    : BitVec 16
  notify : Bool
  long   : Long
  deriving DecidableEq, Repr

/-- A staged parameter item (R396); `hi` is the second item of a 128-bit parameter. -/
structure StageItem where
  pid : BitVec 16
  hi  : Bool
  val : Word
  deriving DecidableEq, Repr

/-- A mailbox: its index registers (R381), its command in progress and its staging area. -/
structure Mbx where
  cmdTail : BitVec 7
  cmdHead : BitVec 7
  rspTail : BitVec 7
  rspHead : BitVec 7
  held    : Bool
  busy    : Option Busy
  stage   : List StageItem
  discarded : Bool
  deriving DecidableEq, Repr

/-- A commit that Lupin has taken (R397), the first of its queue in progress: `c` is its round C, which lies 4 rounds after the last of the
`acks` rounds that its distribution takes; `tabs` are the items of a protection commit. -/
structure Commit where
  mb    : BitVec 3
  prot  : Bool
  acks  : Nat
  items : List StageItem
  tabs  : List ProtItem
  c     : Option Nat
  deriving DecidableEq, Repr

/-- Uluhiva and Lupin (R377–R399). `resps` holds, within a step, the words of responses on their way to the response rings. -/
structure Core where
  restart   : Bool
  lastMismatch : Option Nat
  image     : Bool
  fw        : BitVec 32
  codeDig   : BitVec 384
  digest    : BitVec 384
  commits   : List Commit
  resps     : List (Nat × Word)
  protStage : List ProtItem
  protLost  : Bool
  commitCount : BitVec 32
  authority : BitVec 392
  cert      : Tbl Byte
  certTotal : Nat
  certDone  : Bool
  eid       : Option Byte
  spdmAlgo  : Bool
  spdmVersion : Bool
  attestOpen : Bool
  armed     : Bool
  sramZero  : Bool
  deriving DecidableEq, Repr

/-! ### Rotation and test -/

/-- The rotation and its test (R354–R371). -/
structure Rot where
  phase    : BitVec 3
  newt     : Option (BitVec 7)
  outHs    : BitVec 7
  ls       : BitVec 6
  pointer  : Nat
  drainAt  : Option Nat
  ended    : Bool
  marker   : List HeldPlace
  markerIn : Bool
  testing  : Option (BitVec 7)
  lastStart : Nat
  passNo   : BitVec 16
  passStart : Nat
  passOpen : Bool
  tested   : BitVec 65
  slotsUsed : Nat
  notPass  : Nat
  saMin    : BitVec 10
  trMin    : BitVec 10
  late     : Bool
  noNewt   : Bool
  front    : List (BitVec 7)
  retests  : List (BitVec 7)
  failedOnce : List (BitVec 7)
  results  : Tbl Word
  record   : Word
  level    : BitVec 3
  interval : Nat
  postponed : Bool
  fuseReq  : List (BitVec 7 × BitVec 16 × BitVec 8)
  deriving DecidableEq, Repr

/-! ### Always-on domain, OTP and flash -/

/-- A generation in OTP (R441). -/
structure OtpGen where
  words    : List Word
  digestOk : Bool
  deriving DecidableEq, Repr

/-- The OTP (R440). -/
structure Otp where
  dieId     : Word
  lot       : Word
  attest    : BitVec 392
  keyHash   : BitVec 384
  lifecycle : BitVec 4
  vendor    : BitVec 32
  sideband  : BitVec 16
  gens      : Tbl OtpGen
  except    : BitVec 96
  fuses     : List (BitVec 7 × BitVec 16 × BitVec 8 × BitVec 3)
  deriving DecidableEq, Repr

/-- A soft-repair word of a repair record (R431). -/
structure Repair where
  hs     : BitVec 7
  mac    : BitVec 16
  el     : BitVec 8
  spare  : BitVec 3
  recur  : BitVec 2
  deriving DecidableEq, Repr

/-- The fatal record (R346, R472, R473): the source and the first 16 events that followed. -/
structure FatalRec where
  valid : Bool
  src   : BitVec 10
  inst  : Byte
  synd  : BitVec 16
  round : Nat
  after : List (BitVec 10)
  deriving DecidableEq, Repr

/-- The mirror in the last sector of the flash (R432). -/
structure Mirror where
  repairs : Tbl Repair
  counts  : Tbl Nat
  pref    : Bool
  startNo : BitVec 16
  dieId   : Word
  deriving DecidableEq, Repr

/-- The always-on domain (R429, R31). `outcomes` is the ring of outcome records, oldest first, each of 8 words. -/
structure Aon where
  repairs  : Tbl Repair
  outcomes : Tbl (List Word)
  nextOut  : Nat
  summary  : Option Nat
  counts   : Tbl Nat
  fatal    : FatalRec
  pref     : Bool
  startNo  : BitVec 16
  carried  : Option (BitVec 7)
  subst    : List (BitVec 7)
  deriving DecidableEq, Repr

/-- What the hub as a whole is doing (R421–R428, R346). -/
inductive Phase where
  | off | reset | starting | serving | draining | stopped
  deriving DecidableEq, Repr

/-- The start and the resets. -/
structure Start where
  phase    : Phase
  kind     : BitVec 2
  pendKind : BitVec 2
  step     : Byte
  waiting  : List PortId
  image    : Bool
  imageAlt : Bool
  gen      : BitVec 2
  genValid : Bool
  masterKept : Bool
  undrained : Nat
  info     : Word
  drainEnd : Nat
  fatal    : Bool
  fatalAt  : Nat
  access   : Bool
  deriving DecidableEq, Repr

/-- The pins of R484 that carry a level: true is high. -/
structure Pins where
  pwrgood   : Bool
  resetN    : Bool
  faultN    : Bool
  thermtripN : Bool
  pmbAlertN : Bool
  deriving DecidableEq, Repr

/-! ### Events and counters -/

/-- A raise of an event source with what its log record names (R453, R495), and in `extra` what a rule has it carry and the record has no field
for: the opcode of a late snoop (R139), the mirror-lost flag (R280), the frame position of a malformed message (R256). -/
structure Raise where
  src   : BitVec 10
  inst  : Byte
  addr  : Pa
  gaid  : Option Gaid
  txid  : Option Txid
  sw    : Option (BitVec 14 × BitVec 4)
  synd  : BitVec 16
  value : Word
  extra : BitVec 32
  round : Nat
  deriving DecidableEq, Repr

/-- A record of the event log (R453). -/
structure LogRec where
  seq    : BitVec 32
  rs     : Raise
  again  : Nat
  latest : Nat
  deriving DecidableEq, Repr

/-- Events (R448–R454). -/
structure Events where
  status  : Tbl (BitVec 32)
  again   : BitVec 32
  mask    : Tbl (BitVec 32)
  log     : List LogRec
  lastSeq : BitVec 32
  queue   : List Raise
  lost    : Nat
  deriving DecidableEq, Repr

/-- A request sample record (R461). -/
structure Sample where
  w0 : Word
  w1 : Word
  w2 : Word
  w3 : Word
  deriving DecidableEq, Repr

/-- Counters and statistics (R455–R461). -/
structure Pmc where
  freeze   : Bool
  bank     : BitVec 4
  statSel  : BitVec 16
  ctrs     : Tbl (BitVec 48)
  pend     : List (Nat × Nat × Nat)
  latCtl   : Tbl (List Nat)
  latDat   : Tbl (List Nat)
  bytes    : Tbl (List Nat)
  winBase  : Tbl (List Nat)
  winLast  : Tbl (List Nat)
  winRound : Nat
  winStart : Nat
  winLog   : Nat
  spanHist : Tbl (List Nat)
  resHist  : Tbl (List Nat)
  samples  : Tbl Sample
  smpCount : Nat
  smpNext  : Nat
  smpSeq   : BitVec 16
  deriving DecidableEq, Repr

/-! ### Messages that leave the hub -/

/-- What the hub has handed to a port, a bus or a pin's peer. -/
inductive OutMsg where
  | agent (p : BitVec 4) (m : AgentMsg)
  | memory (ch : BitVec 4) (opc : BitVec 6) (mtag : Txid) (caddr : BitVec 40) (crit : Bool) (data : Option (LineBits × Bool))
  | span (m : SpanOut)
  | keying (sp : BitVec 3) (num : HubNo) (major minor : BitVec 8) (ephemeral : BitVec 392) (sig : BitVec 768) (cert : Tbl Byte)
  | sideband (port : PortId) (w : Word)
  | frame (port : PortId) (f : TxFrame)
  | spanFrame (sp : BitVec 3) (f : SpanTxFrame)
  | ibi (b : Byte)
  | mctp (mb : Byte) (words : List Word)
  | mctpControl (bytes : List Byte)
  | spdm (code : Byte) (bytes : List Byte)
  | avs (mv : Nat)
  | pmbus (rail : BitVec 4)
  | smgt (hub : HubNo) (code : BitVec 8) (arg : Word)
  | hopTicket (sp : BitVec 3) (gaid : Gaid) (txid : Txid) (delay : Nat)
  deriving DecidableEq, Repr

/-! ### Reasons to stop -/

/-- Why a step stops with a fault. -/
inductive Fault where
  /-- Raised by `Ops.onUnit` when a command names a port, slice, endpoint or rail that the hub does not have (R22, R17,
  R308: "the hub provides the ports in the following table and no others"). Safe: the command cannot happen. -/
  | noSuchUnit
  deriving DecidableEq, Repr

/-- Why a step is refused. -/
inductive Refusal where
  /-- Raised by `exec` for a row that has no meaning yet. Safe: nothing is claimed of it. -/
  | notModelled (mnemonic : String)
  deriving DecidableEq, Repr

/-! ### The state -/

/-- The hub but for its one-time-programmable memory and the mailbox rings, which few commands reach. -/
structure Hub where
  round   : Nat
  pins    : Pins
  start   : Start
  mirror  : Option Mirror
  aon     : Aon
  par     : Tbl Word
  master  : Tbl Word
  prot    : Prot
  mbx     : Tbl Mbx
  core    : Core
  map     : Tbl Nat
  slices  : Tbl Slice
  spill   : List WbLine
  agents  : Tbl Agent
  aps     : Tbl ApPort
  mps     : Tbl MpPort
  chans   : Tbl Chan
  reads   : List MemRead
  sps     : Tbl SpPort
  spanReps : List SpanRep
  spanBacks : List SpanBack
  waitSnoops : List WaitSnoop
  lostHubs : List HubNo
  routeAcks : List HubNo
  routeNew : Option (Tbl Word)
  routeOld : OldRoutes
  spanEpoch : Bool
  records : Tbl (List Refused)
  lapses  : Tbl (List Refused)
  rsvRecs : Tbl RsvRec
  rsvNotes : List (BitVec 2 × RsvNotice)
  notices : List Notice
  chNotes : Tbl ChNotice
  slots   : Nat
  pointer : La
  dev     : DevUnit
  epoch   : Epoch
  arbs    : Tbl Arbiter
  power   : Power
  rot     : Rot
  events  : Events
  pmc     : Pmc
  prefetchNotes : List (Line × Bool × Nat)
  freeCtr : Nat
  out     : List OutMsg
  deriving DecidableEq, Repr

/-- The machine: the commands that wait, first in first out, the OTP (R440), the mailbox rings (R380) and the rest. -/
structure State where
  pending : List Instr
  otp     : Otp
  ring    : Memory
  hub     : Hub
  deriving DecidableEq, Repr

/-- A slice whose arrays are initialised (R444). -/
def Slice.init : Slice where
  role := .inService
  inbuf := []
  refused := []
  acksDue := []
  wbWait := []
  used := 0
  txns := []
  tickets := []
  holds := []
  lastC0 := []
  places := []
  snpUsed := []
  snpBack := []
  rsvWays := []
  rsvHWays := []
  sf := []
  nru := []
  sd := []
  presence := []
  runQ := []
  sdRunQ := []
  backs := []
  sweeps := []
  walk := none
  hubWalk := []
  helds := []
  hcTag := []
  hcData := []
  hcAge := []
  hcRsv := []
  fills := []
  prefetches := []
  wayErr := []
  wayMark := 0
  markDue := 0
  wayDis := 0
  wb := []
  rsv := []
  scrub := ⟨0, 0, [], false⟩
  errs := ⟨0, 0, 0, 0, 0, 0, 0, 0⟩
  storm := (0, 0)

/-- A sender of span frames that has sent none. -/
def SpanTx.init : SpanTx := ⟨0, false, [], [], [], []⟩
/-- A link that carries no frame yet: `FSEQ` 0 comes next (R251). -/
def FrameState.init : FrameState := ⟨0, 0xFFFF, false, [], [], 0, ⟨0, false, [], [], [], []⟩, ⟨[], [], 0⟩⟩

/-- An agent port before bring-up. -/
def ApPort.init : ApPort :=
  ⟨.down, false, none, false, FrameState.init, [], [], [], [], [], 0, none, false, false, 0, 0, 0, 0, [], false, false, true⟩

/-- A memory port before bring-up. -/
def MpPort.init : MpPort := ⟨.down, false, false, false, FrameState.init, false⟩

/-- A span port before bring-up. -/
def SpPort.init : SpPort :=
  ⟨.down, false, false, false, false, false, 0, 0, 0, FrameState.init, [], [], [], 0, [], [], 32, 0, [], [], SpanTx.init, false⟩

/-- A channel with nothing declared (R283: all zero). -/
def Chan.init : Chan :=
  ⟨0, 0, 0, 0, 0, 0, false, false, [], false, false, none, false, none, 0, 0, none, [], 0, 0, false⟩

/-- A local agent number that is not assigned (R257: all zero). -/
def Agent.init : Agent := ⟨false, false, false, false, 0, 0, false, false, false⟩

/-- A mailbox with empty rings (R381). -/
def Mbx.init : Mbx := ⟨0, 0, 0, 0, false, none, [], false⟩

/-- A channel for which no notice is in force. -/
def ChNotice.init : ChNotice := ⟨[], [], false, false, false⟩

/-- An arbiter with nothing lost and no lock. -/
def Arbiter.init : Arbiter := ⟨[0, 0, 0, 0], [0, 0, 0, 0], [0, 0, 0, 0], 0, none, 0⟩

/-- A core die that has declared nothing. It is at OP0 (R407). -/
def Die.init : Die := ⟨[], false, 0, 0, 0, none, none, true, 0, 0, 0, 0⟩

/-- The protection tables at the end of a start (R392, R393, R395). -/
def Prot.start : Prot where
  mbx := [(0, ⟨3, false, true, BitVec.allOnes 128⟩), (1, ⟨2, false, false, 0⟩), (2, ⟨1, false, false, 0⟩),
    (3, ⟨3, true, true, 0⟩), (4, ⟨1, false, false, 0⟩), (5, ⟨0, false, false, 0⟩), (6, ⟨0, false, false, 0⟩),
    (7, ⟨0, false, false, 0⟩)]
  agents := []
  masks := []

/-- Nothing counted. -/
def Pmc.init : Pmc :=
  ⟨false, 0, 0, [], [], [], [], [], [], [], 0, 1, 18, [], [], [], 0, 0, 0⟩

/-- No event raised, the log empty. -/
def Events.init : Events := ⟨[], 0, [], [], 0, [], 0⟩

/-- The device-region unit with nothing in it. -/
def DevUnit.init : DevUnit := ⟨[], [], [], 0, false⟩

/-- No route change in progress. -/
def Epoch.init : Epoch := ⟨false, none, none, false, []⟩

/-- The power manager before a start: every domain awake, VDD_CORE at 0.75 V (R481). -/
def Power.init : Power :=
  ⟨[], [], [], [], [], 0, 0, 4, 0, false, 750, 0, false, [], 0, 0⟩

/-- No rotation step has run. -/
def Rot.init : Rot where
  phase := 0
  newt := none
  outHs := 0
  ls := 0
  pointer := 0
  drainAt := none
  ended := false
  marker := []
  markerIn := false
  testing := none
  lastStart := 0
  passNo := 0
  passStart := 0
  passOpen := false
  tested := 0
  slotsUsed := 0
  notPass := 0
  saMin := 0
  trMin := 0
  late := false
  noNewt := false
  front := []
  retests := []
  failedOnce := []
  results := []
  record := 0
  level := 1
  interval := 100
  postponed := false
  fuseReq := []

/-- Uluhiva before an image is loaded. -/
def Core.init : Core :=
  ⟨false, none, false, 0, 0, 0, [], [], [], false, 0, 0, [], 0, false, none, false, false, true, false, true⟩

/-- No fatal record. -/
def FatalRec.init : FatalRec := ⟨false, 0, 0, 0, 0, []⟩

/-- The always-on domain at a cold start, before the mirror is restored (R421, R444). -/
def Aon.init : Aon := ⟨[], [], 0, none, [], FatalRec.init, false, 0, none, []⟩

/-- The OTP of a shipped die (R440, R492). -/
def Otp.shipped : Otp :=
  ⟨Config.dieId, Config.lot, Config.attestKey, Config.fwKeyHash, 1, 0x0000E9B3, 0x1E5A, [], 0, []⟩

/-- No start has run. `SUB_HS` and `RETEST_HS` read 0x7F (R446). -/
def Start.init : Start :=
  ⟨.off, 0, 0, 0, [], false, false, 0, false, false, 0, 0x00000000FFFC0000, 0, false, 0, false⟩

/-- The hub before its first start: everything that a cold reset loses is lost, the flash holds no mirror. -/
def Hub.cold : Hub where
  round := 0
  pins := ⟨false, false, true, true, true⟩
  start := Start.init
  mirror := none
  aon := Aon.init
  par := []
  master := []
  prot := Prot.start
  mbx := []
  core := Core.init
  map := []
  slices := []
  spill := []
  agents := []
  aps := []
  mps := []
  chans := []
  reads := []
  sps := []
  spanReps := []
  spanBacks := []
  waitSnoops := []
  lostHubs := []
  routeAcks := []
  routeNew := none
  routeOld := ⟨[], 0⟩
  spanEpoch := false
  records := []
  lapses := []
  rsvRecs := []
  rsvNotes := []
  notices := []
  chNotes := []
  slots := 4
  pointer := 0
  dev := DevUnit.init
  epoch := Epoch.init
  arbs := []
  power := Power.init
  rot := Rot.init
  events := Events.init
  pmc := Pmc.init
  prefetchNotes := []
  freeCtr := 0
  out := []

/-- The machine right after a cold reset, `PWRGOOD` low and no start begun (R421, R444): everything lost but the OTP of a
shipped die. -/
def State.reset : State where
  pending := []
  otp := Otp.shipped
  ring := []
  hub := Hub.cold

end Sys2Proof.Machine
end

