-- ==== Sys2Proof/Machine/Tbl.lean ====
section
/-!
DEFINITION. Sparse tables and the small list operations that the meanings share. A table keeps its keys strictly rising;
an unlisted key reads as the default its owner names.
-/
namespace Sys2Proof.Machine

/-- The value listed at a key. -/
def Tbl.look {α : Type} : Tbl α → Nat → Option α
  | [], _ => none
  | (k, v) :: t, i => if k = i then some v else Tbl.look t i

/-- The value at a key, or the default. -/
def Tbl.getD {α : Type} (t : Tbl α) (i : Nat) (d : α) : α := (t.look i).getD d

/-- Lists a value at a key in place of what stood there, keeping the keys in rising order. -/
def Tbl.put {α : Type} : Tbl α → Nat → α → Tbl α
  | [], i, x => [(i, x)]
  | (k, v) :: t, i, x =>
    if i < k then (i, x) :: (k, v) :: t
    else if i = k then (i, x) :: t
    else (k, v) :: Tbl.put t i x

/-- Takes a key out of the table. -/
def Tbl.drop {α : Type} (t : Tbl α) (i : Nat) : Tbl α := t.filter fun e => e.1 != i

/-- Writes a value whose default is not listed. -/
def Tbl.set {α : Type} [DecidableEq α] (t : Tbl α) (i : Nat) (d x : α) : Tbl α :=
  if x = d then t.drop i else t.put i x

/-- Changes the value at a key. -/
def Tbl.upd {α : Type} (t : Tbl α) (i : Nat) (d : α) (f : α → α) : Tbl α := t.put i (f (t.getD i d))

/-- Changes the value at a key where one is listed. -/
def Tbl.change {α : Type} (t : Tbl α) (i : Nat) (f : α → α) : Tbl α :=
  List.map (fun e => if e.1 = i then (e.1, f e.2) else e) t

/-- The listed values, in the order of their keys. -/
def Tbl.vals {α : Type} (t : Tbl α) : List α := List.map (fun e => e.2) t

/-- Replaces the first element that meets a test. -/
def List.replFirst {α : Type} (p : α → Bool) (f : α → α) : List α → List α
  | [] => []
  | x :: t => if p x then f x :: t else x :: List.replFirst p f t

/-- Takes out the first element that meets a test. -/
def List.dropFirst {α : Type} (p : α → Bool) : List α → List α
  | [] => []
  | x :: t => if p x then t else x :: List.dropFirst p t

/-- Changes every element that meets a test. -/
def List.mapIf {α : Type} (p : α → Bool) (f : α → α) (l : List α) : List α :=
  l.map fun x => if p x then f x else x

/-- The element of a list with the least key, the first of them. -/
def List.least {α : Type} (key : α → Nat) : List α → Option α
  | [] => none
  | x :: t =>
    match List.least key t with
    | none => some x
    | some y => if key y < key x then some y else some x

/-- Insertion by a strict order, after the elements that do not come behind. -/
def List.ins {α : Type} (lt : α → α → Bool) (x : α) : List α → List α
  | [] => [x]
  | y :: t => if lt x y then x :: y :: t else y :: List.ins lt x t

/-- A list sorted by a strict order; equal elements keep their order. -/
def List.sorted {α : Type} (lt : α → α → Bool) (l : List α) : List α :=
  l.foldl (fun acc x => List.ins lt x acc) []

/-- The `i`th element, or the default. -/
def List.nth {α : Type} : List α → Nat → α → α
  | [], _, d => d
  | x :: _, 0, _ => x
  | _ :: t, n + 1, d => List.nth t n d

/-- Replaces the `i`th element; a shorter list is filled with the default. -/
def List.setNth {α : Type} (d x : α) : Nat → List α → List α
  | 0, [] => [x]
  | 0, _ :: t => x :: t
  | n + 1, [] => d :: List.setNth d x n []
  | n + 1, y :: t => y :: List.setNth d x n t

/-- Adds to the `i`th count of a list of counts. -/
def addNth (l : List Nat) (i n : Nat) : List Nat := List.setNth 0 (List.nth l i 0 + n) i l

/-- Adds 1 to a histogram bucket, which saturates at 48 bits (R459). -/
def addBucket (l : List Nat) (i : Nat) : List Nat := List.setNth 0 (min (2 ^ 48 - 1) (List.nth l i 0 + 1)) i l

/-- Numbers `0` to `n - 1`, in order. -/
def upTo (n : Nat) : List Nat := List.range n

end Sys2Proof.Machine
end

