-- ==== Sys2Proof/Machine/Operands.lean ====
section
/-!
DEFINITION. The fields of every operand form: flits (R241, R242, R207), span headers (R205), sideband words (R252), the
places of a line in the arrays (R77, R78, R216, R220, R286) and the entry words of the arrays (R79, R220, R287).
-/
namespace Sys2Proof

/-! ### Flits -/

/-- The 128 bits of a flit with its opcode (R241). -/
def Flit.word (opc : BitVec 6) (f : Flit) : BitVec 128 :=
  opc ++ f.txid ++ f.gaid ++ f.line ++ f.ticket ++ f.grant ++ f.low

/-- The fields of a 128-bit flit (R241). -/
def Flit.ofWord (w : BitVec 128) : BitVec 6 × Flit :=
  (w.extractLsb' 122 6,
    { txid := w.extractLsb' 110 12, gaid := w.extractLsb' 94 16, line := w.extractLsb' 48 46,
      ticket := w.extractLsb' 32 16, grant := w.extractLsb' 29 3, low := w.extractLsb' 0 29 })

/-- `TKV` (R242); also `ONCE` of a snoop, `RSV` of a span request, `RETURN` and `KEEP` (R207). -/
def Flit.b28 (f : Flit) : Bool := f.low.getLsbD 28
/-- `CRIT` (R242). -/
def Flit.crit (f : Flit) : Bool := f.low.getLsbD 27
/-- `STREAM` (R242); also `COPY` of a span answer (R207). -/
def Flit.b26 (f : Flit) : Bool := f.low.getLsbD 26
/-- `PAIR` (R242). -/
def Flit.pair (f : Flit) : Bool := f.low.getLsbD 25
/-- `AOP` (R169). -/
def Flit.aop (f : Flit) : BitVec 2 := f.low.extractLsb' 23 2
/-- `ASIZE` (R169). -/
def Flit.asize (f : Flit) : BitVec 2 := f.low.extractLsb' 21 2
/-- `AOFF` (R169). -/
def Flit.aoff (f : Flit) : BitVec 6 := f.low.extractLsb' 15 6
/-- `RSVSEQ` (R179). -/
def Flit.rsvSeq (f : Flit) : BitVec 12 := f.low.extractLsb' 3 12
/-- `KEPT` of an answer; also `OUTCOME` of `CMP` (R242). -/
def Flit.kept (f : Flit) : BitVec 2 := f.low.extractLsb' 27 2
/-- `SRC` of an agent's answer (R242). -/
def Flit.src (f : Flit) : La := f.low.extractLsb' 20 7
/-- `SGRANT` of `SPAN_CMP` (R207). -/
def Flit.sgrant (f : Flit) : BitVec 2 := f.low.extractLsb' 25 2
/-- `ACK_CNT` of `SPAN_CMP` (R207). -/
def Flit.ackCnt (f : Flit) : BitVec 10 := f.low.extractLsb' 15 10
/-- `DELAY` of `SPAN_TICKET` and `SPAN_DEFER` (R207). -/
def Flit.delay (f : Flit) : BitVec 16 := f.low.extractLsb' 12 16

/-- A flit of a span message or an answer: no ticket and no grant. -/
def Flit.plain (g : Gaid) (t : Txid) (l : Line) (low : BitVec 29) : Flit := ⟨t, g, l, 0, 0, low⟩

/-- A bit of a low field. -/
def lowBit (i : Nat) (b : Bool) : BitVec 29 := if b then 1#29 <<< i else 0
/-- A field of a low field. -/
def lowField (i v : Nat) : BitVec 29 := BitVec.ofNat 29 v <<< i

/-- The bits of a span flit's low field that R207 lists for an opcode; a set bit outside them is malformed. -/
def Flit.spanLowMask (opc : BitVec 6) : BitVec 29 :=
  let base : BitVec 29 := 0x18000000
  if opc = 0x04 then base ||| 0x7FF8
  else if opc = 0x08 then base ||| 0x2007FF8
  else if opc = 0x0B then base ||| 0x3FF8000
  else if opc.toNat < 0x10 then base
  else if opc = 0x10 then 0x10000000
  else if opc = 0x11 then 0
  else if opc.toNat < 0x20 then base
  else if opc.toNat < 0x23 then base ||| 0x4000000
  else if opc = 0x24 then base
  else if opc = 0x28 then base ||| 0x7FF8000
  else if opc = 0x29 then 0x0FFFF000
  else if opc = 0x2A then 0x1FFFF000
  else if opc = 0x2D then 0x7FF8
  else 0

/-- A flit of a span opcode with a reserved bit set (R207): `TICKET`, `GRANT`, bits of the low field that no row lists, and `RSVSEQ` without
`RSV`. -/
def Flit.spanBad (f : Flit) (opc : BitVec 6) : Bool :=
  f.ticket != 0 || f.grant != 0 || f.low &&& ~~~(Flit.spanLowMask opc) != 0
    || ((opc == 0x04 || opc == 0x08) && !f.b28 && f.low &&& 0x7FF8 != 0)

/-- Opcodes that R207 assigns within a service class (R205): 0 `SREQ`, 1 `SSNP`, 2 `SRSP`, 3 `SDAT`. -/
def spanOpcOk (svc : BitVec 3) (opc : BitVec 6) : Bool :=
  if svc = 0 then [0x00, 0x01, 0x02, 0x03, 0x04, 0x08, 0x0B, 0x0C, 0x0D].contains opc.toNat
  else if svc = 1 then [0x18, 0x19, 0x1A, 0x1B].contains opc.toNat
  else if svc = 2 then [0x11, 0x20, 0x21, 0x22, 0x28, 0x29, 0x2A, 0x2B, 0x2C, 0x2D].contains opc.toNat
  else if svc = 3 then [0x10, 0x24, 0x30].contains opc.toNat
  else false

/-! ### Span headers (R205) -/

/-- The header word of a span message. -/
def spanHeader (dest src : HubNo) (svc : BitVec 3) (dset epoch : Bool) (hops len : BitVec 4) : Word :=
  dest ++ src ++ svc ++ BitVec.ofBool dset ++ BitVec.ofBool epoch ++ hops ++ len ++ (0 : BitVec 33)
/-- `DEST_HUB`. -/
def hdrDest (w : Word) : HubNo := w.extractLsb' 55 9
/-- `SRC_HUB`. -/
def hdrSrc (w : Word) : HubNo := w.extractLsb' 46 9
/-- `SVC`. -/
def hdrSvc (w : Word) : BitVec 3 := w.extractLsb' 43 3
/-- `DSET`. -/
def hdrDset (w : Word) : Bool := w.getLsbD 42
/-- `EPOCH`. -/
def hdrEpoch (w : Word) : Bool := w.getLsbD 41
/-- `LEN`. -/
def hdrLen (w : Word) : BitVec 4 := w.extractLsb' 33 4
/-- `HOPS`. -/
def hdrHops (w : Word) : BitVec 4 := w.extractLsb' 37 4

/-! ### Sideband words (R252) -/

/-- `SBID`. -/
def sbid (w : Word) : Byte := w.extractLsb' 56 8

/-- The bits that R252 lists for a sideband message; a set bit outside them makes its receiver discard it. -/
def sbMask (id : Byte) : Word :=
  if id = 0x01 then 0xFFFFFF3FFFFFFFFF
  else if id = 0x02 then 0xFF1F000000000003
  else if id = 0x10 then 0xFF1F0000FFFFFFFF
  else if id = 0x11 then 0xFF0000000000000F
  else if id = 0x13 then 0xFF0F00000000FFFF
  else if id = 0x14 then 0xFF00FFFFFFFFFF00
  else if id = 0x15 || id = 0x17 then 0xFF00000000000000
  else if id = 0x20 then 0xFFFFFF0000000000
  else if id = 0x21 then 0xFF80FFFF00FF0000
  else if id = 0x22 then 0xFF8000FFFFFFFFFF
  else 0

/-- A sideband word with its expected message number and no reserved bit set. -/
def sbOk (id : Byte) (w : Word) : Bool := sbid w == id && w &&& ~~~(sbMask id) == 0

/-- A sideband word from a message number and its fields. -/
def sbWord (id : Byte) (fields : Word) : Word := (id.setWidth 64 <<< 56) ||| fields

/-- The enabled bytes of a write (R245): the whole line where `BE_VALID` is 0. -/
def WrData.mask (d : WrData) : ByteMask := if d.beValid then d.be else BitVec.allOnes 64

/-! ### Where a line stands in the arrays -/

/-- The logical slice (R77): the XOR of the eight 6-bit chunks of PA[51:6]. -/
def Line.ls (l : Line) : BitVec 6 :=
  l.extractLsb' 0 6 ^^^ l.extractLsb' 6 6 ^^^ l.extractLsb' 12 6 ^^^ l.extractLsb' 18 6 ^^^ l.extractLsb' 24 6
    ^^^ l.extractLsb' 30 6 ^^^ l.extractLsb' 36 6 ^^^ (l.extractLsb' 42 4).setWidth 6

/-- The snoop-filter tag, PA[51:20] (R78). -/
def Line.sfTag (l : Line) : BitVec 32 := l.extractLsb' 14 32

/-- `FOLD` of a snoop-filter tag (R78). -/
def sfFold (t : BitVec 32) : BitVec 14 :=
  t.extractLsb' 0 14 ^^^ t.extractLsb' 14 14 ^^^ (t.extractLsb' 28 4).setWidth 14

/-- The snoop-filter set (R78). -/
def Line.sfSet (l : Line) : BitVec 14 := l.extractLsb' 0 14 ^^^ sfFold l.sfTag

/-- The line of a snoop-filter set and tag (R78). -/
def sfLine (t : BitVec 32) (set : BitVec 14) : Line := t ++ (set ^^^ sfFold t)

/-- The span directory tag, PA[51:18] (R220). -/
def Line.sdTag (l : Line) : BitVec 34 := l.extractLsb' 12 34

/-- `FOLD` of a span directory tag (R220). -/
def sdFold (t : BitVec 34) : BitVec 12 :=
  t.extractLsb' 0 12 ^^^ t.extractLsb' 12 12 ^^^ (t.extractLsb' 24 10).setWidth 12

/-- The span directory set (R220). -/
def Line.sdSet (l : Line) : BitVec 12 := l.extractLsb' 0 12 ^^^ sdFold l.sdTag

/-- The line of a span directory set and tag. -/
def sdLine (t : BitVec 34) (set : BitVec 12) : Line := t ++ (set ^^^ sdFold t)

/-- The span presence counter of a line (R216). -/
def Line.presence (l : Line) : BitVec 16 :=
  l.extractLsb' 0 16 ^^^ l.extractLsb' 16 16 ^^^ (l.extractLsb' 32 14).setWidth 16

/-- The hub-cache tag, PA[51:16] (R286). -/
def Line.hcTag (l : Line) : BitVec 36 := l.extractLsb' 10 36

/-- The part of `HSET` that the tag gives. -/
def hcFold (t : BitVec 36) : BitVec 10 :=
  t.extractLsb' 0 10 ^^^ t.extractLsb' 10 10 ^^^ t.extractLsb' 20 10 ^^^ (t.extractLsb' 30 6).setWidth 10

/-- The hub-cache set (R286). -/
def Line.hcSet (l : Line) : BitVec 10 := l.extractLsb' 0 10 ^^^ hcFold l.hcTag

/-- The line of a hub-cache set and tag. -/
def hcLine (t : BitVec 36) (set : BitVec 10) : Line := t ++ (set ^^^ hcFold t)

end Sys2Proof

namespace Sys2Proof.Machine

/-! ### Snoop-filter entry words (R79–R82) -/

/-- `TAG` of an entry word. -/
def sfWordTag (w : Word) : BitVec 32 := w.extractLsb' 32 32
/-- `STATE` of an entry word. -/
def sfWordState (w : Word) : BitVec 4 := w.extractLsb' 28 4
/-- `PTR0`, `PTR1`, `PTR2` of an entry word. -/
def sfPtr (w : Word) (i : Nat) : La := w.extractLsb' (7 + 7 * i) 7
/-- `FWD` of an entry word. -/
def sfFwd (w : Word) : BitVec 2 := w.extractLsb' 5 2

/-- An entry word from its fields. -/
def sfWord (tag : BitVec 32) (state : BitVec 4) (p2 p1 p0 : La) (fwd : BitVec 2) : Word :=
  tag ++ state ++ p2 ++ p1 ++ p0 ++ fwd ++ (0 : BitVec 5)

/-- The distinct sharers among three pointers (R81). -/
def sharersOf (p0 p1 p2 : La) : List La :=
  let a := if p1 = p0 then [p0] else [p0, p1]
  if p2 = p0 || p2 = p1 then a else a ++ [p2]

/-- The pointer that `FWD` names, where it is valid (R80, R81). -/
def fwdOf (p0 p1 p2 : La) (fwd : BitVec 2) : Option La :=
  if fwd = 1 then some p0
  else if fwd = 2 then (if p1 = p0 then none else some p1)
  else if fwd = 3 then (if p2 = p0 || p2 = p1 then none else some p2)
  else none

/-- The entry word of a view (R80, R81): sharers packed from `PTR0` upward, unused pointers copies of `PTR0`. -/
def SView.word (tag : BitVec 32) : SView → Word
  | .unc => 0
  | .own a => sfWord tag 1 a a a 0
  | .shr l fwd =>
    let p0 := List.nth l 0 0
    let p1 := List.nth l 1 p0
    let p2 := List.nth l 2 p0
    match fwd with
    | none => sfWord tag 2 p2 p1 p0 0
    | some f => sfWord tag 3 p2 p1 p0 (if f = p0 then 1 else if f = p1 then 2 else 3)
  | .brd p fwd => sfWord tag 4 p p p (if fwd then 1 else 0)
  | .deg exact => sfWord tag 5 0 0 0 (if exact then 1 else 0)

/-- The view that an entry word holds; `none` where the word is malformed (R82). -/
def SView.ofWord (w : Word) : Option SView :=
  let st := sfWordState w
  let p0 := sfPtr w 0
  let p1 := sfPtr w 1
  let p2 := sfPtr w 2
  let fwd := sfFwd w
  if w.extractLsb' 0 5 ≠ 0 then none
  else if st = 0 then (if fwd = 0 then some .unc else none)
  else if st = 1 then (if fwd = 0 then some (.own p0) else none)
  else if st = 2 then (if fwd = 0 then some (.shr (sharersOf p0 p1 p2) none) else none)
  else if st = 3 then
    match fwdOf p0 p1 p2 fwd with
    | some f => some (.shr (sharersOf p0 p1 p2) (some f))
    | none => none
  else if st = 4 then (if fwd = 0 then some (.brd p0 false) else if fwd = 1 then some (.brd p0 true) else none)
  else if st = 5 then
    if p0 ≠ 0 || p1 ≠ 0 || p2 ≠ 0 then none
    else if fwd = 0 then some (.deg false) else if fwd = 1 then some (.deg true) else none
  else none

/-- The codes of `VIEW` and `STATE` (R80). -/
def SView.code : SView → BitVec 4
  | .unc => 0
  | .own _ => 1
  | .shr _ none => 2
  | .shr _ (some _) => 3
  | .brd _ _ => 4
  | .deg _ => 5

/-! ### Span directory entry words (R220, R221) -/

/-- `TAG` of a span directory word. -/
def sdWordTag (w : Word) : BitVec 34 := w.extractLsb' 30 34
/-- `STATE` of a span directory word. -/
def sdWordState (w : Word) : BitVec 3 := w.extractLsb' 27 3

/-- A span directory word from its fields. -/
def sdWord (tag : BitVec 34) (state : BitVec 3) (h1 h0 : HubNo) : Word := tag ++ state ++ h1 ++ h0 ++ (0 : BitVec 9)

/-- The entry word of a hub view. -/
def HView.word (tag : BitVec 34) : HView → Word
  | .none => 0
  | .own x => sdWord tag 1 x x
  | .shr l => sdWord tag 2 (List.nth l 1 (List.nth l 0 0)) (List.nth l 0 0)
  | .brd => sdWord tag 3 0 0
  | .deg => sdWord tag 4 0 0

/-- The hub view that an entry word holds; `none` where it is malformed (R221, treated as R82 does). -/
def HView.ofWord (w : Word) : Option HView :=
  let st := sdWordState w
  let h0 : HubNo := w.extractLsb' 9 9
  let h1 : HubNo := w.extractLsb' 18 9
  if w.extractLsb' 0 9 ≠ 0 then none
  else if st = 0 then some .none
  else if st = 1 then some (.own h0)
  else if st = 2 then some (.shr (if h1 = h0 then [h0] else [h0, h1]))
  else if st = 3 then (if h0 = 0 ∧ h1 = 0 then some .brd else none)
  else if st = 4 then (if h0 = 0 ∧ h1 = 0 then some .deg else none)
  else none

/-! ### Hub-cache tag words (R287) -/

/-- A tag word from its fields. -/
def hcWord (tag : BitVec 36) (valid locked lost poison chain pf : Bool) : Word :=
  tag ++ BitVec.ofBool valid ++ BitVec.ofBool locked ++ BitVec.ofBool lost ++ BitVec.ofBool poison
    ++ BitVec.ofBool chain ++ BitVec.ofBool pf ++ (0 : BitVec 22)
/-- `TAG`. -/
def hcWordTag (w : Word) : BitVec 36 := w.extractLsb' 28 36
/-- `VALID`. -/
def hcValid (w : Word) : Bool := w.getLsbD 27
/-- `LOCKED`. -/
def hcLocked (w : Word) : Bool := w.getLsbD 26
/-- `LOST`. -/
def hcLost (w : Word) : Bool := w.getLsbD 25
/-- `POISON`. -/
def hcPoison (w : Word) : Bool := w.getLsbD 24
/-- `CHAIN`. -/
def hcChain (w : Word) : Bool := w.getLsbD 23
/-- `PF`. -/
def hcPf (w : Word) : Bool := w.getLsbD 22
/-- A malformed tag word of a way (R288): a reserved bit is set, or `LOCKED` in a way that cannot be locked. The manual does not list the
malformed words (DESIGN CHOICE, assumption log 87). -/
def hcMalformed (w : Word) (way : Nat) : Bool := w.extractLsb' 0 22 != 0 || (hcLocked w && decide (4 ≤ way))
/-- A word with one bit set or cleared. -/
def setBit (w : Word) (i : Nat) (b : Bool) : Word :=
  if b then w ||| (1#64 <<< i) else w &&& ~~~(1#64 <<< i)

/-! ### Bytes of a line -/

/-- Byte `i` of a line. -/
def byteOf (l : LineBits) (i : Nat) : Byte := l.extractLsb' (8 * i) 8

/-- One bit per byte spread over the eight bits of the byte. -/
def spread (m : ByteMask) : LineBits :=
  (List.range 64).foldl (fun acc i => if m.getLsbD i then acc ||| (0xFF#512 <<< (8 * i)) else acc) 0

/-- The bytes of `a` where the mask is set, those of `b` elsewhere. -/
def mergeBytes (m : ByteMask) (a b : LineBits) : LineBits := (a &&& spread m) ||| (b &&& ~~~(spread m))

/-- Every byte of a line enabled. -/
def allBytes : ByteMask := BitVec.allOnes 64

/-- Word `k` of a line, bytes [8k+7:8k]. -/
def wordOf (l : LineBits) (k : Nat) : Word := l.extractLsb' (64 * k) 64

/-- The byte mask of the word `k` of a line. -/
def wordMask (k : Nat) : ByteMask := 0xFF#64 <<< (8 * k)

/-- Two's complement of a 16-bit value as an integer, offset by 2^15 so that it compares as a number. -/
def signed16 (v : BitVec 16) : Nat := (v ^^^ 0x8000).toNat

end Sys2Proof.Machine
end

