-- ==== Sys2Proof/Machine/Atomics.lean ====
section
/-!
DEFINITION. Far atomics (R169–R171): which encodings are malformed, the operations, and the bytes they write.
-/
namespace Sys2Proof.Machine

/-- The size in bytes that `ASIZE` names. -/
def atomSize (asize : BitVec 2) : Nat := if asize = 0 then 4 else if asize = 1 then 8 else 16

/-- A reserved value, a misaligned offset, or `PAIR` with a size other than 16 bytes (R169). -/
def atomMalformed (aop asize : BitVec 2) (aoff : BitVec 6) (pair : Bool) : Bool :=
  aop == 3 || asize == 3 || aoff.toNat % atomSize asize != 0 || (pair && asize != 2)

/-- One operation on a value of `w` bits (R170). -/
def atomOp {w : Nat} (aop : BitVec 2) (old a b : BitVec w) : BitVec w :=
  if aop = 0 then old + a else if aop = 1 then a else if old = a then b else old

/-- The bytes at the offset that the operation covers. -/
def atomMask (asize : BitVec 2) (aoff : BitVec 6) : ByteMask :=
  (if asize = 0 then (0xF : ByteMask) else if asize = 1 then 0xFF else 0xFFFF) <<< aoff.toNat

/-- The line after the operation (R170). -/
def atomResult (aop asize : BitVec 2) (aoff : BitVec 6) (pair : Bool) (operand : BitVec 256) (line : LineBits) : LineBits :=
  let o := 8 * aoff.toNat
  let new : LineBits :=
    if asize = 0 then
      (atomOp aop (line.extractLsb' o 32) (operand.extractLsb' 0 32) (operand.extractLsb' 128 32)).setWidth 512
    else if asize = 1 then
      (atomOp aop (line.extractLsb' o 64) (operand.extractLsb' 0 64) (operand.extractLsb' 128 64)).setWidth 512
    else if pair then
      (atomOp aop (line.extractLsb' o 128) (operand.extractLsb' 0 128) (operand.extractLsb' 128 128)).setWidth 512
    else
      ((atomOp aop (line.extractLsb' (o + 64) 64) (operand.extractLsb' 64 64) (operand.extractLsb' 192 64)) ++
        (atomOp aop (line.extractLsb' o 64) (operand.extractLsb' 0 64) (operand.extractLsb' 128 64))).setWidth 512
  mergeBytes (atomMask asize aoff) (new <<< o) line

/-- The bytes of the half-line that holds an offset (R171). -/
def halfMask (aoff : BitVec 6) : ByteMask := if aoff.getLsbD 5 then 0xFFFFFFFF00000000 else 0xFFFFFFFF

/-- The half-line of the old value, in its place. -/
def atomOld (aoff : BitVec 6) (line : LineBits) : LineBits := line &&& spread (halfMask aoff)

end Sys2Proof.Machine
end

