-- ==== Sys2Proof/Machine/Codes.lean ====
section
/-!
DEFINITION. The (13,8) code of the byte stores (R331, R332). A store of the model keeps the decoded byte and a poison bit; a
byte that is met upset is encoded, flipped and decoded by the code's own rules.
-/
namespace Sys2Proof.Machine

/-- What decoding a coded byte shows (R331). -/
inductive ByteState where
  | clean (b : Byte)
  | corrected (b : Byte)
  | poisoned
  | uncorrectable
  deriving DecidableEq, Repr

/-- The Hamming position of data bit `i`. -/
def dataPos (i : Nat) : Nat := List.nth [3, 5, 6, 7, 9, 10, 11, 12] i 0

/-- The data bits at their positions: position `p` is bit `p - 1`. -/
def placeData (b : Byte) : BitVec 13 :=
  (List.range 8).foldl (fun acc i => if b.getLsbD i then acc ||| (1#13 <<< (dataPos i - 1)) else acc) 0

/-- The parity of the positions that a check bit covers. -/
def coverParity (w : BitVec 13) (c : Nat) : Bool :=
  (List.range 12).foldl (fun acc i => if (i + 1).testBit c then acc ^^ w.getLsbD i else acc) false

/-- The syndrome `s[3:0]` over positions 1–12, check bits included. -/
def syndrome13 (w : BitVec 13) : Nat :=
  (if coverParity w 0 then 1 else 0) + (if coverParity w 1 then 2 else 0) + (if coverParity w 2 then 4 else 0)
    + (if coverParity w 3 then 8 else 0)

/-- The parity over positions 1–12. -/
def parity12 (w : BitVec 13) : Bool := (List.range 12).foldl (fun acc i => acc ^^ w.getLsbD i) false

/-- The code word of a byte: c0–c3 at positions 1, 2, 4, 8 and c4, the parity over all twelve, in bit 12. -/
def encode13 (b : Byte) : BitVec 13 :=
  let d := placeData b
  let put (w : BitVec 13) (c pos : Nat) : BitVec 13 := if coverParity d c then w ||| (1#13 <<< (pos - 1)) else w
  let w := put (put (put (put d 0 1) 1 2) 2 4) 3 8
  if parity12 w then w ||| (1#13 <<< 12) else w

/-- The bits of c4–c0. -/
def checkBits13 : BitVec 13 := 0x108B

/-- The code word of a poisoned byte: every check bit inverted. -/
def encodePoison (b : Byte) : BitVec 13 := encode13 b ^^^ checkBits13

/-- The data bits of a code word. -/
def dataOf13 (w : BitVec 13) : Byte :=
  (List.range 8).foldl (fun acc i => if w.getLsbD (dataPos i - 1) then acc ||| (1#8 <<< i) else acc) 0

/-- Decoding by the table of R331. -/
def decode13 (w : BitVec 13) : ByteState :=
  let s := syndrome13 w
  let s4 := parity12 w ^^ w.getLsbD 12
  if s4 then
    if s = 0 then .corrected (dataOf13 w)
    else if s ≤ 12 then .corrected (dataOf13 (w ^^^ (1#13 <<< (s - 1))))
    else if s = 15 then .poisoned
    else .uncorrectable
  else if s = 0 then .clean (dataOf13 w) else .uncorrectable

/-- Byte `i` of a byte store as its decoder meets it after an upset. -/
def meetUpset (l : LineBits) (pois : ByteMask) (u : ByteUpset) : ByteState :=
  let b := byteOf l u.idx.toNat
  decode13 ((if pois.getLsbD u.idx.toNat then encodePoison b else encode13 b) ^^^ u.flip)

/-- A store of a line after its decoder has met upsets: a corrected byte is used corrected, an uncorrectable or poisoned
one is stored poisoned (R332). The counts are of corrected and of uncorrectable bytes. -/
def applyUpsets (l : LineBits) (pois : ByteMask) : List ByteUpset → LineBits × ByteMask × Nat × Nat
  | [] => (l, pois, 0, 0)
  | u :: t =>
    let r := applyUpsets l pois t
    let bit : ByteMask := 1#64 <<< u.idx.toNat
    match meetUpset r.1 r.2.1 u with
    | .clean b => (mergeBytes bit (b.setWidth 512 <<< (8 * u.idx.toNat)) r.1, r.2.1 &&& ~~~bit, r.2.2.1, r.2.2.2)
    | .corrected b =>
      (mergeBytes bit (b.setWidth 512 <<< (8 * u.idx.toNat)) r.1, r.2.1 &&& ~~~bit, r.2.2.1 + 1, r.2.2.2)
    | .poisoned => (r.1, r.2.1 ||| bit, r.2.2.1, r.2.2.2)
    | .uncorrectable => (r.1, r.2.1 ||| bit, r.2.2.1, r.2.2.2 + 1)

/-- The poison mask of data that enters a byte store (R332): a poisoned header poisons every byte, an uncorrectable word
its eight bytes. -/
def enterPoison (headerPoison : Bool) (ueWords : BitVec 8) : ByteMask :=
  if headerPoison then allBytes
  else (List.range 8).foldl (fun acc k => if ueWords.getLsbD k then acc ||| wordMask k else acc) 0

end Sys2Proof.Machine
end

