-- ==== Sys2Proof/Machine/Params.lean ====
section
/-!
DEFINITION. The parameter space (R477, R478): which IDs exist, their access, default, reserved bits and range, and the value
in force. A parameter that is not listed in `par` holds its default. A 128-bit parameter keeps its upper half at its ID plus
0x10000.
-/
namespace Sys2Proof.Machine

/-- Access of a parameter (R12). -/
inductive PAccess where
  | rw | ro | rc | rsvd
  deriving DecidableEq, Repr

/-- `lo ≤ x ≤ hi`. -/
def within (x lo hi : Nat) : Bool := decide (lo ≤ x) && decide (x ≤ hi)

/-- The key of the upper half of a 128-bit parameter. -/
def hiKey (pid : Nat) : Nat := pid + 0x10000

/-- The snoop domains are the 128-bit parameters (R103). -/
def Param.wide (pid : Nat) : Bool := within pid 0x90 0x9F

/-- The access of a parameter ID up to 0x17FF (R72, R103, R189, R233, R257, R283, R305, R328, R352, R375, R404, R419, R446,
R463); an ID that no table lists is reserved (R477). -/
def Param.access (pid : Nat) : PAccess :=
  if within pid 0x40 0x41 then .rw
  else if pid = 0x42 || within pid 0x48 0x4F then .ro
  else if within pid 0x80 0x82 || within pid 0x90 0xAF then .rw
  else if within pid 0xC0 0xD0 then .rw
  else if pid = 0xD1 then .ro
  else if within pid 0x100 0x180 then .rw
  else if pid = 0x181 then .ro
  else if within pid 0x182 0x185 || within pid 0x188 0x18D || within pid 0x1A0 0x1AF || within pid 0x200 0x67F then .rw
  else if within pid 0x680 0x68F then .rw
  else if within pid 0x690 0x70F then .ro
  else if within pid 0x780 0x7A7 then .rw
  else if within pid 0x7B0 0x7BF then .ro
  else if within pid 0x7C0 0x7C2 || within pid 0x800 0x801 then .rw
  else if pid = 0x802 || within pid 0x810 0x850 then .ro
  else if within pid 0x880 0x882 then .rw
  else if pid = 0x883 then .ro
  else if within pid 0x900 0x902 then .rw
  else if within pid 0x910 0x950 then .rc
  else if pid = 0x980 || pid = 0x982 then .rw
  else if pid = 0x981 || within pid 0x983 0x984 || within pid 0x990 0x9D0 then .ro
  else if pid = 0xA00 then .rw
  else if within pid 0xA01 0xA02 then .ro
  else if within pid 0xA80 0xA84 then .rw
  else if pid = 0xA85 then .ro
  else if within pid 0xA90 0xAAF then .rw
  else if within pid 0xB00 0xB02 then .ro
  else if within pid 0xB80 0xB85 || within pid 0xC00 0xD7F then .rw
  else .rsvd

/-- The default of a stored parameter. -/
def Param.default (pid : Nat) : Word :=
  if pid = 0x40 then 2 else if pid = 0x41 then 1
  else if pid = 0x80 then 14 else if pid = 0x81 then 4
  else if within pid 0x90 0x9F || within pid (hiKey 0x90) (hiKey 0x9F) then BitVec.allOnes 64
  else if pid = 0xD0 then 65536
  else if pid = 0x182 then 1 else if pid = 0x183 then 1024 else if pid = 0x184 then 32 else if pid = 0x185 then 6
  else if within pid 0x188 0x18D then 0xC0
  else if within pid 0x600 0x67F then BitVec.allOnes 64
  else if within pid 0x680 0x68F then 0x40
  else if within pid 0x7A0 0x7A7 then 0x1900
  else if pid = 0x7C0 then 1 else if pid = 0x7C1 then 48 else if pid = 0x7C2 then 16
  else if pid = 0x800 then 1
  else if within pid 0x880 0x881 then 0x2AC else if pid = 0x882 then 0x77E
  else if pid = 0x900 then 100 else if pid = 0x901 then 20 else if pid = 0x902 then 1024
  else if pid = 0x980 then 1
  else if pid = 0xA00 then 10
  else if pid = 0xA80 then 1000 else if pid = 0xA81 then 40 else if pid = 0xA82 then 6 else if pid = 0xA83 then 250000
  else if pid = 0xA84 then 115
  else if within pid 0xA90 0xA9F then 16
  else if pid = 0xB82 then 0xFFF else if pid = 0xB84 then 18
  else 0

/-- The bits of a field-mapped parameter that software may set; `RO` and reserved bits are outside (R478). -/
def Param.writable (pid : Nat) : Word :=
  if within pid 0x100 0x13F then 0x000FFFFFFFFFF000
  else if within pid 0x140 0x17F then 0x000FFFFFFFFFFFE3
  else if within pid 0x188 0x18D then 0xE1
  else if within pid 0x200 0x3FF then 0x3FF
  else if within pid 0x400 0x5FF then 0xF1D
  else if within pid 0x680 0x68F then 0x41
  else if within pid 0x780 0x78F then 0x000FFFFFC0000001
  else if within pid 0x790 0x79F then 0xFFFFFFFFFFFFFFE0
  else if within pid 0x7A0 0x7A7 then 0xFF01
  else if within pid 0x880 0x882 then 0xFFF
  else if within pid 0xAA0 0xAAF then 0xFFFF
  else if pid = 0xB85 then 0x00000000FFFFFFFF
  else if within pid 0xC00 0xD7F then 0x000000FFFFFFFC0F
  else BitVec.allOnes 64

/-- `RO` bits inside an `RW` field map: a staged value's bits there are ignored (R12). -/
def Param.roBits (pid : Nat) : Word :=
  if within pid 0x188 0x18D then 0x10
  else if within pid 0x680 0x68F then 0x30
  else if within pid 0x7A0 0x7A7 then 0xD0
  else 0

/-- Event codes of a slice, of an agent port, of a memory port, of a span port and of the hub (R455). -/
def pmcEventOk (unit ev : Nat) : Bool :=
  if unit ≤ 0x40 then
    [0x001, 0x002, 0x003, 0x004, 0x005, 0x006, 0x007, 0x010, 0x011, 0x012, 0x013, 0x020, 0x021, 0x022, 0x030, 0x031,
      0x060, 0x080, 0x081].contains ev
  else if within unit 0x50 0x5F then [0x020, 0x023, 0x040, 0x041].contains ev
  else if within unit 0x60 0x67 then [0x030, 0x031, 0x032, 0x033, 0x034, 0x040].contains ev
  else if within unit 0x68 0x6D then [0x040, 0x050, 0x051].contains ev
  else if unit = 0x7F then [0x060, 0x082].contains ev
  else false

/-- A value within the range of its parameter, its reserved bits zero (R478 and the table of its chapter). -/
def Param.inRange (pid : Nat) (w : Word) : Bool :=
  let v := w.toNat
  if w &&& ~~~(Param.writable pid ||| Param.roBits pid) ≠ 0 then false
  else if pid = 0x40 then within v 1 8
  else if pid = 0x41 then decide (v ≤ 1)
  else if pid = 0x80 then within v 10 14
  else if pid = 0x81 then within v 1 4
  else if pid = 0x82 || within pid 0xA0 0xAF then decide (v ≤ 15)
  else if within pid 0xC0 0xCF then decide (v ≤ 2)
  else if pid = 0xD0 then within v 256 1048575
  else if pid = 0x180 then decide (v ≤ 511)
  else if pid = 0x182 then decide (v ≤ 1)
  else if pid = 0x183 then within v 256 4095
  else if pid = 0x184 then within v 24 40
  else if pid = 0x185 then within v 4 6
  else if within pid 0x1A0 0x1AF then decide (v ≤ 15)
  else if within pid 0x400 0x5FF then
    decide ((w.extractLsb' 8 4).toNat ≤ 12) && (decide ((w.extractLsb' 2 3).toNat ≤ 5) || w.extractLsb' 2 3 == 7)
  else if within pid 0x790 0x79F then decide ((w.extractLsb' 6 4).toNat ≤ 8)
  else if within pid 0x7A0 0x7A7 then within (w.extractLsb' 8 8).toNat 16 64
  else if pid = 0x7C0 then within v 1 4
  else if pid = 0x7C1 then within v 8 1023
  else if pid = 0x7C2 then decide (v ≤ 64)
  else if pid = 0x800 then decide (v ≤ 1)
  else if pid = 0x801 then decide (v ≤ 0xFFFF)
  else if pid = 0x900 then within v 25 100
  else if pid = 0x901 then within v 1 100
  else if pid = 0x902 then within v 16 65535
  else if pid = 0x980 || pid = 0x982 then decide (v ≤ 1)
  else if pid = 0xA00 then within v 4 100
  else if pid = 0xA80 then within v 50 4000
  else if pid = 0xA81 then within v 8 400
  else if pid = 0xA82 then within v 3 24
  else if pid = 0xA83 then within v 2500 (2 ^ 24)
  else if pid = 0xA84 then within v 85 120
  else if within pid 0xA90 0xA9F then within v 1 255
  else if within pid 0xAA0 0xAAF then decide (w.extractLsb' 1 3 ≠ 7)
  else if pid = 0xB80 then w &&& 7 == 0 && decide (v < 2 ^ 52)
  else if pid = 0xB81 then w &&& 0x1F == 0
  else if pid = 0xB82 || pid = 0xB83 then decide (v < 2 ^ 32)
  else if pid = 0xB84 then within v 10 24
  else if pid = 0xB85 then
    !w.getLsbD 0 || (decide (1 ≤ (w.extractLsb' 16 16).toNat) && decide ((w.extractLsb' 8 8).toNat ≤ 0x40))
  else if within pid 0xC00 0xD7F then
    let unit := (w.extractLsb' 20 8).toNat
    let ev := (w.extractLsb' 28 12).toNat
    decide ((w.extractLsb' 10 2).toNat ≤ 1) && pmcEventOk unit ev
  else true

/-- The word in force of a stored parameter. -/
def Hub.pw (h : Hub) (pid : Nat) : Word := h.par.getD pid (Param.default pid)

/-- The value in force of a stored parameter. -/
def Hub.p (h : Hub) (pid : Nat) : Nat := (h.pw pid).toNat

/-- The recorded value of a stored parameter: the master's where a commit has recorded it, else the default. -/
def Hub.pm (h : Hub) (pid : Nat) : Word := h.master.getD pid (Param.default pid)

/-- This hub's number in force (R198). -/
def Hub.num (h : Hub) : HubNo := BitVec.ofNat 9 (h.p 0x180)

/-- A 128-bit parameter in force. -/
def Hub.pw128 (h : Hub) (pid : Nat) : BitVec 128 := h.pw (hiKey pid) ++ h.pw pid

/-- Snoop answers, data, `CMP_ACK` and writebacks are taken: in service, during a drain (R423) and after a fatal error (R346). -/
def Hub.takesAnswers (h : Hub) : Bool :=
  h.start.phase == .serving || h.start.phase == .draining || (h.start.phase == .stopped && h.start.fatal)

end Sys2Proof.Machine
end

