-- ==== Sys2Proof/Machine/Maps.lean ====
section
/-!
DEFINITION. The address maps: memory windows and their channels (R266, R267), device regions (R181), the span home map
(R199), the hub-window block and the alias window (R465), routes (R200) and the sets of agents and hubs that they name.
-/
namespace Sys2Proof.Machine

/-! ### Ports in use (R24, R25) -/

/-- An agent port. -/
def Hub.ap (h : Hub) (p : BitVec 4) : ApPort := h.aps.getD p.toNat ApPort.init
/-- A memory port. -/
def Hub.mp (h : Hub) (n : Nat) : MpPort := h.mps.getD n MpPort.init

/-- An agent port in use: enabled, and not left unused by its bring-up. -/
def Hub.apUsed (h : Hub) (p : BitVec 4) : Bool := (h.pw (0x680 + p.toNat)).getLsbD 0 && !(h.ap p).unused
/-- A memory port in use. -/
def Hub.mpUsed (h : Hub) (n : Nat) : Bool := (h.pw (0x7A0 + n)).getLsbD 0 && !(h.mp n).unused
/-- A span port in use. -/
def Hub.spUsed (h : Hub) (n : BitVec 3) : Bool := (h.pw (0x188 + n.toNat)).getLsbD 0

/-- Some memory port is in use. -/
def Hub.memInUse (h : Hub) : Bool := (upTo 8).any fun n => h.mpUsed n

/-! ### Memory windows -/

/-- `MP_WIN_BASE_n` in force. -/
def Hub.winBase (h : Hub) (n : Nat) : Word := h.pw (0x780 + n)
/-- `MP_WIN_CFG_n` in force. -/
def Hub.winCfg (h : Hub) (n : Nat) : Word := h.pw (0x790 + n)

/-- PA[51:30] of a line. -/
def lineGiB (l : Line) : Nat := (l.extractLsb' 24 22).toNat

/-- A line in window `n` given by its two words (R266). -/
def winHolds (base cfg : Word) (l : Line) : Bool :=
  base.getLsbD 0 && decide ((base.extractLsb' 30 22).toNat ≤ lineGiB l) && decide (lineGiB l ≤ (cfg.extractLsb' 42 22).toNat)

/-- The memory window of a line at this hub. -/
def Hub.winOf (h : Hub) (l : Line) : Option Nat := (upTo 16).find? fun n => winHolds (h.winBase n) (h.winCfg n) l

/-- The set bits of a mask of 16 channels, from bit 0. -/
def chanBits (m : BitVec 16) : List Nat := (upTo 16).filter fun c => m.getLsbD c

/-- The channels that hold a line (one, or a mirrored pair), its channel address and its interleave number q (R267). -/
def winMap (base cfg : Word) (l : Line) : List Nat × Nat × Nat :=
  let g := (cfg.extractLsb' 6 4).toNat + 8
  let o := l.toNat * 64 - (base.extractLsb' 30 22).toNat * 2 ^ 30
  let bits := chanBits (cfg.extractLsb' 26 16)
  let mirror := cfg.getLsbD 5
  let n := if mirror then bits.length / 2 else bits.length
  let q := o / 2 ^ g
  let ord := q % n
  let chans := if mirror then [List.nth bits (2 * ord) 0, List.nth bits (2 * ord + 1) 0] else [List.nth bits ord 0]
  (chans, (cfg.extractLsb' 10 16).toNat * 2 ^ 30 + (q / n) * 2 ^ g + o % 2 ^ g, q)

/-- The channels, the channel address and the interleave number of a home line. -/
def Hub.lineMap (h : Hub) (l : Line) : List Nat × Nat × Nat :=
  match h.winOf l with
  | some n => winMap (h.winBase n) (h.winCfg n) l
  | none => ([], 0, 0)

/-- The memory port of a channel (R22). -/
def portOfChan (c : Nat) : Nat := c / 2

/-- The read bound B of a memory port (R265). -/
def Hub.bound (h : Hub) (mp : Nat) : Nat := ((h.pw (0x7A0 + mp)).extractLsb' 8 8).toNat

/-- A channel's record. -/
def Hub.chan (h : Hub) (c : Nat) : Chan := h.chans.getD c Chan.init

/-- A round at or after which a pause forbids a read presented now (R278): one of the announced pauses is in force, or begins
within B. -/
def Hub.readPaused (h : Hub) (c : Nat) : Bool :=
  (h.chan c).announced.any fun p => decide (p.1 ≤ h.round + h.bound (portOfChan c)) && decide (h.round ≤ p.2)

/-- A write may not be sent from round P−4 through the end of a pause (R278). -/
def Hub.writePaused (h : Hub) (c : Nat) : Bool :=
  (h.chan c).announced.any fun p => decide (p.1 ≤ h.round + 4) && decide (h.round ≤ p.2)

/-- The channel that serves reads of a line: for a mirrored pair, the member by the parity of q, a paused, sleeping, down or copying
member skipped (R280); `none` for a line in no window. -/
def Hub.readChan (h : Hub) (l : Line) : Option Nat :=
  let m := h.lineMap l
  let asleep (c : Nat) : Bool := match h.power.doms.look (16 + portOfChan c) with
    | some .asleep | some (.opening _) | some (.waking _ _) => true
    | _ => false
  let out (c : Nat) : Bool := (h.chan c).down || (h.chan c).copying.isSome || h.readPaused c || asleep c
  match m.1 with
  | [] => none
  | [c] => some c
  | c :: d :: _ =>
    let first := if m.2.2 % 2 = 0 then c else d
    let other := if m.2.2 % 2 = 0 then d else c
    if out first && !out other then some other else some first

/-- B of the channel of a line; 25 where the line has none. -/
def Hub.boundOf (h : Hub) (l : Line) : Nat :=
  match h.readChan l with
  | some c => h.bound (portOfChan c)
  | none => 25

/-- Device region `n` given by its two words holds an address's page (R181). -/
def drtHolds (base attr : Word) (l : Line) : Bool :=
  let page := l.extractLsb' 6 40
  attr.getLsbD 0 && decide ((base.extractLsb' 12 40).toNat ≤ page.toNat) && decide (page.toNat ≤ (attr.extractLsb' 12 40).toNat)

/-- The device region of a line at this hub. -/
def Hub.drtOf (h : Hub) (l : Line) : Option Nat :=
  (upTo 64).find? fun n => drtHolds (h.pw (0x100 + n)) (h.pw (0x140 + n)) l

/-- `TARGET` of a device region. -/
def Hub.drtTarget (h : Hub) (n : Nat) : La := (h.pw (0x140 + n)).extractLsb' 5 7
/-- `EARLY_ACK` of a device region. -/
def Hub.drtEarly (h : Hub) (n : Nat) : Bool := (h.pw (0x140 + n)).getLsbD 1

/-- The span home map entry of a line: the home's number where the address exists (R199). -/
def Hub.mapHome (h : Hub) (l : Line) : Option HubNo :=
  let w := h.pw (0x200 + (l.extractLsb' 37 9).toNat)
  if w.getLsbD 0 then some (w.extractLsb' 1 9) else none

/-- Where an address leads. -/
inductive AddrClass where
  | window (hub : HubNo)
  | device (n : Nat)
  | home (win : Nat)
  | remote (hub : HubNo)
  | unmapped
  deriving DecidableEq, Repr

/-- The first line of the hub-window block (R465). -/
def hubWindowLine : Nat := 0xFFFE000000000 / 64
/-- The first line of the alias window (R465). -/
def aliasWindowLine : Nat := 0xFFFE002000000 / 64

/-- The class of an address (R168, R199, R465, R466). A hub with no memory port in use is home for no address (R25). -/
def Hub.classify (h : Hub) (l : Line) : AddrClass :=
  if within l.toNat hubWindowLine (hubWindowLine + 0x1FFFFFF / 64) then .window (l.extractLsb' 10 9)
  else if within l.toNat aliasWindowLine (aliasWindowLine + 0xFFFF / 64) then .window h.num
  else match h.mapHome l with
    | none => .unmapped
    | some e =>
      match h.drtOf l with
      | some n => .device n
      | none =>
        if e = h.num then
          match h.winOf l with
          | some w => if h.memInUse then .home w else .unmapped
          | none => .unmapped
        else .remote e

/-- The offset in the register window of byte 0 of a line. -/
def windowOffset (l : Line) : Nat := (l.toNat * 64) % 0x10000

/-! ### Hubs -/

/-- `VALID` of the route to a hub (R200). -/
def Hub.routeValid (h : Hub) (x : HubNo) : Bool := (h.pw (0x400 + x.toNat)).getLsbD 0
/-- The span port of the next hop to a hub; 7 for this hub. -/
def Hub.routePort (h : Hub) (x : HubNo) : BitVec 3 := (h.pw (0x400 + x.toNat)).extractLsb' 2 3
/-- `DIST` of a hub. -/
def Hub.routeDist (h : Hub) (x : HubNo) : Nat := ((h.pw (0x400 + x.toNat)).extractLsb' 8 4).toNat
/-- A hub that messages reach: a valid route through a port, and not declared lost (R228). -/
def Hub.reachable (h : Hub) (x : HubNo) : Bool :=
  x != h.num && h.routeValid x && decide ((h.routePort x).toNat ≤ 5) && !h.lostHubs.contains x

/-- The span group of a home line: the reachable hubs of its mask (R221). -/
def Hub.spanGroup (h : Hub) (l : Line) : List HubNo :=
  match h.winOf l with
  | none => []
  | some n =>
    let k := h.p (0x1A0 + n)
    ((upTo 512).map (BitVec.ofNat 9)).filter fun x =>
      (h.pw (0x600 + 8 * k + x.toNat / 64)).getLsbD (x.toNat % 64) && h.reachable x

/-! ### Agents -/

/-- The record of a local agent number. -/
def Hub.agent (h : Hub) (a : La) : Agent := h.agents.getD a.toNat Agent.init

/-- A local agent that is online (R86). -/
def Hub.isOnline (h : Hub) (a : La) : Bool := (h.agent a).online

/-- The online local agents, by number. -/
def Hub.onlineAgents (h : Hub) : List La :=
  (h.agents.filter fun e => e.2.online).map fun e => BitVec.ofNat 7 e.1

/-- The snoop domain mask of a line (R86). -/
def Hub.domainMask (h : Hub) (l : Line) : BitVec 128 :=
  match h.classify l with
  | .home w => h.pw128 (0x90 + h.p (0xA0 + w))
  | _ => h.pw128 (0x90 + h.p 0x82)

/-- The online agents of a line's snoop domain (R86). -/
def Hub.domain (h : Hub) (l : Line) : List La :=
  let m := h.domainMask l
  h.onlineAgents.filter fun a => m.getLsbD a.toNat

/-- The agent ports that serve some agents, each once, in rising order. -/
def Hub.portsOf (h : Hub) (las : List La) : List (BitVec 4) :=
  ((upTo 16).map (BitVec.ofNat 4)).filter fun p => las.any fun a => (h.agent a).port == p

/-- A local agent's number, where a GAID is local and its number assigned (R27). -/
def Hub.localOf (h : Hub) (g : Gaid) : Option La :=
  if g.hub = h.num && (h.agent g.la).valid then some g.la else none

/-! ### The mesh (R307, R308, R311, R321) -/

/-- Places beside column c4 in their order from the west: `k` of 8. -/
def sideCol (k : Nat) : Nat := if k < 4 then k else k + 1

/-- The row of each memory port's stop on its side. -/
def mpRow (k : Nat) : Nat := List.nth [1, 3, 4, 6] k 0

/-- The column and the row of an endpoint's stop (R307, R308). -/
def stopAt (ep : Nat) : Nat × Nat :=
  if ep < 32 then (sideCol (ep % 8), ep / 8)
  else if ep < 41 then (ep - 32, 4)
  else if ep < 65 then (sideCol ((ep - 41) % 8), 5 + (ep - 41) / 8)
  else if ep < 72 then (4, List.nth [1, 0, 7, 2, 6, 5, 3] (ep - 65) 0)
  else if ep < 88 then (sideCol ((ep - 72) % 8), if ep < 80 then 0 else 7)
  else (if ep < 92 then 0 else 8, mpRow ((ep - 88) % 4))

/-- The links between two endpoints: along the source's row, then along the destination's column (R311). -/
def meshLinks (src dst : Nat) : Nat :=
  let a := stopAt src
  let b := stopAt dst
  (max a.1 b.1 - min a.1 b.1) + (max a.2 b.2 - min a.2 b.2)

/-- The cycles of a message that no router holds: one for each link, one within a stop (R311). -/
def meshCycles (src dst : Nat) : Nat := max 1 (meshLinks src dst)

/-- The bucket of a latency in cycles (R321). -/
def latBucket (n : Nat) : Nat := (([8, 12, 16, 24, 32, 64, 256] : List Nat).filter fun k => decide (k < n)).length

end Sys2Proof.Machine
end

