-- ==== Sys2Proof/Machine/Wire.lean ====
section
/-!
DEFINITION. What crosses the links, bit by bit: control flits with their class-specific bits and opcodes (R241, R242, R244), data headers
and beats (R245, R246), memory-port messages (R260, R261, R263), slots and frames with their CRC (R237, R238), and span messages and
frames (R192, R195, R205).
-/
namespace Sys2Proof.Machine

/-! ### Opcodes and classes (R244) -/

/-- The opcodes of messages on an agent port. -/
def opDevRd : BitVec 6 := 0x0C
def opDevWr : BitVec 6 := 0x0D
def opCmp : BitVec 6 := 0x28
def opTicket : BitVec 6 := 0x29
def opDefer : BitVec 6 := 0x2A
def opCmpWb : BitVec 6 := 0x2B
def opDatHome : BitVec 6 := 0x30
def opDatFwd : BitVec 6 := 0x31

/-- The classes of the messages on an agent port: `OPC[5:3]`. -/
inductive MsgClass where
  | req | wb | snp | rsp | dat
  deriving DecidableEq, Repr

/-- The class of an opcode. -/
def msgClass (opc : BitVec 6) : MsgClass :=
  let k := (opc.extractLsb' 3 3).toNat
  if k ≤ 1 then .req else if k = 2 then .wb else if k = 3 then .snp else if k = 6 then .dat else .rsp

/-- A `DAT` credit goes with a message that carries data (R248). -/
def AgentMsg.takesDat (m : AgentMsg) : Bool := m.data.isSome

/-- The class of a message: the data of a `DEV_RD` on its way to the requester is of `DAT` alone. -/
def AgentMsg.cls (m : AgentMsg) : MsgClass := if m.opc = opDevRd ∧ m.takesDat then .dat else msgClass m.opc

/-- The low bit of a class's returns in the credit word of an agent port (R237). -/
def MsgClass.credBit : MsgClass → Nat
  | .req => 32 | .wb => 24 | .snp => 16 | .rsp => 8 | .dat => 0

/-! ### Control flits (R241, R242) -/

/-- The class-specific bits of a message of the hub. -/
def AgentMsg.low (m : AgentMsg) : BitVec 29 :=
  match msgClass m.opc with
  | .req => lowBit 27 m.crit
  | .snp => lowBit 28 m.once ||| lowBit 27 m.crit ||| lowField 18 m.dst.toNat
  | .rsp => if m.opc = opCmp then lowField 27 m.outcome.toNat else 0
  | _ => 0

/-- The control flit of a message of the hub. -/
def AgentMsg.flit (m : AgentMsg) : BitVec 128 := Flit.word m.opc ⟨m.txid, m.gaid, m.line, m.ticket, m.grant, m.low⟩

/-! ### Data (R245, R246) -/

/-- A data header word from its fields. -/
def headerWord (opc : BitVec 6) (txid : Txid) (gaid : Gaid) (dirty poison firstHi : Bool) (beats : BitVec 2) (beValid : Bool) : Word :=
  opc ++ txid ++ gaid ++ BitVec.ofBool dirty ++ BitVec.ofBool poison ++ BitVec.ofBool firstHi ++ beats ++ BitVec.ofBool beValid
    ++ (0 : BitVec 24)
/-- `OPC` of a header word. -/
def headOpc (w : Word) : BitVec 6 := w.extractLsb' 58 6
/-- `TXID` of a header word. -/
def headTxid (w : Word) : Txid := w.extractLsb' 46 12
/-- `GAID` of a header word. -/
def headGaid (w : Word) : Gaid := w.extractLsb' 30 16
/-- `DIRTY`. -/
def headDirty (w : Word) : Bool := w.getLsbD 29
/-- `POISON`. -/
def headPoison (w : Word) : Bool := w.getLsbD 28
/-- `FIRST_HALF`. -/
def headFirst (w : Word) : Bool := w.getLsbD 27
/-- `BEATS`. -/
def headBeats (w : Word) : Nat := (w.extractLsb' 25 2).toNat
/-- `BE_VALID`. -/
def headBeValid (w : Word) : Bool := w.getLsbD 24

/-- A half of a line. -/
def halfOf (l : LineBits) (hi : Bool) : BitVec 256 := l.extractLsb' (if hi then 256 else 0) 256

/-- The beats of a line, the critical half first; of one beat, that half alone. -/
def beatsOf (l : LineBits) (hi one : Bool) : List (BitVec 256) := if one then [halfOf l hi] else [halfOf l hi, halfOf l !hi]

/-- A line from its beats. -/
def lineOf (beats : List (BitVec 256)) (hi : Bool) : LineBits :=
  let a := List.nth beats 0 0
  let b := List.nth beats 1 0
  if hi then a ++ b else b ++ a

/-- An old value that travels as one beat (R246): `DAT_HOME` of an `ATOM`, whose half `be` names. -/
def AgentMsg.oneBeat (m : AgentMsg) : Bool := m.opc == opDatHome && m.be != 0

/-- The data header of a message of the hub: partial `DEV_WR` data carries `BE`. -/
def AgentMsg.header (m : AgentMsg) (d : LineBits × Bool × Bool) : BitVec 128 :=
  let part := m.opc == opDevWr && m.be != allBytes
  headerWord m.opc m.txid m.gaid d.2.1 d.2.2 m.crit (if m.oneBeat then 1 else 2) part ++ (if part then m.be else 0)

/-- The units of a message of the hub: its flit, but for a message of `DAT` alone, and its header with its beats. -/
def AgentMsg.units (m : AgentMsg) : List TxUnit :=
  (if m.cls = .dat then [] else [.flit m.flit])
    ++ match m.data with
      | some d => [.header (m.header d) (beatsOf d.1 m.crit m.oneBeat)]
      | none => []

/-! ### Memory-port messages (R260–R263) -/

/-- The flit of a command of the hub. -/
def memFlit (opc : BitVec 6) (mtag : Txid) (ch : Bool) (caddr : BitVec 40) (crit : Bool) : BitVec 128 :=
  opc ++ mtag ++ BitVec.ofBool ch ++ caddr ++ BitVec.ofBool crit ++ (0 : BitVec 68)
/-- `OPC` of a memory-port flit. -/
def memOpc (w : BitVec 128) : BitVec 6 := w.extractLsb' 122 6
/-- `MTAG`. -/
def memTag (w : BitVec 128) : Txid := w.extractLsb' 110 12
/-- `CH`. -/
def memCh (w : BitVec 128) : Bool := w.getLsbD 109
/-- `LEAD`. -/
def memLead (w : BitVec 128) : BitVec 12 := w.extractLsb' 97 12
/-- `LEN`. -/
def memLen (w : BitVec 128) : BitVec 7 := w.extractLsb' 90 7

/-- The units of a command of the hub, with the data of a write. -/
def memUnits (opc : BitVec 6) (mtag : Txid) (ch : Bool) (caddr : BitVec 40) (crit : Bool) (data : Option (LineBits × Bool)) : List TxUnit :=
  .flit (memFlit opc mtag ch caddr crit) :: match data with
    | some (b, poison) => [.header (headerWord opc mtag 0 false poison false 2 false ++ (0 : BitVec 64)) (beatsOf b false false)]
    | none => []

/-- The low bits of the returns for control messages and for data headers in the credit word that the hub sends (R260). -/
def mrspBit : Nat := 24
def mdatBit : Nat := 16

/-! ### Slots (R238) -/

/-- The bits of a unit. -/
def TxUnit.word : TxUnit → BitVec 128
  | .flit w => w
  | .header w _ => w

/-- The beats that follow a unit. -/
def TxUnit.beats : TxUnit → List (BitVec 256)
  | .flit _ => []
  | .header _ b => b

/-- The kind of a slot of two units. -/
def pairKind : TxUnit → TxUnit → BitVec 3
  | .flit _, .flit _ => 2
  | .flit _, .header _ _ => 3
  | .header _ _, .flit _ => 4
  | .header _ _, .header _ _ => 5

/-- The slots of units in their order, each pair before its beats, and the unit that is left: a header alone, which no kind of slot holds, waits for
another unit (DESIGN CHOICE, assumption log 62). -/
def packUnits : List TxUnit → List (BitVec 3 × BitVec 256) × List TxUnit
  | [] => ([], [])
  | [.flit w] => ([(6, (0 : BitVec 128) ++ w)], [])
  | [.header w b] => ([], [.header w b])
  | a :: b :: t =>
    let r := packUnits t
    ((pairKind a b, b.word ++ a.word) :: ((a.beats ++ b.beats).map fun x => (1, x)) ++ r.1, r.2)

/-! ### Frames (R237) -/

/-- The frame header of a sent frame. -/
def TxFrame.header (f : TxFrame) : Word :=
  f.fseq ++ f.fack ++ BitVec.ofBool f.rpl ++ f.kinds ++ (0 : BitVec 10)

/-- The time word of a frame: the round and the cycle in which it is sent. -/
def timeWord (round cyc : Nat) : Word := (BitVec.ofNat 64 (round % 65536) <<< 3) ||| BitVec.ofNat 64 (cyc % 8)

/-- Bytes 0–247 of a frame, byte i in bits [8i+7:8i]. -/
def TxFrame.body (f : TxFrame) : BitVec 1984 := f.time ++ f.credits ++ f.header ++ f.slots

/-- One bit of a CRC whose polynomial, but for its leading term, is `poly`. -/
def crcBit {w : Nat} (poly : BitVec w) (c : BitVec w) (b : Bool) : BitVec w :=
  if c.msb == b then c <<< 1 else (c <<< 1) ^^^ poly

/-- CRC-64 with the ECMA-182 polynomial over bytes 0–247: initial value zero, each byte from its high bit, nothing inverted (PRESUMED, assumption
log 97). -/
def TxFrame.crc (f : TxFrame) : BitVec 64 :=
  (List.range 1984).foldl (fun c i => crcBit 0x42F0E1EBA9EA3693#64 c (f.body.getLsbD (8 * (i / 8) + (7 - i % 8)))) 0

/-- The 256 bytes of a frame. -/
def TxFrame.bits (f : TxFrame) : BitVec 2048 := f.crc ++ f.body

/-- The slots of a frame from a list, and its kinds; empty slots after them. -/
def frameSlots (l : List (BitVec 3 × BitVec 256)) : BitVec 21 × BitVec 1792 :=
  (List.range 7).foldl (fun acc i =>
    let s := List.nth l i (0, 0)
    (acc.1 ||| (s.1.setWidth 21 <<< (3 * i)), acc.2 ||| (s.2.setWidth 1792 <<< (256 * i)))) (0, 0)

/-- The credit word of the returns freed: each field is eight bits. -/
def creditWord (freed : Tbl Nat) : Word := freed.foldl (fun w e => w ||| (BitVec.ofNat 64 (min e.2 255) <<< e.1)) 0

/-- The next frame of a sender (R237, R239): the acknowledgement of its receiver, its slots, the credits freed, the time; it joins the last 64. -/
def FrameState.sendOne (f : FrameState) (time : Word) : FrameState :=
  let t := f.tx
  let s := frameSlots (t.slots.take 7)
  let fr : TxFrame := ⟨t.seq, f.rx - 1, t.ask, s.1, s.2, creditWord t.freed, time⟩
  { f with tx := { t with
    seq := t.seq + 1
    ask := false
    slots := t.slots.drop 7
    freed := (t.freed.map fun e => (e.1, e.2 - 255)).filter fun e => decide (0 < e.2)
    kept := (t.kept ++ [fr]).drop (t.kept.length - 63) } }

/-- The frames of a round (R236): `n` of them, at even distances, carry what waits as far as it goes. -/
def FrameState.sendRound (f : FrameState) (round n : Nat) : FrameState :=
  let p := packUnits f.tx.units
  let f := { f with tx := { f.tx with
    units := p.2
    slots := f.tx.slots ++ p.1 } }
  (List.range n).foldl (fun g i => g.sendOne (timeWord round (i * (8 / n)))) f

/-- Units of a message wait for a slot. -/
def FrameState.queue (f : FrameState) (u : List TxUnit) : FrameState := { f with tx := { f.tx with units := f.tx.units ++ u } }

/-- A credit is freed for the opposite direction. -/
def FrameState.free (f : FrameState) (bit : Nat) : FrameState := { f with tx := { f.tx with freed := f.tx.freed.upd bit 0 fun n => n + 1 } }

/-- The frames that a sender resends from `FACK` + 1 (R239). -/
def FrameState.resends (f : FrameState) (fack : BitVec 16) : List TxFrame :=
  f.tx.kept.filter fun x => decide ((x.fseq - (fack + 1)).toNat < (f.tx.seq - (fack + 1)).toNat)

/-! ### Span messages and frames (R192, R195, R205) -/

/-- A half of a line as four slots. -/
def halfSlots (b : BitVec 256) : List Word := (List.range 4).map fun i => b.extractLsb' (64 * i) 64

/-- The slots of a span message (R205): its header and its flit, then for data the data header unit and the line, the critical half first where the flit
names it; an operand beat travels as the first half of such data. -/
def SpanOut.slots (m : SpanOut) : List Word :=
  let f := Flit.word m.opc m.flit
  let hi := m.data.isSome && m.svc == 0 && m.flit.crit
  let part := m.be != 0 && m.be != allBytes
  let head (d : Payload) (beats : BitVec 2) : List Word :=
    [headerWord m.opc m.flit.txid m.flit.gaid d.dirty d.poison hi beats part, if part then m.be else 0]
      ++ halfSlots (halfOf d.bytes hi) ++ halfSlots (halfOf d.bytes !hi)
  let body := match m.data, m.operand with
    | some d, _ => head d 2
    | none, some x => head ⟨x.setWidth 512, false, false, true⟩ 1
    | none, none => []
  [spanHeader m.dest m.src m.svc m.dset m.epoch m.hops (BitVec.ofNat 4 (2 + body.length)), f.extractLsb' 64 64, f.extractLsb' 0 64]
    ++ body

/-- The frame header of a sent span frame. -/
def SpanTxFrame.header (f : SpanTxFrame) : Word :=
  f.fseq ++ f.fack ++ f.cred ++ BitVec.ofBool f.cset ++ BitVec.ofBool f.kep ++ BitVec.ofBool f.rpl ++ (0 : BitVec 5)

/-- Bytes 0–247 of a span frame: the header, the encrypted slots and the tag; the IV is the salt and the count of frames under the key (R195). -/
def SpanTxFrame.body (f : SpanTxFrame) : BitVec 1984 :=
  Config.gcm f.key.key (f.key.salt ++ BitVec.ofNat 64 f.count) f.header f.slots ++ f.header

/-- The IEEE 802.3 CRC-32 over bytes 0–247: initial value all ones, each byte from its low bit, the remainder inverted and reflected (PRESUMED, assumption log 97). -/
def SpanTxFrame.crc (f : SpanTxFrame) : BitVec 32 :=
  ~~~((List.range 1984).foldl (fun c i => crcBit 0x04C11DB7#32 c (f.body.getLsbD i)) (BitVec.allOnes 32)).reverse

/-- The 256 bytes of a span frame. -/
def SpanTxFrame.bits (f : SpanTxFrame) : BitVec 2048 := (0 : BitVec 32) ++ f.crc ++ f.body

/-- The credit returns of a frame for a dateline set: the counts of `SSNP`, `SRSP`, `SDAT` and `SMGT`, high to low (R192). -/
def credField (freed : Tbl Nat) (cset : Bool) : BitVec 24 :=
  (List.range 4).foldl (fun c i =>
    c ||| (BitVec.ofNat 24 (min 63 (freed.getD (2 * (i + 1) + (if cset then 1 else 0)) 0)) <<< (18 - 6 * i))) 0

/-- What is left of the freed credits after a frame for a dateline set. -/
def credLeft (freed : Tbl Nat) (cset : Bool) : Tbl Nat :=
  (freed.map fun e => if decide (e.1 % 2 = 1) == cset then (e.1, e.2 - 63) else e).filter fun e => decide (0 < e.2)

/-- The next frame of a span port, with slots that fill it: it joins the last 64, and the count of frames under the key advances (R192, R193, R195). -/
def SpPort.sendOne (p : SpPort) (slots : List Word) : SpPort :=
  let t := p.wire
  let cset := match t.freed with
    | e :: _ => decide (e.1 % 2 = 1)
    | [] => false
  let bits := (List.range 28).foldl (fun (s : BitVec 1792) i => s ||| ((List.nth slots i 0).setWidth 1792 <<< (64 * i))) 0
  let fr : SpanTxFrame :=
    ⟨t.seq, p.frame.rx - 1, credField t.freed cset, cset, p.kep, t.ask, p.tx.getD (if p.kep then 1 else 0) ⟨0, 0⟩, p.sent, bits⟩
  { p with
    sent := p.sent + 1
    wire := { t with
      seq := t.seq + 1
      ask := false
      freed := credLeft t.freed cset
      kept := (t.kept ++ [fr]).drop (t.kept.length - 63) } }

/-- The first waiting message of a class is begun: its slots follow those that are begun already. -/
def SpPort.takeMsg (p : SpPort) (svc : Nat) : SpPort :=
  match p.wire.msgs.find? fun m => m.svc.toNat == svc with
  | none => p
  | some m => { p with wire := { p.wire with
      msgs := List.dropFirst (fun x => x.svc.toNat == svc) p.wire.msgs
      rest := p.wire.rest ++ m.slots } }

/-- A class begins messages while it has slots left and the frame has room; at most `fuel` of them. -/
def SpPort.takeSlots : Nat → Nat → Nat → SpPort → SpPort
  | 0, _, _, p => p
  | fuel + 1, n, svc, p =>
    match p.wire.msgs.find? fun m => m.svc.toNat == svc with
    | none => p
    | some m => if n = 0 || 28 ≤ p.wire.rest.length then p else SpPort.takeSlots fuel (n - m.slots.length) svc (p.takeMsg svc)

/-- Fills the next frame (R203, R322): a message of each credited class that has one waiting, the control classes first, then what the arbiter grants the
classes beyond, and requests in what is left. -/
def SpPort.fill (p : SpPort) (grants : List Nat) : SpPort :=
  let p := [1, 2, 4, 3].foldl SpPort.takeMsg p
  let p := [1, 2, 3, 4].foldl (fun (p : SpPort) i => SpPort.takeSlots 28 (List.nth grants (i - 1) 0) i p) p
  SpPort.takeSlots 28 28 0 p

/-- The frame that a span port starts in a round, where it has slots to send, a replay to ask for or credits to return: at full rate one a round, at half
rate one in two (DESIGN CHOICE, assumption log 62). -/
def SpPort.sendRound (p : SpPort) (grants : List Nat) (round : Nat) : SpPort :=
  if p.half && round % 2 = 1 then p
  else
    let q := p.fill grants
    if q.wire.rest.isEmpty && !q.wire.ask && q.wire.freed.isEmpty then q
    else { q with wire := { q.wire with rest := q.wire.rest.drop 28 } }.sendOne (q.wire.rest.take 28)

/-- What each credited class asks of the arbiter of a span port: the slots of its waiting messages beyond the 3 that R203 guarantees. -/
def SpPort.asks (p : SpPort) : List Nat :=
  [1, 2, 3, 4].map fun i => ((p.wire.msgs.filter fun m => m.svc.toNat == i).flatMap SpanOut.slots).length - 3

/-- The slots of the next frame that the arbiter of a span port shares: those beyond the slots begun and the guaranteed ones. -/
def SpPort.roomLeft (p : SpPort) : Nat :=
  28 - p.wire.rest.length - 3 * ([1, 2, 3, 4].filter fun i => p.wire.msgs.any fun m => m.svc.toNat == i).length

/-- The frames that a span port resends from `FACK` + 1 (R193). -/
def SpPort.resends (p : SpPort) (fack : BitVec 16) : List SpanTxFrame :=
  p.wire.kept.filter fun x => decide ((x.fseq - (fack + 1)).toNat < (p.wire.seq - (fack + 1)).toNat)

/-- A credit of a span class and dateline set is freed. -/
def SpPort.free (p : SpPort) (key : Nat) : SpPort := { p with wire := { p.wire with freed := p.wire.freed.upd key 0 fun n => n + 1 } }

end Sys2Proof.Machine
end

