-- ==== Sys2Proof/Machine/Events.lean ====
section
/-!
DEFINITION. Event sources and their severities (R448, R494), the raise of an event (R450), its delivery in-band and on the
management path (R451, R452), its capture for the log (R454), and the counting of happenings (R455).
-/
namespace Sys2Proof.Machine

/-! ### Sources (R448): the number is 32 × group + bit -/

/-- A source's number. -/
def src (g b : Nat) : BitVec 10 := BitVec.ofNat 10 (32 * g + b)
/-- Hub RAS. -/
def evHubFatal := src 0 0
def evHubLockstep := src 0 1
def evHubWatchdog := src 0 2
def evHubDataUe := src 0 3
def evHubCeStorm := src 0 4
def evHubScrubLate := src 0 5
def evHubCfgRefresh := src 0 6
def evHubLedgerUe := src 0 7
def evHubAtomPoison := src 0 8
/-- Hub access. -/
def evRegRsvd := src 1 0
def evAccessDenied := src 1 1
def evRsvExhausted := src 1 2
def evDevTimeout := src 1 3
def evLogLost := src 1 4
/-- Snoop filter. -/
def evSfDeg := src 2 0
def evSfMalformed := src 2 1
def evSfSweepDone := src 2 2
def evSfLineLost := src 2 3
def evSfReclaimDone := src 2 4
def evSfStrayWb := src 2 5
def evSfDupData := src 2 6
def evSfNruParity := src 2 7
def evSfRunaheadFull := src 2 8
/-- Span directory. -/
def evSdDeg := src 3 0
/-- Hub cache. -/
def evHcUe := src 4 0
def evHcLockLost := src 4 1
def evHcWayDisabled := src 4 2
def evHcFillDrop := src 4 3
def evHcAgeParity := src 4 4
/-- Agent ports. -/
def evApAgentDead := src 5 0
def evApLinkDown := src 5 1
def evApSnoopLate := src 5 2
def evApCreditStall := src 5 3
def evApDeadMsg := src 5 4
def evApMalformed := src 5 5
def evApStrayRsp := src 5 6
def evApStrayAck := src 5 7
def evApRegionMismatch := src 5 8
def evApUnmapped := src 5 9
def evApReplay := src 5 10
/-- Memory ports. -/
def evMpChannelDown := src 6 0
def evMpWriteDropped := src 6 1
def evMpReadLost := src 6 2
def evMpReadLate := src 6 3
def evMpFailoverLate := src 6 4
def evMpPauseBreach := src 6 5
/-- Span. -/
def evSpanHubLost := src 7 0
def evSpanLineLost := src 7 1
def evSpanLinkDown := src 7 2
def evSpanHops := src 7 3
def evSpanReplay := src 7 4
def evSpanMalformed := src 7 5
/-- Mesh. -/
def evMeshBudget := src 8 0
def evMeshLockExpired := src 8 1
def evMeshLockRefused := src 8 2
def evMeshUnusedPort := src 8 3
/-- Test. -/
def evTestAccess := src 9 0
def evTestNoNewt := src 9 1
def evTestFail := src 9 2
def evTestIncomplete := src 9 3
def evTestRepaired := src 9 4
def evTestPass := src 9 5
def evTestPassLate := src 9 6
def evTestFuseDue := src 9 7
def evTestFuseBurned := src 9 8
def evTestLedgerFull := src 9 9
/-- Mailboxes. -/
def evMbResponse (n : Nat) := src 10 n
def evMbRingError := src 10 8
def evMbDenied := src 10 9
/-- Power. -/
def evPwrRailFault := src 11 0
def evPwrHot := src 11 1
def evPwrDieBreach := src 11 2
def evPwrSleepRefused := src 11 3
/-- Overflow of counter `c` (groups 12–23). -/
def evPmcOvf (c : Nat) : BitVec 10 := BitVec.ofNat 10 (32 * 12 + c)

/-- Severities, by their code in the log (R453). -/
inductive Sev where
  | ce | contained | degraded | bound | fatal | note
  deriving DecidableEq, Repr

/-- The code of a severity (R453). -/
def Sev.code : Sev → BitVec 3
  | .ce => 0 | .contained => 1 | .degraded => 2 | .bound => 3 | .fatal => 4 | .note => 5

/-- The one severity of a source (R494). -/
def severity (s : BitVec 10) : Sev :=
  let n := s.toNat
  if [6, 71, 132, 170, 228, 292].contains n then .ce
  else if [1, 2, 4, 130, 160, 161, 192, 224, 226, 289, 290, 352, 353].contains n then .degraded
  else if [5, 36, 256, 257, 294].contains n then .bound
  else if [0, 288].contains n then .fatal
  else if [66, 68, 72, 131, 291, 293, 295, 296, 355].contains n || within n 320 327 || within n 384 767 then .note
  else .contained

/-- Severities that are always delivered to the Steward (R344, R452). -/
def Sev.steward : Sev → Bool
  | .degraded | .bound | .fatal => true
  | _ => false

/-- `INST` of a raise that names none (R453). -/
def noInst : Byte := 0xFF

/-- Endpoints that raise events for the whole hub (R308). -/
def epCore : Nat := 65
def epSpan (sp : Nat) : Nat := if sp ≤ 2 then 66 else 67
def epDev : Nat := 68
def epPower : Nat := 69
def epTest : Nat := 70
def epSpill : Nat := 71
def epAp (p : Nat) : Nat := 72 + p
def epMp (m : Nat) : Nat := 88 + m

/-- A raise that names its source and instance. -/
def rz (s : BitVec 10) (inst : Nat) : Raise :=
  { src := s, inst := BitVec.ofNat 8 inst, addr := 0, gaid := none, txid := none, sw := none, synd := 0, value := 0, extra := 0,
    round := 0 }
/-- A raise that names a line. -/
def rzLine (s : BitVec 10) (inst : Nat) (l : Line) : Raise := { rz s inst with addr := l.pa }
/-- A raise that names an agent's transaction on a line. -/
def rzTx (s : BitVec 10) (inst : Nat) (l : Line) (g : Gaid) (t : Txid) : Raise :=
  { rz s inst with addr := l.pa, gaid := some g, txid := some t }

/-! ### Outputs and free values -/

/-- Hands a message to a port, a bus or a peer. -/
def Hub.emit (h : Hub) (m : OutMsg) : Hub := { h with out := h.out ++ [m] }

/-- Counts a happening of an event code at a unit (R455): it reaches its counters at the next round tick (R456). -/
def Hub.count (h : Hub) (ev unit n : Nat) : Hub :=
  if n = 0 then h else { h with pmc := { h.pmc with pend := h.pmc.pend ++ [(ev, unit, n)] } }

/-- The next free number, and the hub with its counter advanced. -/
def Hub.takeFree (h : Hub) : Nat × Hub := (Config.free h.freeCtr, { h with freeCtr := h.freeCtr + 1 })

/-- Counts a message injected at a source endpoint and ejected at a destination: its bytes (R459, kind 2: control bytes at indices 0
and 1, data bytes at 2 and 3), and its latency in the source's histogram of its plane (R321, kinds 0 and 1). It takes a cycle for every link
of its path; how long it waits at routers no rule fixes, and that is a free value (assumption log 3). -/
def Hub.moved (h : Hub) (src dst : Nat) (data : Bool) (n : Nat) : Hub :=
  let add (b : Tbl (List Nat)) (ep i : Nat) : Tbl (List Nat) := b.upd ep [0, 0, 0, 0] fun l => addNth l i n
  let i := if data then 2 else 0
  let k := h.takeFree
  let lat (b : Tbl (List Nat)) : Tbl (List Nat) := b.upd src [] fun l => addBucket l (latBucket (meshCycles src dst + k.1))
  { k.2 with pmc := { h.pmc with
      bytes := add (add h.pmc.bytes src i) dst (i + 1)
      latCtl := if data then h.pmc.latCtl else lat h.pmc.latCtl
      latDat := if data then lat h.pmc.latDat else h.pmc.latDat } }

/-- Counts the bytes of a further branch of a multicast, which only leave the mesh (R321). -/
def Hub.ejected (h : Hub) (dst : Nat) (data : Bool) (n : Nat) : Hub :=
  { h with pmc := { h.pmc with bytes := h.pmc.bytes.upd dst [0, 0, 0, 0] fun l => addNth l (if data then 3 else 1) n } }

/-! ### The device-region unit's sending -/

/-- A message to an agent with nothing but its opcode, transaction and line. -/
def agentMsg (opc : BitVec 6) (g : Gaid) (t : Txid) (l : Line) (dst : La) : AgentMsg :=
  { opc := opc, gaid := g, txid := t, line := l, ticket := 0, grant := 0, outcome := 0, dst := dst, once := false, crit := false,
    data := none, be := 0 }

/-- The number under which a port domain is kept (R31). -/
def domKey : Domain → Nat
  | .ap n => n.toNat
  | .mp n => 16 + n.toNat
  | .sp n => 24 + n.toNat

/-- A wake request for a domain (R319, R414). -/
def Hub.askWake (h : Hub) (d : Domain) : Hub :=
  { h with power := { h.power with wakeBufs := h.power.wakeBufs.upd (domKey d) ⟨[], false⟩ fun w => { w with asked := true } } }

/-- The agents of a port that serves again are parked no longer (R412). -/
def Hub.unpark (h : Hub) (d : Domain) : Hub :=
  match d with
  | .ap p => { h with
      aps := h.aps.change p.toNat fun a => { a with parked := false }
      agents := List.map (fun e => (e.1, if e.2.port = p then { e.2 with parked := false } else e.2)) h.agents }
  | _ => h

/-- Aborts a power-down before its point of no return (R320): the domain is awake, and the slices are told so of a memory port. -/
def Hub.abortDown (h : Hub) (d : Domain) : Hub :=
  let h := { h with power := { h.power with doms := h.power.doms.drop (domKey d) } }
  match d with
  | .mp n => { h with notices := h.notices ++ [.wake n h.round] }
  | _ => h.unpark d

/-- A packet for a port domain (R319, R320): delivered at once where the domain serves; before the point of no return it aborts a
power-down; else it waits and the wake is asked for. -/
def Hub.domReady (h : Hub) (d : Domain) : Hub × Bool :=
  match h.power.doms.look (domKey d) with
  | none | some .awake => (h, true)
  | some (.closing _) => (h.abortDown d, true)
  | _ => (h.askWake d, false)

/-- The same for an agent port. -/
def Hub.apReady (h : Hub) (p : BitVec 4) : Hub × Bool := h.domReady (.ap p)

/-- Changes an agent port. -/
def Hub.onAp (h : Hub) (p : BitVec 4) (f : ApPort → ApPort) : Hub := { h with aps := h.aps.upd p.toNat ApPort.init f }

/-- A port holds the credits that a message takes: one of its class, and one of `DAT` for its data (R248). -/
def ApPort.hasCredit (a : ApPort) (m : AgentMsg) : Bool :=
  (!m.takesDat || decide (1 ≤ a.datCred)) && match m.cls with
    | .req => decide (1 ≤ a.reqCred)
    | .snp => decide (1 ≤ a.snpCred)
    | .rsp => decide (1 ≤ a.rspCred)
    | .wb | .dat => true

/-- A message that waits holds up another to the port: one of its class or for the same credit of `DAT`, a completion that goes behind its data, and
a snoop of a line whose completion its agent has not yet been sent (R125). -/
def AgentMsg.holdsUp (k m : AgentMsg) : Bool :=
  k.cls == m.cls || (k.takesDat && m.takesDat)
    || (k.cls == .dat && m.cls == .rsp && k.dst == m.dst && k.gaid == m.gaid && k.txid == m.txid && k.line == m.line)
    || (m.cls == .snp && k.opc == opCmp && k.dst == m.dst && k.line == m.line)

/-- A message may be placed in a frame slot of a port now. -/
def ApPort.mayPass (a : ApPort) (m : AgentMsg) : Bool := a.hasCredit m && !(a.stalled.any fun x => x.2.holdsUp m)

/-- The credits that a message takes are used. -/
def ApPort.spend (a : ApPort) (m : AgentMsg) : ApPort :=
  let c := m.cls
  { a with
    reqCred := if c = .req then a.reqCred - 1 else a.reqCred
    snpCred := if c = .snp then a.snpCred - 1 else a.snpCred
    rspCred := if c = .rsp then a.rspCred - 1 else a.rspCred
    datCred := if m.takesDat then a.datCred - 1 else a.datCred }

/-- Places a message in a frame slot of a port (R249), from an endpoint. A snoop's way through the mesh has been counted with its multicast. -/
def Hub.passMsg (h : Hub) (p : BitVec 4) (from_ : Nat) (m : AgentMsg) : Hub :=
  let h := (h.onAp p fun a => { a.spend m with frame := a.frame.queue m.units }).emit (.agent p m)
  if m.cls == .snp then h else h.moved from_ (epAp p.toNat) m.takesDat (if m.takesDat then 64 else 16)

/-- Passes a message to a port, or makes it wait for its credits; answers whether it is the first of the classes `RSP` and `DAT` to wait (R249). -/
def Hub.passOrStall (h : Hub) (p : BitVec 4) (from_ : Nat) (m : AgentMsg) : Hub × Bool :=
  let late (k : AgentMsg) : Bool := k.cls == .rsp || k.takesDat
  if (h.ap p).mayPass m then (h.passMsg p from_ m, false)
  else (h.onAp p fun a => { a with stalled := a.stalled ++ [(from_, m)] }, late m && !((h.ap p).stalled.any fun x => late x.2))

/-- A device request as its target receives it, a `REQ` message (R253). -/
def DevReq.reqMsg (r : DevReq) : AgentMsg :=
  { agentMsg (if r.write then opDevWr else opDevRd) r.gaid r.dtx r.line r.target with
    data := if r.write then some (r.bytes, false, r.pois != 0) else none
    be := r.be }

/-- Sends a device request to its target. A stall of its data is reported at the next round (R249). -/
def Hub.sendDev (h : Hub) (r : DevReq) : Hub :=
  let p := (h.agent r.target).port
  let k := h.passOrStall p epDev r.reqMsg
  if k.2 then k.1.onAp p fun a => { a with stallDue := true } else k.1

/-- Sends what may be sent of the device requests that wait (R184): each agent's requests to one region in order, a write once it
is in the posted-write buffer. -/
def Hub.devPumpList : List DevReq → List (Gaid × Nat) → Hub → Hub
  | [], _, h => h
  | r :: t, blocked, h =>
    if r.sent.isSome then Hub.devPumpList t blocked h
    else if blocked.contains (r.gaid, r.region) || (r.write && !r.posted) then
      Hub.devPumpList t ((r.gaid, r.region) :: blocked) h
    else
      let k := h.apReady (h.agent r.target).port
      if k.2 then
        let due := some (h.round + h.p 0xD0)
        let h := { k.1 with dev := { k.1.dev with
          reqs := List.mapIf (fun x => x.dtx == r.dtx) (fun x => { x with sent := due }) k.1.dev.reqs } }
        Hub.devPumpList t blocked (h.sendDev r)
      else Hub.devPumpList t ((r.gaid, r.region) :: blocked) k.1

/-- The same over the unit's queue. -/
def Hub.devPump (h : Hub) : Hub := Hub.devPumpList h.dev.reqs [] h

/-- A request joins the unit's queue with a `TXID` of its own (R253). -/
def Hub.devAdd (h : Hub) (r : DevReq) : Hub :=
  ({ h with dev := { h.dev with
    reqs := h.dev.reqs ++ [{ r with dtx := h.dev.nextTx }]
    nextTx := h.dev.nextTx + 1 } }).devPump

/-- In-band delivery of a group (R451): an 8-byte `DEV_WR` of `EVT_IRQ_DATA` with the group number to `EVT_IRQ_ADDR`. A dead
target completes it with `O_LOST`, which suspends delivery (R462). -/
def Hub.sendIrq (h : Hub) (g : Nat) : Hub :=
  let addr : Pa := (h.pw 0xB80).setWidth 52
  if addr = 0 || h.dev.irqSuspended then h
  else match h.drtOf addr.line with
    | none => h
    | some n =>
      let target := h.drtTarget n
      if h.isOnline target then
        let k := (addr.extractLsb' 3 3).toNat
        h.devAdd {
          dtx := 0, gaid := Gaid.mk h.num 0, txid := 0, line := addr.line, region := n, target := target, write := true,
          bytes := ((h.pw 0xB81 ||| BitVec.ofNat 64 g).setWidth 512) <<< (64 * k), be := wordMask k, pois := 0, early := false,
          acked := false, irq := true, span := none, posted := true, sent := none, rsp := none, got := none }
      else { h with dev := { h.dev with irqSuspended := true } }

/-! ### Raising -/

/-- An in-band mailbox is enabled at Steward level (R452). -/
def Hub.stewardInBand (h : Hub) : Bool := h.prot.mbx.any fun e => e.2.enable && !e.2.path && e.2.level == 3

/-- `STATUS` of a group. -/
def Hub.evStatus (h : Hub) (g : Nat) : BitVec 32 := h.events.status.getD g 0
/-- `ENABLE` of a group. -/
def Hub.evMask (h : Hub) (g : Nat) : BitVec 32 := h.events.mask.getD g 0

/-- A raise that R454 lets into the log: `CE` and `NOTE` only for groups set in `EVT_LOG_CE`. -/
def Hub.logs (h : Hub) (r : Raise) : Bool :=
  match severity r.src with
  | .ce | .note => (h.pw 0xB83).getLsbD (r.src.toNat / 32)
  | _ => true

/-- The capture of a raise: the queue of 256 takes it, or it is counted as lost (R454). -/
def Events.capture (e : Events) (r : Raise) : Events :=
  if e.queue.length < 256 then { e with queue := e.queue ++ [r] } else { e with lost := e.lost + 1 }

/-- Sets the status bit of a source (R450). -/
def Events.mark (e : Events) (s : BitVec 10) : Events :=
  { e with status := e.status.upd (s.toNat / 32) 0 fun w => w ||| (1#32 <<< (s.toNat % 32)) }

/-- The fatal record takes the first 16 events that follow (R346). -/
def Aon.follow (a : Aon) (fatal : Bool) (s : BitVec 10) : Aon :=
  if fatal && a.fatal.valid && a.fatal.after.length < 16 then
    { a with fatal := { a.fatal with after := a.fatal.after ++ [s] } }
  else a

/-- Delivery of a group whose status stood at `old` before a raise of severity `sv` (R451, R452). -/
def Hub.deliver (h : Hub) (g : Nat) (old : BitVec 32) (sv : Sev) : Hub :=
  let now := h.evStatus g
  let m := h.evMask g
  let inBand := (old &&& m == 0 && now &&& m != 0) || (sv.steward && h.stewardInBand)
  let mgmt := (old == 0 && now != 0 && (h.pw 0xB82).getLsbD g) || sv.steward || h.dev.irqSuspended
  let h := if inBand then h.sendIrq g else h
  if mgmt then h.emit (.ibi (BitVec.ofNat 8 g)) else h

/-- A raise (R450): its status bit, its capture, its place after a fatal record, its delivery. -/
def Hub.raise (h : Hub) (r0 : Raise) : Hub :=
  let r := { r0 with round := h.round }
  let g := r.src.toNat / 32
  let old := h.evStatus g
  let ev := h.events.mark r.src
  let h := { h with events := if h.logs r then ev.capture r else ev, aon := h.aon.follow h.start.fatal r.src }
  h.deliver g old (severity r.src)

/-- Delivery after a write that leaves bits set (R451, R452): in-band while `STATUS` & `ENABLE` is non-zero, and, for a write
to the status, on the management path while `STATUS` is non-zero. -/
def Hub.redeliver (h : Hub) (g : Nat) (statusWrite : Bool) : Hub :=
  let now := h.evStatus g
  let h := if now &&& h.evMask g != 0 then h.sendIrq g else h
  if statusWrite && now != 0 && (h.pw 0xB82).getLsbD g then h.emit (.ibi (BitVec.ofNat 8 g)) else h

end Sys2Proof.Machine
end

