-- ==== Sys2Proof/WellFormed.lean ====
section
/-!
DEFINITION. Commands that name only units the hub has: the span ports SP0–SP5 (R22), the physical slices HS0–HS64 (R17) and
the mesh stops of the endpoints 0–95 (R308). A frame of R237 arrives
on an agent or a memory port. Every other operand form is closed by its type.
-/
namespace Sys2Proof

/-- SP0–SP5. -/
def spExists (n : BitVec 3) : Bool := decide (n.toNat ≤ 5)
/-- HS0–HS64. -/
def hsExists (n : BitVec 7) : Bool := decide (n.toNat ≤ 64)
/-- Endpoints 0–95. -/
def stopExists (n : BitVec 7) : Bool := decide (n.toNat ≤ 95)

/-- A port that exists. -/
def PortId.wf : PortId → Bool
  | .ap _ => true
  | .mp _ => true
  | .sp n => spExists n

/-- A port whose frames are those of R237: an agent or a memory port. -/
def PortId.parallel : PortId → Bool
  | .ap _ => true
  | .mp _ => true
  | .sp _ => false

/-- A domain that exists. -/
def Domain.wf : Domain → Bool
  | .ap _ => true
  | .mp _ => true
  | .sp n => spExists n

/-- An arbiter that exists. -/
def ArbiterId.wf : ArbiterId → Bool
  | .egress hs => hsExists hs
  | .memPort _ => true
  | .spanPort n => spExists n

/-- A place that a scrubber reads. -/
def ScrubTarget.wf : ScrubTarget → Bool
  | .sf hs _ _ _ | .sd hs _ _ _ | .hcTag hs _ _ | .hcData hs _ _ | .control hs | .wbufByte hs _ _ | .passEnd hs => hsExists hs
  | .spillByte _ _ | .stagedByte _ _ _ _ | .postedByte _ _ | .uluhivaSram | .ledger _ => true
  | .configWord stop _ _ | .stopState stop => stopExists stop

/-- A well-formed command. -/
def Instr.wf : Instr → Bool
  | .reclaimWalkVisit hs _ _ | .fuseBurn hs _ _ => hsExists hs
  | .scrubRead t _ => t.wf
  | .scrubPassLate stop | .roundCompare stop _ => stopExists stop
  | .meshBudgetOverrun src dst _ => stopExists src && stopExists dst
  | .apFrame p _ => p.parallel
  | .linkTraining p _ | .startStepLimit p => p.wf
  | .pointOfNoReturn d | .powerDownComplete d | .domainServe d => d.wf
  | .wakeRequest d k => d.wf && stopExists k.src
  | .lockExpired a => a.wf
  | .spanFrame sp _ | .spanLinkDown sp | .spanKeying sp _ | .spanRekeyCount sp | .rekeyDeadline sp | .hopTicket sp _ _ _
  | .hopTicketResend sp _ _ => spExists sp
  | _ => true

end Sys2Proof
end

