-- ==== Sys2Proof/Machine/Ops.lean ====
section
/-!
DEFINITION. The named operations over the hub's parts that the meanings share: units that exist, slices and their arrays,
ports, messages to agents and hubs, requester records and the byte memory of the mailbox rings.
-/
namespace Sys2Proof.Machine

/-! ### Units that exist (R17, R22) -/

/-- A command on a unit that the hub has; the only fault of the model (R22: "no others"). -/
def onUnit (ok : Bool) (s : State) : Host.Outcome State Fault Refusal := if ok then .next s else .fault .noSuchUnit

/-- The state with another hub. -/
def State.withHub (s : State) (f : Hub → Hub) : State := { s with hub := f s.hub }

/-! ### The mailbox rings (R380): a byte memory over the offsets 0x4000–0xFFFF, zero where nothing is listed -/

/-- The byte at a key of a canonical cell list. -/
def Memory.read : Memory → Nat → Byte
  | [], _ => 0
  | (k, b) :: t, a => if k = a then b else Memory.read t a

/-- Writes a byte, keeping the keys rising and no zero byte listed. -/
def Memory.write : Memory → Nat → Byte → Memory
  | [], a, b => if b = 0 then [] else [(a, b)]
  | (k, v) :: t, a, b =>
    if a < k then (if b = 0 then (k, v) :: t else (a, b) :: (k, v) :: t)
    else if a = k then (if b = 0 then t else (a, b) :: t)
    else (k, v) :: Memory.write t a b

/-- Keys rising strictly above a bound, no zero byte. -/
def Memory.wfAbove : Nat → Memory → Bool
  | _, [] => true
  | lo, (k, b) :: t => decide (lo ≤ k) && b != 0 && Memory.wfAbove (k + 1) t

/-- The canonical form of the ring memory. -/
def Memory.wf (m : Memory) : Bool := Memory.wfAbove 0 m

/-- The 64-bit word at an offset, little-endian. -/
def Memory.word (m : Memory) (a : Nat) : Word :=
  m.read (a + 7) ++ m.read (a + 6) ++ m.read (a + 5) ++ m.read (a + 4) ++ m.read (a + 3) ++ m.read (a + 2) ++ m.read (a + 1)
    ++ m.read a

/-- Writes a list of bytes from an offset upward. -/
def Memory.writeBytes (m : Memory) : Nat → List Byte → Memory
  | _, [] => m
  | a, b :: t => Memory.writeBytes (m.write a b) (a + 1) t

/-- The bytes of a word, lowest first. -/
def wordBytes (w : Word) : List Byte := (upTo 8).map fun i => w.extractLsb' (8 * i) 8

/-- Writes a 64-bit word, little-endian. -/
def Memory.writeWord (m : Memory) (a : Nat) (w : Word) : Memory := m.writeBytes a (wordBytes w)

/-! ### Slices -/

/-- The physical slice that serves a logical number: the newt after the end of a drain (R361), else the slice map. -/
def Hub.hsOf (h : Hub) (ls : BitVec 6) : Nat :=
  match h.rot.newt with
  | some n => if h.rot.ended && h.rot.ls = ls then n.toNat else h.map.getD ls.toNat ls.toNat
  | none => h.map.getD ls.toNat ls.toNat

/-- A physical slice. -/
def Hub.slice (h : Hub) (hs : Nat) : Slice := h.slices.getD hs Slice.init
/-- Changes a physical slice. -/
def Hub.onSlice (h : Hub) (hs : Nat) (f : Slice → Slice) : Hub := { h with slices := h.slices.upd hs Slice.init f }
/-- The physical slice that serves a line. -/
def Hub.homeHs (h : Hub) (l : Line) : Nat := h.hsOf l.ls

/-- The logical number that a physical slice carries (R475). -/
def Hub.lsOf (h : Hub) (hs : Nat) : Option Nat :=
  ((upTo 64).find? fun ls => h.hsOf (BitVec.ofNat 6 ls) = hs)

/-- The newt slice that a write in copy group `grp` of the outgoing slice is mirrored to (R359). -/
def Hub.mirrorOf (h : Hub) (hs grp : Nat) : Option Nat :=
  if (h.rot.phase = 1 || h.rot.phase = 2) && h.rot.outHs.toNat = hs && !h.rot.ended && grp < h.rot.pointer then
    h.rot.newt.map fun n => n.toNat
  else none

/-- Applies a change to a slice and, where its group is mirrored, to the newt slice. -/
def Hub.onMirrored (h : Hub) (hs grp : Nat) (f : Slice → Slice) : Hub :=
  match h.mirrorOf hs grp with
  | some n => (h.onSlice hs f).onSlice n f
  | none => h.onSlice hs f

/-! ### Snoop-filter words -/

/-- The key of a snoop-filter way. -/
def sfKey (set : BitVec 14) (way : Nat) : Nat := set.toNat * 16 + way
/-- The entry word of a way. -/
def Slice.sfAt (s : Slice) (set : BitVec 14) (way : Nat) : Word := s.sf.getD (sfKey set way) 0
/-- Writes an entry word (mirrored during a migration). -/
def Hub.putSf (h : Hub) (hs : Nat) (set : BitVec 14) (way : Nat) (w : Word) : Hub :=
  h.onMirrored hs (set.toNat / 4) fun s => { s with sf := s.sf.set (sfKey set way) 0 w }
/-- The view of a way; a malformed word is none. -/
def Slice.viewAt (s : Slice) (set : BitVec 14) (way : Nat) : Option SView := SView.ofWord (s.sfAt set way)

/-! ### Span directory words and presence counters -/

/-- The key of a span directory way. -/
def sdKey (set : BitVec 12) (way : Nat) : Nat := set.toNat * 8 + way
/-- The entry word of a way. -/
def Slice.sdAt (s : Slice) (set : BitVec 12) (way : Nat) : Word := s.sd.getD (sdKey set way) 0

/-- Counts an allocation or a release of a line in the presence counters and, behind the scrub, in their shadows (R216,
R340). A counter at 15 stays. -/
def Slice.countPresence (s : Slice) (l : Line) (set : BitVec 12) (up : Bool) : Slice :=
  let k := l.presence.toNat
  let bump (n : Nat) : Nat := if up then (if n < 15 then n + 1 else 15) else if n = 15 then 15 else n - 1
  let shadow := if set.toNat < s.scrub.sdPos then
      s.scrub.shadow.set k 0 (if up then s.scrub.shadow.getD k 0 + 1 else s.scrub.shadow.getD k 0 - 1)
    else s.scrub.shadow
  { s with presence := s.presence.set k 0 (bump (s.presence.getD k 0)), scrub := { s.scrub with shadow := shadow } }

/-- Writes a span directory word of a slice with its presence counts. -/
def Slice.putSd (s : Slice) (set : BitVec 12) (way : Nat) (w : Word) : Slice :=
  let old := s.sdAt set way
  let s := if old ≠ 0 && (w = 0 || sdWordTag old ≠ sdWordTag w) then
    s.countPresence (sdLine (sdWordTag old) set) set false else s
  let s := if w ≠ 0 && (old = 0 || sdWordTag old ≠ sdWordTag w) then
    s.countPresence (sdLine (sdWordTag w) set) set true else s
  { s with sd := s.sd.set (sdKey set way) 0 w }
/-- Writes a span directory word (mirrored during a migration). -/
def Hub.putSd (h : Hub) (hs : Nat) (set : BitVec 12) (way : Nat) (w : Word) : Hub :=
  h.onMirrored hs set.toNat fun s => s.putSd set way w

/-! ### Agent ports and messages to agents -/

/-- Changes an agent's record. -/
def Hub.onAgent (h : Hub) (a : La) (f : Agent → Agent) : Hub := { h with agents := h.agents.upd a.toNat Agent.init f }

/-- Passes a message to an agent's port module from an endpoint; a dead agent receives nothing (R143). A message for which the port has
no credit waits; of the classes `RSP` and `DAT` `EVT_AP_CREDIT_STALL` reports that (R249). -/
def Hub.toAgent (h : Hub) (from_ : Nat) (m : AgentMsg) : Hub :=
  let a := h.agent m.dst
  if !a.online || a.dead then h
  else
    let k := h.passOrStall a.port from_ m
    if k.2 then k.1.raise (rz evApCreditStall a.port.toNat) else k.1

/-- Passes the messages that waited for credits, in their order, as far as the credits reach (R249). -/
def Hub.unstallList (p : BitVec 4) : List (Nat × AgentMsg) → Hub → Hub
  | [], h => h
  | (e, m) :: t, h =>
    let a := h.agent m.dst
    if !a.online || a.dead then Hub.unstallList p t h else Hub.unstallList p t (h.passOrStall p e m).1

/-- The credits that a frame returns, and the messages that they let pass (R237, R249). -/
def Hub.giveCredits (h : Hub) (p : BitVec 4) (req snp rsp dat : Nat) : Hub :=
  let wait := (h.ap p).stalled
  Hub.unstallList p wait (h.onAp p fun a => { a with
    reqCred := a.reqCred + req
    snpCred := a.snpCred + snp
    rspCred := a.rspCred + rsp
    datCred := a.datCred + dat
    stalled := [] })

/-- A refusal record of a request. -/
def Refused.isOf (r : Refused) (t : Txid) (l : Line) : Bool := r.txid == t && r.line == l

/-- The first refusal of a request joins its GAID's unserved ones, oldest first, with the round of its answer (R53). -/
def Hub.noteRefusal (h : Hub) (g : Gaid) (t : Txid) (l : Line) : Hub :=
  let rs := h.records.getD g.toNat []
  if rs.any fun r => r.isOf t l then h else { h with records := h.records.set g.toNat [] (rs ++ [⟨t, l, h.round⟩]) }

/-- A request's refusals leave a table of a GAID's. -/
def dropRefusal (b : Tbl (List Refused)) (g : Gaid) (t : Txid) (l : Line) : Tbl (List Refused) :=
  b.set g.toNat [] ((b.getD g.toNat []).filter fun r => !r.isOf t l)

/-- A `CMP` for a refused request clears its refusal (R53). -/
def Hub.clearRefusal (h : Hub) (g : Gaid) (t : Txid) (l : Line) : Hub :=
  { h with records := dropRefusal h.records g t l, lapses := dropRefusal h.lapses g t l }

/-- A dead agent's requester record is cleared (R142). -/
def Hub.clearRecord (h : Hub) (g : Gaid) : Hub :=
  { h with records := h.records.drop g.toNat, lapses := h.lapses.drop g.toNat }

/-- The refusal age of a GAID in a round: 0 without an unserved refusal, else from the oldest one, saturating at 4,095 (R53). -/
def Hub.ageOf (h : Hub) (g : Gaid) (n : Nat) : Nat :=
  match h.records.getD g.toNat [] with
  | r :: _ => min (n - r.round) 4095
  | [] => 0

/-- A request is no longer outstanding at its edge router; its staged data is discarded. -/
def Hub.endOutst (h : Hub) (p : BitVec 4) (g : Gaid) (t : Txid) : Hub :=
  h.onAp p fun a => { a with
    outst := a.outst.filter fun o => !(o.gaid == g && o.txid == t && !o.wb)
    staged := a.staged.filter fun d => !(d.gaid == g && d.txid == t && !d.wb) }

/-- The final completion of a local agent's request (R108): its refusal is cleared and it is no longer outstanding. -/
def Hub.sendCmp (h : Hub) (from_ : Nat) (g : Gaid) (t : Txid) (l : Line) (grant : BitVec 3) (outcome : BitVec 2) : Hub :=
  let a := h.agent g.la
  let m := { agentMsg opCmp g t l g.la with grant := grant, outcome := outcome }
  (((h.toAgent from_ m).endOutst a.port g t).clearRefusal g t l)

/-- `O_DONE`, `O_NORSV`, `O_MALFORMED`, `O_LOST` (R167). -/
def oDone : BitVec 2 := 0
def oNoRsv : BitVec 2 := 1
def oMalformed : BitVec 2 := 2
def oLost : BitVec 2 := 3

/-- The grants (R241). -/
def gNone : BitVec 3 := 0
def gS : BitVec 3 := 1
def gF : BitVec 3 := 2
def gE : BitVec 3 := 3
def gM : BitVec 3 := 4

/-! ### Span ports -/

/-- A span port. -/
def Hub.sp (h : Hub) (n : BitVec 3) : SpPort := h.sps.getD n.toNat SpPort.init
/-- Changes a span port. -/
def Hub.onSp (h : Hub) (n : BitVec 3) (f : SpPort → SpPort) : Hub := { h with sps := h.sps.upd n.toNat SpPort.init f }

/-- The hubs that lines are homed at or held by, as this hub's routes name them. -/
def Hub.otherHubs (h : Hub) : List HubNo := ((upTo 512).map (BitVec.ofNat 9)).filter fun x => h.reachable x

/-- The largest read bound declared at the memory ports that this hub uses (R24, R70). -/
def Hub.ownBmax (h : Hub) : Nat := ((upTo 8).filter fun n => h.mpUsed n).foldl (fun m n => max m (h.bound n)) 0

/-- The rounds that a message takes from hub to hub: 15 for a hop, 21 over a half-rate link (R194, R229). The hops between two other hubs are
not in this hub's tables. -/
def Hub.pathRounds (h : Hub) (a b : HubNo) : Nat :=
  if a = b then 0
  else
    let hops := if a = h.num then h.routeDist b else if b = h.num then h.routeDist a else Config.hubDist a.toNat b.toNat
    let own := if a = h.num && (h.sp (h.routePort b)).half then 1 else 0
    15 * hops + 6 * (own + Config.halfHops a.toNat b.toNat)

/-- The Span Resolution Bound (R70, R229): over every home e and every other hub x; 0 while no other hub is reachable. -/
def Hub.spanResBound (h : Hub) : Nat :=
  let hubs := h.otherHubs
  let bmax := max h.ownBmax Config.otherBmax
  let q := h.num
  hubs.foldl (fun m e =>
    let mem := 15 + bmax + h.pathRounds q e + h.pathRounds e q
    hubs.foldl (fun m x => max m (25 + h.pathRounds q e + h.pathRounds e x + h.pathRounds x q)) (max m mem)) 0

/-- The service class of a span opcode (R206). -/
def svcOf (opc : BitVec 6) : BitVec 3 :=
  if opc.toNat < 0x10 then 0
  else if within opc.toNat 0x18 0x1B then 1
  else if opc = 0x10 || opc = 0x24 || opc = 0x30 then 3
  else 2

/-- The dateline set in which a message leaves through a port, given the set and the port it arrived in (R201). -/
def Hub.dsetOut (h : Hub) (out : BitVec 3) (came : Option (BitVec 3 × Bool)) : Bool :=
  let cfg (n : BitVec 3) : Word := h.pw (0x188 + n.toNat)
  if (cfg out).getLsbD 5 then true
  else match came with
    | none => false
    | some (i, d) => if (cfg out).extractLsb' 6 2 = (cfg i).extractLsb' 6 2 then d else false

/-- A message's class and dateline set, as the key of its credits (R192, R203). -/
def SpanOut.credKey (m : SpanOut) : Nat := 2 * m.svc.toNat + (if m.dset then 1 else 0)

/-- A message of the same request. -/
def SpanOut.isReq (m : SpanOut) (g : Gaid) (t : Txid) : Bool := m.flit.gaid == g && m.flit.txid == t

/-- A message may go onto the link: a request at once, another one with a credit of its class and set and none before it waiting (R203, R204). -/
def SpPort.mayGo (p : SpPort) (m : SpanOut) : Bool :=
  m.svc == 0 || (decide (0 < p.creds.getD m.credKey 0) && !(p.waits.any fun x => x.credKey == m.credKey))

/-- The port after a message, which its next frames carry; a request stays until its acceptance is known (DESIGN CHOICE, assumption log 89). -/
def SpPort.spend (p : SpPort) (m : SpanOut) : SpPort := { p with
  wire := { p.wire with msgs := p.wire.msgs ++ [m] }
  creds := if m.svc = 0 then p.creds else p.creds.upd m.credKey 0 fun n => n - 1
  queue := if m.svc = 0 then (p.queue.filter fun x => !x.isReq m.flit.gaid m.flit.txid) ++ [m] else p.queue }

/-- Puts a message onto its port, or keeps it there until a credit comes. -/
def Hub.sendSpan (h : Hub) (m : SpanOut) : Hub :=
  if (h.sp m.sp).mayGo m then
    let h := h.onSp m.sp fun p => p.spend m
    (if m.svc = 0 then h.count 0x050 (0x68 + m.sp.toNat) 1 else h).emit (.span m)
  else h.onSp m.sp fun p => { p with waits := p.waits ++ [m] }

/-- Sends a span message of this hub toward another hub: onto the port of its route, or nowhere while none leads there. -/
def Hub.toHubWith (h : Hub) (dest : HubNo) (opc : BitVec 6) (f : Flit) (d : Option Payload) (operand : Option (BitVec 256))
    (be : ByteMask) : Hub :=
  if h.reachable dest then
    let sp := h.routePort dest
    let m : SpanOut := {
      sp := sp, dest := dest, src := h.num, svc := svcOf opc, dset := h.dsetOut sp none, epoch := h.spanEpoch, hops := 0, opc := opc, flit := f,
      data := d, operand := operand, be := be, until_ := none }
    (h.sendSpan m).moved (epSpan sp.toNat) (epSpan sp.toNat) d.isSome (if d.isSome then 64 else 16)
  else h

/-- The same for a message without byte enables. -/
def Hub.toHub (h : Hub) (dest : HubNo) (opc : BitVec 6) (f : Flit) (d : Option Payload) (operand : Option (BitVec 256)) : Hub :=
  h.toHubWith dest opc f d operand 0

/-- This hub's part of a keying exchange, over `SMGT` (R196): its number, its interface version 1.2, an ephemeral key, its signature of them and
the certificate of its attestation key. -/
def Hub.offerKeys (h : Hub) (n : BitVec 3) : Hub :=
  let pub := Config.ephemeral h.freeCtr
  let words := (upTo 7).map fun i => pub.extractLsb' (64 * i) 64
  let sig := Config.sign (Config.sha384 ([h.num.setWidth 64, 1, 2] ++ words))
  ({ h with freeCtr := h.freeCtr + 1 }).emit (.keying n h.num 1 2 pub sig h.core.cert)

/-- A payload of a line. -/
def payload (bytes : LineBits) (dirty poison : Bool) : Payload := ⟨bytes, dirty, poison, true⟩

/-- A line as its reader gets it from the mesh: an uncorrectable word of it is delivered and the whole line is poisoned (R333). -/
def meshLine (d : MeshData) : Payload := { d.line with poison := d.line.poison || d.ue != 0 }

/-- Reports uncorrectable words of a line that the mesh delivers to an endpoint (R333). -/
def Hub.meshUe (h : Hub) (inst : Nat) (l : Line) (ue : BitVec 8) : Hub := if ue = 0 then h else h.raise (rzLine evHubDataUe inst l)

end Sys2Proof.Machine
end

