-- ==== Sys2Proof/Machine/Filter.lean ====
section
/-!
DEFINITION. The snoop filter and the span directory of a slice: views (R87), ways, reservations and claims (R89, R92), pins
and victims (R90, R91), the run-ahead queue (R93), degraded entries and their candidates (R97–R102, R225).
-/
namespace Sys2Proof.Machine

/-! ### What is open on a line -/

/-- The open transaction on a line. -/
def Slice.txnOn (s : Slice) (l : Line) : Option Txn := s.txns.find? fun t => t.req.line == l
/-- The back-invalidation in flight on a line. -/
def Slice.backOn (s : Slice) (l : Line) : Option BackInv := s.backs.find? fun b => b.line == l
/-- A line with an open transaction or a back-invalidation, which counts as one (R95). -/
def Slice.isOpen (s : Slice) (l : Line) : Bool := (s.txnOn l).isSome || (s.backOn l).isSome
/-- The tickets chained on a line, in the order of their rounds (R47). -/
def Slice.chain (s : Slice) (l : Line) : List Ticket := s.tickets.filter fun t => t.req.line == l

/-- The gecko hold that applies to a line: that with which its chain was built, else the one in force, `cur` (R73). -/
def Slice.lineG (s : Slice) (cur : Nat) (l : Line) : Nat :=
  match s.chain l with
  | t :: _ => t.g
  | [] => cur
/-- A line whose chain is not empty. -/
def Slice.chained (s : Slice) (l : Line) : Bool := s.tickets.any fun t => t.req.line == l
/-- A gecko hold runs on the line in round `n`, through the last of its rounds (R40). -/
def Slice.held (s : Slice) (l : Line) (n : Nat) : Bool := s.holds.any fun x => x.line == l && decide (n ≤ x.last)
/-- A pinned line (R90). -/
def Slice.pinned (s : Slice) (l : Line) (n : Nat) : Bool := s.isOpen l || s.chained l || s.held l n

/-- Changes the transaction of a tracker entry. -/
def Hub.onTxn (h : Hub) (hs : Nat) (tid : Byte) (f : Txn → Txn) : Hub :=
  h.onSlice hs fun s => { s with txns := List.mapIf (fun t => t.tid == tid) f s.txns }
/-- The transaction of a tracker entry. -/
def Hub.txn (h : Hub) (hs : Nat) (tid : Byte) : Option Txn := (h.slice hs).txns.find? fun t => t.tid == tid

/-! ### Views of the filter (R87) -/

/-- The tag distance index of a candidate (R100): 0, then one flipped bit, then pairs in lexical order, over `n` bits. -/
def candIndex (n t0 t : Nat) : Option Nat :=
  let d := (upTo n).filter fun i => (t0 ^^^ t).testBit i
  match d with
  | [] => some 0
  | [i] => some (1 + i)
  | [i, j] => some (1 + n + i * (n - 1) - i * (i - 1) / 2 + (j - i - 1))
  | _ => none

/-- The pair of bits that an index past the single flips names, counted row by row from `i`. -/
def candPair (n : Nat) : Nat → Nat → Nat → Nat × Nat
  | 0, i, k => (i, i + 1 + k)
  | fuel + 1, i, k => if k < n - 1 - i then (i, i + 1 + k) else candPair n fuel (i + 1) (k - (n - 1 - i))

/-- The tag of a candidate index (R100). -/
def candTag (n t0 idx : Nat) : Nat :=
  if idx = 0 then t0
  else if idx ≤ n then t0 ^^^ 2 ^ (idx - 1)
  else
    let p := candPair n n 0 (idx - 1 - n)
    t0 ^^^ 2 ^ p.1 ^^^ 2 ^ p.2

/-- The ways of a set whose word is a healthy entry of the line. -/
def Slice.healthyWays (s : Slice) (l : Line) : List Nat :=
  (upTo 16).filter fun w =>
    sfWordTag (s.sfAt l.sfSet w) == l.sfTag &&
      match s.viewAt l.sfSet w with
      | some .unc | some (.deg _) | none => false
      | some _ => true

/-- The way that holds the line's exact `DEG` (R97). -/
def Slice.exactWay (s : Slice) (l : Line) : Option Nat :=
  (upTo 16).find? fun w => sfWordTag (s.sfAt l.sfSet w) == l.sfTag && s.viewAt l.sfSet w == some (.deg true)

/-- The sweep of a way. -/
def Slice.sweepOf (s : Slice) (span : Bool) (set : BitVec 14) (way : Nat) : Option Sweep :=
  s.sweeps.find? fun x => x.span == span && x.set == set && x.way.toNat == way

/-- A `DEG` way makes the line a candidate (R98, R100). -/
def Slice.degCandidate (s : Slice) (l : Line) (way : Nat) : Bool :=
  let idx :=
    match s.viewAt l.sfSet way with
    | some (.deg true) => if sfWordTag (s.sfAt l.sfSet way) == l.sfTag then some 0 else none
    | some (.deg false) => candIndex 32 (sfWordTag (s.sfAt l.sfSet way)).toNat l.sfTag.toNat
    | _ => none
  match idx with
  | none => false
  | some i =>
    match s.sweepOf false l.sfSet way with
    | some x => decide (x.ptr ≤ i) || x.skip.contains i
    | none => true

/-- The line is a candidate of some `DEG` way of its set. -/
def Slice.isCandidate (s : Slice) (l : Line) : Bool := (upTo 16).any fun w => s.degCandidate l w

/-- The home view of a line (R87). -/
def Slice.homeView (s : Slice) (l : Line) : SView :=
  match s.healthyWays l with
  | [w] => (s.viewAt l.sfSet w).getD .unc
  | ws => if s.isCandidate l then .deg (s.exactWay l).isSome else if ws.isEmpty then .unc else .deg false

/-- Two or more healthy ways hold the line's tag, and no `DEG` way makes it a candidate (R87, step 3). -/
def Slice.splitView (s : Slice) (l : Line) : Bool := decide (2 ≤ (s.healthyWays l).length) && !s.isCandidate l

/-! ### Views of the span directory -/

/-- The ways whose word is a healthy span directory entry of the line. -/
def Slice.healthySd (s : Slice) (l : Line) : List Nat :=
  (upTo 8).filter fun w =>
    sdWordTag (s.sdAt l.sdSet w) == l.sdTag &&
      match HView.ofWord (s.sdAt l.sdSet w) with
      | some .none | some .deg | none => false
      | some _ => true

/-- A `HUB_DEG` way makes the line a candidate (R225). -/
def Slice.sdCandidate (s : Slice) (l : Line) : Bool :=
  (upTo 8).any fun w =>
    HView.ofWord (s.sdAt l.sdSet w) == some .deg &&
      match candIndex 34 (sdWordTag (s.sdAt l.sdSet w)).toNat l.sdTag.toNat with
      | none => false
      | some i =>
        match s.sweepOf true (l.sdSet.setWidth 14) w with
        | some x => decide (x.ptr ≤ i) || x.skip.contains i
        | none => true

/-- The view of the hubs that hold a home line, decided as R87 does. -/
def Slice.hubView (s : Slice) (l : Line) : HView :=
  match s.healthySd l with
  | [w] => (HView.ofWord (s.sdAt l.sdSet w)).getD .none
  | ws => if s.sdCandidate l then .deg else if ws.isEmpty then .none else .deg

/-! ### Ways: availability, reservation, pins (R89, R90) -/

/-- The way that a line holds: reserved for it, or its own entry, or its exact `DEG` way. -/
def Slice.wayOf (s : Slice) (l : Line) : Option Nat :=
  match s.rsvWays.find? fun x => x.1 == l with
  | some x => some x.2.toNat
  | none =>
    match s.healthyWays l with
    | w :: _ => some w
    | [] => s.exactWay l

/-- A way of a set that is reserved for a line. -/
def Slice.wayReserved (s : Slice) (set : BitVec 14) (way : Nat) : Bool :=
  s.rsvWays.any fun x => x.1.sfSet == set && x.2.toNat == way

/-- An available way: `UNC`, and no line holds it (R89). -/
def Slice.freeWay (s : Slice) (set : BitVec 14) : Option Nat :=
  (upTo 16).find? fun w => s.sfAt set w == 0 && !s.wayReserved set w

/-- Occupied and held ways of a set (R93). -/
def Slice.usedWays (s : Slice) (set : BitVec 14) : Nat :=
  ((upTo 16).filter fun w => s.sfAt set w != 0 || s.wayReserved set w).length

/-- The ways that may be victims (R90, R91). -/
def Slice.eligible (s : Slice) (set : BitVec 14) (n : Nat) : List Nat :=
  (upTo 16).filter fun w =>
    match s.viewAt set w with
    | some .unc | some (.deg _) | none => false
    | some _ => !s.pinned (sfLine (sfWordTag (s.sfAt set w)) set) n

/-- Sets a way's not-recently-used bit; when that would leave every eligible way's bit set, the other eligible ways' bits
are cleared (R91). -/
def Slice.touchNru (s : Slice) (set : BitVec 14) (way n : Nat) : Slice :=
  let v := s.nru.getD set.toNat 0 ||| (1#16 <<< way)
  let el := s.eligible set n
  let v := if el.all fun w => v.getLsbD w then
      el.foldl (fun (acc : BitVec 16) w => if w = way then acc else acc &&& ~~~(1#16 <<< w)) v
    else v
  { s with nru := s.nru.set set.toNat 0 v }

/-- Marks the way that a lookup of the service port or of the writeback path matched (R68, R91). -/
def Slice.touchLine (s : Slice) (l : Line) (n : Nat) : Slice :=
  match s.healthyWays l with
  | [w] => s.touchNru l.sfSet w n
  | _ => s

/-- The victim of a set (R91): the lowest eligible way whose bit is clear; where none is clear, every eligible bit is cleared
first. -/
def Slice.victim (s : Slice) (set : BitVec 14) (n : Nat) : Option Nat × Slice :=
  let el := s.eligible set n
  let v := s.nru.getD set.toNat 0
  match el.find? fun w => !v.getLsbD w with
  | some w => (some w, s)
  | none =>
    (el.head?, { s with nru := s.nru.set set.toNat 0 (el.foldl (fun (acc : BitVec 16) w => acc &&& ~~~(1#16 <<< w)) v) })

/-- Reserves a way for a line. -/
def Slice.reserveWay (s : Slice) (l : Line) (w : Nat) : Slice :=
  { s with rsvWays := (s.rsvWays.filter fun x => x.1 != l) ++ [(l, BitVec.ofNat 4 w)] }
/-- Ends a line's reservation of a way. -/
def Slice.dropWay (s : Slice) (l : Line) : Slice := { s with rsvWays := s.rsvWays.filter fun x => x.1 != l }

/-- The span directory way that a line holds. -/
def Slice.hwayOf (s : Slice) (l : Line) : Option Nat :=
  match s.rsvHWays.find? fun x => x.1 == l with
  | some x => some x.2.toNat
  | none => (s.healthySd l).head?

/-- A span directory way of a set that is reserved for a line. -/
def Slice.hwayReserved (s : Slice) (set : BitVec 12) (way : Nat) : Bool :=
  s.rsvHWays.any fun x => x.1.sdSet == set && x.2.toNat == way

/-- An available span directory way. -/
def Slice.freeHWay (s : Slice) (set : BitVec 12) : Option Nat :=
  (upTo 8).find? fun w => s.sdAt set w == 0 && !s.hwayReserved set w

/-- A span request whose line holds no way of its span directory set yet (R214). -/
def Slice.lacksHWay (s : Slice) (r : Req) : Bool := r.span && (s.hwayOf r.line).isNone

/-- A line holds a claim on a way of its set that is yet to come free (R89, R92). -/
def Slice.claims (s : Slice) (l : Line) : Bool :=
  (s.tickets.any fun t => t.claim && t.req.line == l) || s.txns.any fun t => t.phase == .waitWay && t.way.isNone && t.req.line == l

/-- The lines with a claim on a way of a set, but for one. -/
def Slice.claimLines (s : Slice) (set : BitVec 14) (but : Line) : List Line :=
  let ts := (s.txns.filter fun t => t.phase == .waitWay && t.way.isNone).map fun t => t.req.line
  let ks := (s.tickets.filter fun t => t.claim).map fun t => t.req.line
  ((ts ++ ks).filter fun l => l.sfSet == set && l != but).eraseDups

/-- The next claim of a set (R92): a transaction that waits for its way, then the tickets with a claim in the order of their
rounds. -/
def Slice.nextClaim (s : Slice) (set : BitVec 14) : Option Line :=
  match s.txns.find? fun t => t.phase == .waitWay && t.way.isNone && t.req.line.sfSet == set with
  | some t => some t.req.line
  | none =>
    (List.least (fun (t : Ticket) => t.round) (s.tickets.filter fun t => t.claim && t.req.line.sfSet == set)).map
      fun t => t.req.line

/-- A transaction that has waited goes on; its bounds count from this round (R67, R92). -/
def Txn.goOn (t : Txn) (n : Nat) : Txn :=
  { t with
    phase := .accepted
    worst := t.worst + (n - t.acc)
    acc := n }

/-- A claim becomes its line's way: its tickets hold it, and a transaction that waited for it alone goes on from this round. -/
def Slice.serveClaim (s : Slice) (l : Line) (w n : Nat) : Slice :=
  let give (t : Txn) : Txn :=
    let t := { t with way := some (BitVec.ofNat 4 w) }
    if s.lacksHWay t.req then t else t.goOn n
  { s.reserveWay l w with
    tickets := List.mapIf (fun t => t.req.line == l) (fun t => { t with claim := false }) s.tickets
    txns := List.mapIf (fun t => t.req.line == l && t.phase == .waitWay) give s.txns }

/-- Gives the available ways of a set to its claims, lowest way to earliest claim. -/
def Slice.serveClaims (n : Nat) (set : BitVec 14) : Nat → Slice → Slice
  | 0, s => s
  | fuel + 1, s =>
    match s.nextClaim set, s.freeWay set with
    | some l, some w => Slice.serveClaims n set fuel (s.serveClaim l w n)
    | _, _ => s

/-- Queues a set for run-ahead when its occupied and held ways reach 15 (R93); a full queue raises `EVT_SF_RUNAHEAD_FULL`. -/
def Hub.checkRun (h : Hub) (hs : Nat) (set : BitVec 14) : Hub :=
  let s := h.slice hs
  if s.usedWays set < 15 || s.runQ.contains set then h
  else if s.runQ.length < 64 then h.onSlice hs fun s => { s with runQ := s.runQ ++ [set] }
  else h.raise { rz evSfRunaheadFull hs with sw := some (set, 0) }

/-! ### Claims of span directory ways (R214, R224) -/

/-- Occupied and held span directory ways of a set (R224). -/
def Slice.usedHWays (s : Slice) (set : BitVec 12) : Nat :=
  ((upTo 8).filter fun w => s.sdAt set w != 0 || s.hwayReserved set w).length

/-- Queues a span directory set for run-ahead when its occupied and held ways reach 7 (R224). -/
def Slice.checkSdRun (s : Slice) (set : BitVec 12) : Slice :=
  if s.usedHWays set < 7 || s.sdRunQ.contains set then s else { s with sdRunQ := s.sdRunQ ++ [set] }

/-- Reserves a span directory way for a line. -/
def Slice.reserveHWay (s : Slice) (l : Line) (w : Nat) : Slice :=
  { s with rsvHWays := (s.rsvHWays.filter fun x => x.1 != l) ++ [(l, BitVec.ofNat 3 w)] }

/-- Ends a line's reservation of a span directory way. -/
def Slice.dropHWay (s : Slice) (l : Line) : Slice := { s with rsvHWays := s.rsvHWays.filter fun x => x.1 != l }

/-- A span request holds the line open or chained, so that the line keeps its span directory way. -/
def Slice.wantsHWay (s : Slice) (l : Line) : Bool :=
  (s.txns.any fun t => t.req.line == l && t.req.span) || s.tickets.any fun t => t.req.line == l && t.req.span

/-- A line holds a claim on a way of its span directory set. -/
def Slice.hubClaims (s : Slice) (l : Line) : Bool := s.wantsHWay l && (s.hwayOf l).isNone

/-- The lines with a claim on a way of a span directory set, but for one. -/
def Slice.hubClaimLines (s : Slice) (set : BitVec 12) (but : Line) : List Line :=
  let ts := (s.txns.filter fun t => s.lacksHWay t.req).map fun t => t.req.line
  let ks := (s.tickets.filter fun t => s.lacksHWay t.req).map fun t => t.req.line
  ((ts ++ ks).filter fun l => l.sdSet == set && l != but).eraseDups

/-- The next claim of a span directory set: a transaction that waits for its way, then the tickets without one in the order of their rounds. -/
def Slice.nextHubClaim (s : Slice) (set : BitVec 12) : Option Line :=
  match s.txns.find? fun t => t.phase == .waitWay && s.lacksHWay t.req && t.req.line.sdSet == set with
  | some t => some t.req.line
  | none =>
    (List.least (fun (t : Ticket) => t.round) (s.tickets.filter fun t => s.lacksHWay t.req && t.req.line.sdSet == set)).map
      fun t => t.req.line

/-- A claim becomes its line's span directory way; a transaction that waited for it alone goes on from this round. -/
def Slice.serveHubClaim (s : Slice) (l : Line) (w n : Nat) : Slice :=
  let s := s.reserveHWay l w
  { s with txns := List.mapIf (fun t => t.req.line == l && t.phase == .waitWay && t.way.isSome) (fun t => t.goOn n) s.txns }

/-- Gives the available ways of a span directory set to its claims. -/
def Slice.serveHubClaims (n : Nat) (set : BitVec 12) : Nat → Slice → Slice
  | 0, s => s
  | fuel + 1, s =>
    match s.nextHubClaim set, s.freeHWay set with
    | some l, some w => Slice.serveHubClaims n set fuel (s.serveHubClaim l w n)
    | _, _ => s

/-- A line that no longer is open or chained gives up the ways reserved for it, and the sets' claims are served (R89, R224). -/
def Hub.settleWay (h : Hub) (hs : Nat) (l : Line) : Hub :=
  let s := h.slice hs
  let s := if (s.txnOn l).isSome || s.chained l then s else s.dropWay l
  let s := if s.wantsHWay l then s else s.dropHWay l
  h.onSlice hs fun _ => (s.serveClaims h.round l.sfSet 16).serveHubClaims h.round l.sdSet 8

/-- Queues the sets of a line for run-ahead where they are full enough (R93, R224). -/
def Hub.checkLine (h : Hub) (hs : Nat) (l : Line) : Hub := (h.checkRun hs l.sfSet).onSlice hs fun s => s.checkSdRun l.sdSet

/-- Writes a line's entry into its way (R83): a fresh allocation sets the way's NRU bit; an entry written `UNC` leaves the way
held while the line stays open or chained (R89). -/
def Hub.putEntry (h : Hub) (hs : Nat) (l : Line) (w : Nat) (v : SView) : Hub :=
  let old := (h.slice hs).sfAt l.sfSet w
  let h := h.putSf hs l.sfSet w (v.word l.sfTag)
  match v with
  | .unc =>
    let s := h.slice hs
    if (s.txnOn l).isSome || s.chained l then h.onSlice hs fun s => s.reserveWay l w
    else h.onSlice hs fun s => (s.dropWay l).serveClaims h.round l.sfSet 16
  | _ =>
    let h := h.onSlice hs fun s => if old = 0 then (s.dropWay l).touchNru l.sfSet w h.round else s.dropWay l
    h.checkRun hs l.sfSet

/-! ### Span directory ways -/

/-- Writes the span directory entry of a home line into a way (R222); an entry written `NONE` leaves the way held while a span request keeps
the line open or chained (R89, R224). -/
def Hub.putHub (h : Hub) (hs : Nat) (l : Line) (w : Nat) (v : HView) : Hub :=
  (h.putSd hs l.sdSet w (v.word l.sdTag)).onSlice hs fun s =>
    (if v = .none ∧ s.wantsHWay l then s.reserveHWay l w else (s.dropHWay l).serveHubClaims h.round l.sdSet 8).checkSdRun l.sdSet

/-- Writes the entry of a line wherever it stands: its own way, else a free way; nothing where the view is `NONE` and no
entry stands. -/
def Hub.setHub (h : Hub) (hs : Nat) (l : Line) (v : HView) : Hub :=
  match (h.slice hs).hwayOf l with
  | some w => h.putHub hs l w v
  | none =>
    if v = .none then h
    else match (h.slice hs).freeHWay l.sdSet with
      | some w => h.putHub hs l w v
      | none => h

/-! ### Degraded entries (R97, R102) -/

/-- Queues the sweep of a way where fewer than 16 are queued; a way found while 16 are queued waits, and is queued when the scan
finds it again with a place free (R102). -/
def Slice.queueSweep (s : Slice) (span : Bool) (set : BitVec 14) (way : Nat) : Slice :=
  let full := (s.sweeps.filter fun x => x.span == span && !x.waiting).length ≥ 16
  match s.sweepOf span set way with
  | some x =>
    let mine (y : Sweep) : Bool := y.span == span && y.set == set && y.way.toNat == way
    if x.waiting && !full then { s with sweeps := List.mapIf mine (fun y => { y with waiting := false }) s.sweeps } else s
  | none => { s with sweeps := s.sweeps ++ [⟨span, set, BitVec.ofNat 4 way, 0, [], 0, none, full⟩] }

/-- Takes a way's sweep out of the queue. -/
def Slice.dropSweep (s : Slice) (span : Bool) (set : BitVec 14) (way : Nat) : Slice :=
  { s with sweeps := s.sweeps.filter fun x => !(x.span == span && x.set == set && x.way.toNat == way) }

/-- Counts errors of a physical slice (R352): a saturating count. -/
def satAdd (cap a n : Nat) : Nat := min cap (a + n)

/-- Counts an uncorrectable snoop-filter entry. -/
def ErrCount.addUeSf (e : ErrCount) : ErrCount := { e with ueSf := satAdd 15 e.ueSf 1 }

/-- The line that a way of a set belongs to while only a chain or a hold pins it: the line reserved for it or its entry's. -/
def Slice.lineAt (s : Slice) (set : BitVec 14) (way : Nat) : Line :=
  match s.rsvWays.find? fun x => x.1.sfSet == set && x.2.toNat == way with
  | some x => x.1
  | none => sfLine (sfWordTag (s.sfAt set way)) set

/-- The mark of R144 case 4 on a new sweep while the slice's walk has not passed the set. -/
def Slice.walkLoss (s : Slice) (set : BitVec 14) : Option La :=
  match s.walk with
  | none => none
  | some w =>
    if w.set.toNat ≤ set.toNat || w.left > 0 then ((upTo 128).find? fun i => w.mask.getLsbD i).map (BitVec.ofNat 7) else none

/-- A malformed word raises `EVT_SF_MALFORMED` (R82, R221). -/
def Hub.raiseMalformed (h : Hub) (hs : Nat) (set : BitVec 14) (way : Nat) (bad : Bool) : Hub :=
  if bad then h.raise { rz evSfMalformed hs with sw := some (set, BitVec.ofNat 4 way) } else h

/-- An uncorrectable or malformed snoop-filter way (R97): rewritten as its transaction intends where one that has looked up
holds it, an exact `DEG` where only a chain or a hold pins it, else `DEG` with its tag as read. A way pinned by a transaction whose
lookup is still to come, and found by another read, is written as one that only a chain pins (DESIGN CHOICE, assumption log 76). -/
def Hub.markDeg (h : Hub) (hs : Nat) (set : BitVec 14) (way : Nat) (tagRead : BitVec 32) : Hub :=
  let s := h.slice hs
  let l := s.lineAt set way
  let h := h.raiseMalformed hs set way (s.viewAt set way).isNone
  let looked : Bool := match s.txnOn l with
    | some t => t.phase == .looked
    | none => (s.backOn l).isSome
  let h := h.onSlice hs fun s => { s with errs := s.errs.addUeSf }
  let h := if looked then h
    else
      let exact := s.chained l || s.held l h.round || (s.txnOn l).isSome
      let w := (SView.deg exact).word (if exact then l.sfTag else tagRead)
      (h.putSf hs set way w).onSlice hs fun s =>
        let s := s.queueSweep false set way
        { s with
          sweeps := List.mapIf (fun x => !x.span && x.set == set && x.way.toNat == way)
            (fun x => { x with loss := x.loss.or (s.walkLoss set) }) s.sweeps }
  h.raise { rz evSfDeg hs with sw := some (set, BitVec.ofNat 4 way) }

/-- The line that a way of a span directory set belongs to: the line reserved for it or its entry's. -/
def Slice.hlineAt (s : Slice) (set : BitVec 12) (way : Nat) : Line :=
  match s.rsvHWays.find? fun x => x.1.sdSet == set && x.2.toNat == way with
  | some x => x.1
  | none => sdLine (sdWordTag (s.sdAt set way)) set

/-- An uncorrectable or malformed span directory way becomes `HUB_DEG` under the rules of R97 (R225): not where an open transaction that has
looked up, or a back-invalidation, holds the way; with the tag of its line where that is known, else with its tag as read. -/
def Hub.markHubDeg (h : Hub) (hs : Nat) (set : BitVec 12) (way : Nat) (tagRead : BitVec 34) : Hub :=
  let s := h.slice hs
  let l := s.hlineAt set way
  let looked : Bool := match s.txnOn l with
    | some t => t.phase == .looked
    | none => (s.backOn l).isSome
  let known := s.chained l || s.held l h.round || (s.txnOn l).isSome
  let w := HView.deg.word (if known then l.sdTag else tagRead)
  let h := h.raiseMalformed hs (set.setWidth 14) way (HView.ofWord (s.sdAt set way)).isNone
  let h := h.onSlice hs fun s => { s with errs := { s.errs with ueSd := satAdd 15 s.errs.ueSd 1 } }
  let h := if looked then h
    else (h.putSd hs set way w).onSlice hs fun s => s.queueSweep true (set.setWidth 14) way
  h.raise { rz evSdDeg hs with sw := some (set.setWidth 14, BitVec.ofNat 4 way) }

/-- A settled entry takes its line off the skip lists of the set's sweeps (R100). -/
def Slice.unskip (s : Slice) (l : Line) : Slice :=
  { s with sweeps := s.sweeps.map fun x =>
      if !x.span && x.set == l.sfSet then
        match candIndex 32 (sfWordTag (s.sfAt l.sfSet x.way.toNat)).toNat l.sfTag.toNat with
        | some i => { x with skip := x.skip.filter fun j => j != i }
        | none => x
      else x }

/-- The same for the sweeps of the span directory. -/
def Slice.unskipHub (s : Slice) (l : Line) : Slice :=
  { s with sweeps := s.sweeps.map fun x =>
      if x.span && x.set == l.sdSet.setWidth 14 then
        match candIndex 34 (sdWordTag (s.sdAt l.sdSet x.way.toNat)).toNat l.sdTag.toNat with
        | some i => { x with skip := x.skip.filter fun j => j != i }
        | none => x
      else x }

/-! ### Entries after requests and notices (R83, R84, R132, R146) -/

/-- The agents that a view names. -/
def SView.names : SView → List La
  | .own a => [a]
  | .shr l _ => l
  | .brd p true => [p]
  | _ => []

/-- The owner that a view names. -/
def SView.owner : SView → Option La
  | .own a => some a
  | _ => none

/-- The forwarder that a view names. -/
def SView.fwd : SView → Option La
  | .shr _ f => f
  | .brd p true => some p
  | _ => none

/-- A view without some agents: the survivors repacked, `FWD` following its pointer or cleared (R81, R132, R146). -/
def SView.without (v : SView) (p : La → Bool) : SView :=
  match v with
  | .own a => if p a then .unc else v
  | .shr l f =>
    match l.filter fun a => !p a with
    | [] => .unc
    | k => .shr k (f.bind fun a => if p a then none else some a)
  | .brd a true => if p a then .brd a false else v
  | _ => v

/-- The entry after a shared read by agent `a` (R83); `fwd` false writes `SHR` (R210). A requester that is named already keeps its place;
one that is added stands first, before the existing sharers in their order (DESIGN CHOICE, assumption log 74). -/
def SView.shared (v : SView) (a : La) (fwd : Bool) : SView :=
  let join (l : List La) : SView :=
    let k := if l.contains a then l else a :: l
    if k.length ≤ 3 then .shr k (if fwd then some a else none) else .brd a fwd
  match v with
  | .unc => .shr [a] (if fwd then some a else none)
  | .own x => join [x]
  | .shr l _ => join l
  | .brd _ _ => .brd a fwd
  | .deg _ => v

/-- The effective kinds of request for the entry (R83). -/
def ReqOp.isShared : ReqOp → Bool
  | .rdShared | .rdAny => true
  | _ => false
/-- Reads that leave the entry unchanged. -/
def ReqOp.isOnce : ReqOp → Bool
  | .rdOnce | .rsvLoad => true
  | _ => false
/-- Ownership requests. -/
def ReqOp.isOwn : ReqOp → Bool
  | .rdOwn | .upgrade => true
  | _ => false
/-- Writes and atomics. -/
def ReqOp.isWrite : ReqOp → Bool
  | .wrFull | .wrPart | .rsvStore | .atom => true
  | _ => false
/-- Writes with staged data (R114). -/
def ReqOp.staged : ReqOp → Bool
  | .wrFull | .wrPart | .rsvStore => true
  | _ => false
/-- Partial writes and atomics, which need a base (R116). -/
def ReqOp.needsBase : ReqOp → Bool
  | .wrPart | .rsvStore | .atom => true
  | _ => false

/-- The request opcode of R244. -/
def ReqOp.opc : ReqOp → BitVec 6
  | .rdShared => 0x00 | .rdAny => 0x01 | .rdOwn => 0x02 | .upgrade => 0x03 | .rdOnce => 0x04 | .rsvLoad => 0x05
  | .wrFull => 0x08 | .wrPart => 0x09 | .rsvStore => 0x0A | .atom => 0x0B

/-- The entry that a request writes over a settled view (R83); `who` is the local agent that is entered. -/
def entryAfter (v : SView) (op : ReqOp) (who : La) (fwd : Bool) : SView :=
  if op.isShared then
    (if op = .rdAny ∧ v = .unc then .own who else v.shared who fwd)
  else if op.isOwn then .own who
  else if op.isWrite then .unc
  else v

end Sys2Proof.Machine
end

