-- ==== Sys2Proof/Machine/HubCache.lean ====
section
/-!
DEFINITION. The hub cache of a slice (R286–R304): hits, ages and victims, fills and their installation, updates by writes,
chain copies, invalidation and way disable.
-/
namespace Sys2Proof.Machine

/-! ### Ways -/

/-- The key of a hub-cache way. -/
def hcKey (set : BitVec 10) (way : Nat) : Nat := set.toNat * 16 + way
/-- The tag word of a way. -/
def Slice.hcAt (s : Slice) (set : BitVec 10) (way : Nat) : Word := s.hcTag.getD (hcKey set way) 0
/-- The data of a way. -/
def Slice.hcBytes (s : Slice) (set : BitVec 10) (way : Nat) : LineBits := (s.hcData.getD (hcKey set way) ⟨0⟩).bytes
/-- The age of a way: 3 after reset (R303). -/
def Slice.ageAt (s : Slice) (set : BitVec 10) (way : Nat) : BitVec 2 := s.hcAge.getD (hcKey set way) 3
/-- Writes an age. -/
def Slice.putAge (s : Slice) (set : BitVec 10) (way : Nat) (a : BitVec 2) : Slice :=
  { s with hcAge := s.hcAge.set (hcKey set way) 3 a }

/-- `LOCKED`, `CHAIN` or `LOST` is set: the ways that a migration carries (R303, R359). -/
def hcCarried (w : Word) : Bool := hcLocked w || hcChain w || hcLost w

/-- Writes a tag word with its data. A way without a line holds no data. During a migration the write is mirrored where the
way is carried before or after it (R359). -/
def Hub.putHc (h : Hub) (hs : Nat) (set : BitVec 10) (way : Nat) (w : Word) (bytes : LineBits) : Hub :=
  let f (s : Slice) : Slice := { s with
    hcTag := s.hcTag.set (hcKey set way) 0 w
    hcData := s.hcData.set (hcKey set way) ⟨0⟩ ⟨if hcValid w then bytes else 0⟩ }
  let old := (h.slice hs).hcAt set way
  let h := h.onSlice hs f
  match h.mirrorOf hs (4 * set.toNat + 3) with
  | none => h
  | some n =>
    if hcCarried w then h.onSlice n f
    else if hcCarried old then h.onSlice n fun s => { s with
      hcTag := s.hcTag.set (hcKey set way) 0 0
      hcData := s.hcData.set (hcKey set way) ⟨0⟩ ⟨0⟩ }
    else h

/-- The way that holds a line, a disabled way ignored (R289, R302). -/
def Slice.hcWay (s : Slice) (l : Line) : Option Nat :=
  (upTo 16).find? fun w =>
    !s.wayDis.getLsbD w && hcValid (s.hcAt l.hcSet w) && hcWordTag (s.hcAt l.hcSet w) == l.hcTag

/-- The fill-buffer entry of a line. -/
def Slice.fillOf (s : Slice) (l : Line) : Option Fill := s.fills.find? fun f => f.line == l
/-- Changes the fill-buffer entry of a line. -/
def Slice.onFill (s : Slice) (l : Line) (f : Fill → Fill) : Slice :=
  { s with fills := List.mapIf (fun x => x.line == l) f s.fills }
/-- Takes a line out of the fill buffer with its reserved way. -/
def Slice.dropFill (s : Slice) (l : Line) : Slice :=
  match s.fillOf l with
  | none => s
  | some f => { s with
      fills := s.fills.filter fun x => x.line != l
      hcRsv := match f.way with
        | some w => s.hcRsv.filter fun x => !(x.1 == l.hcSet && x.2 == w)
        | none => s.hcRsv }

/-- The line's value in the hub cache or the fill buffer (R289): its bytes and poison. -/
def Slice.hcValue (s : Slice) (l : Line) : Option (LineBits × Bool) :=
  match s.hcWay l with
  | some w => some (s.hcBytes l.hcSet w, hcPoison (s.hcAt l.hcSet w))
  | none =>
    match s.fillOf l with
    | some f => f.data.map fun d => (d, f.poison)
    | none => none

/-- A service hit sets the way's age to 0 and clears `PF` (R289). -/
def Hub.hcTouch (h : Hub) (hs : Nat) (l : Line) : Hub :=
  match (h.slice hs).hcWay l with
  | some w =>
    let word := (h.slice hs).hcAt l.hcSet w
    let h := if hcPf word then h.putHc hs l.hcSet w (setBit word 22 false) ((h.slice hs).hcBytes l.hcSet w) else h
    h.onSlice hs fun s => s.putAge l.hcSet w 0
  | none => h

/-! ### Way disable (R302) and removal (R301) -/

/-- The bit of a way. -/
def wayBit (way : Nat) : BitVec 16 := 1#16 <<< way

/-- A way that takes no fill: disabled, or marked for disable in an earlier round. -/
def Slice.wayShut (s : Slice) (way : Nat) : Bool :=
  s.wayDis.getLsbD way || (s.wayMark.getLsbD way && !s.markDue.getLsbD way)

/-- A marked way whose set entries are all empty is disabled. -/
def Slice.wayEmpty (s : Slice) (way : Nat) : Bool :=
  s.hcTag.all fun e => !(e.1 % 16 == way && hcValid e.2)

/-- Disables a marked way once it is empty, raising `EVT_HC_WAY_DISABLED`; four disabled ways move the slice to the front of
the rotation. -/
def Hub.tryDisable (h : Hub) (hs way : Nat) : Hub :=
  let s := h.slice hs
  if s.wayMark.getLsbD way && s.wayShut way && s.wayEmpty way then
    let h := h.onSlice hs fun s => { s with
      wayMark := s.wayMark &&& ~~~(1#16 <<< way)
      wayDis := s.wayDis ||| (1#16 <<< way) }
    let h := h.raise { rz evHcWayDisabled hs with sw := some (0, BitVec.ofNat 4 way) }
    let n := ((upTo 16).filter fun w => (h.slice hs).wayDis.getLsbD w).length
    if n ≥ 4 && !h.rot.front.contains (BitVec.ofNat 7 hs) then
      { h with rot := { h.rot with front := h.rot.front ++ [BitVec.ofNat 7 hs] } }
    else h
  else h

/-- Makes a way invalid (R301): a locked way keeps `LOCKED` with `LOST` = 1 and raises `EVT_HC_LOCK_LOST`. -/
def Hub.hcInvalidateWay (h : Hub) (hs : Nat) (set : BitVec 10) (way : Nat) : Hub :=
  let w := (h.slice hs).hcAt set way
  let h := if hcLocked w then
      let h := h.putHc hs set way (hcWord 0 false true (hcLost w || hcValid w) false false false) 0
      if hcValid w then h.raise (rzLine evHcLockLost hs (hcLine (hcWordTag w) set)) else h
    else h.putHc hs set way 0 0
  h.tryDisable hs way

/-- Makes a line's way invalid, or its fill dropped. -/
def Hub.hcInvalidateLine (h : Hub) (hs : Nat) (l : Line) : Hub :=
  match (h.slice hs).hcWay l with
  | some w => h.hcInvalidateWay hs l.hcSet w
  | none => h

/-- A corrected error of a hub-cache way advances its counter: the 16th within 2^24 rounds of the first marks the way for disable from the next
round on (R302). -/
def Hub.wayCorrected (h : Hub) (hs way : Nat) : Hub :=
  let s := h.slice hs
  let c : Nat × Nat := match s.wayErr.look way with
    | some (n, first) => if h.round - first > 2 ^ 24 then (1, h.round) else (n + 1, first)
    | none => (1, h.round)
  let h := h.onSlice hs fun s => { s with wayErr := s.wayErr.put way c }
  if c.1 = 16 && !s.wayMark.getLsbD way && !s.wayDis.getLsbD way then
    h.onSlice hs fun s => { s with wayMark := s.wayMark ||| wayBit way, markDue := s.markDue ||| wayBit way }
  else h

/-! ### Victims and fills (R290–R293) -/

/-- The ways that a fill may take (R292, R301, R302). -/
def Slice.hcEligible (s : Slice) (set : BitVec 10) : List Nat :=
  (upTo 16).filter fun w =>
    let t := s.hcAt set w
    !hcLocked t && !hcChain t && !(s.hcRsv.any fun x => x.1 == set && x.2.toNat == w)
      && !s.wayShut w

/-- The victim of a fill among some ways (R292), and the slice with the ages raised: an invalid way, else age 3, else, for a
demand fill, age 3 after raising every eligible age. -/
def Slice.hcVictim (s : Slice) (set : BitVec 10) (ways : List Nat) (demand : Bool) : Option Nat × Slice :=
  match ways.find? fun w => !hcValid (s.hcAt set w) with
  | some w => (some w, s)
  | none =>
    match ways.find? fun w => s.ageAt set w == 3 with
    | some w => (some w, s)
    | none =>
      if demand then
        let top := ways.foldl (fun m w => max m (s.ageAt set w).toNat) 0
        let s := ways.foldl (fun s w => s.putAge set w (BitVec.ofNat 2 ((s.ageAt set w).toNat + 3 - top))) s
        (ways.find? fun w => s.ageAt set w == 3, s)
      else (none, s)

/-- A line's write-buffer entry in its slice's buffer. -/
def Slice.wbOf (s : Slice) (l : Line) : Option WbLine := s.wb.find? fun x => x.line == l

/-- A dropped fill is raised and counted (R291). -/
def Hub.fillDropped (h : Hub) (hs : Nat) (l : Line) : Hub :=
  (h.raise (rzLine evHcFillDrop hs l)).count 0x013 ((h.lsOf hs).getD 0) 1

/-- The age of a new fill (R292). -/
def fillAge : FillKind → BitVec 2
  | .demand stream => if stream then 3 else 0
  | .prefetch stream => if stream then 3 else 2
  | .chain => 0
  | .lock _ _ => 0

/-- The write-through of a line that its memory port has not yet taken. -/
def Slice.writeWaits (s : Slice) (l : Line) : Bool :=
  match s.wbOf l with
  | some x => x.home && (x.wrote.isEmpty || x.again)
  | none => false

/-- Moves a line's queued memory write to the head of its queue (R293). -/
def Slice.pushWrite (s : Slice) (l : Line) : Slice :=
  { s with wb := List.mapIf (fun x => x.line == l) (fun x => { x with front := true }) s.wb }

/-- Drops the victim in a way and reserves the way for a fill (R293); answers the victim's line where its write still
waits. -/
def Hub.takeVictim (h : Hub) (hs : Nat) (set : BitVec 10) (way : Nat) : Hub × Option Line :=
  let w := (h.slice hs).hcAt set way
  let v := hcLine (hcWordTag w) set
  let h := if hcValid w then h.putHc hs set way 0 0 else h
  let h := h.onSlice hs fun s => { s with hcRsv := s.hcRsv ++ [(set, BitVec.ofNat 4 way)] }
  if hcValid w && (h.slice hs).writeWaits v then (h.onSlice hs fun s => s.pushWrite v, some v) else (h, none)

/-- A line is installed in its way, its fill-buffer place freed (R291). -/
def Hub.installFill (h : Hub) (hs : Nat) (f : Fill) : Hub :=
  match f.way, f.data with
  | some w, some d =>
    let locked := match f.kind with
      | .lock _ _ => true
      | _ => false
    let chain := f.kind == .chain || (h.slice hs).chained f.line
    let pf := match f.kind with
      | .prefetch _ => true
      | _ => false
    let h := h.onSlice hs fun s => s.dropFill f.line
    let h := h.putHc hs f.line.hcSet w.toNat (hcWord f.line.hcTag true locked false f.poison chain pf) d
    h.onSlice hs fun s => s.putAge f.line.hcSet w.toNat (fillAge f.kind)
  | _, _ => h

/-- Fill data arrives (R291): it is dropped where the buffer is full or no victim exists, waits where its victim's write
waits, and is installed otherwise. -/
def Hub.fillArrive (h : Hub) (hs : Nat) (l : Line) (kind : FillKind) (d : LineBits) (poison : Bool) : Hub :=
  let s := h.slice hs
  if (s.hcWay l).isSome then h
  else match s.fillOf l with
    | some f =>
      match f.data with
      | some _ => h
      | none =>
        let f := { f with data := some d, poison := poison, since := h.round }
        let h := h.onSlice hs fun s => s.onFill l fun _ => f
        if f.victim.isSome then h else h.installFill hs f
    | none =>
      if s.fills.length ≥ 48 then h.fillDropped hs l
      else
        let demand := match kind with
          | .prefetch _ => false
          | _ => true
        let ways := match kind with
          | .lock w _ => [w.toNat]
          | _ => s.hcEligible l.hcSet
        let v := s.hcVictim l.hcSet ways demand
        match v.1 with
        | none => (h.onSlice hs fun _ => v.2).fillDropped hs l
        | some w =>
          let t := (h.onSlice hs fun _ => v.2).takeVictim hs l.hcSet w
          let f : Fill := ⟨l, kind, some d, poison, some (BitVec.ofNat 4 w), t.2, h.round⟩
          let h := t.1.onSlice hs fun s => { s with fills := s.fills ++ [f] }
          if t.2.isSome then h else h.installFill hs f

/-! ### Updates by writes (R117, R294) -/

/-- A write that enters the write buffer updates the hub cache where it holds the line; a line of a down channel is invalidated
instead (R279). `whole` data replaces the line's poison, partial data keeps it. -/
def Hub.hcUpdate (h : Hub) (hs : Nat) (l : Line) (bytes : LineBits) (mask : ByteMask) (poison : Bool) (down : Bool) : Hub :=
  let s := h.slice hs
  match s.hcWay l with
  | some w =>
    if down then h.hcInvalidateWay hs l.hcSet w
    else
      let t := s.hcAt l.hcSet w
      let p := if mask = allBytes then poison else hcPoison t || poison
      h.putHc hs l.hcSet w (setBit t 24 p) (mergeBytes mask bytes (s.hcBytes l.hcSet w))
  | none => h

/-! ### Chain copies (R64, R295) -/

/-- A chain copy of the line can be held (R64). A fill buffer whose 48 places are all taken, fewer than 16 of them by chain copies, counts as
one that cannot hold it (DESIGN CHOICE, assumption log 77). -/
def Slice.chainHolds (s : Slice) (l : Line) : Bool :=
  (s.hcWay l).isSome || (s.fillOf l).isSome ||
    (!(s.hcEligible l.hcSet).isEmpty && decide (s.fills.length < 48)
      && decide ((s.fills.filter fun f => f.kind == .chain).length < 16))

/-- Sets `CHAIN` on a line that is present, or keeps a place and a way for its copy. -/
def Hub.chainMark (h : Hub) (hs : Nat) (l : Line) : Hub :=
  let s := h.slice hs
  match s.hcWay l with
  | some w => h.putHc hs l.hcSet w (setBit (s.hcAt l.hcSet w) 23 true) (s.hcBytes l.hcSet w)
  | none =>
    match s.fillOf l with
    | some _ => h.onSlice hs fun s => s.onFill l fun f => { f with kind := .chain }
    | none =>
      let v := s.hcVictim l.hcSet (s.hcEligible l.hcSet) true
      match v.1 with
      | none => h
      | some w =>
        let t := (h.onSlice hs fun _ => v.2).takeVictim hs l.hcSet w
        t.1.onSlice hs fun s => { s with fills := s.fills ++ [⟨l, .chain, none, false, some (BitVec.ofNat 4 w), t.2, h.round⟩] }

/-- Data for a chained line fills its copy: in the way, in the fill buffer, newer data replacing older (R295). -/
def Hub.chainPut (h : Hub) (hs : Nat) (l : Line) (d : LineBits) (poison : Bool) : Hub :=
  let s := h.slice hs
  match s.hcWay l with
  | some w =>
    if hcChain (s.hcAt l.hcSet w) then h.putHc hs l.hcSet w (setBit (s.hcAt l.hcSet w) 24 poison) d else h
  | none =>
    match s.fillOf l with
    | some f =>
      if f.kind == .chain then
        let f := { f with data := some d, poison := poison }
        let h := h.onSlice hs fun s => s.onFill l fun _ => f
        if f.victim.isSome then h else h.installFill hs f
      else h
    | none => h

/-- The same; a copy that was lost to an uncorrectable word is held anew where it can be (R304). -/
def Hub.chainFill (h : Hub) (hs : Nat) (l : Line) (d : LineBits) (poison : Bool) : Hub :=
  let s := h.slice hs
  let lost := s.chained l && (s.hcWay l).isNone && (s.fillOf l).isNone && s.chainHolds l
  (if lost then h.chainMark hs l else h).chainPut hs l d poison

/-- The chain of a line has emptied: `CHAIN` is cleared; a copy of a line of a `HC_NOALLOC_MASK` window, or in a marked way, is
invalidated; a place that never got its data is freed (R295, R302), and a copy that lost its way to a disable is dropped. -/
def Hub.chainEnd (h : Hub) (hs : Nat) (l : Line) : Hub :=
  let s := h.slice hs
  let noalloc : Bool := match h.winOf l with
    | some n => (h.pw 0x801).getLsbD n
    | none => false
  if s.chained l then h
  else match s.hcWay l with
    | some w =>
      let t := s.hcAt l.hcSet w
      if hcChain t then
        let h := h.putHc hs l.hcSet w (setBit t 23 false) (s.hcBytes l.hcSet w)
        if (noalloc && !hcLocked t) || s.wayShut w then h.hcInvalidateWay hs l.hcSet w else h
      else h
    | none =>
      match s.fillOf l with
      | some f =>
        if f.kind == .chain then
          match f.data with
          | none => h.onSlice hs fun s => s.dropFill l
          | some _ =>
            if f.way.isNone then (h.onSlice hs fun s => s.dropFill l).fillDropped hs l
            else h.onSlice hs fun s => if noalloc then s.dropFill l else s.onFill l fun f => { f with kind := .demand false }
        else h
      | none => h

/-! ### A way marked for disable (R302) -/

/-- A fill on its way to a way that is shut: a chain copy chooses again where it can and waits in the fill buffer else, and any other is
dropped (R295). -/
def Hub.refuseWay (h : Hub) (hs : Nat) (f : Fill) : Hub :=
  if f.kind != .chain then (h.onSlice hs fun s => s.dropFill f.line).fillDropped hs f.line
  else
    let unres (s : Slice) : Slice := { s with hcRsv := s.hcRsv.filter fun x => !(x.1 == f.line.hcSet && some x.2 == f.way) }
    let h := h.onSlice hs unres
    let v := (h.slice hs).hcVictim f.line.hcSet ((h.slice hs).hcEligible f.line.hcSet) true
    match v.1 with
    | none => h.onSlice hs fun s => s.onFill f.line fun x => { x with way := none, victim := none }
    | some w =>
      let t := (h.onSlice hs fun _ => v.2).takeVictim hs f.line.hcSet w
      let f := { f with way := some (BitVec.ofNat 4 w), victim := t.2, since := t.1.round }
      let h := t.1.onSlice hs fun s => s.onFill f.line fun _ => f
      if t.2.isSome then h else h.installFill hs f

/-- A marked way takes no fill from now on, and its lines that are not pinned are invalidated (R302). -/
def Hub.markWay (h : Hub) (hs way : Nat) : Hub :=
  let h := h.onSlice hs fun s => { s with markDue := s.markDue &&& ~~~wayBit way }
  let sets := ((h.slice hs).hcTag.filter fun e => e.1 % 16 == way && hcValid e.2 && !hcChain e.2).map fun e => e.1 / 16
  let h := sets.foldl (fun h set => h.hcInvalidateWay hs (BitVec.ofNat 10 set) way) h
  let bound (f : Fill) : Bool := match f.way with
    | some w => w.toNat == way
    | none => false
  (((h.slice hs).fills.filter bound).foldl (fun h f => h.refuseWay hs f) h).tryDisable hs way

/-- The marks of the round before take effect. -/
def Hub.markWays (h : Hub) : Hub :=
  (h.slices.filter fun e => e.2.markDue != 0).foldl (fun h e =>
    ((upTo 16).filter fun w => e.2.markDue.getLsbD w).foldl (fun h w => h.markWay e.1 w) h) h

/-! ### Corrected and uncorrectable words -/

/-- A storm is raised and its slice moves to the front of the rotation (R345). -/
def Hub.raiseStorm (h : Hub) (hs : Nat) : Hub :=
  let h := h.raise (rz evHubCeStorm hs)
  if h.rot.front.contains (BitVec.ofNat 7 hs) then h
  else { h with rot := { h.rot with front := h.rot.front ++ [BitVec.ofNat 7 hs] } }

/-- Corrections of one slice count toward `HUB_CE_STORM` within 2^24 rounds (R345), and as event code 0x060 (R455). -/
def Hub.stormCount (h : Hub) (hs n : Nat) : Hub :=
  if n = 0 then h
  else
    let st := (h.slice hs).storm
    let st : Nat × Nat := if st.1 = 0 || h.round - st.2 > 2 ^ 24 then (n, h.round) else (st.1 + n, st.2)
    let h := (h.onSlice hs fun s => { s with storm := st }).count 0x060 ((h.lsOf hs).getD 0x7F) n
    if st.1 ≥ h.p 0x902 && st.1 - n < h.p 0x902 then h.raiseStorm hs else h

/-- A lower `HUB_CE_STORM` applies at once to the counts already held (R353). -/
def Hub.stormsHeld (h : Hub) (old : Nat) : Hub :=
  (upTo 65).foldl (fun h hs =>
    let st := (h.slice hs).storm
    if st.1 ≥ h.p 0x902 && st.1 < old && h.round - st.2 ≤ 2 ^ 24 then h.raiseStorm hs else h) h

/-- The arrays whose corrected errors `HUB_ERR_SLICE_n` counts apart (R352). -/
inductive ErrArray where
  | sf | sd | hc | ctl
  deriving DecidableEq, Repr

/-- Counts `n` corrected errors of an array of a slice. -/
def Hub.corrected (h : Hub) (hs : Nat) (a : ErrArray) (n : Nat) : Hub :=
  let f (e : ErrCount) : ErrCount := match a with
    | .sf => { e with ceSf := satAdd 4095 e.ceSf n }
    | .sd => { e with ceSd := satAdd 4095 e.ceSd n }
    | .hc => { e with ceHc := satAdd 4095 e.ceHc n }
    | .ctl => { e with ceCtl := satAdd 4095 e.ceCtl n }
  if n = 0 then h else (h.onSlice hs fun s => { s with errs := f s.errs }).stormCount hs n

/-- An uncorrectable hub-cache word (R288): the way is made invalid and `EVT_HC_UE` raised. -/
def Hub.hcUncorrectable (h : Hub) (hs : Nat) (set : BitVec 10) (way : Nat) : Hub :=
  let h := h.onSlice hs fun s => { s with errs := { s.errs with ueHc := satAdd 15 s.errs.ueHc 1 } }
  let w := (h.slice hs).hcAt set way
  (h.raise { rzLine evHcUe hs (hcLine (hcWordTag w) set) with sw := some (set.setWidth 14, BitVec.ofNat 4 way) }).hcInvalidateWay
    hs set way

end Sys2Proof.Machine
end

