-- ==== Sys2Proof/Machine/WriteBuf.lean ====
section
/-!
DEFINITION. The write buffers and the spill store (R135, R275, R276, R334), the entry of data into them with its effect on the
hub cache and on fills (R117, R294), poison marks (R145), the proxy's writebacks (R211) and the reads that a slice issues.
-/
namespace Sys2Proof.Machine

/-! ### Lines of the write buffer -/

/-- Every byte is there: written or base (R116). -/
def WbLine.whole (x : WbLine) : Bool := x.wmask ||| x.bmask == allBytes
/-- The base is there or every byte is written. -/
def WbLine.based (x : WbLine) : Bool := x.whole
/-- The line leaves with `POISON` = 1 (R332). -/
def WbLine.poison (x : WbLine) : Bool := x.pois != 0

/-- A base is stored where `WMASK` is clear (R334). -/
def WbLine.putBase (x : WbLine) (bytes : LineBits) (pois : ByteMask) : WbLine :=
  { x with
    bytes := mergeBytes x.wmask x.bytes bytes
    pois := (x.pois &&& x.wmask) ||| (pois &&& ~~~x.wmask)
    bmask := allBytes
    again := x.again || !x.wrote.isEmpty }

/-- A base that arrives for a line which already has one does not replace it. -/
def WbLine.putLateBase (x : WbLine) (bytes : LineBits) (pois : ByteMask) : WbLine :=
  if x.whole then x else x.putBase bytes pois

/-- Written bytes take the new value and a fresh code (R334). -/
def WbLine.putWritten (x : WbLine) (bytes : LineBits) (mask pois : ByteMask) : WbLine :=
  { x with
    bytes := mergeBytes mask bytes x.bytes
    pois := (pois &&& mask) ||| (x.pois &&& ~~~mask)
    wmask := x.wmask ||| mask
    again := x.again || !x.wrote.isEmpty }

/-- An empty place for a line. -/
def WbLine.fresh (l : Line) (ls : BitVec 6) (place : Place) (home : Bool) (n : Nat) : WbLine :=
  { line := l, ls := ls, bytes := 0, pois := 0, wmask := 0, bmask := 0, place := place, out := [], wrote := [], again := false, lastWb := none,
    home := home, keep := false, dirty := true, sent := false, front := false, since := n, recallAt := none }

/-- The line's entry in the slice's buffer or the spill store. -/
def Hub.wbFind (h : Hub) (hs : Nat) (l : Line) : Option WbLine :=
  match (h.slice hs).wbOf l with
  | some x => some x
  | none => h.spill.find? fun x => x.line == l

/-- The line waits in the spill store (R40, Write spill). -/
def Hub.inSpill (h : Hub) (l : Line) : Bool := h.spill.any fun x => x.line == l

/-- Changes the line's entry wherever it stands. -/
def Hub.onWb (h : Hub) (hs : Nat) (l : Line) (f : WbLine → WbLine) : Hub :=
  { h.onSlice hs fun s => { s with wb := List.mapIf (fun x => x.line == l) f s.wb } with
    spill := List.mapIf (fun x => x.line == l) f h.spill }

/-- The line leaves its place. -/
def Hub.dropWb (h : Hub) (hs : Nat) (l : Line) : Hub :=
  { h.onSlice hs fun s => { s with wb := s.wb.filter fun x => x.line != l } with
    spill := h.spill.filter fun x => x.line != l }

/-! ### Places (R276) -/

/-- Lines in the general places of a slice. -/
def Slice.generals (s : Slice) : Nat := (s.wb.filter fun x => x.place == .general).length

/-- A line has a place at the hub. -/
def Hub.hasPlace (h : Hub) (hs : Nat) (l : Line) : Bool := (h.wbFind hs l).isSome

/-- The count of the Write space check without the request itself: lines in general and guaranteed places, and one for each
open transaction and issued ticket whose line has no place yet. -/
def Hub.placeCount (h : Hub) (hs : Nat) : Nat :=
  let s := h.slice hs
  let ls := h.lsOf hs
  s.generals
    + (h.spill.filter fun x => x.place == .guaranteed && some x.ls.toNat == ls).length
    + (s.txns.filter fun t => !h.hasPlace hs t.req.line).length
    + (s.tickets.filter fun t => !h.hasPlace hs t.req.line).length

/-- A general place is free beyond the count. -/
def Hub.freeBeyond (h : Hub) (hs : Nat) : Bool :=
  decide ((h.slice hs).generals < 236) && decide (h.placeCount hs + 1 ≤ 260)

/-- Who brings data to the write buffer. -/
inductive Entering where
  | accepted | writeback | backInv
  deriving DecidableEq, Repr

/-- Finds a place for a line that has none: an accepted transaction's own place, a back-invalidation's place, or for a
writeback a general place free beyond the count, else the pool (R276). -/
def Hub.wbEnsure (h : Hub) (hs : Nat) (l : Line) (who : Entering) (home : Bool) : Hub :=
  if h.hasPlace hs l then h
  else
    let inSlice (p : Place) : Hub := h.onSlice hs fun s => { s with wb := s.wb ++ [WbLine.fresh l l.ls p home h.round] }
    let inSpill (p : Place) : Hub := { h with spill := h.spill ++ [WbLine.fresh l l.ls p home h.round] }
    match who with
    | .backInv => inSlice .backInv
    | .accepted => if (h.slice hs).generals < 236 then inSlice .general else inSpill .guaranteed
    | .writeback => if h.freeBeyond hs then inSlice .general else inSpill .pool

/-! ### Channels that are down (R279) -/

/-- Every channel of a home line is down. -/
def Hub.lineDown (h : Hub) (l : Line) : Bool :=
  let cs := (h.lineMap l).1
  !cs.isEmpty && cs.all fun c => (h.chan c).down

/-- Drops a whole buffered line of a down channel with its event (R279). -/
def Hub.dropIfDown (h : Hub) (hs : Nat) (l : Line) : Hub :=
  match h.wbFind hs l with
  | some x =>
    if x.home && x.whole && h.lineDown l then
      let mp := portOfChan (((h.lineMap l).1).headD 0)
      (h.dropWb hs l).raise (rzLine evMpWriteDropped mp l)
    else h
  | none => h

/-! ### Entry of data -/

/-- Reads of the line that were issued before this data may no longer fill (R291), and fills of it that wait are dropped or, for a
chain copy, refreshed. -/
def Hub.staleFills (h : Hub) (hs : Nat) (l : Line) : Hub :=
  let h := { h with reads := List.mapIf (fun r => r.line == l) (fun r => { r with stale := true }) h.reads }
  match (h.slice hs).fillOf l with
  | some f =>
    if f.kind == .chain || f.data.isNone then h
    else (h.onSlice hs fun s => s.dropFill l).fillDropped hs l
  | none => h

/-- Data enters the write buffer for a line (R117, R294): its entry is changed, the hub cache updated with the bytes that the
data brings, waiting fills overtaken, the chain copy filled, and the line dropped where its channel is down. -/
def Hub.enterWb (h : Hub) (hs : Nat) (l : Line) (who : Entering) (home : Bool) (bytes : LineBits) (mask : ByteMask)
    (f : WbLine → WbLine) : Hub :=
  let h := (h.wbEnsure hs l who home).onWb hs l f
  if home then
    let h := h.staleFills hs l
    match h.wbFind hs l with
    | some x =>
      let h := if x.whole then h.hcUpdate hs l x.bytes allBytes x.poison (h.lineDown l)
        else h.hcUpdate hs l bytes mask x.poison (h.lineDown l)
      let h := if x.whole && (h.slice hs).chained l then h.chainFill hs l x.bytes x.poison else h
      h.dropIfDown hs l
    | none => h
  else h

/-- The line's value as a base or as its current value: writebacks, `RSP_WB` data, dirty forwards, atomic results. -/
def Hub.enterValue (h : Hub) (hs : Nat) (l : Line) (who : Entering) (home : Bool) (bytes : LineBits) (pois : ByteMask)
    (from_ : Option Gaid) : Hub :=
  h.enterWb hs l who home bytes allBytes fun x =>
    let y := x.putBase bytes pois
    let lw := from_.or x.lastWb
    { y with
      lastWb := lw
      dirty := true
      again := y.again || y.sent }

/-- A base that completes a partly written line (R116); it never replaces a base that is there. -/
def Hub.enterBase (h : Hub) (hs : Nat) (l : Line) (bytes : LineBits) (poison : Bool) : Hub :=
  h.enterWb hs l .accepted true bytes allBytes fun x => x.putLateBase bytes (enterPoison poison 0)

/-- The written bytes of a transaction. -/
def Hub.enterWritten (h : Hub) (hs : Nat) (l : Line) (home : Bool) (bytes : LineBits) (mask pois : ByteMask) : Hub :=
  h.enterWb hs l .accepted home bytes mask fun x => x.putWritten bytes mask pois

/-- A poison mark for a whole line (R145); its data bits are a free value. -/
def Hub.poisonMark (h : Hub) (hs : Nat) (l : Line) (home : Bool) : Hub :=
  let d := Config.freeLine h.freeCtr
  ({ h with freeCtr := h.freeCtr + 1 }).enterValue hs l .accepted home d allBytes none

/-- Newer data of a home line reaches the hub while a transaction that has looked up is open on it: from here it is the transaction's prepared
source, in place of what the lookup found (R111, R116, R127). -/
def Hub.newerData (h : Hub) (hs : Nat) (l : Line) (bytes : LineBits) (pois : ByteMask) : Hub :=
  let upd (t : Txn) : Txn := { t with gate := { t.gate with
    prep := if t.spanReq then t.gate.prep else some (payload bytes false (pois != 0))
    prepSrc := if t.spanReq then t.gate.prepSrc else .writeBuffer
    wbData := true } }
  h.onSlice hs fun s => { s with
    txns := List.mapIf (fun t => t.req.line == l && t.phase == .looked && !t.gate.released && !(t.req.op == .atom && t.wrote)) upd s.txns }

/-- The masks of a line clear when its transaction has closed and its base has been merged (R334). -/
def Hub.clearMasks (h : Hub) (hs : Nat) (l : Line) : Hub :=
  h.onWb hs l fun x => if x.whole then { x with wmask := 0, bmask := allBytes } else x

/-! ### The proxy's writebacks (R211) -/

/-- The home hub of a remote line. -/
def Hub.remoteHome (h : Hub) (l : Line) : Option HubNo :=
  match h.classify l with
  | .remote e => some e
  | _ => none

/-- A line that this hub is home for. -/
def Hub.isHome (h : Hub) (l : Line) : Bool :=
  match h.classify l with
  | .home _ => true
  | _ => false

/-- The `TXID` of this hub's `SPAN_EVICT` of a line; that of its `SPAN_WB` is the slice's number. -/
def evictTx (l : Line) : Txid := BitVec.ofNat 12 (2048 + l.ls.toNat)

/-- Sends what the proxy owes the home of a remote line while no own transaction is open on it (R211): buffered dirty data as
`SPAN_WB`, with `KEEP` while local copies remain; or `SPAN_EVICT` where the entry has become `UNC` without newer data. -/
def Hub.proxyFlush (h : Hub) (hs : Nat) (l : Line) (becameUnc : Bool) : Hub :=
  match h.remoteHome l with
  | none => h
  | some e =>
    if ((h.slice hs).txnOn l).isSome then h
    else
      let keep := (h.slice hs).homeView l != .unc
      let g := Gaid.mk h.num 0
      match h.wbFind hs l with
      | some x =>
        if x.sent || !x.whole then
          (if x.sent && !x.again && x.keep && !keep then
            (h.onWb hs l fun y => { y with keep := false }).toHub e 0x11 (Flit.plain g (evictTx l) l 0) none none
          else h)
        else
          let f := Flit.plain g (BitVec.ofNat 12 l.ls.toNat) l (lowBit 28 keep)
          (h.onWb hs l fun y => { y with sent := true, keep := keep }).toHub e 0x10 f (some (payload x.bytes true x.poison)) none
      | none =>
        if becameUnc && !keep then h.toHub e 0x11 (Flit.plain g (evictTx l) l 0) none none else h

/-! ### Reads -/

/-- The tags in use at a memory port. -/
def Hub.tagUsed (h : Hub) (mp : Nat) (t : Txid) : Bool :=
  (h.reads.any fun r => portOfChan r.ch.toNat == mp && r.mtag == t)
    || (h.spill.any fun x => x.out.any fun o => portOfChan o.ch.toNat == mp && o.mtag == t)
    || (h.slices.any fun e => e.2.wb.any fun x => x.out.any fun o => portOfChan o.ch.toNat == mp && o.mtag == t)
    || ((upTo 16).any fun c => portOfChan c == mp && (h.chan c).lost.contains t)

/-- The first number from `start` that is not in use, going round. -/
def firstFree (used : Nat → Bool) (start size : Nat) : Nat → Nat
  | 0 => start
  | fuel + 1 => if used (start % size) then firstFree used (start + 1) size fuel else start % size

/-- Takes a tag that is unique among the port's outstanding commands (R261): a free choice among the unused ones. -/
def Hub.takeTag (h : Hub) (mp : Nat) : Txid × Hub :=
  let r := h.takeFree
  (BitVec.ofNat 12 (firstFree (fun t => h.tagUsed mp (BitVec.ofNat 12 t)) (r.1 % 4096) 4096 4096), r.2)

/-- A read presented in round `pres` may go to the channel now: its presentation plus B falls before every announced pause that is not
over (R278). -/
def Hub.pauseAllows (h : Hub) (c pres : Nat) : Bool :=
  (h.chan c).announced.all fun p => decide (p.2 < h.round) || decide (pres + h.bound (portOfChan c) < p.1)

/-- Read pressure of a channel (R272): reads at the controller and reads queued in its normal class. -/
def Hub.pressure (h : Hub) (c : Nat) : Nat :=
  (h.reads.filter fun r => r.ch.toNat == c && r.held.isNone && r.who != .mirror true && (r.sent || !r.spec)).length

/-- Pressure notices of a channel (R272): sent when the pressure reaches the watermark, released 8 below it. -/
def Hub.checkPressure (h : Hub) (c : Nat) : Hub :=
  let n := h.pressure c
  let wm := h.p 0x7C1
  let set (on : Bool) : Hub := { h with
    chans := h.chans.upd c Chan.init fun x => { x with pressure := on }
    notices := h.notices ++ [.pressure (BitVec.ofNat 4 c) on] }
  if !(h.chan c).pressure && n ≥ wm then set true
  else if (h.chan c).pressure && n + 8 ≤ wm then set false
  else h

/-- The line's window is in `HC_NOALLOC_MASK` (R290). -/
def Hub.noAlloc (h : Hub) (l : Line) : Bool :=
  match h.winOf l with
  | some n => (h.pw 0x801).getLsbD n
  | none => false

/-- A read as it joins the outstanding ones of a channel. A speculative read is not yet presented, nor is a chain-copy read of a channel in its
pause. A down channel answers it at once with poison, from the end of the pause in which it went down (R279). -/
def Hub.newRead (h : Hub) (c hs : Nat) (tag : BitVec 12) (l : Line) (who : ReadFor) (spec crit lk : Bool) (aop : Option Req) : MemRead :=
  let down := (h.chan c).down && !(h.chan c).paused
  {
    ch := BitVec.ofNat 4 c, mtag := tag, ls := BitVec.ofNat 6 ((h.lsOf hs).getD 0), line := l, who := who, spec := spec, crit := crit,
    lk := lk, sent := down, dec := .none
    pres := if spec || (who == .chain && !h.pauseAllows c h.round) then none else some h.round
    held := if down then some (payload (Config.freeLine h.freeCtr) false true) else none
    late := false, stale := false, retry := false, aop := aop, fill := none, noAlloc := h.noAlloc l }

/-- A slice issues a read of a home line (R61, R118): it is queued at the line's memory edge router. -/
def Hub.issueRead (h : Hub) (hs : Nat) (l : Line) (who : ReadFor) (spec crit lk : Bool) (aop : Option Req) : Hub :=
  match h.readChan l with
  | none => h
  | some c =>
    let r := h.takeTag (portOfChan c)
    let rd := h.newRead c hs r.1 l who spec crit lk aop
    let isTxn : Bool := match who with
      | .txn _ => true
      | _ => false
    let h := ({ r.2 with reads := r.2.reads ++ [rd] }).moved hs (epMp (portOfChan c)) false 16
    if spec && isTxn then (h.count 0x030 l.ls.toNat 1).count 0x030 (0x60 + portOfChan c) 1
    else if spec then h else h.checkPressure c

/-- Some read of the line is outstanding. -/
def Hub.readOut (h : Hub) (l : Line) : Bool := h.reads.any fun r => r.line == l

/-- Cancels the speculative read of a line (R119): a queued one is removed, a sent one's data will be discarded. -/
def Hub.cancelSpec (h : Hub) (l : Line) (tid : Byte) : Hub :=
  let mine (r : MemRead) : Bool := r.line == l && r.spec && r.who == .txn tid && r.dec == .none
  let h := match h.reads.find? mine with
    | some r => (h.count 0x031 l.ls.toNat 1).count 0x031 (0x60 + portOfChan r.ch.toNat) 1
    | none => h
  { h with reads := (List.mapIf mine (fun r => { r with dec := .cancelled }) h.reads).filter fun r =>
      !(r.line == l && r.spec && r.who == .txn tid && r.dec == .cancelled && (!r.sent || r.held.isSome)) }

/-- Makes a read of a line that is outstanding a transaction's own read: its speculative read, a prefetch, a chain-copy read (R119, R295, R296),
or the read of an earlier transaction, since a line never has two accesses outstanding at its memory port (R117). A read that newer data has
overtaken is left. Answers whether there was one. -/
def Hub.promoteRead (h : Hub) (hs : Nat) (l : Line) (tid : Byte) (crit : Bool) : Option Hub :=
  let mine (r : MemRead) : Bool :=
    r.line == l && r.dec != .cancelled && !r.lk && !r.stale && match r.who with
      | .txn _ | .prefetch _ | .chain => true
      | _ => false
  if h.reads.any mine then
    let h := { h with reads := List.mapIf mine (fun r => { r with
      spec := false, dec := .promoted, who := .txn tid, crit := crit, pres := r.pres.or (some h.round) }) h.reads }
    some (h.onSlice hs fun s => { s with prefetches := s.prefetches.filter fun x => x.line != l })
  else none

/-- The memory read of a transaction: a promoted read where one is there, else a new one in the normal class; `fill` says whether it may
allocate a way and whether its request is streaming (R290). -/
def Hub.demandRead (h : Hub) (hs : Nat) (l : Line) (tid : Byte) (crit : Bool) (fill : Option Bool) : Hub :=
  let h := match h.promoteRead hs l tid crit with
    | some h => h
    | none => h.issueRead hs l (.txn tid) false crit false none
  let h := { h with reads := List.mapIf (fun r => r.line == l && r.who == ReadFor.txn tid) (fun r => { r with fill := fill }) h.reads }
  match h.readChan l with
  | some c => h.checkPressure c
  | none => h

end Sys2Proof.Machine
end

