-- ==== Sys2Proof/Machine/Snoops.lean ====
section
/-!
DEFINITION. Sending snoops to local agents (R106, R107, R142, R253, R412), the messages of a completion to a requester hub
(R206, R207), and the records that a transaction leaves behind.
-/
namespace Sys2Proof.Machine

/-! ### Snoops to agents -/

/-- The opcode of a snoop on an agent port (R244). -/
def SnpOp.opc : SnpOp → BitVec 6
  | .fwdS => 0x18 | .fwdO => 0x19 | .inv => 0x1A | .data => 0x1B

/-- The opcode of a snoop between hubs (R207). -/
def SnpOp.spanOpc : SnpOp → BitVec 6
  | .fwdS => 0x18 | .fwdO => 0x19 | .inv => 0x1A | .data => 0x1B

/-- A snoop that carries data back to its sender. -/
def SnpOp.ofSpanOpc (opc : BitVec 6) : SnpOp :=
  if opc = 0x18 then .fwdS else if opc = 0x19 then .fwdO else if opc = 0x1A then .inv else .data

/-- A snoop before it is addressed to an agent. -/
def Snoop.blank (op : SnpOp) (ls : BitVec 6) (g : Gaid) (t : Txid) (l : Line) (who : SnpFor) : Snoop :=
  { la := 0, port := 0, ls := ls, op := op, once := false, homeCopy := false, gateCopy := false, gaid := g, txid := t, line := l,
    who := who, offered := 0, late := false, got := none, dataIn := false }

/-- Sends one snoop. An agent that is not online is answered for with `DEAD` = 1 (R142), one that does not cache or is parked
with `RSP_I` (R253, R412). -/
def Hub.snoopOne (h : Hub) (hs : Nat) (sn : Snoop) (crit : Bool) (la : La) : Hub × Option Answer :=
  let a := h.agent la
  let h := h.count 0x020 sn.ls.toNat 1
  if !a.online || a.dead then (h, some ⟨la, .i, 0, true⟩)
  else if !a.caching || a.parked then (h, some ⟨la, .i, 0, false⟩)
  else
    let k : Snoop := { sn with la := la, port := a.port, offered := h.round + 1 }
    let m : AgentMsg := { agentMsg sn.op.opc sn.gaid sn.txid sn.line la with once := sn.once, crit := crit }
    (((h.onAp a.port fun p => { p with snoops := p.snoops ++ [k] }).toAgent hs m).count 0x020 (0x50 + a.port.toNat) 1, none)

/-- Sends a snoop to each of a list of agents; answers the answers that come at once. -/
def Hub.snoopEach (hs : Nat) (sn : Snoop) (crit : Bool) : List La → Hub → Hub × List Answer
  | [], h => (h, [])
  | la :: t, h =>
    let r := h.snoopOne hs sn crit la
    let rest := Hub.snoopEach hs sn crit t r.1
    match r.2 with
    | some a => (rest.1, a :: rest.2)
    | none => rest

/-- A port multicast from a slice (R310): injected once, its latency that of its longest branch, and it leaves the mesh at every port (R321). -/
def Hub.multicast (h : Hub) (hs : Nat) (las : List La) : Hub :=
  let far (n : Nat) (p : BitVec 4) : Bool := decide (meshCycles hs n < meshCycles hs (epAp p.toNat))
  match h.portsOf (las.filter fun a => (h.agent a).online && !(h.agent a).dead && (h.agent a).caching && !(h.agent a).parked) with
  | [] => h
  | p :: t =>
    let last := t.foldl (fun n q => if far n q then epAp q.toNat else n) (epAp p.toNat)
    ((p :: t).filter fun q => epAp q.toNat != last).foldl (fun h q => h.ejected (epAp q.toNat) false 16) (h.moved hs last false 16)

/-- Sends a snoop to a list of agents as one multicast. -/
def Hub.snoopAll (hs : Nat) (sn : Snoop) (crit : Bool) (las : List La) (h : Hub) : Hub × List Answer :=
  let r := Hub.snoopEach hs sn crit las h
  (r.1.multicast hs las, r.2)

/-- A broadcast is counted once (R455). -/
def Hub.countBroadcast (h : Hub) (ls : BitVec 6) (b : Bool) : Hub := if b then h.count 0x021 ls.toNat 1 else h

/-! ### Reservations (R173–R178) -/

/-- The granule of a home line's window in lines (R173). -/
def Hub.granule (h : Hub) (l : Line) : Nat :=
  match h.winOf l with
  | some n => 2 ^ h.p (0xC0 + n)
  | none => 1

/-- The anchor line of a home line's granule. -/
def Hub.anchorOf (h : Hub) (l : Line) : Line := BitVec.ofNat 46 (l.toNat / h.granule l * h.granule l)

/-- A reservation entry covers a line of its granule (R174). -/
def Rsv.covers (r : Rsv) (l : Line) : Bool :=
  decide (r.anchor.toNat ≤ l.toNat) && decide (l.toNat < r.anchor.toNat + 2 ^ r.gran.toNat)

/-- The anchor lines other than a line's own whose reservations it may end (R177). -/
def Hub.otherAnchors (h : Hub) (l : Line) : List Line :=
  let held := h.slices.flatMap fun e => (e.2.rsv.filter fun r => r.covers l && r.anchor != l).map fun r => r.anchor
  ((if h.anchorOf l = l then [] else [h.anchorOf l]) ++ held).eraseDups

/-- A transaction that writes a line, or grants it exclusively, ends reservations on its granule (R176, R177): those of the line
itself at once, those anchored elsewhere by a clear notice whose acknowledgement the gate awaits. A write leaves its own agent's
reservation. -/
def Hub.endRsv (h : Hub) (hs : Nat) (tid : Byte) (l : Line) (g : Gaid) (t : Txid) (write : Bool) : Hub :=
  let h := h.onSlice hs fun s => { s with rsv := s.rsv.filter fun r => !(r.anchor == l && !(write && r.gaid == g)) }
  let others := h.otherAnchors l
  let notes := others.map fun a => ((1 : BitVec 2), (⟨a, l, g, t, if write then 1 else 0⟩ : RsvNotice))
  let h := { h with rsvNotes := h.rsvNotes ++ notes }
  h.onTxn hs tid fun x => { x with gate := { x.gate with acks := x.gate.acks + others.length } }

/-! ### Messages between hubs -/

/-- An answer of this hub as a holder (R206). -/
def spanRspFlit (g : Gaid) (t : Txid) (l : Line) (kept : BitVec 2) (copy : Bool) : Flit :=
  Flit.plain g t l (lowField 27 kept.toNat ||| lowBit 26 copy)

/-- `SPAN_CMP` (R207). -/
def spanCmpFlit (g : Gaid) (t : Txid) (l : Line) (outcome sgrant : BitVec 2) (acks : Nat) : Flit :=
  Flit.plain g t l (lowField 27 outcome.toNat ||| lowField 25 sgrant.toNat ||| lowField 15 (acks % 1024))

/-- `SPAN_TICKET` and `SPAN_DEFER` (R207). -/
def spanDelayFlit (g : Gaid) (t : Txid) (l : Line) (back : Bool) (delay : Nat) : Flit :=
  Flit.plain g t l (lowBit 28 back ||| lowField 12 (delay % 65536))

/-! ### Statistics of a transaction (R459, R461) -/

/-- The bucket of a resolution time (R459, kind 5). -/
def resBucket (n : Nat) : Nat :=
  if n ≤ 3 then 0 else if n ≤ 6 then 1 else if n ≤ 10 then 2 else if n ≤ 31 then 3 else if n ≤ 74 then 4
  else if n ≤ 255 then 5 else if n ≤ 1023 then 6 else 7

/-- A resolution is counted for its logical slice. -/
def Hub.countRes (h : Hub) (ls : BitVec 6) (n : Nat) : Hub :=
  { h with pmc := { h.pmc with resHist := h.pmc.resHist.upd ls.toNat [] fun l => addBucket l (resBucket n) } }

/-- `SRCD` (R461). -/
def Src.code : Src → Nat
  | .hubCache => 0 | .writeBuffer => 1 | .forward => 2 | .memory => 3 | .span => 4 | .none => 5

/-- The span opcode of a request (R208). -/
def ReqOp.spanOpc : ReqOp → BitVec 6
  | .rdShared => 0x00 | .rdAny => 0x01 | .rdOwn => 0x02 | .upgrade => 0x03 | .rdOnce => 0x04 | .rsvLoad => 0x04
  | .wrFull => 0x08 | .wrPart => 0x08 | .rsvStore => 0x08 | .atom => 0x0B

/-- A sample record is written as its transaction closes (R461). -/
def Hub.sample (h : Hub) (t : Txn) : Hub :=
  if t.sampled then
    let w0 : Word := (t.req.op.opc ++ t.req.txid ++ t.req.gaid ++ t.req.line.ls ++ h.pmc.smpSeq ++ (0 : Byte))
    let w1 : Word := t.req.line.pa.setWidth 64
    let res := min 0xFFFF (t.relAt - t.acc)
    let w3 : Word := BitVec.ofNat 64 (res * 2 ^ 48 + t.gate.prepSrc.code * 2 ^ 45 + t.req.age % 4096 * 2 ^ 32 + t.view.code.toNat * 2 ^ 24)
    { h with pmc := { h.pmc with
        samples := h.pmc.samples.put h.pmc.smpNext ⟨w0, w1, BitVec.ofNat 64 t.acc, w3⟩
        smpNext := (h.pmc.smpNext + 1) % 64
        smpSeq := h.pmc.smpSeq + 1 } }
  else h

/-- The transaction that a flit's GAID, `TXID` and line name. -/
def Hub.findTxn (h : Hub) (g : Gaid) (t : Txid) (l : Line) : Option Txn :=
  (h.slice (h.homeHs l)).txns.find? fun x => x.req.line == l && x.req.gaid == g && x.req.txid == t

end Sys2Proof.Machine
end

