-- ==== Sys2Proof/Machine/Gate.lean ====
section
/-!
DEFINITION. From the last answer to the close of a transaction: the judgement of its answers (R101, R127, R144, R145), the
base of its written bytes (R116) and the far atomic (R121), the release of its gate (R59, R112, R209, R210), the home's part
toward a requester hub (R218), its close and its gecko hold (R66, R124, R143). `Hub.settle` runs all of them on a transaction
after anything that it waits for has come.
-/
namespace Sys2Proof.Machine

/-! ### Judging the answers -/

/-- An answer that carries data (R112). -/
def Answer.carries (a : Answer) : Bool := a.rsp == .fwdS || a.rsp == .fwdI || a.rsp == .wb

/-- The agents' copies that a broadcast finds (R101), sharers by number; the forwarder is the agent that keeps F. -/
def keptView (answers : List Answer) : SView :=
  let as_ := List.sorted (fun (a b : Answer) => decide (a.la.toNat < b.la.toNat)) answers
  match as_.find? fun a => a.kept == 3 with
  | some a => .own a.la
  | none =>
    let l := (as_.filter fun a => a.kept == 1 || a.kept == 2).map fun a => a.la
    let f := (as_.find? fun a => a.kept == 2).map fun a => a.la
    if l.isEmpty then .unc else if l.length ≤ 3 then .shr l f else .brd (f.getD 0) f.isSome

/-- The answers of a broadcast that leave no rebuilt entry (R101). -/
def Gate.dupData (g : Gate) : Bool :=
  g.dup || g.answers.any fun a => a.kept == 3 && g.fwdFrom != some a.la

/-- Some answer has brought data. -/
def Gate.gotData (g : Gate) : Bool := g.fwd.isSome || g.cross.isSome || g.wbData

/-- The mark of R144 case 4 on the sweep of a `DEG` way that makes a line a candidate. -/
def Slice.lossMark (s : Slice) (l : Line) : Option La :=
  match s.sweeps.find? fun x => !x.span && x.set == l.sfSet && x.loss.isSome && s.degCandidate l x.way.toNat with
  | some x => x.loss
  | none => none

/-- A conditional store that failed at the home: it snoops nobody, writes nothing and settles no entry (R122). -/
def Txn.failed (t : Txn) : Bool := t.req.op == .rsvStore && !t.spanReq && t.gate.outcome == oNoRsv

/-- The loss that a transaction's answers show: the dead agent and the case of R144. -/
def Slice.lossOf (s : Slice) (t : Txn) : Option (La × Nat) :=
  if t.req.op = .wrFull || t.failed || t.gate.gotData then none
  else match t.view with
    | .own o =>
      if t.gate.answers.any fun a => a.la == o && a.dead then some (o, if t.snooped.contains o then 1 else 2) else none
    | .deg _ =>
      match t.gate.answers.find? fun a => a.dead with
      | some a => some (a.la, 1)
      | none => (s.lossMark t.req.line).map fun la => (la, 4)
    | _ => none

/-- Raises `EVT_SF_LINE_LOST` with the line, the dead agent and the case (R145). -/
def Hub.raiseLost (h : Hub) (hs : Nat) (l : Line) (la : La) (case_ : Nat) : Hub :=
  h.raise { rzLine evSfLineLost hs l with gaid := some (Gaid.mk h.num la), value := BitVec.ofNat 64 case_ }

/-- The poison that a lost line leaves (R145): a mark for the whole line in the write buffer, or under a partial write the
unwritten bytes. -/
def Hub.lineLost (h : Hub) (hs : Nat) (t : Txn) (la : La) (case_ : Nat) : Hub :=
  let h := h.raiseLost hs t.req.line la case_
  let h := h.onTxn hs t.tid fun x => { x with gate := { x.gate with lost := true } }
  if t.req.op.staged then
    (({ h with freeCtr := h.freeCtr + 1 }).enterBase hs t.req.line (Config.freeLine h.freeCtr) true).onTxn hs t.tid
      fun x => { x with baseDue := false }
  else h.poisonMark hs t.req.line (!t.spanReq)

/-- A dead agent is taken out of an `OWN` entry: the line is lost (R144, case 3) unless the buffered data is that agent's own writeback. -/
def Hub.ownerLost (h : Hub) (hs : Nat) (l : Line) (a : La) : Hub :=
  let kept : Bool := match h.wbFind hs l with
    | some x => x.lastWb == some (Gaid.mk h.num a)
    | none => false
  if kept then h else (h.raiseLost hs l a 3).poisonMark hs l (h.isHome l)

/-- Ends the `DEG` of a line's exact way (R101). -/
def Hub.endExact (h : Hub) (hs : Nat) (l : Line) (w : Nat) : Hub :=
  (h.onSlice hs fun s => s.dropSweep false l.sfSet w).raise { rz evSfSweepDone hs with sw := some (l.sfSet, BitVec.ofNat 4 w) }

/-- Writes the rebuilt entry of a `DEG` line into the way it holds (R101). -/
def Hub.rebuild (h : Hub) (hs : Nat) (t : Txn) : Hub :=
  match (h.slice hs).wayOf t.req.line with
  | none => h
  | some w =>
    let l := t.req.line
    let exact := (h.slice hs).viewAt l.sfSet w == some (.deg true)
    if t.gate.dupData then
      let h := (h.putSf hs l.sfSet w ((SView.deg true).word l.sfTag)).onSlice hs fun s =>
        (s.dropWay l).queueSweep false l.sfSet w
      h.raise (rzTx evSfDupData hs l t.req.gaid t.req.txid)
    else
      let h := if exact then h.endExact hs l w else h
      let h := ((h.slice hs).healthyWays l).foldl (fun h k => if k = w then h else h.putSf hs l.sfSet k 0) h
      let base := keptView t.gate.answers
      let v := if t.req.span then
          (if t.req.op.isOwn || t.req.op.isWrite then .unc else base)
        else entryAfter base t.req.op t.req.gaid.la (!t.spanReq || t.rfwd)
      let h := h.putEntry hs l w v
      (h.onSlice hs fun s => s.unskip l).onTxn hs t.tid fun x => { x with entry := some v }

/-- Judges the local answers once the last is in: a rebuilt entry, the grant of an `RD_ANY` that found `DEG` (R109), a lost
line, and the owner that a reservation load met (R175). -/
def Hub.judge (h : Hub) (hs : Nat) (tid : Byte) : Hub :=
  match h.txn hs tid with
  | none => h
  | some t =>
    let g := t.gate
    if t.phase != .looked || g.judged || !g.expect.isEmpty || !g.fwdWait.isEmpty then h
    else
      let isDeg : Bool := !t.failed && match t.view with
        | .deg _ => true
        | _ => false
      let keeps := g.answers.any fun a => a.kept != 0
      let alone := isDeg && t.req.op == .rdAny && !t.req.span && !t.spanReq && !keeps && t.hview == .none
      let h := h.onTxn hs tid fun x => { x with gate := { x.gate with
        judged := true
        rsvOwner := x.gate.rsvOwner || (x.req.op == .rsvLoad && x.gate.answers.any fun a => a.kept == 3)
        grant := if alone then gE else x.gate.grant } }
      let h := match (h.slice hs).lossOf t with
        | some (la, c) => h.lineLost hs t la c
        | none => h
      let h := if alone then
          h.endRsv hs tid t.req.line t.req.gaid t.req.txid false
        else h
      if isDeg then h.rebuild hs t else h

/-- The hubs whose answers to an owner search keep a shared copy (R225) join the entry of a read. -/
def HView.withSharers (v : HView) (l : List HubNo) : HView :=
  let all := (match v with
    | .shr k => k ++ l
    | .own x => x :: l
    | _ => l).eraseDups
  if l.isEmpty then v else if all.length ≤ 2 then .shr all else .brd

/-- Writes the rebuilt entry of a `HUB_DEG` line once every hub has answered (R222, R225). -/
def Hub.rebuildHub (h : Hub) (hs : Nat) (tid : Byte) : Hub :=
  match h.txn hs tid with
  | none => h
  | some t =>
    match t.hentry with
    | none => h
    | some e =>
      if t.phase != .looked || !t.copies.isEmpty then h
      else
        let l := t.req.line
        let sharers := (t.hubAns.filter fun x => x.2.1 == 1).map fun x => x.1
        let e := if t.req.op.isShared || t.req.op.isOnce then e.withSharers sharers else e
        let keep := (h.slice hs).hwayOf l
        let h := ((h.slice hs).healthySd l).foldl (fun h w => if keep = some w then h else h.putSd hs l.sdSet w 0) h
        ((h.setHub hs l e).onSlice hs fun s => s.unskipHub l).onTxn hs tid fun x => { x with hentry := none }

/-- The data that the gate passes on, whether as `DAT_FWD`, and its source. -/
def Gate.choose (g : Gate) : Option (Payload × Bool × Src) :=
  match g.fwd with
  | some d => some (d, true, .forward)
  | none =>
    match g.wbGate.or g.cross with
    | some d => some ({ d with dirty := false }, false, .writeBuffer)
    | none =>
      match g.spanData with
      | some d => some (d, true, .span)
      | none =>
        match g.homeData with
        | some d => some (d, d.dirty, .span)
        | none => g.prep.map fun d => ({ d with dirty := false }, false, g.prepSrc)

/-! ### Bases and atomics (R116, R121, R338) -/

/-- Every answer that can bring a base is in. -/
def Txn.basesIn (t : Txn) : Bool := t.gate.judged && t.copies.isEmpty

/-- The current value of a home line for a transaction's write: the write buffer's line, else the prepared data. -/
def Hub.current (h : Hub) (hs : Nat) (t : Txn) : Option (LineBits × Bool) :=
  match h.wbFind hs t.req.line with
  | some x => if x.whole then some (x.bytes, x.poison) else t.gate.prep.map fun d => (d.bytes, d.poison)
  | none => t.gate.prep.map fun d => (d.bytes, d.poison)

/-- The atomic unit computes over the line's current value (R121); poisoned data is never computed over (R338). -/
def Hub.atomUnit (h : Hub) (hs : Nat) (t : Txn) (value : LineBits) (poison : Bool) : Hub :=
  let r := t.req
  let src := match t.gate.choose with
    | some (_, _, k) => k
    | none => t.gate.prepSrc
  let done (h : Hub) (p : Bool) : Hub := h.onTxn hs t.tid fun x => { x with
    baseDue := false
    wrote := true
    gate := { x.gate with
      prep := some (payload (atomOld r.aoff value) false p)
      prepSrc := src
      fwd := none
      wbGate := none
      cross := none } }
  if poison || t.gate.lost then
    done (h.raise (rzTx evHubAtomPoison hs r.line r.gaid r.txid)) true
  else
    let new := atomResult r.aop r.asize r.aoff r.pair r.operand value
    let h := (h.enterBase hs r.line value false).enterWritten hs r.line true new (atomMask r.asize r.aoff) 0
    done h false

/-- The base of a partial write whose bytes are in the write buffer: the line may be whole, or have left the buffer whole, over a writeback
that came meanwhile; else its current value completes it (R116). -/
def Hub.baseWritten (h : Hub) (hs : Nat) (t : Txn) : Hub :=
  let done (h : Hub) : Hub := h.onTxn hs t.tid fun x => { x with baseDue := false }
  match h.wbFind hs t.req.line with
  | none => done h
  | some x =>
    if x.whole then done h
    else match h.current hs t with
      | some (v, p) => done (h.enterBase hs t.req.line v p)
      | none => h

/-- Completes the base of a partial write or performs an atomic, once its value is at the slice. -/
def Hub.settleBase (h : Hub) (hs : Nat) (tid : Byte) : Hub :=
  match h.txn hs tid with
  | none => h
  | some t =>
    if !t.baseDue || t.spanReq || t.lock || !t.basesIn then h
    else if t.req.op != .atom then (if t.wrote then h.baseWritten hs t else h)
    else match h.current hs t with
      | none => h
      | some (v, p) => h.atomUnit hs t v p

/-! ### Release (R59, R112, R209) -/

/-- The gate of a local requester has everything (R59, R209). -/
def Txn.gateReady (t : Txn) : Bool :=
  let g := t.gate
  let early := t.spanReq && (t.req.op.isShared || t.req.op == .rdOnce) && g.fwd.isSome
  let span := early || ((!t.spanReq || g.spanCmp) && decide (g.spanAcks ≤ g.spanGot) && (!g.spanFwd || g.spanData.isSome))
  g.judged && span && g.acks == 0 && !g.pullWait && (!g.need || g.choose.isSome)
    && (t.req.op != .atom || t.spanReq || !t.baseDue || t.lock) && (t.req.op != .rsvLoad || t.copies.isEmpty)

/-- The grant that leaves the gate: the dirty rule of R112 on ownership served with data. -/
def Gate.finalGrant (g : Gate) (op : ReqOp) : BitVec 3 :=
  if op.isOwn && g.need then
    match g.choose with
    | some (d, true, _) => if d.dirty then gM else gE
    | _ => gE
  else g.grant

/-- The outcome that leaves the gate (R175, R178). -/
def Gate.finalOutcome (g : Gate) (op : ReqOp) : BitVec 2 := if op = .rsvLoad ∧ g.rsvOwner then oNoRsv else g.outcome

/-- The data message to a local requester: the beat of the old value for an atomic (R171). -/
def Txn.datMsg (t : Txn) (d : Payload) (fwd : Bool) : AgentMsg :=
  let half := t.req.op == .atom
  { agentMsg (if fwd then opDatFwd else opDatHome) t.req.gaid t.req.txid t.req.line t.req.gaid.la with
    crit := if half then t.req.aoff.getLsbD 5 else t.req.crit
    data := some (if half then atomOld t.req.aoff d.bytes else d.bytes, d.dirty, d.poison || t.gate.lost)
    be := if half then halfMask t.req.aoff else 0 }

/-- The edge router's reservation record after a `CMP` of an `RSV_LOAD` with `O_DONE` (R179). -/
def Hub.rsvDone (h : Hub) (r : Req) : Hub :=
  { h with rsvRecs := h.rsvRecs.change r.gaid.la.toNat fun k =>
      { k with home := (h.remoteHome r.line).getD h.num, anchor := r.line, valid := true, made := r.rsvSeq } }

/-- A release of a reservation toward another hub (R179). -/
def Hub.sendRsvRelease (h : Hub) (home : HubNo) (g : Gaid) (anchor : Line) (seq : BitVec 12) : Hub :=
  h.toHub home 0x2D (Flit.plain g 0 anchor (lowField 3 seq.toNat)) none none

/-- The reservation that a failed load made is removed at the anchor slice (R175). -/
def Slice.dropRsv (s : Slice) (g : Gaid) (anchor : Line) : Slice :=
  { s with rsv := s.rsv.filter fun r => !(r.gaid == g && r.anchor == anchor) }

/-- Releases the gate of a local requester (R59), or, for a dead one, keeps only dirty data (R143). A reservation that an owner's answer refuses
is removed where the load made it (R175), from a proxy by a release (R179; DEDUCED, assumption log 86). -/
def Hub.release (h : Hub) (hs : Nat) (t : Txn) : Hub :=
  let g := t.gate
  let r := t.req
  let c := g.choose
  let src := match c with
    | some (_, _, k) => if g.need then k else .none
    | none => .none
  let grant := g.finalGrant r.op
  let outcome := g.finalOutcome r.op
  let h := h.onTxn hs t.tid fun x => { x with relAt := h.round, given := !x.deadReq, gate := { x.gate with released := true, prepSrc := src, grant := grant } }
  let h := if r.op = .rsvLoad ∧ outcome = oNoRsv then
      match h.remoteHome r.line with
      | some e => if t.spanReq then h.sendRsvRelease e r.gaid r.line r.rsvSeq else h
      | none => h.onSlice hs fun s => s.dropRsv r.gaid r.line
    else h
  if t.deadReq then
    match c with
    | some (d, _, _) =>
      if d.dirty then h.enterValue hs r.line .accepted (!t.spanReq) d.bytes (if d.poison then allBytes else 0) none else h
    | none => h
  else
    let h := if g.need then
        match c with
        | some (d, fwd, _) => h.toAgent hs (t.datMsg d fwd)
        | none => h
      else h
    let h := if r.op = .rsvLoad ∧ outcome = oDone then h.rsvDone r else h
    (h.sendCmp hs r.gaid r.txid r.line grant outcome).countRes r.line.ls (h.round - t.acc)

/-! ### The home toward a requester hub (R218) -/

/-- The home's own answer as one of the holders that the requester hub waits for. -/
def Txn.homeAnswer (t : Txn) : BitVec 6 × BitVec 2 :=
  if t.gate.fwd.isSome || t.gate.wbGate.isSome || t.gate.cross.isSome then (0x22, if t.gate.answers.any fun a => a.kept != 0 then 1 else 0)
  else if t.gate.answers.any fun a => a.kept != 0 then (0x21, 1)
  else (0x20, 0)

/-- The owner search of a `HUB_DEG` line is over (R222, R225): its owner's data goes before what the home has prepared. -/
def Txn.hubsFound (t : Txn) : Bool := t.hview != .deg || t.copies.isEmpty

/-- Sends a requester hub what is due: `SPAN_CMP`, the home's own answer, the data. -/
def Hub.serveHub (h : Hub) (hs : Nat) (tid : Byte) : Hub :=
  match h.txn hs tid with
  | none => h
  | some t =>
    let g := t.gate
    let r := t.req
    let to_ := r.gaid.hub
    let cmpDue := !g.spanCmp && g.acks == 0 && !g.pullWait && (r.op != .rsvLoad || (g.judged && t.copies.isEmpty))
    let h := if cmpDue then
        let out := g.finalOutcome r.op
        let h := if r.op = .rsvLoad ∧ out = oNoRsv then h.onSlice hs fun s => s.dropRsv r.gaid r.line else h
        let h := h.onTxn hs tid fun x => { x with gate := { x.gate with spanCmp := true } }
        (h.toHub to_ 0x28 (spanCmpFlit r.gaid r.txid r.line out g.spanGrant g.spanAcks) none none).clearRefusal r.gaid r.txid r.line
      else h
    let h := if t.homeAns && g.judged then
        let a := t.homeAnswer
        (h.onTxn hs tid fun x => { x with homeAns := false }).toHub to_ a.1 (spanRspFlit r.gaid r.txid r.line a.2 false) none none
      else h
    if !g.released && g.judged && t.hubsFound && (!g.need || g.choose.isSome) && (r.op != .atom || !t.baseDue || t.lock) then
      let h := h.onTxn hs tid fun x => { x with relAt := h.round, gate := { x.gate with released := true } }
      let h := h.countRes r.line.ls (h.round - t.acc)
      match g.choose with
      | some (d, _, _) =>
        if g.need then
          h.toHub to_ 0x30 (Flit.plain r.gaid r.txid r.line 0)
            (some { d with
              bytes := if r.op = .atom then atomOld r.aoff d.bytes else d.bytes
              poison := d.poison || g.lost }) none
        else h
      | none => h
    else h

/-! ### Close -/

/-- Everything that keeps a transaction open has come, but for its base (R116, R218). -/
def Txn.served (t : Txn) : Bool :=
  t.phase == .looked && t.gate.judged && t.gate.released && t.copies.isEmpty && !t.homeAns
    && (!t.req.op.staged || t.spanReq || t.wrote || t.gate.outcome == oNoRsv)
    && (!t.req.span || t.gate.spanCmp) && (!t.spanReq || t.gate.spanCmp)

/-- Everything that keeps a transaction open has come. -/
def Txn.closable (t : Txn) : Bool := t.served && !t.baseDue

/-- The same for a dead requester's, whose line may still lack the base under its written bytes (R116, R143). -/
def Txn.closableDead (t : Txn) : Bool := t.served && (!t.baseDue || t.req.op.staged)

/-- The entry that a close leaves: without agents that a running walk removes, and without a dead requester (R143, R146). An owner that the walk
removes may have held the line's only current value (R144, case 3), a requester to which the gate never released has not (R149). -/
def Hub.fixEntry (h : Hub) (hs : Nat) (t : Txn) : Hub :=
  let l := t.req.line
  match (h.slice hs).healthyWays l with
  | w :: _ =>
    let v := ((h.slice hs).viewAt l.sfSet w).getD .unc
    let mask : BitVec 128 := match (h.slice hs).walk with
      | some k => k.mask
      | none => 0
    let ungiven (a : La) : Bool := t.deadReq && !t.req.span && a == t.req.gaid.la && !t.given
    let v' := v.without fun a => mask.getLsbD a.toNat || ungiven a
    let h := match v.owner with
      | some a => if v' = v || ungiven a || t.gate.lost then h else h.ownerLost hs l a
      | none => h
    if v' = v then h else h.putEntry hs l w v'
  | [] => h

/-- A transaction that waited for its predecessor goes on, with its line's way or on to wait for it; its bounds count from this round (R67,
R92). -/
def Slice.wakeNext (s : Slice) (l : Line) (n : Nat) : Slice :=
  let way := (s.wayOf l).map (BitVec.ofNat 4)
  let wake (t : Txn) : Txn :=
    let t := { t with way := way }
    if way.isNone || s.lacksHWay t.req then { t with phase := .waitWay } else t.goOn n
  { s with txns := List.replFirst (fun t => t.req.line == l && t.phase == .waitPred) wake s.txns }

/-- A transaction writes the settled entry of its line (R100): not one whose view was `DEG`, which the rebuilt entry settles, nor a conditional
store that failed, which writes no entry. -/
def Txn.settles (t : Txn) : Bool :=
  !t.failed && match t.view with
    | .deg _ => false
    | _ => true

/-- Closes a transaction. A granted one leaves a gecko hold from round `start` (R66). -/
def Hub.closeTxn (h : Hub) (hs : Nat) (t : Txn) (start : Option Nat) : Hub :=
  let l := t.req.line
  let h := h.fixEntry hs t
  let la := if t.req.span then none else some t.req.gaid.la
  let h := h.onSlice hs fun s => { s with
    txns := s.txns.filter fun x => x.tid != t.tid
    lastC0 := s.lastC0.put l.toNat t.worst
    holds := match start with
      | some n => s.holds ++ [⟨l, la, n + s.lineG (h.p 0x40) l - 1, t.way⟩]
      | none => s.holds }
  let h := (h.sample t).clearMasks hs l
  let h := h.onSlice hs fun s =>
    let s := if t.settles then s.unskip l else s
    (if t.failed || t.hview = .deg then s else s.unskipHub l).wakeNext l h.round
  let h := (h.settleWay hs l).chainEnd hs l
  h.proxyFlush hs l (t.view != .unc || t.gate.grant != 0)

/-- Closes a transaction whose close is due: an ungranted one, or one whose hold has begun. -/
def Hub.tryClose (h : Hub) (hs : Nat) (tid : Byte) : Hub :=
  match h.txn hs tid with
  | none => h
  | some t =>
    let granted := if t.req.span then t.gate.spanGrant != 0 else t.gate.grant != 0
    if !t.closable || t.deadReq then h
    else if !granted then h.closeTxn hs t none
    else match t.acked with
      | some n => h.closeTxn hs t (some n)
      | none => h

/-- A transaction that found its line in the write buffer without its base takes the line once it is whole (R111). -/
def Hub.fillPrep (h : Hub) (hs : Nat) (tid : Byte) : Hub :=
  match h.txn hs tid with
  | none => h
  | some t =>
    if t.phase != TPhase.looked || !t.gate.need || t.gate.prep.isSome || t.memRead || t.spanReq || t.gate.released then h
    else match h.wbFind hs t.req.line with
      | some x =>
        if x.whole && t.req.op != .atom then
          h.onTxn hs tid fun y => { y with gate := { y.gate with prep := some (payload x.bytes false x.poison), prepSrc := .writeBuffer } }
        else h
      | none => h

/-- Runs a transaction on as far as what has come allows. -/
def Hub.settle (h : Hub) (hs : Nat) (tid : Byte) : Hub :=
  let h := (((h.fillPrep hs tid).judge hs tid).rebuildHub hs tid).settleBase hs tid
  let h := match h.txn hs tid with
    | some t =>
      if t.phase != TPhase.looked then h
      else if t.req.span then h.serveHub hs tid
      else if t.gateReady && !t.gate.released then h.release hs t else h
    | none => h
  h.tryClose hs tid

/-- The gecko hold of a transaction begins (R66): at its acknowledgement or its worst close. -/
def Hub.startHold (h : Hub) (hs : Nat) (tid : Byte) : Hub :=
  (h.onTxn hs tid fun t => { t with acked := t.acked.or (some h.round) }).tryClose hs tid

end Sys2Proof.Machine
end

