-- ==== Sys2Proof/Machine/Backs.lean ====
section
/-!
DEFINITION. Back-invalidations (R94, R95, R224), the ends of sweeps (R102), `CMP_WB` and the ones that wait for an answer
(R120, R133).
-/
namespace Sys2Proof.Machine

/-! ### `CMP_WB` -/

/-- Sends `CMP_WB` to a local writer (R120): its edge router lets its copy of the writeback's data go (R60). -/
def Hub.sendCmpWb (h : Hub) (from_ : Nat) (la : La) (l : Line) (t : Txid) : Hub :=
  let p := (h.agent la).port
  let h := h.toAgent from_ (agentMsg opCmpWb (Gaid.mk h.num la) t l la)
  h.onAp p fun a => { a with
    staged := a.staged.filter fun d => !(d.wb && d.la == la && d.txid == t)
    outst := a.outst.filter fun o => !(o.wb && o.la == la && o.txid == t)
    cmpWbHeld := a.cmpWbHeld.filter fun c => c != (la, l, t) }

/-- A held `CMP_WB` goes once the agent's answer for the line has reached the slice (R133). -/
def Hub.releaseHeldWb (h : Hub) (la : La) (l : Line) : Hub :=
  let p := (h.agent la).port
  ((h.ap p).cmpWbHeld.filter fun c => c.1 == la && c.2.1 == l).foldl
    (fun h c => h.sendCmpWb (h.homeHs l) la l c.2.2) h

/-! ### Sweeps (R102, R225) -/

/-- The last candidate index of a sweep's way. -/
def Slice.sweepLast (s : Slice) (x : Sweep) : Nat :=
  if x.span then 595 else if s.viewAt x.set x.way.toNat = some (.deg true) then 0 else 528

/-- The sweep has visited every candidate and nothing of it remains. -/
def Slice.sweepOver (s : Slice) (x : Sweep) : Bool := decide (s.sweepLast x < x.ptr) && x.live == 0 && x.skip.isEmpty

/-- Ends the sweeps of a slice that are over: the way is written empty, `EVT_SF_SWEEP_DONE` raised. -/
def Hub.endSweeps (h : Hub) (hs : Nat) : Hub :=
  ((h.slice hs).sweeps.filter fun x => (h.slice hs).sweepOver x).foldl (fun h x =>
    let h := if x.span then (h.putSd hs (x.set.setWidth 12) x.way.toNat 0).onSlice hs fun s =>
        s.serveHubClaims h.round (x.set.setWidth 12) 8
      else (h.putSf hs x.set x.way.toNat 0).onSlice hs fun s => s.serveClaims h.round x.set 16
    (h.onSlice hs fun s => s.dropSweep x.span x.set x.way.toNat).raise
      { rz evSfSweepDone hs with sw := some (x.set, x.way) }) h

/-- A back-invalidation of a sweep has closed. -/
def Slice.sweepLess (s : Slice) (k : BackKind) : Slice :=
  let dec (span : Bool) (set : BitVec 14) (way : BitVec 4) : Slice :=
    let mine (x : Sweep) : Bool := x.span == span && x.set == set && x.way == way
    { s with sweeps := List.mapIf mine (fun x => { x with live := x.live - 1 }) s.sweeps }
  match k with
  | .sweep set way => dec false set way
  | .spanSweep set way => dec true set way
  | _ => s

/-! ### Run-ahead queues (R93, R224) -/

/-- Ways of a set that run-ahead has yet to free: occupied and held ones less those under way. -/
def Slice.aheadUsed (s : Slice) (set : BitVec 14) : Nat :=
  s.usedWays set - (s.backs.filter fun b => b.kind == .runAhead && b.line.sfSet == set).length

/-- The same for a span directory set. -/
def Slice.sdAheadUsed (s : Slice) (set : BitVec 12) : Nat :=
  s.usedHWays set - (s.backs.filter fun b => b.kind == .spanRunAhead && b.line.sdSet == set).length

/-- The span directory ways that may be evicted. -/
def Slice.sdEligible (s : Slice) (set : BitVec 12) (n : Nat) : List Nat :=
  (upTo 8).filter fun w =>
    match HView.ofWord (s.sdAt set w) with
    | some .none | some .deg | none => false
    | some _ => !s.pinned (sdLine (sdWordTag (s.sdAt set w)) set) n

/-- The queued sets that run-ahead could serve now. -/
def Hub.aheadSets (h : Hub) (hs : Nat) : List (BitVec 14) × List (BitVec 12) :=
  let s := h.slice hs
  (s.runQ.filter fun x => decide (h.p 0x80 < s.aheadUsed x) && !(s.eligible x h.round).isEmpty,
    s.sdRunQ.filter fun x => decide (h.p 0x185 < s.sdAheadUsed x) && !(s.sdEligible x h.round).isEmpty)

/-- Sets whose occupied and held ways have come down to the target leave the queues. -/
def Hub.trimQueues (h : Hub) (hs : Nat) : Hub :=
  h.onSlice hs fun s => { s with
    runQ := s.runQ.filter fun x => decide (h.p 0x80 < s.usedWays x)
    sdRunQ := s.sdRunQ.filter fun x => decide (h.p 0x185 < s.usedHWays x) }

/-! ### Back-invalidations -/

/-- The loss that a back-invalidation shows (R144): an owner, or any agent of an owner search, that died without data, or the
mark of case 4. -/
def Hub.backLost (h : Hub) (hs : Nat) (b : BackInv) : Option (La × Nat) :=
  if b.data then none
  else match b.kind with
    | .runAhead => b.deadOwner.map fun a => (a, 1)
    | .sweep set way =>
      match b.deadOwner with
      | some a => some (a, 1)
      | none => (((h.slice hs).sweepOf false set way.toNat).bind fun x => x.loss).map fun a => (a, 4)
    | _ => none

/-- Closes a back-invalidation: the entry is written `UNC` or `NONE`, a loss is marked, and a remote line's home is told
(R94, R211). -/
def Hub.finishBack (h : Hub) (hs : Nat) (b : BackInv) : Hub :=
  let l := b.line
  let home := h.isHome l
  let h := match h.backLost hs b with
    | some (la, c) => (h.raiseLost hs l la c).poisonMark hs l home
    | none => h
  let h := h.onSlice hs fun s => ({ s with backs := s.backs.filter fun x => x.line != b.line }).sweepLess b.kind
  let h := match b.kind with
    | .spanRunAhead => h.setHub hs l .none
    | .spanSweep _ _ => h
    | .runAhead | .lostHome =>
      match (h.slice hs).healthyWays l with
      | w :: _ => h.putEntry hs l w .unc
      | [] => h
    | .sweep _ _ => h
  let h := h.onSlice hs fun s => if (s.txns.any fun t => t.req.line == l && t.phase != .waitPred) then s else s.wakeNext l h.round
  let h := match b.kind with
    | .lostHome => h.dropWb hs l
    | .spanRunAhead | .spanSweep _ _ => h
    | _ => if home then h else h.proxyFlush hs l true
  (h.endSweeps hs).trimQueues hs

/-- Closes a back-invalidation once every answer is in. -/
def Hub.tryBack (h : Hub) (hs : Nat) (l : Line) : Hub :=
  match (h.slice hs).backOn l with
  | some b => if b.expect.isEmpty && b.hubs.isEmpty then h.finishBack hs b else h
  | none => h

/-- An agent's answer to a back-invalidation. Data enters the write buffer, or is discarded where the home is lost (R228). -/
def Hub.backAnswer (h : Hub) (hs : Nat) (idx : BitVec 2) (l : Line) (a : Answer) (d : Option (LineBits × ByteMask)) : Hub :=
  match (h.slice hs).backs.find? fun b => b.idx == idx && b.line == l with
  | none => h
  | some b =>
    let owner : Bool := match b.view with
      | .own o => o == a.la
      | .deg _ => true
      | _ => false
    let upd (x : BackInv) : BackInv := { x with
      expect := x.expect.filter fun k => k != a.la
      data := x.data || a.rsp == .wb || a.rsp == .cross
      deadOwner := if owner && a.dead then some a.la else x.deadOwner }
    let h := h.onSlice hs fun s => { s with backs := List.mapIf (fun x => x.line == l) upd s.backs }
    let h := match d with
      | some (bytes, pois) =>
        if b.kind == BackKind.lostHome then h
        else h.enterValue hs l .backInv (h.isHome l) bytes pois (some (Gaid.mk h.num a.la))
      | none => h
    h.tryBack hs l

/-- A free in-flight entry of a slice's run-ahead engine, while fewer are in flight than `SF_RUNAHEAD_INFLIGHT` (R93, R104). -/
def Hub.freeBack (h : Hub) (hs : Nat) : Option (BitVec 2) :=
  let backs := (h.slice hs).backs
  if backs.length < h.p 0x81 then ((upTo 4).map (BitVec.ofNat 2)).find? fun i => !(backs.any fun b => b.idx == i) else none

/-- The agents that a back-invalidation snoops, and whether with `SNP_DATA` (R94, R102). -/
def Hub.backTargets (h : Hub) (v : SView) (l : Line) : List La × Bool :=
  match v with
  | .own a => ([a], true)
  | .shr k _ => (k, false)
  | .brd _ _ => (h.domain l, false)
  | .deg _ => (h.domain l, true)
  | .unc => ([], false)

/-- Starts a back-invalidation of a line's local copies. -/
def Hub.startBack (h : Hub) (hs : Nat) (idx : BitVec 2) (kind : BackKind) (l : Line) (v : SView) : Hub :=
  let t := h.backTargets v l
  let b : BackInv := {
    idx := idx, kind := kind, line := l, start := h.round, view := v, expect := t.1, hubs := [], data := false,
    due := 0, deadOwner := none }
  let h := h.onSlice hs fun s => { s with backs := s.backs ++ [b] }
  let ls := l.ls
  let g := Gaid.mk h.num 0
  let x := BitVec.ofNat 12 (ls.toNat * 4 + idx.toNat)
  let sn := Snoop.blank (if t.2 then .data else .inv) ls g x l (.backInv idx)
  let r := Hub.snoopAll hs sn false t.1 (h.count 0x022 ls.toNat 1)
  (r.2.foldl (fun h a => h.backAnswer hs idx l a none) r.1).tryBack hs l

/-- Starts a span back-invalidation of a home line (R224, R225); Span Grace for its holders ends `SPAN_GRACE` rounds after their answers are
due within the Span Resolution Bound (R228; DESIGN CHOICE, assumption log 83). -/
def Hub.startSpanBack (h : Hub) (hs : Nat) (idx : BitVec 2) (kind : BackKind) (l : Line) (v : HView) : Hub :=
  let group := h.spanGroup l
  let hubs := match v with
    | .own x => [x]
    | .shr k => k
    | .brd | .deg => group
    | .none => []
  let hubs := hubs.filter fun x => h.reachable x
  let data := match v with
    | .own _ | .deg => true
    | _ => false
  let b : BackInv := {
    idx := idx, kind := kind, line := l, start := h.round, view := .unc, expect := [], hubs := hubs, data := false,
    due := h.round + h.spanResBound + h.p 0x183, deadOwner := none }
  let h := (h.onSlice hs fun s => { s with backs := s.backs ++ [b] }).count 0x022 l.ls.toNat 1
  let f := Flit.plain (Gaid.mk h.num 0) (BitVec.ofNat 12 (l.ls.toNat * 4 + idx.toNat)) l 0
  (hubs.foldl (fun h x => h.toHub x (if data then 0x1B else 0x1A) f none none) h).tryBack hs l

/-- A holder hub's answer to a span back-invalidation. -/
def Hub.backHub (h : Hub) (hs : Nat) (l : Line) (from_ : HubNo) (d : Option Payload) : Hub :=
  match (h.slice hs).backs.find? fun b => b.line == l && b.hubs.contains from_ with
  | none => h
  | some _ =>
    let upd (x : BackInv) : BackInv := { x with
      hubs := x.hubs.filter fun k => k != from_
      data := x.data || d.isSome }
    let h := h.onSlice hs fun s => { s with backs := List.mapIf (fun x => x.line == l) upd s.backs }
    let h := match d with
      | some p => h.enterValue hs l .backInv true p.bytes (if p.poison then allBytes else 0) none
      | none => h
    h.tryBack hs l

end Sys2Proof.Machine
end

