-- ==== Sys2Proof/Machine/Held.lean ====
section
/-!
DEFINITION. Span snoops at a holder hub (R226, R227): their held entries, local snoops and answers.
-/
namespace Sys2Proof.Machine

/-- The local snoop that serves a span snoop at an agent, and the agents (R226): the supplier, then the rest. -/
def Hub.heldTargets (h : Hub) (op : SnpOp) (v : SView) (l : Line) : List La × List La :=
  match op, v with
  | .fwdS, .own a => ([a], [])
  | .fwdS, .shr _ f => (f.toList, [])
  | .fwdS, .brd p f => (if f then [p] else [], [])
  | .fwdS, .deg _ => (h.domain l, [])
  | .fwdS, .unc => ([], [])
  | .fwdO, .own a => ([a], [])
  | .fwdO, .shr k f => (f.toList, k.filter fun x => some x != f)
  | .fwdO, .brd p f => (if f then [p] else [], (h.domain l).filter fun x => !(f && x == p))
  | .fwdO, .deg _ => (h.domain l, [])
  | .fwdO, .unc => ([], [])
  | .inv, .own a => ([], [a])
  | .inv, .shr k _ => ([], k)
  | .inv, .brd _ _ => ([], h.domain l)
  | .inv, .deg _ => ([], h.domain l)
  | .inv, .unc => ([], [])
  | .data, .own a => ([a], [])
  | .data, .shr k _ => ([], k)
  | .data, .brd _ _ => ([], h.domain l)
  | .data, .deg _ => (h.domain l, [])
  | .data, .unc => ([], [])

/-! ### A local transaction that the snoop meets (R227) -/

/-- The open local transaction on a line that has looked up and whose gate has not released: its requester holds nothing of what it asked
for yet. -/
def Slice.unreleased (s : Slice) (l : Line) : Option Txn :=
  s.txns.find? fun t => t.req.line == l && t.phase == .looked && !t.gate.released && !t.req.span

/-- The agent of such a transaction that a span snoop passes over (R125): not the sharer that an `UPGRADE` was named by, whose copy it takes. -/
def Txn.passedOver (t : Txn) (a : La) : Bool := t.req.op != .upgrade && a == t.req.gaid.la

/-- The local data that the gate of such a transaction holds. -/
def Slice.gateData (s : Slice) (l : Line) : Option Payload :=
  (s.unreleased l).bind fun t => (t.gate.fwd.or t.gate.wbGate).or t.gate.cross

/-- The gate drops the local data it holds and takes none from here on (R227); an `UPGRADE` whose shared copy the snoop takes waits for
the home's data. -/
def Slice.shutGate (s : Slice) (l : Line) (op : SnpOp) : Slice :=
  let shut (t : Txn) : Txn := { t with gate := { t.gate with
    fwd := none
    wbGate := none
    cross := none
    need := t.gate.need || (t.req.op == .upgrade && op != .fwdS)
    shut := true } }
  { s with txns := List.mapIf (fun t => t.req.line == l && t.phase == .looked && !t.gate.released && !t.req.span) shut s.txns }

/-- Such a gate still waits for local answers: copies may remain that its transaction's snoops are taking. -/
def Slice.shutPending (s : Slice) (l : Line) : Bool :=
  match s.unreleased l with
  | some t => t.gate.shut && !(t.gate.expect.isEmpty && t.gate.fwdWait.isEmpty)
  | none => false

/-! ### The entry that a span snoop leaves, and the hub's answer -/

/-- An agent has answered that it keeps no copy. -/
def HeldSnoop.gone (k : HeldSnoop) (a : La) : Bool := k.answers.any fun x => x.la == a && x.kept == 0

/-- An agent has answered. -/
def HeldSnoop.answered (k : HeldSnoop) (a : La) : Bool := k.answers.any fun x => x.la == a

/-- Two of the answers carry data (R101). -/
def HeldSnoop.dupData (k : HeldSnoop) : Bool := decide (2 ≤ (k.answers.filter fun a => a.carries).length)

/-- The local entry after a span snoop (R83, R226): what a `SPAN_SNP_S` lets the agents keep, a forwarder that was not snooped staying
one; nothing after the others; and then what the unreleased transaction `t` writes over it (R227). -/
def heldEntry (k : HeldSnoop) (cur : SView) (t : Option Txn) : SView :=
  let others := match t with
    | some x => cur.without fun a => a == x.req.gaid.la
    | none => cur
  let base := match k.op with
    | .fwdS =>
      match others with
      | .own a => if k.gone a then .unc else .shr [a] none
      | .shr l f => SView.without (.shr l (f.bind fun a => if k.answered a then none else some a)) k.gone
      | .brd p f => .brd p (f && !k.answered p)
      | v => v
    | _ => .unc
  if k.once then cur
  else match t with
    | some x => entryAfter base x.req.op x.req.gaid.la x.rfwd
    | none => base

/-- `KEPT` of this hub's answer (R207), from its agents' answers and the copies of those that it did not snoop. -/
def heldKept (k : HeldSnoop) (cur : SView) (t : Option Txn) : BitVec 2 :=
  let others := match t with
    | some x => cur.without fun a => a == x.req.gaid.la
    | none => cur
  let unasked : Bool := match others with
    | .own a => !k.answered a
    | .shr l _ => l.any fun a => !k.answered a
    | .brd _ _ => true
    | .deg _ => k.answers.isEmpty
    | .unc => false
  if k.op != .fwdS then 0
  else if k.answers.any fun a => a.kept == 3 then 3
  else if unasked || k.answers.any fun a => a.kept != 0 then 1 else 0

/-- Sends this hub's answer to a span snoop: to the requester hub, with a copy to the home (R206), or its data to the home. -/
def Hub.heldReply (h : Hub) (k : HeldSnoop) (kept : BitVec 2) : Hub :=
  if k.op = .data then
    match k.data with
    | some d => h.toHub k.home 0x24 (Flit.plain k.gaid k.txid k.line (lowField 27 0)) (some d) none
    | none =>
      (h.toHub k.gaid.hub 0x20 (spanRspFlit k.gaid k.txid k.line 0 false) none none).toHub k.home 0x20
        (spanRspFlit k.gaid k.txid k.line 0 true) none none
  else
    let opc : BitVec 6 := if k.data.isSome then 0x22 else if k.op = .fwdS ∧ kept ≠ 0 then 0x21 else 0x20
    (h.toHub k.gaid.hub opc (spanRspFlit k.gaid k.txid k.line kept false) none none).toHub k.home opc
      (spanRspFlit k.gaid k.txid k.line kept true) none none

/-- Data for a span snoop: it goes straight to the requester hub (R226), or waits for this hub's answer to the home. The first data is
taken. -/
def Hub.heldTake (h : Hub) (hs : Nat) (k : HeldSnoop) (d : Payload) : Hub :=
  if k.data.isSome || k.op == .inv then h
  else
    let h := if k.op = SnpOp.fwdS ∨ k.op = SnpOp.fwdO then
        h.toHub k.gaid.hub 0x30 (Flit.plain k.gaid k.txid k.line 0) (some d) none
      else h
    h.onSlice hs fun s => { s with helds := List.mapIf (fun x => x.idx == k.idx) (fun x => { x with data := some d }) s.helds }

/-- The line's data in the proxy's write buffer (R227). -/
def Hub.spanWbData (h : Hub) (hs : Nat) (l : Line) : Option Payload :=
  (h.wbFind hs l).bind fun x => if !x.home && x.whole then some (payload x.bytes true x.poison) else none

/-- The loss that the answers to a span snoop show (R144): an owner, or any agent of an owner search, that is dead, and no data. -/
def HeldSnoop.loss (k : HeldSnoop) : Option (La × Nat) :=
  if k.data.isSome || k.op == .inv then none
  else match k.view with
    | .own o => if k.answers.any fun a => a.la == o && a.dead then some (o, if k.snooped.contains o then 1 else 2) else none
    | .deg _ => (k.answers.find? fun a => a.dead).map fun a => (a.la, 1)
    | _ => none

/-- Writes the entry that a span snoop leaves: over a healthy entry, or the rebuilt one of an exact `DEG` way (R101). -/
def Hub.heldWrite (h : Hub) (hs : Nat) (k : HeldSnoop) : Hub :=
  let l := k.line
  let s := h.slice hs
  let cur := s.homeView l
  if k.settled then h
  else match cur, s.healthyWays l, s.exactWay l with
    | .deg true, _, some w =>
      if (s.txnOn l).isSome then h
      else if k.dupData then h.raise (rzTx evSfDupData hs l k.gaid k.txid)
      else (h.endExact hs l w).putEntry hs l w (if k.op = .fwdS then keptView k.answers else .unc)
    | .deg _, _, _ => h
    | v, w :: _, _ =>
      let e := heldEntry k v (s.unreleased l)
      if e = v then h else h.putEntry hs l w e
    | _, [], _ => h

/-- Answers a span snoop and frees its entry. A line that is lost goes on poisoned, here and to its home (R145). -/
def Hub.endHeld (h : Hub) (hs : Nat) (k : HeldSnoop) : Hub :=
  let l := k.line
  let before := (h.slice hs).homeView l
  let kept := heldKept k before ((h.slice hs).unreleased l)
  let h := (h.heldWrite hs k).onSlice hs fun s => { s with helds := s.helds.filter fun x => x.idx != k.idx }
  (h.heldReply k kept).proxyFlush hs l (before != .unc && (h.slice hs).homeView l == .unc)

/-- Closes a held entry once every local answer and its data are in. -/
def Hub.tryHeld (h : Hub) (hs : Nat) (idx : BitVec 4) : Hub :=
  let find (h : Hub) : Option HeldSnoop := (h.slice hs).helds.find? fun k => k.idx == idx
  match find h with
  | none => h
  | some k =>
    if !k.expect.isEmpty || !k.fwdWait.isEmpty || (h.slice hs).shutPending k.line then h
    else
      let take (h : Hub) (k : HeldSnoop) : Hub := match h.spanWbData hs k.line with
        | some d => h.heldTake hs k d
        | none => h
      let h := take h k
      let h := match (find h).bind fun k => k.loss with
        | some (la, c) => take ((h.raiseLost hs k.line la c).poisonMark hs k.line false) k
        | none => h
      match find h with
      | some k => h.endHeld hs k
      | none => h

/-- An agent's answer to a held span snoop. -/
def Hub.heldAnswer (h : Hub) (hs : Nat) (idx : BitVec 4) (a : Answer) (dataIn : Bool) (d : Option (LineBits × ByteMask)) : Hub :=
  let upd (k : HeldSnoop) : HeldSnoop := { k with
    expect := k.expect.filter fun x => x != a.la
    fwdWait := if a.carries && a.rsp != .wb && !dataIn then k.fwdWait ++ [a.la] else k.fwdWait.filter fun x => x != a.la
    answers := (k.answers.filter fun x => x.la != a.la) ++ [a]
    data := k.data.or (d.map fun x => payload x.1 true (x.2 != 0)) }
  (h.onSlice hs fun s => { s with helds := List.mapIf (fun k => k.idx == idx) upd s.helds }).tryHeld hs idx

/-- Forwarded data for a held span snoop (R226); a dirty copy that stays here for the home enters the write buffer (R211). -/
def Hub.heldData (h : Hub) (hs : Nat) (idx : BitVec 4) (la : La) (homeCopy : Bool) (d : Payload) : Hub :=
  match (h.slice hs).helds.find? fun k => k.idx == idx with
  | none => h
  | some k =>
    let h := h.heldTake hs k d
    let h := if homeCopy && d.dirty && k.data.isNone then
        h.enterValue hs k.line .backInv false d.bytes (if d.poison then allBytes else 0) (some (Gaid.mk h.num la))
      else h
    let upd (x : HeldSnoop) : HeldSnoop := { x with fwdWait := x.fwdWait.filter fun y => y != la }
    (h.onSlice hs fun s => { s with helds := List.mapIf (fun x => x.idx == idx) upd s.helds }).tryHeld hs idx

/-- Local data that a shut gate does not take serves the span snoop that shut it (R227; DEDUCED, assumption log 84). -/
def Hub.heldGateData (h : Hub) (hs : Nat) (l : Line) (d : Payload) : Hub :=
  match (h.slice hs).helds.find? fun k => k.line == l && k.data.isNone && k.op != .inv with
  | some k => h.heldTake hs k d
  | none => h

/-- The held entries of a line go on once an answer to the local transaction that they met is in. -/
def Hub.retryHelds (h : Hub) (hs : Nat) (l : Line) : Hub :=
  ((h.slice hs).helds.filter fun k => k.line == l).foldl (fun h k => h.tryHeld hs k.idx) h

/-- Serves a span snoop in a free held entry of its slice (R226, R227). The write buffer answers, but not for an owner, whose data is newer
than what the buffer holds (DEDUCED, assumption log 84). -/
def Hub.startHeld (h : Hub) (hs : Nat) (idx : BitVec 4) (op : SnpOp) (m : SpanMsg) : Hub :=
  let l := m.flit.line
  let s := h.slice hs
  let v := s.homeView l
  let unrel := s.unreleased l
  let pass (a : La) : Bool := match unrel with
    | some t => t.passedOver a
    | none => false
  let owned : Bool := match v with
    | .own a => !pass a
    | _ => false
  let wb := if owned then none else h.spanWbData hs l
  let ts := h.heldTargets op v l
  let skip (k : List La) : List La := k.filter fun a => !pass a
  let first := if wb.isSome then [] else skip ts.1
  let rest := if wb.isSome && op != .fwdS then skip (ts.1 ++ ts.2) else skip ts.2
  let once := op == .fwdS && m.flit.b28
  let k : HeldSnoop := {
    idx := idx, op := op, once := once, home := m.src, gaid := m.flit.gaid, txid := m.flit.txid, line := l, view := v,
    expect := first ++ rest, fwdWait := [], snooped := (first ++ rest).filter fun a => h.isOnline a, answers := [], data := none,
    settled := false, start := h.round }
  let h := h.onSlice hs fun s => { s.shutGate l op with helds := s.helds ++ [k] }
  let h := match wb.or (s.gateData l) with
    | some d => h.heldTake hs k d
    | none => h
  let ls := l.ls
  let isBroadcast : Bool := match v with
    | .brd _ _ | .deg _ => true
    | _ => false
  let h := h.countBroadcast ls (isBroadcast && !k.expect.isEmpty)
  let sn := Snoop.blank op ls m.flit.gaid m.flit.txid l (.held idx)
  let homeCopy : Bool := op == .fwdS && !once && match v with
    | .own _ | .deg _ => true
    | _ => false
  let r := Hub.snoopAll hs { sn with once := once, homeCopy := homeCopy } m.flit.crit first h
  let q := Hub.snoopAll hs { sn with op := .inv } m.flit.crit rest r.1
  ((r.2 ++ q.2).foldl (fun h a => h.heldAnswer hs idx a true none) q.1).tryHeld hs idx

end Sys2Proof.Machine
end

