-- ==== Sys2Proof/Machine/Answers.lean ====
section
/-!
DEFINITION. The answers of snooped agents and the data they forward (R107, R112, R113, R127), and `CMP_ACK` (R124).
-/
namespace Sys2Proof.Machine

/-! ### Messages that come in at an agent port (R141, R256) -/

/-- A malformed message is reported with its position in the port's frames: that of the message delivered last (R256; assumption log 94). -/
def Hub.malformedAt (h : Hub) (p : BitVec 4) (f : Flit) : Hub :=
  h.raise { rzTx evApMalformed p.toNat f.line f.gaid f.txid with extra := (h.ap p).frame.part.pos }

/-- A message from an agent of a port: taken from an online agent, discarded with `EVT_AP_DEAD_MSG` from a dead one (R141), and
malformed from a number that is not admitted there. -/
def Hub.fromAgent (h : Hub) (p : BitVec 4) (la : La) (f : Flit) (k : Hub → Hub) : Hub :=
  let a := h.agent la
  if a.valid && a.port == p then
    if a.dead then
      (h.onAp p fun x => { x with deadMsgs := x.deadMsgs + 1 }).raise
        { rzTx evApDeadMsg p.toNat f.line f.gaid f.txid with gaid := some (Gaid.mk h.num la) }
    else if a.online then k h else h.malformedAt p f
  else h.malformedAt p f

/-- A message that carries its sender's own GAID (R256). -/
def Hub.fromGaid (h : Hub) (p : BitVec 4) (f : Flit) (k : Hub → Hub) : Hub :=
  if f.gaid.hub = h.num then h.fromAgent p f.gaid.la f k else h.malformedAt p f

/-! ### Answers -/

/-- The edge router's copy of an agent's `WB_DIRTY` of a line (R60). -/
def Hub.wbCopy (h : Hub) (p : BitVec 4) (la : La) (l : Line) : Option (LineBits × ByteMask) :=
  ((h.ap p).staged.find? fun d => d.wb && d.la == la && d.line == l).map fun d => (d.bytes, d.pois)

/-- An answer reaches the slice and the gate of a transaction: the first data of its answers is taken, other data discarded (R127). -/
def Hub.txnAnswer (h : Hub) (hs : Nat) (tid : Byte) (sn : Snoop) (a : Answer) (d : Option (LineBits × ByteMask)) : Hub :=
  let carried := d.map fun x => payload x.1 false (x.2 != 0)
  let got (g : Gate) : Bool := g.fwdFrom.isSome || g.cross.isSome
  let wb := a.rsp == .wb && carried.isSome
  let cross := a.rsp == .cross && carried.isSome
  let taken : Bool := wb && match h.txn hs tid with
    | some t => t.gate.fwdFrom.isNone
    | none => true
  let upd (t : Txn) : Txn :=
    let g := t.gate
    { t with gate := { g with
      expect := g.expect.filter fun x => x != a.la
      answers := (g.answers.filter fun x => x.la != a.la) ++ [a]
      fwdWait := if (a.rsp == .fwdS || a.rsp == .fwdI) && !sn.dataIn then g.fwdWait ++ [a.la] else g.fwdWait.filter fun x => x != a.la
      wbData := g.wbData || wb || cross
      dup := g.dup || ((wb || cross) && got g)
      fwdFrom := if wb then g.fwdFrom.or (some a.la) else g.fwdFrom
      wbGate := if taken && sn.gateCopy && !g.shut then carried else g.wbGate
      cross := if cross && !g.shut then g.cross.or carried else g.cross } }
  let h := h.onTxn hs tid upd
  let h := match d with
    | some (b, p) =>
      if taken then
        (h.enterValue hs sn.line .accepted (h.isHome sn.line) b p (some (Gaid.mk h.num a.la))).newerData hs sn.line b p
      else h
    | none => h
  (h.settle hs tid).retryHelds hs sn.line

/-- An answer goes to whoever sent the snoop. -/
def Hub.deliverAnswer (h : Hub) (sn : Snoop) (a : Answer) (d : Option (LineBits × ByteMask)) : Hub :=
  let hs := h.hsOf sn.ls
  match sn.who with
  | .txn tid => h.txnAnswer hs tid sn a d
  | .backInv idx => h.backAnswer hs idx sn.line a (if a.rsp == .wb then d else none)
  | .held idx =>
    if a.rsp == .cross && (sn.op == .fwdS || sn.op == .fwdO) then
      match d with
      | some (b, p) => (h.heldData hs idx a.la false (payload b true (p != 0))).heldAnswer hs idx a true none
      | none => h.heldAnswer hs idx a true none
    else h.heldAnswer hs idx a sn.dataIn (if sn.op == .inv then none else d)

/-- The outstanding snoop that an answer matches by `SRC`, `GAID`, `TXID` and line (R256). -/
def Hub.snoopFor (h : Hub) (p : BitVec 4) (f : Flit) : Option Snoop :=
  (h.ap p).snoops.find? fun s => s.la == f.src && s.gaid == f.gaid && s.txid == f.txid && s.line == f.line && s.got.isNone

/-- The same snoop. -/
def Snoop.same (a b : Snoop) : Bool := a.la == b.la && a.gaid == b.gaid && a.txid == b.txid && a.line == b.line

/-- A snoop is wholly answered. -/
def ApPort.dropSnoop (a : ApPort) (sn : Snoop) : ApPort := { a with snoops := a.snoops.filter fun x => !x.same sn }
/-- A snoop's record changes. -/
def ApPort.onSnoop (a : ApPort) (sn : Snoop) (f : Snoop → Snoop) : ApPort :=
  { a with snoops := List.mapIf (fun x => x.same sn) f a.snoops }

/-- An agent's answer arrives (R107): a forward keeps its snoop until its data is in too, and a `CMP_WB` that waited for the
answer goes (R133). -/
def Hub.answer (h : Hub) (p : BitVec 4) (f : Flit) (rsp : RspOp) (d : Option (LineBits × ByteMask)) : Hub :=
  h.fromAgent p f.src f fun h =>
    match h.snoopFor p f with
    | none => h.raise (rzTx evApStrayRsp p.toNat f.line f.gaid f.txid)
    | some sn =>
      let a : Answer := ⟨f.src, rsp, f.kept, false⟩
      let wait := (rsp == .fwdS || rsp == .fwdI) && !sn.dataIn
      let h := if sn.late then h.count 0x023 (0x50 + p.toNat) 1 else h
      let h := h.onAp p fun x => if wait then x.onSnoop sn fun y => { y with got := some a } else x.dropSnoop sn
      let d := if rsp == .cross then h.wbCopy p f.src f.line else d
      (h.deliverAnswer sn a d).releaseHeldWb f.src f.line

/-- `RSP_I`: no copy kept, no data sent (R107). -/
def execRspI (p : BitVec 4) (f : Flit) (s : State) : Host.Outcome State Fault Refusal :=
  .next (s.withHub fun h => h.answer p f .i none)

/-- `RSP_S`: a shared copy kept, no data sent (R107). -/
def execRspS (p : BitVec 4) (f : Flit) (s : State) : Host.Outcome State Fault Refusal :=
  .next (s.withHub fun h => h.answer p f .s none)

/-- `RSP_FWD_S`: data forwarded, a copy kept (R107). -/
def execRspFwdS (p : BitVec 4) (f : Flit) (s : State) : Host.Outcome State Fault Refusal :=
  .next (s.withHub fun h => h.answer p f .fwdS none)

/-- `RSP_FWD_I`: data forwarded, the copy invalidated (R107). -/
def execRspFwdI (p : BitVec 4) (f : Flit) (s : State) : Host.Outcome State Fault Refusal :=
  .next (s.withHub fun h => h.answer p f .fwdI none)

/-- `RSP_CROSS`: the agent's `WB_DIRTY` is in flight; the edge router's copy of its data goes with the answer (R60). -/
def execRspCross (p : BitVec 4) (f : Flit) (s : State) : Host.Outcome State Fault Refusal :=
  .next (s.withHub fun h => h.answer p f .cross none)

/-- `RSP_WB`: data returned to the home (R113). An uncorrectable word of it is poisoned as it enters the byte store (R332, R333);
data that breaks R246 or R247 makes the message malformed (R256). -/
def execRspWb (p : BitVec 4) (f : Flit) (d : Payload) (ue : BitVec 8) (s : State) : Host.Outcome State Fault Refusal :=
  .next (s.withHub fun h =>
    if !d.sound then h.fromAgent p f.src f fun h => h.malformedAt p f
    else
      let hit := (h.snoopFor p f).isSome
      let h := h.answer p f .wb (some (d.bytes, enterPoison d.poison ue))
      if hit then h.meshUe (h.homeHs f.line) f.line ue else h)

/-! ### Forwarded data -/

/-- Forwarded data reaches the gate, and with `HOME_COPY` the slice (R112, R113): dirty data enters the write buffer, clean data
fills a chain copy. A second data answer is discarded (R127); a gate that a span snoop has shut takes none (R227). -/
def Hub.txnData (h : Hub) (hs : Nat) (tid : Byte) (sn : Snoop) (d : Payload) : Hub :=
  let first : Bool := match h.txn hs tid with
    | some t => t.gate.fwdFrom.isNone
    | none => true
  let shut : Bool := match h.txn hs tid with
    | some t => t.gate.shut
    | none => false
  let upd (t : Txn) : Txn := { t with gate := { t.gate with
    fwdWait := t.gate.fwdWait.filter fun x => x != sn.la
    fwd := if first && !shut then some d else t.gate.fwd
    fwdFrom := if first then some sn.la else t.gate.fwdFrom
    dup := t.gate.dup || !first || t.gate.cross.isSome } }
  let h := h.onTxn hs tid upd
  let h := if first && shut then h.heldGateData hs sn.line d else h
  let h := if first && sn.homeCopy then
      if d.dirty then
        h.enterValue hs sn.line .accepted (h.isHome sn.line) d.bytes (if d.poison then allBytes else 0)
          (some (Gaid.mk h.num sn.la))
      else if (h.slice hs).chained sn.line && h.isHome sn.line then h.chainFill hs sn.line d.bytes d.poison
      else h
    else h
  (h.settle hs tid).retryHelds hs sn.line

/-- `DAT_FWD`: data forwarded by a cache (R112). Data that breaks R246 or R247 is malformed, data that no snoop asked for is
discarded as stray. A line with an uncorrectable word goes on poisoned (R333). -/
def execDatFwd (p : BitVec 4) (f : Flit) (d : MeshData) (s : State) : Host.Outcome State Fault Refusal :=
  .next (s.withHub fun h => h.fromAgent p f.src f fun h =>
    if !d.line.sound then h.malformedAt p f
    else match (h.ap p).snoops.find? fun x =>
        x.la == f.src && x.gaid == f.gaid && x.txid == f.txid && x.line == f.line && !x.dataIn with
      | none => h.raise (rzTx evApStrayRsp p.toNat f.line f.gaid f.txid)
      | some sn =>
        let h := h.onAp p fun x =>
          if sn.got.isSome then x.dropSnoop sn else x.onSnoop sn fun y => { y with dataIn := true }
        let hs := h.hsOf sn.ls
        let h := h.meshUe hs sn.line d.ue
        match sn.who with
        | .txn tid => h.txnData hs tid sn (meshLine d)
        | .held idx => h.heldData hs idx sn.la sn.homeCopy (meshLine d)
        | .backInv _ => h)

/-! ### Acknowledgements -/

/-- `CMP_ACK` (R124): it starts the gecko hold of the granted transaction; one that comes after the hold has begun is absorbed,
one that matches nothing raises `EVT_AP_STRAY_ACK`. A proxy passes it to the home (R218). -/
def execCmpAck (p : BitVec 4) (f : Flit) (s : State) : Host.Outcome State Fault Refusal :=
  .next (s.withHub fun h => h.fromGaid p f fun h =>
    let hs := h.homeHs f.line
    let due := (h.slice hs).acksDue.contains (f.gaid, f.txid, f.line)
    let absorbed (h : Hub) : Hub := h.onSlice hs fun s => { s with acksDue := s.acksDue.filter fun x => x != (f.gaid, f.txid, f.line) }
    let stray (h : Hub) : Hub := h.raise (rzTx evApStrayAck p.toNat f.line f.gaid f.txid)
    if due then absorbed h
    else match h.findTxn f.gaid f.txid f.line with
      | none => stray h
      | some t =>
        if t.gate.released && t.gate.grant != 0 && t.acked.isNone && !t.req.span then
          let h := match h.remoteHome f.line with
            | some e => if t.spanReq then h.toHub e 0x2C (Flit.plain f.gaid f.txid f.line 0) none none else h
            | none => h
          h.startHold hs t.tid
        else stray h)

end Sys2Proof.Machine
end

