-- ==== Sys2Proof/Machine/Mbox.lean ====
section
/-!
DEFINITION. Mailboxes (R380–R391): their registers and privileges, the writing of a response, and the commands that wait for
something of the hub (R298, R299, R391).
-/
namespace Sys2Proof.Machine

/-! ### Mailboxes -/

/-- A mailbox. -/
def Hub.mb (h : Hub) (n : BitVec 3) : Mbx := h.mbx.getD n.toNat Mbx.init
/-- Changes a mailbox. -/
def Hub.onMb (h : Hub) (n : BitVec 3) (f : Mbx → Mbx) : Hub := { h with mbx := h.mbx.upd n.toNat Mbx.init f }
/-- A mailbox's entry of the privilege table in force (R392). -/
def Hub.priv (h : Hub) (n : BitVec 3) : MbxPriv := h.prot.mbx.getD n.toNat ⟨0, false, false, 0⟩

/-- Entries between a head and a tail index, modulo 128 (R382). -/
def ringCount (tail head : BitVec 7) : Nat := (tail - head).toNat

/-- The window offset of a command slot (R380). -/
def cmdSlot (n : BitVec 3) (idx : BitVec 7) : Nat := 0x4000 + 0x1000 * n.toNat + 0x40 * (idx.toNat % 64)
/-- The window offset of a response slot (R380). -/
def rspSlot (n : BitVec 3) (idx : BitVec 7) : Nat := 0xC000 + 0x800 * n.toNat + 0x20 * (idx.toNat % 64)

/-! ### Completion codes (R388) -/

/-- Performed. -/
def ccOk : Byte := 0
/-- `CMD` not assigned. -/
def ccBadCmd : Byte := 1
/-- An argument out of range. -/
def ccBadArg : Byte := 2
/-- The mailbox's level is too low. -/
def ccDenied : Byte := 3
/-- A commit or setting breaks a rule. -/
def ccRefused : Byte := 4
/-- What is named does not exist. -/
def ccNotPresent : Byte := 5
/-- A store is full. -/
def ccLimit : Byte := 6
/-- Performed and failed. -/
def ccFailed : Byte := 7
/-- Interrupted by a restart. -/
def ccRestarted : Byte := 8

/-- W0 of a response (R387). -/
def rspWord (cmd tag : BitVec 16) (code detail : Byte) : Word := cmd ++ tag ++ code ++ detail ++ (0 : BitVec 16)

/-- The response as an MCTP message of kind 2 (R401): the endpoint reads the slot and frees it. -/
def Hub.mctpResponse (h : Hub) (n : BitVec 3) (words : List Word) : Hub :=
  ((h.onMb n fun m => { m with rspHead := m.rspTail }).emit (.mctp (n.setWidth 8) words)).emit (.ibi 0xFF)

/-- Lupin writes a response (R386, R387, R401): into the mailbox's response ring, with its event where `NOTIFY` asks for it, and on the
management path as a message too. -/
def Hub.respond (h : Hub) (n : BitVec 3) (cmd tag : BitVec 16) (notify : Bool) (code detail : Byte) (w1 w2 w3 : Word) : Hub :=
  let a := rspSlot n (h.mb n).rspTail
  let w0 := rspWord cmd tag code detail
  let h := { h with core := { h.core with resps := h.core.resps ++ [(a, w0), (a + 8, w1), (a + 16, w2), (a + 24, w3)] } }
  let h := h.onMb n fun m => { m with rspTail := m.rspTail + 1 }
  let h := if (h.priv n).path then h.mctpResponse n [w0, w1, w2, w3] else h
  if notify then h.raise (rz (evMbResponse n.toNat) n.toNat) else h

/-- Changes what a mailbox's command waits for. -/
def Hub.setLong (h : Hub) (n : BitVec 3) (k : Long) : Hub :=
  h.onMb n fun m => { m with busy := m.busy.map fun b => { b with long := k } }

/-- Ends the command that a mailbox has in progress; while Uluhiva restarts its response waits (R347, R389). -/
def Hub.endLong (h : Hub) (n : BitVec 3) (code detail : Byte) (w1 w2 : Word) : Hub :=
  match (h.mb n).busy with
  | none => h
  | some b =>
    if h.core.restart then h.setLong n (.ended code detail w1 w2)
    else (h.onMb n fun m => { m with busy := none }).respond n b.cmd b.tag b.notify code detail w1 w2 0

/-- Ends every command in progress that meets a test. -/
def Hub.endWhere (h : Hub) (p : Long → Bool) (code : Byte) : Hub :=
  ((upTo 8).map (BitVec.ofNat 3)).foldl (fun h n =>
    match (h.mb n).busy with
    | some b => if p b.long then h.endLong n code 0 0 0 else h
    | none => h) h

/-! ### Results of cache maintenance (R298) -/

/-- `HC_OK`, `HC_NOT_HOME`, `HC_WAY_LOCKED`, `HC_WAY_DISABLED`, `HC_FILL_FAILED`. -/
def hcOk : Byte := 0
def hcNotHome : Byte := 1
def hcWayLocked : Byte := 2
def hcWayDisabled : Byte := 3
def hcFillFailed : Byte := 4

/-- Completes a maintenance command with a result (R390). -/
def Hub.endMaint (h : Hub) (n : BitVec 3) (res : Byte) : Hub := h.endLong n (if res = hcOk then ccOk else ccFailed) res 0 0

/-! ### Invalidation of a line (R298, R299, R301) -/

/-- A chain pins the line's copy: in its way, or as it waits in the fill buffer (R295). -/
def Hub.chainPins (h : Hub) (l : Line) : Bool :=
  let s := h.slice (h.homeHs l)
  match s.hcWay l with
  | some w => hcChain (s.hcAt l.hcSet w)
  | none => (s.fillOf l).any fun f => f.kind == .chain

/-- Invalidates a line in the hub cache: its way, and the fills of it that are on their way (R291). -/
def Hub.maintInvalidate (h : Hub) (l : Line) : Hub := (h.staleFills (h.homeHs l) l).hcInvalidateLine (h.homeHs l) l

/-! ### Commands that wait -/

/-- A line with a memory write still to complete somewhere (R274). -/
def Hub.writePending (h : Hub) (l : Line) : Bool := (h.wbFind (h.homeHs l) l).isSome

/-- The fill of a fill-and-lock is on its way: read, or in the fill buffer. -/
def Hub.lockOnWay (h : Hub) (n : BitVec 3) (l : Line) : Bool :=
  (h.reads.any fun r => match r.who with
    | .lockFill _ mb => mb == n && r.line == l
    | _ => false)
    || match (h.slice (h.homeHs l)).fillOf l with
      | some f => (match f.kind with
        | .lock _ mb => mb == n
        | _ => false)
      | none => false

/-- The line stands locked in some way. -/
def Hub.isLocked (h : Hub) (l : Line) : Bool :=
  let s := h.slice (h.homeHs l)
  match s.hcWay l with
  | some w => hcLocked (s.hcAt l.hcSet w)
  | none => false

/-- Looks whether the command in progress of a mailbox has what it waits for (R298, R299): maintenance whose walk is over, whose pinned
ways are invalid and whose writes are complete; a fill-and-lock whose line is installed, or whose fill was dropped for the fourth time.
A fill dropped before that is read again, once the write buffer holds the line no longer (R135). -/
def Hub.pollOne (h : Hub) (n : BitVec 3) : Hub :=
  match (h.mb n).busy with
  | none => h
  | some b =>
    match b.long with
    | .maint op first last set waitW pins =>
      let left := waitW.filter fun l => h.writePending l
      if set ≥ 1024 && pins.isEmpty && left.isEmpty then h.endMaint n hcOk
      else if left = waitW then h
      else h.setLong n (.maint op first last set left pins)
    | .fillLock l w tries =>
      if h.lockOnWay n l then h
      else if h.isLocked l then h.endMaint n hcOk
      else if h.hasPlace (h.homeHs l) l then h
      else if tries + 1 ≥ 4 then h.endMaint n hcFillFailed
      else (h.setLong n (.fillLock l w (tries + 1))).issueRead (h.homeHs l) l (.lockFill w n) true false false none
    | _ => h

/-- The same for every mailbox. -/
def Hub.pollLong (h : Hub) : Hub := ((upTo 8).map (BitVec.ofNat 3)).foldl (fun h n => h.pollOne n) h

/-- A memory write of a line has completed: the maintenance commands that wait for it wait for one less (R298). -/
def Hub.writeDone (h : Hub) (l : Line) : Hub :=
  let less (k : Long) : Long := match k with
    | .maint op first last set waitW pins => .maint op first last set (List.dropFirst (fun x => x == l) waitW) pins
    | k => k
  { h with mbx := List.map (fun e => (e.1, { e.2 with busy := e.2.busy.map fun b => { b with long := less b.long } })) h.mbx }

/-- Writes the words of finished responses into the response rings. -/
def State.flush (s : State) : State :=
  { s with
    ring := s.hub.core.resps.foldl (fun m w => m.writeWord w.1 w.2) s.ring
    hub := { s.hub with core := { s.hub.core with resps := [] } } }

/-- The state with another hub, in which mailbox commands may have come to their end. -/
def State.withHubR (s : State) (f : Hub → Hub) : State := (s.withHub fun h => (f h).pollLong).flush

end Sys2Proof.Machine
end

