-- ==== Sys2Proof/Machine/Accept.lean ====
section
/-!
DEFINITION. Acceptance (R36–R55): the calendar and its commitments, derived from the open transactions and the tickets; the
checks of R40; the choice of a ticket's round; `TICKET`, `DEFER` and held places; access (R394); and the arbitration phase.
-/
namespace Sys2Proof.Machine

/-! ### Bounds -/

/-- A line homed at another hub. -/
def Hub.isRemote (h : Hub) (l : Line) : Bool := (h.remoteHome l).isSome

/-- The span presence counter of a line (R216). -/
def Slice.presenceOf (s : Slice) (l : Line) : Nat := s.presence.getD l.presence.toNat 0

/-- The rounds from acceptance to the worst close of a request that is not chained (R40, R216). -/
def Hub.worstSpan (h : Hub) (hs : Nat) (l : Line) : Nat :=
  if h.isRemote l || (h.slice hs).presenceOf l ≠ 0 then h.spanResBound else 6 + h.boundOf l

/-! ### The calendar (R42, R45) -/

/-- `RESERVED` slots of a round. -/
def Slice.reserved (s : Slice) (r : Nat) : Nat := (s.tickets.filter fun t => t.round == r).length
/-- `STANDBY` slots of a round. -/
def Slice.standby (s : Slice) (r : Nat) : Nat := (s.tickets.filter fun t => t.round + 1 == r).length

/-- A `FREE` slot of a round is offered under a limit (R417); `n` is the current round. -/
def Slice.slotFree (s : Slice) (limit n r : Nat) : Bool :=
  decide ((if r = n then s.used else 0) + s.reserved r + s.standby r < min 4 limit)

/-- The projected tracker commitment of a round (R42). -/
def Slice.commitment (s : Slice) (r : Nat) : Nat :=
  (s.txns.filter fun t => decide (t.acc ≤ r) && decide (r ≤ t.worst)).length
    + (s.tickets.filter fun t => decide (t.round ≤ r) && decide (r ≤ t.worst)).length

/-- The rounds in which a commitment count can rise within a span: its first and every ticket round. -/
def Slice.points (s : Slice) (first last : Nat) : List Nat :=
  first :: (s.tickets.map fun t => t.round).filter fun r => decide (first ≤ r) && decide (r ≤ last)

/-- The Tracker check (R40, R213): below 176 in every round of the worst service within the horizon. -/
def Slice.trackerOk (s : Slice) (n first worst : Nat) (remote : Bool) : Bool :=
  let extra := if remote then (s.txns.filter fun t => t.spanReq).length else 0
  (s.points first (min worst (n + 255))).all fun r => decide (s.commitment r + extra < 176)

/-! ### The memory window (R44, R270, R271) -/

/-- Committed reads of a slice on a line's channels in a round. -/
def Hub.committed (h : Hub) (s : Slice) (chans : List Nat) (r : Nat) : Nat :=
  let on (l : Line) (start : Nat) : Bool :=
    decide (start + 1 ≤ r) && decide (r ≤ start + 6 + h.boundOf l) && (h.lineMap l).1 == chans
  (s.txns.filter fun t => t.mem && on t.req.line t.acc).length
    + (s.tickets.filter fun t => t.mem && on t.req.line t.round).length

/-- What the slices have applied of a channel's notices. -/
def Hub.chNote (h : Hub) (c : Nat) : ChNotice := h.chNotes.getD c ChNotice.init

/-- The rounds in which both members of a mirrored pair are paused, or the one that reads of the pair are not passed over (R280, R282). -/
def pairBusy (a b : ChNotice) : List (Nat × Nat) :=
  if a.asleep || a.down then b.busy
  else if b.asleep || b.down then a.busy
  else (a.busy.flatMap fun x => b.busy.map fun y => (max x.1 y.1, min x.2 y.2)).filter fun x => decide (x.1 ≤ x.2)

/-- The announced rounds in which a line's channel, or both members of its pair, take no reads; none where it sleeps. -/
def Hub.announcedFor (h : Hub) (chans : List Nat) : Option (List (Nat × Nat)) :=
  match chans with
  | [] => some []
  | [c] => if (h.chNote c).asleep then none else some ((h.chNote c).busy ++ (h.chNote c).failover)
  | c :: d :: _ =>
    let a := h.chNote c
    let b := h.chNote d
    if (a.asleep && (b.asleep || b.down)) || (b.asleep && a.down) then none else some (pairBusy a b ++ a.failover ++ b.failover)

/-- The memory window of a service that starts in round `t` is clear: no announced round of the line's channel falls in it,
and in none of its rounds the slice's committed reads have reached `MP_READ_ALLOW`. The lines of a channel whose window of failover runs are
ticketed also where a partner serves them (R281). -/
def Hub.memClear (h : Hub) (s : Slice) (l : Line) (t : Nat) : Bool :=
  let chans := (h.lineMap l).1
  let last := t + 6 + h.boundOf l
  let quiet : Bool := match h.announcedFor chans with
    | none => false
    | some w => w.all fun b => decide (last < b.1) || decide (b.2 < t + 1)
  quiet && ((t + 1) :: (s.tickets.map fun k => k.round + 1).filter fun r => decide (t + 1 ≤ r) && decide (r ≤ last)).all
        fun r => decide (h.committed s chans r < h.p 0x7C0)

/-! ### Credits and sets -/

/-- The agent ports whose edge routers a request's snoops may need (R40). -/
def Hub.snoopPorts (h : Hub) (l : Line) : List (BitVec 4) := h.portsOf (h.domain l)

/-- A free snoop credit toward each of them (R43). -/
def Hub.creditsOk (h : Hub) (s : Slice) (l : Line) : Bool := (h.snoopPorts l).all fun p => decide (s.snpUsed.getD p.toNat 0 < 8)

/-- The Set check (R89): the line holds a way or a claim on one, or the set has an available way; with the span directory set for a span request (R214). -/
def Slice.setOk (s : Slice) (r : Req) : Bool :=
  ((s.wayOf r.line).isSome || s.claims r.line || ((s.freeWay r.line.sfSet).isSome && (s.nextClaim r.line.sfSet).isNone))
    && (!r.span || (s.hwayOf r.line).isSome || s.hubClaims r.line
      || ((s.freeHWay r.line.sdSet).isSome && (s.nextHubClaim r.line.sdSet).isNone))

/-- The round at which a pinned line is projected to unpin (R92): its last ticket's worst close, or its open transaction's, or that of the
transaction whose gecko hold runs, plus g. -/
def Slice.unpinRound (s : Slice) (g : Nat) (l : Line) : Nat :=
  match (s.chain l).getLast?, s.txnOn l with
  | some t, _ => t.worst + t.g
  | none, some t => t.worst + s.lineG g l
  | none, none => (s.lastC0.look l.toNat).elim 0 fun c => c + s.lineG g l

/-- The projected rounds at which the ways of a set come free (R92): back-invalidations in flight, then eligible ways, then the
pinned ways' projected unpins. -/
def Slice.wayRounds (s : Slice) (set : BitVec 14) (n g : Nat) : List Nat :=
  let frees (b : BackInv) : Bool := b.kind == .runAhead || b.kind == .lostHome
  let backs := (s.backs.filter fun b => b.line.sfSet == set && frees b).map fun b => b.start + 10
  let elig := (s.eligible set n).map fun _ => n + 11
  let pinned := ((upTo 16).filterMap fun w =>
    let l := s.lineAt set w
    if (s.sfAt set w ≠ 0 || s.wayReserved set w) && s.pinned l n && (s.backOn l).isNone then some (s.unpinRound g l + 11) else none)
  List.sorted (fun a b => decide (a < b)) backs ++ elig ++ List.sorted (fun a b => decide (a < b)) pinned

/-- E of R92: the round for a line's claim, which stands behind the claims of other lines in the set; none where no way is projected. -/
def Slice.claimRound (s : Slice) (l : Line) (n g : Nat) : Option Nat :=
  ((s.wayRounds l.sfSet n g).drop (s.claimLines l.sfSet l).length).head?

/-- The projected free round plus 11 for a line's way of its span directory set, behind the claims of other lines (R224). The manual does
not say how the round is projected: the model takes the start of a back-invalidation in flight, this round for a way that may be evicted,
and the projected unpin of R92 for a pinned one (DESIGN CHOICE, assumption log 85). -/
def Slice.hubWayRound (s : Slice) (l : Line) (n g : Nat) : Option Nat :=
  let set := l.sdSet
  let backs := (s.backs.filter fun b => b.line.sdSet == set && b.kind == .spanRunAhead).map fun b => b.start
  let lines := ((upTo 8).filter fun w => s.sdAt set w != 0 || s.hwayReserved set w).map fun w => s.hlineAt set w
  let elig := (lines.filter fun x => !s.pinned x n && HView.ofWord (s.sdAt set ((s.hwayOf x).getD 0)) != some .deg).map fun _ => n
  let pinned := (lines.filter fun x => s.pinned x n && (s.backOn x).isNone).map fun x => s.unpinRound g x
  let rounds := List.sorted (fun a b => decide (a < b)) backs ++ elig ++ List.sorted (fun a b => decide (a < b)) pinned
  ((rounds.drop (s.hubClaimLines set l).length).head?).map fun r => r + 11

/-! ### Chains (R47, R63, R64) -/

/-- The worst service of a chained transaction (R63, R217). -/
def Hub.chainW (h : Hub) (s : Slice) (l : Line) : Nat :=
  let spanOpen : Bool := match s.txnOn l with
    | some t => !t.copies.isEmpty || t.gate.spanGrant != 0 || t.req.span
    | none => false
  if h.isRemote l || spanOpen || s.presenceOf l ≠ 0 then h.spanResBound else 10

/-- The gecko hold with which a ticket on a line is placed: that of its chain, else the one in force (R73). -/
def Hub.chainG (h : Hub) (s : Slice) (l : Line) : Nat := s.lineG (h.p 0x40) l

/-- The first round that the line's chain rule gives (R63): behind the last ticket, and behind the open transaction's worst close, or this
round where that is past, with the transactions that wait for it and the tickets of the chain each in its turn (R67). -/
def Hub.chainRound (h : Hub) (s : Slice) (l : Line) : Nat :=
  let g := h.chainG s l
  let w := h.chainW s l
  let chain := s.chain l
  let waiting := (s.txns.filter fun t => t.req.line == l && t.phase == .waitPred).length
  let from_ (c : Nat) : Nat := max c h.round + g + (waiting + chain.length) * (w + g)
  let byOpen := match s.txns.find? fun t => t.req.line == l && t.phase != .waitPred, s.backOn l with
    | some t, _ => from_ t.worst
    | none, some b => from_ (b.start + 10)
    | none, none => (s.lastC0.look l.toNat).elim 0 fun c => c + g
  match chain.getLast? with
  | some t => max (t.round + w + g) byOpen
  | none => byOpen

/-- Data for a chain copy is due from the open transaction (R295). -/
def Hub.chainDue (h : Hub) (s : Slice) (l : Line) : Bool :=
  let byTxn (x : Snoop) : Bool := match x.who with
    | .txn _ => true
    | _ => false
  let bySnoop := h.aps.any fun e => e.2.snoops.any fun x => x.line == l && byTxn x && (x.homeCopy || x.op == .data)
  let byWrite : Bool := match s.txnOn l with
    | some t => t.req.op.isWrite && !t.wrote
    | none => false
  h.readOut l || bySnoop || byWrite

/-- The chain copy of a line has its data at hand. -/
def Hub.chainHere (h : Hub) (hs : Nat) (l : Line) : Bool :=
  let whole : Bool := match h.wbFind hs l with
    | some x => x.whole
    | none => false
  whole || ((h.slice hs).hcValue l).isSome

/-- Keeps the chain copy of a line whose first ticket is chained (R64, R295), reading memory where no data is at hand or
due. -/
def Hub.chainCopy (h : Hub) (hs : Nat) (l : Line) : Hub :=
  let due := h.chainHere hs l || h.chainDue (h.slice hs) l
  let h := h.chainMark hs l
  match h.wbFind hs l with
  | some x => if x.whole then h.chainFill hs l x.bytes x.poison else if due then h else h.issueRead hs l .chain false false false none
  | none => if due then h else h.issueRead hs l .chain false false false none

/-! ### Held places (R54, R55) -/

/-- A record that stands before a request: it is another requester's, on the request's line or on the calendar, and its age is
greater, or equal while the request has no record of its own. -/
def Slice.heldBefore (s : Slice) (r : Req) (n : Nat) : Bool :=
  let mine (x : HeldPlace) : Bool := x.gaid == r.gaid && x.txid == r.txid
  let own := s.places.any mine
  let born := n - r.age
  s.places.any fun x => !mine x && (x.line == some r.line || x.line == none)
    && (decide (x.born < born) || (x.born == born && !own))

/-- A request's record ends (R55). -/
def Slice.endPlace (s : Slice) (r : Req) : Slice :=
  { s with places := s.places.filter fun x => !(x.gaid == r.gaid && x.txid == r.txid) }

/-- A deferral keeps a request's record, moving its D, or creates one where it is due (R54, R55). -/
def Slice.notePlace (s : Slice) (r : Req) (n : Nat) (line : Option (Option Line)) : Slice :=
  let mine (x : HeldPlace) : Bool := x.gaid == r.gaid && x.txid == r.txid
  if s.places.any mine then { s with places := List.mapIf mine (fun x => { x with d := n }) s.places }
  else match line with
    | none => s
    | some l =>
      let new : HeldPlace := ⟨l, r.gaid, r.txid, n - r.age, n⟩
      if s.places.length < 32 then { s with places := s.places ++ [new] }
      else
        let youngest := s.places.foldl (fun m x => max m x.born) 0
        if new.born < youngest then
          { s with places := (List.dropFirst (fun x => x.born == youngest) s.places) ++ [new] }
        else s

/-! ### Answers to refused requests (R37, R46, R52, R215) -/

/-- The endpoint of a span engine toward a hub. -/
def Hub.epToward (h : Hub) (x : HubNo) : Nat := epSpan (h.routePort x).toNat

/-- The span engine keeps a refused span request until round `t` (R215), or sends it back where its store is full. -/
def Hub.keepSpan (h : Hub) (r : Req) (n t : Nat) (opc : BitVec 6) : Hub :=
  let mine (x : SpanRep) : Bool := x.req.gaid == r.gaid && x.req.txid == r.txid && x.req.line == r.line
  let data := (h.spanReps.find? mine).bind fun x => x.data
  let rest := h.spanReps.filter fun x => !mine x
  let hist (h : Hub) : Hub := { h with pmc := { h.pmc with
    spanHist := h.pmc.spanHist.upd ((h.routePort r.src).toNat) [] fun l => addNth l 10 1 } }
  if (rest.filter fun x => x.at_ ≠ 0).length < 2048 then
    let h := { h with spanReps := rest ++ [⟨r, data, t⟩] }
    ((hist h).toHub r.src opc (spanDelayFlit r.gaid r.txid r.line false (t - n)) none none).noteRefusal r.gaid r.txid r.line
  else
    (({ h with spanReps := rest }).toHub r.src 0x2A (spanDelayFlit r.gaid r.txid r.line true (t - n)) none none).noteRefusal r.gaid r.txid r.line

/-- A refusal passes to a local agent: its staged data is discarded, its refusal recorded (R53, R114). -/
def Hub.refuseLocal (h : Hub) (hs : Nat) (r : Req) (opc : BitVec 6) (t : Nat) (isDefer : Bool) : Hub :=
  let la := r.gaid.la
  let p := (h.agent la).port
  let h := h.toAgent hs { agentMsg opc r.gaid r.txid r.line la with ticket := BitVec.ofNat 16 t }
  let upd (o : Outst) : Outst := { o with
    back := some (isDefer, t)
    refused := true }
  (h.onAp p fun a => { a with
    outst := List.mapIf (fun o => o.gaid == r.gaid && o.txid == r.txid && !o.wb) upd a.outst
    staged := a.staged.filter fun d => !(d.gaid == r.gaid && d.txid == r.txid && !d.wb) }).noteRefusal r.gaid r.txid r.line

/-- `DEFER` (R52): not before round n+64. `place` names the place that a record keeps, where the deferral makes one. -/
def Hub.deferReq (h : Hub) (hs : Nat) (r : Req) (n : Nat) (place : Option (Option Line)) : Hub :=
  let h := (h.onSlice hs fun s => s.notePlace r n place).count 0x004 r.line.ls.toNat 1
  if r.span then h.keepSpan r n (n + 64) 0x2A else h.refuseLocal hs r opDefer (n + 64) true

/-- Tickets of the same request (R49). -/
def Ticket.isFor (t : Ticket) (r : Req) : Bool := t.req.gaid == r.gaid && t.req.txid == r.txid && t.req.line == r.line

/-- A ticket lapses (R49): its slots, commitment and chain place go with it. -/
def Hub.lapse (h : Hub) (hs : Nat) (p : Ticket → Bool) : Hub :=
  let gone := (h.slice hs).tickets.filter p
  gone.foldl (fun h t =>
    let h := (h.onSlice hs fun s => { s with tickets := s.tickets.filter fun x => !x.isFor t.req }).count 0x005 t.req.line.ls.toNat 1
    (h.settleWay hs t.req.line).chainEnd hs t.req.line) h

/-- The first round from `from_` that qualifies for a ticket (R46). -/
def Hub.ticketRound (h : Hub) (hs : Nat) (r : Req) (n from_ : Nat) (span : Nat) : Option Nat :=
  let s := h.slice hs
  let home := !h.isRemote r.line
  let beforeDrain (t : Nat) : Bool :=
    match h.rot.drainAt with
    | some d => h.rot.outHs.toNat ≠ hs || decide (t + 1 < d)
    | none => true
  let first := max from_ (n + 10)
  ((List.range (n + 255 - first)).map fun i => first + i).find? fun t =>
    s.slotFree h.slots n t && s.slotFree h.slots n (t + 1) && s.trackerOk n t (t + span) (!home)
      && (!home || h.memClear s r.line t) && beforeDrain t

/-- A span request's line takes an available way of its span directory set, where it has none and no claim is ahead (R214). -/
def Slice.holdHWay (s : Slice) (r : Req) : Slice :=
  if r.span && (s.hwayOf r.line).isNone && !s.hubClaims r.line && (s.nextHubClaim r.line.sdSet).isNone then
    match s.freeHWay r.line.sdSet with
    | some w => s.reserveHWay r.line w
    | none => s
  else s

/-- `TICKET` for round `t` (R46, R47, R89): chained on the line, holding a way or a claim on one. -/
def Hub.issueTicket (h : Hub) (hs : Nat) (r : Req) (n t span g : Nat) : Hub :=
  let s := h.slice hs
  let l := r.line
  let home := !h.isRemote l
  let first := !s.chained l
  let way := s.wayOf l
  let free := if way.isSome then none else if (s.nextClaim l.sfSet).isNone then s.freeWay l.sfSet else none
  let claim := way.isNone && free.isNone
  let tk : Ticket := { round := t, req := r, g := g, worst := t + span, mem := home, claim := claim }
  let h := h.onSlice hs fun s =>
    let s := match free with
      | some w => s.reserveWay l w
      | none => s
    let s := s.holdHWay r
    { s.endPlace r with tickets := s.tickets ++ [tk] }
  let h := (h.checkLine hs l).count 0x003 l.ls.toNat 1
  let h := if home && first then h.chainCopy hs l else h
  if r.span then h.keepSpan r n t 0x29 else h.refuseLocal hs r opTicket t false

/-! ### Access (R394) -/

/-- The start value of an agent access entry (R393). -/
def AgentAcc.start : AgentAcc := ⟨BitVec.allOnes 32, 3, BitVec.allOnes 64⟩

/-- The agent access entry in force. -/
def Hub.access (h : Hub) (i : Nat) : AgentAcc := h.prot.agents.getD i AgentAcc.start

/-- What a permission allows (R393). -/
def permAllows (perm : BitVec 2) (op : ReqOp) : Bool :=
  if op.isOnce then decide (1 ≤ perm.toNat) else if op.isWrite then decide (2 ≤ perm.toNat) else perm == 3

/-- The agent access table lets a request be accepted. -/
def Hub.allowed (h : Hub) (r : Req) : Bool :=
  if h.isRemote r.line then permAllows (h.access r.gaid.la.toNat).remote r.op
  else match h.winOf r.line with
    | some n => permAllows ((h.access (if r.span then 0xFF else r.gaid.la.toNat)).win.extractLsb' (2 * n) 2) r.op
    | none => false

/-- A request that ends at the slice without service: its `CMP` or `SPAN_CMP` with an outcome and no grant. -/
def Hub.endReq (h : Hub) (hs : Nat) (r : Req) (outcome : BitVec 2) : Hub :=
  if r.span then
    let h := { h with spanReps := h.spanReps.filter fun x => !(x.req.gaid == r.gaid && x.req.txid == r.txid && x.req.line == r.line) }
    (h.toHub r.src 0x28 (spanCmpFlit r.gaid r.txid r.line outcome 0 0) none none).clearRefusal r.gaid r.txid r.line
  else h.sendCmp hs r.gaid r.txid r.line gNone outcome

/-! ### Acceptance -/

/-- An empty gate. -/
def Gate.init : Gate where
  expect := []
  answers := []
  fwdWait := []
  need := false
  fwd := none
  fwdFrom := none
  wbGate := none
  cross := none
  prep := none
  prepSrc := .none
  pullWait := false
  acks := 0
  rsvOwner := false
  grant := 0
  outcome := 0
  lost := false
  dup := false
  spanCmp := false
  spanAcks := 0
  spanGot := 0
  spanData := none
  homeData := none
  spanGrant := 0
  spanFwd := false
  wbData := false
  shut := false
  judged := false
  released := false

/-- The requests that a sample unit counts (R461). -/
def Hub.sampled (h : Hub) (r : Req) : Bool × Hub :=
  let w := h.pw 0xB85
  let unit := (w.extractLsb' 8 8).toNat
  if w.getLsbD 0 && (unit == 0x40 || unit == r.line.ls.toNat) && (!w.getLsbD 1 || r.op.opc == w.extractLsb' 2 6) then
    let c := h.pmc.smpCount + 1
    let n := (w.extractLsb' 16 16).toNat
    (c ≥ n, { h with pmc := { h.pmc with smpCount := if c ≥ n then 0 else c } })
  else (false, h)

/-- Accepts a request in round `n` (R40): a slot, a tracker entry, the credits and a way, and for a home line a committed
read. -/
def Hub.take (h : Hub) (hs : Nat) (r : Req) (n span : Nat) (rep : Bool) : Hub :=
  let s := h.slice hs
  let l := r.line
  let home := !h.isRemote l
  let open_ := (s.txnOn l).isSome || (s.backOn l).isSome
  let tid := BitVec.ofNat 8 (firstFree (fun i => s.txns.any fun t => t.tid.toNat == i) 0 192 192)
  let s := { s with tickets := s.tickets.filter fun t => !t.isFor r }
  let s := s.endPlace r
  let way := s.wayOf l
  let s := match way with
    | some _ => s
    | none => match s.nextClaim l.sfSet, s.freeWay l.sfSet with
      | none, some w => s.reserveWay l w
      | _, _ => s
  let way := s.wayOf l
  let s := s.holdHWay r
  let ports := h.snoopPorts l
  let phase : TPhase := if open_ then .waitPred else if way.isNone || s.lacksHWay r then .waitWay else .accepted
  let smp := h.sampled r
  let t : Txn := {
    tid := tid, req := r, acc := n, worst := n + span, phase := phase, view := .unc, hview := .none, entry := none,
    hentry := none, way := way.map (BitVec.ofNat 4), gate := Gate.init, snooped := [],
    wdata := none, mem := home, memRead := false, lock := false, baseDue := false, copies := [], copyDue := 0, added := 0, hubAns := [],
    acked := none, deadReq := !r.span && (h.agent r.gaid.la).dead, credits := ports, spanReq := !home, homeAns := false, wrote := false, relAt := 0,
    sampled := smp.1, specEn := h.p 0x41 == 1, rfwd := h.p 0x182 == 1, given := false }
  let s := { s with
    txns := s.txns ++ [t]
    used := s.used + 1
    snpUsed := ports.foldl (fun u p => u.upd p.toNat 0 fun c => c + 1) s.snpUsed }
  let h := { (smp.2.onSlice hs fun _ => s) with
    spanReps := List.mapIf (fun x => x.req.gaid == r.gaid && x.req.txid == r.txid && x.req.line == l)
      (fun x => { x with at_ := 0 }) (h.spanReps.filter fun x =>
        !(x.req.gaid == r.gaid && x.req.txid == r.txid && x.req.line == l && x.data.isNone)) }
  let h := (h.count 0x001 l.ls.toNat 1).count 0x002 l.ls.toNat (if rep then 1 else 0)
  (h.checkLine hs l).chainEnd hs l

/-- Tickets a refused request, or defers it where no round within the horizon qualifies (R46, R52). The ticket's worst service is that of a
chained transaction where the line is open, held or chained; for a first ticket on an idle line the model keeps the worst service of R40,
6 + B (DESIGN CHOICE, assumption log 75). -/
def Hub.ticketOr (h : Hub) (hs : Nat) (r : Req) (n : Nat) : Hub :=
  let s := h.slice hs
  let l := r.line
  let home := !h.isRemote l
  let behind := (s.txnOn l).isSome || s.chained l || s.isOpen l || s.held l n
  let g := h.chainG s l
  let span := if behind && home then h.chainW s l else h.worstSpan hs l
  let needRead := home && !s.chained l && !h.chainHere hs l && !h.chainDue s l
  let byRead := if needRead then n + 2 + h.boundOf l + 2 + g else 0
  let setFail := !s.setOk r
  let bySet := if setFail then
      (if (s.wayOf l).isSome || s.claims l || ((s.freeWay l.sfSet).isSome && (s.nextClaim l.sfSet).isNone) then some 0
        else s.claimRound l n (h.p 0x40))
    else some 0
  let byHub := if r.span && (s.hwayOf l).isNone && !s.hubClaims l && ((s.freeHWay l.sdSet).isNone || (s.nextHubClaim l.sdSet).isSome) then
      s.hubWayRound l n (h.p 0x40)
    else some 0
  let h := if setFail then h.count 0x007 l.ls.toNat 1 else h
  let h := match (h.lineMap l).1 with
    | c :: _ => if home && (h.chNote c).asleep then h.askWake (.mp (BitVec.ofNat 3 (portOfChan c))) else h
    | [] => h
  match bySet, byHub with
  | some a, some b =>
    if home && !s.chained l && !s.chainHolds l then h.deferReq hs r n none
    else match h.ticketRound hs r n (max (max (h.chainRound s l) byRead) (max a b)) span with
      | some t => h.issueTicket hs r n t span g
      | none => h.deferReq hs r n (some none)
  | _, _ => h.deferReq hs r n (some none)

/-- Starts the recall of a line from the spill store where one of the slice's 16 recall places is free (R275). -/
def Hub.recall (h : Hub) (hs : Nat) (l : Line) (n : Nat) : Option Hub :=
  let busy := ((h.slice hs).wb.filter fun x => x.place == .recall).length
    + (h.spill.filter fun x => x.recallAt.isSome && x.ls == l.ls).length
  if h.spill.any fun x => x.line == l && x.recallAt.isSome then some h
  else if busy < 16 then
    some { h with spill := List.mapIf (fun x => x.line == l) (fun x => { x with recallAt := some n }) h.spill }
  else none

/-- A request that fails the Line, Tracker, credit, Set, memory window or spill check is ticketed or deferred (R40). -/
def Hub.refuse (h : Hub) (hs : Nat) (r : Req) (n : Nat) : Hub :=
  if h.inSpill r.line then
    match h.recall hs r.line n with
    | some h => h.ticketOr hs r n
    | none => h.deferReq hs r n none
  else h.ticketOr hs r n

/-- The checks that defer a request whatever else holds, in the order of the pseudocode of R40; none where they pass. -/
def Hub.deferCheck (h : Hub) (hs : Nat) (r : Req) (n : Nat) : Option (Option (Option Line)) :=
  let s := h.slice hs
  if s.heldBefore r n then some none
  else if (s.tickets.filter fun t => t.req.gaid == r.gaid).length ≥ 4 then some none
  else if (s.chain r.line).length ≥ 8 then some (some (some r.line))
  else if h.placeCount hs + 1 > 260 then some none
  else none

/-- The slice drains toward a handover (R360). -/
def Hub.drains (h : Hub) (hs n : Nat) : Bool :=
  match h.rot.drainAt with
  | some d => h.rot.outHs.toNat = hs && decide (d ≤ n)
  | none => false

/-- Every check of R40 that an acceptance in round `n` needs, past those that defer. -/
def Hub.passes (h : Hub) (hs : Nat) (r : Req) (n span : Nat) : Bool :=
  let s := h.slice hs
  let l := r.line
  let home := !h.isRemote l
  s.slotFree h.slots n n && !s.isOpen l && !s.held l n && !s.chained l && s.trackerOk n n (n + span) (!home)
    && h.creditsOk s l && s.setOk r && (!home || h.memClear s l n) && !h.inSpill l

/-- The judgement of a request that holds no valid ticket (R40). A ticket that waits for the lookup of the line's open transaction
is decided there (R63). -/
def Hub.judgeNew (h : Hub) (hs : Nat) (r : Req) (n : Nat) : Hub :=
  let h := h.lapse hs fun t => t.isFor r
  let span := h.worstSpan hs r.line
  if h.drains hs n then
    h.deferReq hs r n (some (if ((h.slice hs).chain r.line).length = 8 then some r.line else none))
  else match h.deferCheck hs r n with
    | some place => h.deferReq hs r n place
    | none =>
      if h.passes hs r n span then h.take hs r n span false
      else
        let waiting : Bool := match (h.slice hs).txnOn r.line with
          | some t => t.phase == .accepted
          | none => false
        if waiting then h.onSlice hs fun s => { s with refused := s.refused ++ [⟨r, none, n⟩] } else h.refuse hs r n

/-- The requests whose tickets waited for a line's lookup are ticketed or deferred (R63). -/
def Hub.ticketWaiting (h : Hub) (hs : Nat) (l : Line) : Hub :=
  let mine := (h.slice hs).refused.filter fun p => p.req.line == l
  let h := h.onSlice hs fun s => { s with refused := s.refused.filter fun p => p.req.line != l }
  mine.foldl (fun h p =>
    match h.deferCheck hs p.req p.at_ with
    | some place => h.deferReq hs p.req p.at_ place
    | none => h.refuse hs p.req p.at_) h

/-- The valid ticket of a presentation in round `n` (R48). -/
def Slice.validTicket (s : Slice) (p : Pres) (n : Nat) : Option Ticket :=
  match p.tktAt with
  | some t => s.tickets.find? fun k => k.isFor p.req && k.round == t && (t == n || t + 1 == n)
  | none => none

/-- The arbitration of one presented request in round `n`. -/
def Hub.arbitrateOne (h : Hub) (hs n : Nat) (p : Pres) : Hub :=
  if !h.allowed p.req then
    ((h.lapse hs fun t => t.isFor p.req).raise (rzTx evAccessDenied hs p.req.line p.req.gaid p.req.txid)).endReq hs p.req oMalformed
  else match (h.slice hs).validTicket p n with
    | some t => h.take hs p.req n (t.worst - t.round) true
    | none => h.judgeNew hs p.req n

/-- The order of one round's requests (R39): valid tickets in ticket order, then by age, then by the rotating pointer. Requesters of one
local number at different hubs come in the order of their hub numbers (DESIGN CHOICE, assumption log 73). -/
def Hub.ranks (h : Hub) (s : Slice) (n : Nat) (a b : Pres) : Bool :=
  let turn (r : Req) : Nat := (r.gaid.la - h.pointer).toNat * 512 + r.gaid.hub.toNat
  match s.validTicket a n, s.validTicket b n with
  | some x, some y => decide (x.round < y.round)
  | some _, none => true
  | none, some _ => false
  | none, none =>
    if a.req.age ≠ b.req.age then decide (b.req.age < a.req.age) else decide (turn a.req < turn b.req)

/-- The arbitration phase of a slice in round `n` (R36, R39): the requests presented by then. -/
def Hub.arbitrate (h : Hub) (n hs : Nat) : Hub :=
  let due := (h.slice hs).inbuf.filter fun p => decide (p.at_ ≤ n)
  let h := h.onSlice hs fun s => { s with
    used := 0
    inbuf := s.inbuf.filter fun p => !decide (p.at_ ≤ n) }
  (List.sorted (h.ranks (h.slice hs) n) due).foldl (fun h p => h.arbitrateOne hs n p) h

end Sys2Proof.Machine
end

