-- ==== Sys2Proof/Machine/Edge.lean ====
section
/-!
DEFINITION. Coherent requests at the edge router of their agent port: its checks (R168, R173, R199, R228, R253, R256), the
reservation sequence it stamps (R179), the write data it stages (R114), re-presentations (R50, R254) and the presentation at
the line's slice.
-/
namespace Sys2Proof.Machine

/-! ### Completions at the edge router -/

/-- The `CMP` of a malformed request, which has no other effect (R256). -/
def Hub.malformedCmp (h : Hub) (p : BitVec 4) (f : Flit) : Hub :=
  h.toAgent (epAp p.toNat) { agentMsg opCmp f.gaid f.txid f.line f.gaid.la with outcome := oMalformed }

/-- The edge router ends a request that no slice serves. -/
def Hub.edgeEnd (h : Hub) (p : BitVec 4) (f : Flit) (outcome : BitVec 2) : Hub :=
  h.sendCmp (epAp p.toNat) f.gaid f.txid f.line gNone outcome

/-- The requests that need a caching agent (R253). -/
def ReqOp.cached : ReqOp → Bool
  | .rdShared | .rdAny | .rdOwn | .upgrade => true
  | _ => false

/-- The record of an outstanding request of an agent. -/
def ApPort.outOf (a : ApPort) (g : Gaid) (t : Txid) : Option Outst := a.outst.find? fun o => o.gaid == g && o.txid == t

/-- A `TXID` outstanding for its agent (R256): a request that was refused may be presented again. -/
def ApPort.txidBusy (a : ApPort) (f : Flit) : Bool :=
  match a.outOf f.gaid f.txid with
  | some o => o.wb || !o.refused || o.line != f.line
  | none => false

/-- `PAIR` = 1 with an enable pattern that is not one aligned pair (R164). -/
def pairBad (be : ByteMask) : Bool := !((upTo 4).any fun i => be == (0xFFFF#64 <<< (16 * i)))

/-- A malformed request (R164, R253, R256). -/
def Hub.badRequest (h : Hub) (p : BitVec 4) (f : Flit) (op : ReqOp) (d : Option WrData) : Bool :=
  (h.ap p).txidBusy f || (op.cached && !(h.agent f.gaid.la).caching)
    || match d with
      | some w => !w.sound || (op == .wrPart && f.pair && pairBad w.mask)
      | none => false

/-- An agent's reservation record. -/
def Hub.rsvRec (h : Hub) (la : La) : RsvRec := h.rsvRecs.getD la.toNat ⟨0, 0, 0, 0, false⟩

/-- A reservation request off its anchor, or an `ATOM` that R169 makes malformed. The recorded anchor of a reservation made before a change of
its granule stays one for its store (R176; DEDUCED, assumption log 86). -/
def Hub.badForm (h : Hub) (f : Flit) (op : ReqOp) : Bool :=
  ((op == .rsvLoad || op == .rsvStore) && h.isHome f.line && h.anchorOf f.line != f.line
      && !(op == .rsvStore && (h.rsvRec f.gaid.la).valid && (h.rsvRec f.gaid.la).anchor == f.line))
    || (op == .atom && atomMalformed f.aop f.asize f.aoff f.pair)

/-! ### Reservation sequences (R179) -/

/-- Sends the release of an agent's recorded reservation (R179). -/
def Hub.releaseRsv (h : Hub) (la : La) : Hub :=
  let r := h.rsvRec la
  let g := Gaid.mk h.num la
  if !r.valid then h
  else if r.home = h.num then { h with rsvNotes := h.rsvNotes ++ [(2, ⟨r.anchor, r.anchor, g, 0, r.made⟩)] }
  else h.sendRsvRelease r.home g r.anchor r.made

/-- The first injection of an `RSV_LOAD` advances the agent's sequence. -/
def Hub.stepRsv (h : Hub) (la : La) : Hub :=
  { h with rsvRecs := h.rsvRecs.put la.toNat { h.rsvRec la with seq := (h.rsvRec la).seq + 1 } }

/-- The sequence that a request of an agent is stamped with when it is injected; 0 for the requests that take none. -/
def Hub.seqOf (h : Hub) (op : ReqOp) (la : La) : BitVec 12 := if op == .rsvLoad || op == .rsvStore then (h.rsvRec la).seq else 0

/-- The injection of an `RSV_LOAD` releases a recorded reservation with another anchor. -/
def Hub.releaseOther (h : Hub) (r : Req) : Hub :=
  let k := h.rsvRec r.gaid.la
  if r.op == .rsvLoad && k.valid && k.anchor != r.line then h.releaseRsv r.gaid.la else h

/-! ### Presentation -/

/-- A request's message with what its edge router stamps into it. -/
def Hub.reqOf (h : Hub) (op : ReqOp) (f : Flit) (operand : BitVec 256) : Req :=
  { op := op, gaid := f.gaid, txid := f.txid, line := f.line, crit := f.crit, stream := f.b26, pair := f.pair, aop := f.aop,
    asize := f.asize, aoff := f.aoff, rsvSeq := h.seqOf op f.gaid.la,
    operand := operand, span := false, src := h.num, age := h.ageOf f.gaid h.round, tkt := none }

/-- Puts a request into its slice's input buffer for the next round's arbitration (R36). The presentation ends the wait that a lapse of the
request's ticket began (R53). -/
def Hub.present (h : Hub) (r : Req) (tkt : Option Nat) : Hub :=
  let hs := h.homeHs r.line
  let r := { r with age := h.ageOf r.gaid h.round }
  let h := { h with lapses := dropRefusal h.lapses r.gaid r.txid r.line }
  let h := h.moved (if r.span then h.epToward r.src else epAp (h.agent r.gaid.la).port.toNat) hs false 16
  h.onSlice hs fun s => { s with inbuf := s.inbuf ++ [⟨r, tkt, h.round + 1⟩] }

/-- A local request is injected: stamped with the sequence in force, and presented (R179). -/
def Hub.inject (h : Hub) (r : Req) (tkt : Option Nat) : Hub :=
  (h.releaseOther r).present { r with rsvSeq := h.seqOf r.op r.gaid.la } tkt

/-- The edge router's record of an outstanding request. -/
def ApPort.note (a : ApPort) (r : Req) : ApPort :=
  { a with outst := (a.outst.filter fun o => !(o.gaid == r.gaid && o.txid == r.txid && !o.wb)) ++
      [⟨r.gaid.la, r.gaid, r.txid, r.line, false, none, false⟩] }

/-- Stages write data (R114), in place of an earlier copy. -/
def ApPort.stage (a : ApPort) (r : Req) (d : WrData) : ApPort :=
  { a with staged := (a.staged.filter fun x => !(x.gaid == r.gaid && x.txid == r.txid && !x.wb)) ++
      [⟨r.gaid.la, r.gaid, r.txid, r.line, d.bytes, if d.poison then allBytes else 0, d.mask, false⟩] }

/-- Answers a re-presentation that comes too early, or finds the hold store full, as it was answered before (R254). -/
def Hub.sameAnswer (h : Hub) (p : BitVec 4) (f : Flit) (isDefer : Bool) (t : Nat) : Hub :=
  h.toAgent (epAp p.toNat) { agentMsg (if isDefer then opDefer else opTicket) f.gaid f.txid f.line f.gaid.la with
    ticket := BitVec.ofNat 16 t }

/-- What becomes of a re-presentation that arrives in this round: answered again, held until a round, or presented now. -/
inductive RepFate where
  | answer (isDefer : Bool) (t : Nat)
  | hold (isDefer : Bool) (at_ : Nat)
  | now
  deriving DecidableEq, Repr

/-- A received round field names a round more than 4,095 rounds in the past: it matches no ticket and no deferral (R9). -/
def longPast (n : Nat) (v : BitVec 16) : Bool := within (BitVec.ofNat 16 n - v).toNat 4096 32768

/-- R9, R50 and R254: a ticketed request is held from T−32 for round T, one round late when it comes in round T−2, and is new after
that; a deferred one is held from D+32 for round D+64, unless its field names a round long past. -/
def repFate (n : Nat) (back : Option (Bool × Nat)) (f : Flit) : RepFate :=
  match back with
  | some (false, t) =>
    if !f.b28 || f.ticket ≠ BitVec.ofNat 16 t then .now
    else if n + 32 < t then .answer false t
    else if n + 3 ≤ t then .hold false t
    else if n + 2 = t then .hold false (t + 1)
    else .now
  | some (true, t) =>
    if !f.b28 || longPast n f.ticket then .now
    else if n + 32 < t then .answer true t
    else if n < t then .hold true t
    else .now
  | none => .now

/-- A request that passed the edge router's checks is held or presented (R50, R114, R254). -/
def Hub.letIn (h : Hub) (p : BitVec 4) (f : Flit) (op : ReqOp) (d : Option WrData) (operand : BitVec 256) : Hub :=
  let back := ((h.ap p).outOf f.gaid f.txid).bind fun o => o.back
  let again := ((h.ap p).outOf f.gaid f.txid).isSome
  let h := if op == .rsvLoad && !again then h.stepRsv f.gaid.la else h
  let r := h.reqOf op f operand
  let stage (h : Hub) : Hub := match d with
    | some w => h.onAp p fun a => a.stage r w
    | none => h
  let full := (h.ap p).holds.length ≥ 64
  match repFate h.round back f with
  | .answer isDefer t => h.sameAnswer p f isDefer t
  | .hold isDefer t =>
    if full then h.sameAnswer p f isDefer (match back with
      | some (_, k) => k
      | none => t)
    else
      let tkt := match back with
        | some (false, k) => some k
        | _ => none
      (stage h).onAp p fun a => { a with
        holds := (a.holds.filter fun x => !(x.req.gaid == r.gaid && x.req.txid == r.txid)) ++ [⟨{ r with tkt := tkt }, t⟩] }
  | .now => ((stage h).onAp p fun a => a.note r).inject r none

/-- A coherent request arrives at its edge router; `sound` is false where its operand beat breaks R246 or R247. -/
def Hub.request (h : Hub) (p : BitVec 4) (f : Flit) (op : ReqOp) (d : Option WrData) (operand : BitVec 256) (sound : Bool := true) : Hub :=
  if h.start.phase != .serving then h
  else h.fromGaid p f fun h =>
    if !sound || h.badRequest p f op d then (h.malformedAt p f).malformedCmp p f
    else match h.classify f.line with
      | .window _ | .device _ => (h.raise (rzTx evApRegionMismatch p.toNat f.line f.gaid f.txid)).edgeEnd p f oMalformed
      | .unmapped => (h.raise (rzTx evApUnmapped p.toNat f.line f.gaid f.txid)).edgeEnd p f oMalformed
      | .home _ => if h.badForm f op then h.edgeEnd p f oMalformed else h.letIn p f op d operand
      | .remote e =>
        if h.badForm f op then h.edgeEnd p f oMalformed
        else if h.lostHubs.contains e then
          let free := Config.freeLine h.freeCtr
          let h := if op.isWrite && op != .atom then h
            else ({ h with freeCtr := h.freeCtr + 1 }).toAgent (epAp p.toNat)
              { agentMsg opDatHome f.gaid f.txid f.line f.gaid.la with
                crit := if op = ReqOp.atom then f.aoff.getLsbD 5 else f.crit
                data := some (if op = ReqOp.atom then atomOld f.aoff free else free, false, true)
                be := if op = ReqOp.atom then halfMask f.aoff else 0 }
          h.edgeEnd p f oLost
        else h.letIn p f op d operand

/-! ### The rows -/

/-- `RD_SHARED` (R109). -/
def execRdShared (p : BitVec 4) (f : Flit) (s : State) : Host.Outcome State Fault Refusal :=
  .next (s.withHub fun h => h.request p f .rdShared none 0)

/-- `RD_ANY` (R109). -/
def execRdAny (p : BitVec 4) (f : Flit) (s : State) : Host.Outcome State Fault Refusal :=
  .next (s.withHub fun h => h.request p f .rdAny none 0)

/-- `RD_OWN` (R109). -/
def execRdOwn (p : BitVec 4) (f : Flit) (s : State) : Host.Outcome State Fault Refusal :=
  .next (s.withHub fun h => h.request p f .rdOwn none 0)

/-- `UPGRADE` (R109). -/
def execUpgrade (p : BitVec 4) (f : Flit) (s : State) : Host.Outcome State Fault Refusal :=
  .next (s.withHub fun h => h.request p f .upgrade none 0)

/-- `RD_ONCE` (R109). -/
def execRdOnce (p : BitVec 4) (f : Flit) (s : State) : Host.Outcome State Fault Refusal :=
  .next (s.withHub fun h => h.request p f .rdOnce none 0)

/-- `WR_FULL` (R114): the whole line is written, whatever `BE` holds. -/
def execWrFull (p : BitVec 4) (f : Flit) (d : WrData) (s : State) : Host.Outcome State Fault Refusal :=
  .next (s.withHub fun h => h.request p f .wrFull (some { d with beValid := false }) 0)

/-- `WR_PART` (R114, R164). -/
def execWrPart (p : BitVec 4) (f : Flit) (d : WrData) (s : State) : Host.Outcome State Fault Refusal :=
  .next (s.withHub fun h => h.request p f .wrPart (some d) 0)

/-- `ATOM` with its operand beat (R115, R169). -/
def execAtom (p : BitVec 4) (f : Flit) (operand : OperandBeat) (s : State) : Host.Outcome State Fault Refusal :=
  .next (s.withHub fun h => h.request p f .atom none operand.bits operand.sound)

/-- `RSV_LOAD` (R175, R179). -/
def execRsvLoad (p : BitVec 4) (f : Flit) (s : State) : Host.Outcome State Fault Refusal :=
  .next (s.withHub fun h => h.request p f .rsvLoad none 0)

/-- `RSV_STORE` (R178, R179). -/
def execRsvStore (p : BitVec 4) (f : Flit) (d : WrData) (s : State) : Host.Outcome State Fault Refusal :=
  .next (s.withHub fun h => h.request p f .rsvStore (some d) 0)

/-- The edge router presents a held re-presentation in its round (R50, R254). -/
def execHeldRepresentationPresent (p : BitVec 4) (gaid : Gaid) (txid : Txid) (s : State) : Host.Outcome State Fault Refusal :=
  .next (s.withHub fun h =>
    match (h.ap p).holds.find? fun x => x.req.gaid == gaid && x.req.txid == txid with
    | none => h
    | some x =>
      if h.round + 1 < x.at_ then h
      else (h.onAp p fun a => { a.note x.req with
        holds := a.holds.filter fun y => !(y.req.gaid == gaid && y.req.txid == txid) }).inject x.req x.req.tkt)

/-- Ends every record of a ticket that has lapsed and that no presentation followed within 64 rounds (R53). -/
def execRefusalAgeClear (gaid : Gaid) (s : State) : Host.Outcome State Fault Refusal :=
  .next (s.withHub fun h =>
    ((h.lapses.getD gaid.toNat []).filter fun r => decide (r.round + 64 ≤ h.round)).foldl
      (fun h r => h.clearRefusal gaid r.txid r.line) h)

end Sys2Proof.Machine
end

