-- ==== Sys2Proof/Machine/Writebacks.lean ====
section
/-!
DEFINITION. Writebacks and clean notices (R41, R84, R128–R134), what the correctors report at a read of a line's arrays (R97,
R225, R288), and the pull of staged write data (R114).
-/
namespace Sys2Proof.Machine

/-! ### What correctors report at an access (R97, R225, R288, R91, R292) -/

/-- The ways whose bit is set. -/
def waysOf (m : BitVec 16) : List Nat := (upTo 16).filter fun w => m.getLsbD w

/-- The number of ways whose bit is set. -/
def countWays (m : BitVec 16) : Nat := (waysOf m).length

/-- The ways of a snoop-filter set that a read finds malformed (R82, R97). -/
def Slice.badWays (s : Slice) (set : BitVec 14) : BitVec 16 :=
  (upTo 16).foldl (fun m w => if (s.viewAt set w).isNone then m ||| (1#16 <<< w) else m) 0

/-- The ways whose word carries a line's tag as its own entry: any but an empty way and a `DEG` way with more than one candidate. -/
def Slice.ownWay (s : Slice) (l : Line) (w : Nat) : Bool :=
  sfWordTag (s.sfAt l.sfSet w) == l.sfTag && s.sfAt l.sfSet w != 0 && s.viewAt l.sfSet w != some (.deg false)

/-- A snoop-filter way found uncorrectable by the lookup of a transaction on its own line becomes an exact `DEG` (R97). -/
def Hub.ownDeg (h : Hub) (hs : Nat) (l : Line) (w : Nat) : Hub :=
  let h := h.raiseMalformed hs l.sfSet w ((h.slice hs).viewAt l.sfSet w).isNone
  let h := (h.putSf hs l.sfSet w ((SView.deg true).word l.sfTag)).onSlice hs fun s =>
    { s.queueSweep false l.sfSet w with errs := s.errs.addUeSf }
  let h := h.onSlice hs fun s => { s with
    sweeps := List.mapIf (fun x => !x.span && x.set == l.sfSet && x.way.toNat == w)
      (fun x => { x with loss := x.loss.or (s.walkLoss l.sfSet) }) s.sweeps }
  h.raise { rzLine evSfDeg hs l with sw := some (l.sfSet, BitVec.ofNat 4 w) }

/-- The tag of a snoop-filter way as an uncorrectable read shows it: with the bits that its errors have flipped (R97). -/
def Slice.sfTagRead (s : Slice) (set : BitVec 14) (w : Nat) (e : LookupErr) : BitVec 32 :=
  sfWordTag (s.sfAt set w) ^^^ (match e.sfFlips.find? fun x => x.1.toNat == w with
    | some x => x.2
    | none => 0)

/-- Reads a snoop-filter set through its correctors: uncorrectable and malformed ways become `DEG`, corrected ones are counted. `own` is
the line whose transaction's lookup this is (R97). -/
def Hub.readSfSet (h : Hub) (hs : Nat) (set : BitVec 14) (e : LookupErr) (own : Option Line) : Hub :=
  let s := h.slice hs
  let ue := e.sfUe ||| s.badWays set
  let h := (waysOf ue).foldl (fun h w =>
    let other (h : Hub) : Hub := h.markDeg hs set w (s.sfTagRead set w e)
    match own with
    | some l => if s.ownWay l w then h.ownDeg hs l w else other h
    | none => other h) h
  let h := h.corrected hs .sf (countWays (e.sfCe &&& ~~~ue))
  if e.nruPar then
    (h.onSlice hs fun s => { s with nru := s.nru.drop set.toNat }).raise { rz evSfNruParity hs with sw := some (set, 0) }
  else h

/-- Reads the snoop-filter set of a line; `own` marks the lookup of a transaction on the line. -/
def Hub.readSf (h : Hub) (hs : Nat) (l : Line) (e : LookupErr) (own : Bool) : Hub :=
  h.readSfSet hs l.sfSet e (if own then some l else none)

/-- The ways of a span directory set that a read finds malformed. -/
def Slice.badHubWays (s : Slice) (set : BitVec 12) : BitVec 8 :=
  (upTo 8).foldl (fun m w => if (HView.ofWord (s.sdAt set w)).isNone then m ||| (1#8 <<< w) else m) 0

/-- Reads a span directory set through its correctors. -/
def Hub.readSdSet (h : Hub) (hs : Nat) (set : BitVec 12) (e : LookupErr) : Hub :=
  let ue := e.sdUe ||| (h.slice hs).badHubWays set
  let s := h.slice hs
  let tag (w : Nat) : BitVec 34 := sdWordTag (s.sdAt set w) ^^^ (match e.sdFlips.find? fun x => x.1.toNat == w with
    | some x => x.2
    | none => 0)
  let h := (waysOf (ue.setWidth 16)).foldl (fun h w => h.markHubDeg hs set w (tag w)) h
  h.corrected hs .sd (countWays ((e.sdCe &&& ~~~ue).setWidth 16))

/-- Reads the span directory set of a line. -/
def Hub.readSd (h : Hub) (hs : Nat) (l : Line) (e : LookupErr) : Hub := h.readSdSet hs l.sdSet e

/-- The ways of a hub-cache set whose tag word a read finds malformed. -/
def Slice.badHcWays (s : Slice) (set : BitVec 10) : BitVec 16 :=
  (upTo 16).foldl (fun m w => if hcMalformed (s.hcAt set w) w then m ||| (1#16 <<< w) else m) 0

/-- What the correctors find in ways of a hub-cache set: an uncorrectable one loses its line, a corrected one counts toward its disable. -/
def Hub.readHcWays (h : Hub) (hs : Nat) (set : BitVec 10) (ue ce : BitVec 16) : Hub :=
  let h := (waysOf ue).foldl (fun h w => h.hcUncorrectable hs set w) h
  (waysOf (ce &&& ~~~ue)).foldl (fun h w => h.wayCorrected hs w) (h.corrected hs .hc (countWays (ce &&& ~~~ue)))

/-- Reads the fill buffer's copy of a line: an uncorrectable word is delivered and the line is poisoned, a corrected one is counted (R333). -/
def Hub.readFill (h : Hub) (hs : Nat) (l : Line) (e : LookupErr) : Hub :=
  match (h.slice hs).fillOf l with
  | none => h
  | some f =>
    if f.data.isNone then h
    else if e.dataUe then (h.onSlice hs fun s => s.onFill l fun x => { x with poison := true }).raise (rzLine evHubDataUe hs l)
    else if e.dataCe then h.corrected hs .hc 1
    else h

/-- Reads the hub-cache set of a line, or its fill-buffer copy: an uncorrectable or malformed tag word, or an uncorrectable data word, makes its way invalid, corrected ones count toward their
way's disable. -/
def Hub.readHc (h : Hub) (hs : Nat) (l : Line) (e : LookupErr) : Hub :=
  let hit := (h.slice hs).hcWay l
  let dataWay : BitVec 16 := match hit with
    | some w => 1#16 <<< w
    | none => 0
  let ue := e.tagUe ||| (h.slice hs).badHcWays l.hcSet ||| (if e.dataUe then dataWay else 0)
  let h := h.readHcWays hs l.hcSet ue (e.tagCe ||| (if e.dataCe then dataWay else 0))
  let h := if hit.isNone then h.readFill hs l e else h
  if e.agePar then
    ((upTo 16).foldl (fun h w => h.onSlice hs fun s => s.putAge l.hcSet w 3) h).raise
      { rz evHcAgeParity hs with sw := some (l.hcSet.setWidth 14, 0) }
  else h

/-- A merge into a hub-cache way reads its words through the correctors: an uncorrectable one refuses it, and the line is dropped (R294,
R335). Bytes of a write and atomic results are merged into words that their transaction's lookup has read (assumption log 100). -/
def Hub.readMerge (h : Hub) (hs : Nat) (l : Line) (e : LookupErr) : Hub := if h.isHome l then h.readHc hs l e else h

/-! ### Writebacks and notices at the slice -/

/-- The open transaction on a line whose lookup has been made (R132). -/
def Slice.lookedOn (s : Slice) (l : Line) : Option Txn :=
  s.txns.find? fun t => t.req.line == l && t.phase == .looked

/-- How a writeback or notice of agent `w` is judged. -/
inductive WbCase where
  | taken
  | unnamed
  deriving DecidableEq, Repr

/-- Whether a writeback from agent `w` is the line's value (R84, R132), or comes from an agent that nothing names. R84 calls a writeback
stray unless its writer is named as owner, R132 takes it from any writer that the open transaction's prior view names: the model follows
R132 (DESIGN CHOICE, assumption log 78), and for a back-invalidation or a span snoop on the line the same. -/
def Slice.wbCase (s : Slice) (l : Line) (w : La) : WbCase :=
  let v := s.homeView l
  let byHeld : Bool := s.helds.any fun k => k.line == l && k.view.names.contains w
  let byTxn : Bool := match s.lookedOn l with
    | some t => t.view.names.contains w || (match t.view with
      | .deg _ => true
      | _ => false)
    | none => false
  let byBack : Bool := match s.backOn l with
    | some b => b.view.names.contains w
    | none => false
  let open_ := byTxn || byBack || byHeld
  match v with
  | .deg _ => .taken
  | .own o => if o = w || open_ then .taken else .unnamed
  | .shr k _ => if open_ || (k.contains w && (s.lookedOn l).isNone) then .taken else .unnamed
  | _ => if open_ then .taken else .unnamed

/-- A transaction accepted before a writeback has its lookup still to come: the writeback is judged after it (R128, R132). -/
def Slice.lookupDue (s : Slice) (l : Line) : Bool := s.txns.any fun t => t.req.line == l && t.phase == .accepted

/-- The writeback's value is there for what is open on the line: an open transaction's prepared source (R111, R116), and the answer that a
back-invalidation's owner need not bring (R144). -/
def Hub.valueCame (h : Hub) (hs : Nat) (l : Line) (w : La) (bytes : LineBits) (pois : ByteMask) : Hub :=
  let named (b : BackInv) : Bool := b.line == l && (b.view.names.contains w || match b.view with
    | .deg _ => true
    | _ => false)
  (h.newerData hs l bytes pois).onSlice hs fun s => { s with backs := List.mapIf named (fun b => { b with data := true }) s.backs }

/-- Removes a writer from the line's entry (R84, R132): not where it is the requester of an open transaction that grants. -/
def Hub.removeWriter (h : Hub) (hs : Nat) (l : Line) (w : La) : Hub :=
  let s := h.slice hs
  let isReq : Bool := match s.lookedOn l with
    | some t => !t.req.span && t.req.gaid.la == w && !t.gate.released
    | none => false
  match s.healthyWays l with
  | k :: _ =>
    let v := (s.viewAt l.sfSet k).getD .unc
    let v' := v.without fun a => a == w
    if isReq || v' = v then h else h.putEntry hs l k v'
  | [] => h

/-- `CMP_WB`, held while a snoop of the line to the writer awaits its answer (R133). -/
def Hub.ackWb (h : Hub) (p : BitVec 4) (hs : Nat) (la : La) (l : Line) (t : Txid) : Hub :=
  if (h.ap p).snoops.any fun x => x.la == la && x.line == l && x.got.isNone then
    h.onAp p fun a => { a with cmpWbHeld := a.cmpWbHeld ++ [(la, l, t)] }
  else h.sendCmpWb hs la l t

/-- A writeback or notice changes the line's entry and is acknowledged (R84, R132, R133). -/
def Hub.noticeEntry (h : Hub) (p : BitVec 4) (hs : Nat) (la : La) (l : Line) (t : Txid) (dirty : Bool) : Hub :=
  let before := (h.slice hs).homeView l
  let h := h.removeWriter hs l la
  let gone := before != .unc && (h.slice hs).homeView l == .unc
  (h.ackWb p hs la l t).proxyFlush hs l (dirty || gone)

/-- The span directory entry that a hub's writeback or notice leaves (R223). -/
def HView.afterNotice (v : HView) (x : HubNo) (keep : Bool) : HView :=
  match v with
  | .own y => if y ≠ x then v else if keep then .shr [x] else .none
  | .shr l =>
    if keep then v
    else
      let left := l.filter fun y => y != x
      if left.isEmpty then .none else .shr left
  | _ => v

/-- Applies a writeback or notice to the line's entry, unless its hub is the requester of an open transaction that has looked the entry
up (R132). -/
def Hub.hubNotice (h : Hub) (hs : Nat) (l : Line) (x : HubNo) (keep : Bool) : Hub :=
  let s := h.slice hs
  let isReq : Bool := match s.lookedOn l with
    | some t => t.req.span && t.req.gaid.hub == x && t.gate.spanGrant != 0
    | none => false
  match s.healthySd l with
  | w :: _ =>
    let v := (HView.ofWord (s.sdAt l.sdSet w)).getD .none
    let v' := v.afterNotice x keep
    if isReq || v' = v then h else h.putHub hs l w v'
  | [] => h

/-- The writebacks and notices whose entry change waited for a lookup on their line (R128, R134). -/
def Hub.runWbWaits (h : Hub) (hs : Nat) (l : Line) : Hub :=
  let mine := (h.slice hs).wbWait.filter fun x => x.line == l
  let h := h.onSlice hs fun s => { s with wbWait := s.wbWait.filter fun x => x.line != l }
  mine.foldl (fun h x => match x.span with
    | some (hub, keep) => h.hubNotice hs l hub keep
    | none => h.noticeEntry x.port hs x.la l x.txid x.dirty) h

/-- A writeback or notice takes its turn at the entry: at once, or after the lookup of a request accepted before it. -/
def Hub.turnNotice (h : Hub) (p : BitVec 4) (hs : Nat) (la : La) (l : Line) (t : Txid) (dirty : Bool) : Hub :=
  if (h.slice hs).lookupDue l then h.onSlice hs fun s => { s with wbWait := s.wbWait ++ [⟨p, la, l, t, dirty, none⟩] }
  else h.noticeEntry p hs la l t dirty

/-- The same for a writeback or notice of a hub (R231). -/
def Hub.turnHubNotice (h : Hub) (hs : Nat) (l : Line) (x : HubNo) (keep : Bool) : Hub :=
  if (h.slice hs).lookupDue l then h.onSlice hs fun s => { s with wbWait := s.wbWait ++ [⟨0, 0, l, 0, false, some (x, keep)⟩] }
  else h.hubNotice hs l x keep

/-- A malformed writeback or notice (R253, R256). -/
def Hub.badNotice (h : Hub) (p : BitVec 4) (f : Flit) (sound : Bool) : Bool :=
  !sound || !(h.agent f.gaid.la).caching || ((h.ap p).outOf f.gaid f.txid).isSome

/-- A writeback or notice at its edge router: malformed ones are discarded, those whose address no slice serves are answered there
(R256). -/
def Hub.notice (h : Hub) (p : BitVec 4) (f : Flit) (sound : Bool) (k : Hub → Hub) : Hub :=
  if !h.takesAnswers then h
  else h.fromGaid p f fun h =>
    if h.badNotice p f sound then h.malformedAt p f
    else
      let here (h : Hub) : Hub := h.sendCmpWb (epAp p.toNat) f.gaid.la f.line f.txid
      match h.classify f.line with
      | .window _ | .device _ => here (h.raise (rzTx evApRegionMismatch p.toNat f.line f.gaid f.txid))
      | .unmapped => here (h.raise (rzTx evApUnmapped p.toNat f.line f.gaid f.txid))
      | .home _ | .remote _ =>
        k (h.onAp p fun a => { a with outst := a.outst ++ [⟨f.gaid.la, f.gaid, f.txid, f.line, true, none, false⟩] })

/-- `WB_DIRTY` (R41, R84, R132): the data enters the write buffer as it arrives, unless nothing names its writer. -/
def execWbDirty (p : BitVec 4) (f : Flit) (d : MeshData) (e : LookupErr) (s : State) : Host.Outcome State Fault Refusal :=
  .next (s.withHub fun h => h.notice p f d.line.sound fun h =>
    let la := f.gaid.la
    let l := f.line
    let hs := h.homeHs l
    let pois := enterPoison d.line.poison d.ue
    let h := h.onAp p fun a => { a with staged := a.staged ++ [⟨la, f.gaid, f.txid, l, d.line.bytes, enterPoison d.line.poison 0, allBytes, true⟩] }
    let h := ((h.moved (epAp p.toNat) hs true 64).count 0x006 l.ls.toNat 1).readSf hs l e false
    let h := h.onSlice hs fun s => s.touchLine l h.round
    match (h.slice hs).wbCase l la with
    | .unnamed => (h.raise (rzTx evSfStrayWb hs l f.gaid f.txid)).ackWb p hs la l f.txid
    | .taken =>
      let h := h.meshUe hs l d.ue
      let h := ((h.readMerge hs l e).enterValue hs l .writeback (h.isHome l) d.line.bytes pois (some f.gaid)).valueCame hs l la d.line.bytes pois
      h.turnNotice p hs la l f.txid true)

/-- `EVICT_CLEAN` (R84, R132): the writer leaves the entry. -/
def execEvictClean (p : BitVec 4) (f : Flit) (e : LookupErr) (s : State) : Host.Outcome State Fault Refusal :=
  .next (s.withHub fun h => h.notice p f true fun h =>
    let la := f.gaid.la
    let l := f.line
    let hs := h.homeHs l
    let h := ((h.moved (epAp p.toNat) hs false 16).count 0x006 l.ls.toNat 1).readSf hs l e false
    (h.onSlice hs fun s => s.touchLine l h.round).turnNotice p hs la l f.txid false)

/-! ### Staged write data (R114) -/

/-- The staged data of a transaction: at its edge router, or with the span engine (R215). -/
def Hub.stagedFor (h : Hub) (r : Req) : Option (LineBits × ByteMask × ByteMask) :=
  if r.span then
    (((h.spanReps.find? fun x => x.req.gaid == r.gaid && x.req.txid == r.txid && x.req.line == r.line).bind fun x => x.data)).map
      fun d => (d.bytes, if d.poison then allBytes else 0, d.mask)
  else
    (((h.ap (h.agent r.gaid.la).port).staged.find? fun d => d.gaid == r.gaid && d.txid == r.txid && !d.wb)).map
      fun d => (d.bytes, d.pois, d.be)

/-- The staged data is let go once it has been pulled. -/
def Hub.unstage (h : Hub) (r : Req) : Hub :=
  if r.span then
    { h with spanReps := h.spanReps.filter fun x => !(x.req.gaid == r.gaid && x.req.txid == r.txid && x.req.line == r.line) }
  else h.onAp (h.agent r.gaid.la).port fun a =>
    { a with staged := a.staged.filter fun d => !(d.gaid == r.gaid && d.txid == r.txid && !d.wb) }

/-- `SPAN_WR` of a proxy (R208): the request with its data and byte enables. -/
def Hub.sendSpanWr (h : Hub) (r : Req) (e : HubNo) (bytes : LineBits) (pois be : ByteMask) : Hub :=
  let low := lowBit 28 (r.op == .rsvStore) ||| lowBit 27 r.crit ||| lowBit 25 r.pair |||
    lowField 3 (if r.op = .rsvStore then r.rsvSeq.toNat else 0)
  h.toHubWith e 0x08 (Flit.plain r.gaid r.txid r.line low) (some (payload bytes false (pois != 0))) none
    (if be = allBytes then 0 else be)

/-- The slice's data pull reaches the edge router, which sends the staged data (R114): to the write buffer, or for a remote line
with `SPAN_WR`. A staged byte found uncorrectable is sent poisoned (R332). -/
def execDataPull (ls : BitVec 6) (tid : Byte) (upsets : List ByteUpset) (s : State) : Host.Outcome State Fault Refusal :=
  .next (s.withHub fun h =>
    let hs := h.hsOf ls
    match h.txn hs tid with
    | none => h
    | some t =>
      if !t.gate.pullWait then h
      else match h.stagedFor t.req with
        | none => h
        | some (b, pois, be) =>
          let u := applyUpsets b pois upsets
          let ep := if t.req.span then h.epToward t.req.src else epAp (h.agent t.req.gaid.la).port.toNat
          let h := ((h.unstage t.req).moved ep hs true 64).count 0x060 0x7F u.2.2.1
          let h := if u.2.2.2 ≠ 0 then h.raise (rzLine evHubDataUe ep t.req.line) else h
          let h := match h.remoteHome t.req.line with
            | some e => if t.spanReq then h.sendSpanWr t.req e u.1 u.2.1 be else h
            | none => h.enterWritten hs t.req.line true u.1 be u.2.1
          (h.onTxn hs tid fun x => { x with
            wrote := true
            wdata := if t.spanReq then some ⟨u.1, be, true, u.2.1 != 0, true⟩ else none
            gate := { x.gate with pullWait := false } }).settle hs tid)

end Sys2Proof.Machine
end

