-- ==== Sys2Proof/Machine/Reads.lean ====
section
/-!
DEFINITION. What happens when a memory read's data reaches its slice (R61, R112, R116, R119, R290–R292, R295): the transaction and
its gate, fills, chain copies, and the locked far atomic of a memory port (R121, R172, R277, R338).
-/
namespace Sys2Proof.Machine

/-! ### Reads and their tags -/

/-- The read of a tag at a memory port. -/
def Hub.readOf (h : Hub) (mp : Nat) (t : Txid) : Option MemRead := h.reads.find? fun r => portOfChan r.ch.toNat == mp && r.mtag == t

/-- A read is no longer outstanding. -/
def Hub.dropRead (h : Hub) (r : MemRead) : Hub :=
  { h with reads := h.reads.filter fun x => !(portOfChan x.ch.toNat == portOfChan r.ch.toNat && x.mtag == r.mtag) }

/-- Changes a read's record. -/
def Hub.onRead (h : Hub) (r : MemRead) (f : MemRead → MemRead) : Hub :=
  { h with reads := List.mapIf (fun x => portOfChan x.ch.toNat == portOfChan r.ch.toNat && x.mtag == r.mtag) f h.reads }

/-- The command address of a line (R261). -/
def Hub.caddr (h : Hub) (l : Line) : BitVec 40 := BitVec.ofNat 40 ((h.lineMap l).2.1 / 64)

/-- Changes a channel's record. -/
def Hub.onChan (h : Hub) (c : Nat) (f : Chan → Chan) : Hub := { h with chans := h.chans.upd c Chan.init f }

/-- Hands a command to a memory port: its units wait for a slot of the port's frames (R238, R261, R263). -/
def Hub.toMem (h : Hub) (c : Nat) (opc : BitVec 6) (t : Txid) (l : Line) (crit : Bool) (data : Option (LineBits × Bool)) : Hub :=
  let m := portOfChan c
  let u := memUnits opc t (c % 2 == 1) (h.caddr l) crit data
  ({ h with mps := h.mps.upd m MpPort.init fun x => { x with frame := x.frame.queue u } }).emit
    (.memory (BitVec.ofNat 4 c) opc t (h.caddr l) crit data)

/-- Writes data to a channel under a tag: `MEM_WR` or `MEM_WR_UL` (R262). -/
def Hub.sendWrite (h : Hub) (c : Nat) (opc : BitVec 6) (t : Txid) (l : Line) (bytes : LineBits) (poison : Bool) : Hub :=
  let h := h.toMem c opc t l false (some (bytes, poison))
  (h.onChan c fun x => { x with
    lastUse := h.round
    wrUsed := if opc = 0x08 then x.wrUsed + 1 else x.wrUsed }).count 0x033 (0x60 + portOfChan c) 1

/-! ### Sending a read (R270, R278) -/

/-- The port of a channel is online. -/
def Hub.chanOnline (h : Hub) (c : Nat) : Bool := (h.mps.getD (portOfChan c) MpPort.init).online

/-- Reads at the controller of a channel: sent and unanswered, or answered with poison before their data came (R269). -/
def Hub.readsOut (h : Hub) (c : Nat) : Nat :=
  (h.reads.filter fun r => r.ch.toNat == c && r.sent && r.held.isNone && r.who != .mirror true).length + (h.chan c).lost.length

/-- Every buffered line, of the slices and of the spill store. -/
def Hub.allWb (h : Hub) : List WbLine := h.spill ++ h.slices.flatMap fun e => e.2.wb

/-- Writes outstanding at a channel that took a write credit. -/
def Hub.writesOut (h : Hub) (c : Nat) : Nat :=
  h.allWb.foldl (fun n x => n + (x.out.filter fun o => o.ch.toNat == c && !o.ul).length) 0
    + (h.reads.filter fun r => r.ch.toNat == c && r.who == .mirror true).length

/-- A memory write of the line is outstanding (R135, R270). -/
def Hub.writeOut (h : Hub) (l : Line) : Bool :=
  match h.wbFind (h.homeHs l) l with
  | some x => !x.out.isEmpty
  | none => false

/-- Another read of the line is at the controller (R117). -/
def Hub.readAtPort (h : Hub) (r : MemRead) : Bool := h.reads.any fun x => x.line == r.line && x.sent && x.held.isNone && x.mtag != r.mtag

/-- The slice of a locked read holds a lock at some channel already (R152, R324). -/
def Hub.lockHeld (h : Hub) (r : MemRead) : Bool :=
  r.lk && h.reads.any fun x => x.lk && x.sent && x.ls == r.ls && (h.chan x.ch.toNat).lock == some x.mtag

/-- A queued read that may be sent on its channel, a lock aside. -/
def Hub.readFree (h : Hub) (c : Nat) (r : MemRead) : Bool :=
  r.ch.toNat == c && !r.sent && r.held.isNone && !h.writeOut r.line && !h.readAtPort r && (!r.lk || (h.chan c).lock.isNone)
    && h.pauseAllows c (r.pres.getD h.round)

/-- A queued read that may be sent on its channel. -/
def Hub.readSendable (h : Hub) (c : Nat) (r : MemRead) : Bool := h.readFree c r && !h.lockHeld r

/-- A lock that is asked for by a slice which holds one is refused (R152, R324): the read gets no grant and asks again. -/
def Hub.refuseLock (h : Hub) (c : Nat) : Hub :=
  if h.reads.any fun r => h.readFree c r && h.lockHeld r then h.raise (rz evMeshLockRefused (epMp (portOfChan c))) else h

/-! ### Grants (R322) -/

/-- A requester may use a grant of this round at an arbiter: slices from 0, memory ports from 65. -/
def Hub.granted (h : Hub) (key i : Nat) : Bool := decide (0 < List.nth (h.arbs.getD key Arbiter.init).grants i 0)

/-- Uses a grant. -/
def Hub.useGrant (h : Hub) (key i : Nat) : Hub :=
  { h with arbs := h.arbs.upd key Arbiter.init fun a => { a with grants := List.setNth 0 (List.nth a.grants i 0 - 1) i a.grants } }

/-- The grants that a read needs: none in the normal class; a speculative read one of its memory port, a prefetch and a fill-and-lock one of
their slice's egress as well. -/
def Hub.readGrants (h : Hub) (c : Nat) (r : MemRead) : List (Nat × Nat) :=
  let port := 65 + portOfChan c
  if !r.spec then []
  else match r.who with
    | .mirror _ => [(port, 3)]
    | .lockFill _ _ => [(port, 2), (h.hsOf r.ls, 2)]
    | .prefetch _ => [(port, 2), (h.hsOf r.ls, 3)]
    | _ => [(port, 2)]

/-- All of some grants are there. -/
def Hub.grantedAll (h : Hub) (l : List (Nat × Nat)) : Bool := l.all fun g => h.granted g.1 g.2
/-- Uses them. -/
def Hub.useGrants (h : Hub) (l : List (Nat × Nat)) : Hub := l.foldl (fun h g => h.useGrant g.1 g.2) h

/-- The read that the edge router sends next on a channel (R270): the first normal read that may go while a credit is free, else a
speculative one that has its grants while the free credits exceed 64 × `MP_READ_ALLOW`. -/
def Hub.nextRead (h : Hub) (c : Nat) : Option MemRead :=
  let free := (h.chan c).rdCred.toNat - (h.chan c).rdUsed
  if free = 0 then none
  else match h.reads.find? fun r => h.readSendable c r && !r.spec with
    | some r => some r
    | none => if 64 * h.p 0x7C0 < free then h.reads.find? fun r => h.readSendable c r && r.spec && h.grantedAll (h.readGrants c r) else none

/-- Sends a read to its channel (R270, R277), once the port's domain serves. -/
def Hub.sendRead (h : Hub) (c : Nat) (r : MemRead) : Hub :=
  let k := h.domReady (.mp (BitVec.ofNat 3 (portOfChan c)))
  if !k.2 then k.1
  else
    let h := (k.1.useGrants (h.readGrants c r)).toMem c (if r.lk then 0x01 else 0x00) r.mtag r.line r.crit none
    let n := h.round
    let h := h.onRead r fun x => { x with
      sent := true
      pres := x.pres.or (some n) }
    let h := h.onChan c fun x => { x with
      lastUse := n
      rdUsed := x.rdUsed + 1
      lock := if r.lk then some r.mtag else x.lock }
    (h.count 0x032 (0x60 + portOfChan c) 1).checkPressure c

/-- A speculative read that the edge router sends before its decision comes (R119), where R270 lets it. -/
def Hub.sendEarly (h : Hub) (l : Line) (tid : Byte) : Hub :=
  match h.readChan l with
  | none => h
  | some c =>
    if !h.chanOnline c || (h.chan c).down then h
    else match h.nextRead c with
      | some r => if r.spec && r.line == l && r.who == .txn tid then h.sendRead c r else h
      | none => h

/-! ### Fills -/

/-- A read of the first kind of R290 never fills: its window was in `HC_NOALLOC_MASK` when it was issued (R306), or its channel is down. -/
def Hub.noFill (h : Hub) (r : MemRead) : Bool := (h.chan r.ch.toNat).down || r.noAlloc || (h.winOf r.line).isNone

/-- A fill for a transaction or a prefetch arrives: it fills a chain copy where the line is chained, is dropped where newer data
overtook it, and enters the fill buffer otherwise (R290, R291, R295). -/
def Hub.fillFrom (h : Hub) (hs : Nat) (r : MemRead) (kind : FillKind) (bytes : LineBits) (poison own : Bool) : Hub :=
  if (h.slice hs).chained r.line then (if r.stale then h.fillDropped hs r.line else h.chainFill hs r.line bytes poison)
  else if own || h.noFill r then h
  else if r.stale then h.fillDropped hs r.line
  else h.fillArrive hs r.line kind bytes poison

/-- A way that a fill-and-lock may take at once. -/
def Slice.lockWayFree (s : Slice) (l : Line) (w : BitVec 4) : Bool :=
  let t := s.hcAt l.hcSet w.toNat
  !hcChain t && !(s.hcRsv.any fun x => x.1 == l.hcSet && x.2 == w)

/-- Gives a fill-and-lock that waits in the fill buffer its way (R299). -/
def Hub.lockTake (h : Hub) (hs : Nat) (f : Fill) (w : BitVec 4) : Hub :=
  if (h.slice hs).lockWayFree f.line w then
    let t := h.takeVictim hs f.line.hcSet w.toNat
    let f := { f with way := some w, victim := t.2, since := t.1.round }
    let h := t.1.onSlice hs fun s => s.onFill f.line fun _ => f
    if t.2.isSome then h else h.installFill hs f
  else h

/-- The data of a fill-and-lock arrives (R299): a line that stands in another unlocked way moves to the named one; a way that is pinned
is waited for. -/
def Hub.lockArrive (h : Hub) (hs : Nat) (l : Line) (w : BitVec 4) (mb : BitVec 3) (bytes : LineBits) (poison : Bool) : Hub :=
  let s := h.slice hs
  let t := s.hcAt l.hcSet w.toNat
  let other := hcLocked t && hcValid t && hcWordTag t != l.hcTag
  if h.isLocked l then h
  else if other || s.wayShut w.toNat || s.fills.length ≥ 48 || (s.fillOf l).isSome then
    h.fillDropped hs l
  else
    let h := match s.hcWay l with
      | some k => h.putHc hs l.hcSet k 0 0
      | none => h
    let f : Fill := ⟨l, .lock w mb, some bytes, poison, none, none, h.round⟩
    (h.onSlice hs fun s => { s with fills := s.fills ++ [f] }).lockTake hs f w

/-! ### The locked far atomic (R121, R277) -/

/-- The result of a locked read enters the slice's write buffer as a line whose `MEM_WR_UL` is outstanding. -/
def Hub.lockedResult (h : Hub) (hs : Nat) (r : MemRead) (t : Txid) (bytes : LineBits) (poison : Bool) : Hub :=
  let h := h.enterValue hs r.line .accepted true bytes (if poison then allBytes else 0) none
  h.onWb hs r.line fun x => { x with
    out := x.out ++ [⟨r.ch, t, true⟩]
    wrote := [r.ch]
    again := false }

/-- The line of a locked read is at the edge router: the result is computed and written with `MEM_WR_UL`, which ends the lock, and goes
to the slice; poisoned data is written back as it was, with `POISON` (R338). -/
def Hub.lockedDone (h : Hub) (hs : Nat) (r : MemRead) (q : Req) (d : Payload) (own : Bool) : Hub :=
  let h := if d.poison then h.raise (rzTx evHubAtomPoison hs q.line q.gaid q.txid) else h
  let new := if d.poison then d.bytes else atomResult q.aop q.asize q.aoff q.pair q.operand d.bytes
  let k := h.takeTag (portOfChan r.ch.toNat)
  let h := k.2.sendWrite r.ch.toNat 0x09 k.1 r.line new d.poison
  let h := (h.onChan r.ch.toNat fun x => { x with lock := none }).lockedResult hs r k.1 new d.poison
  let h := h.fillFrom hs { r with stale := false } (.demand q.stream) new d.poison own
  let old := payload (atomOld q.aoff d.bytes) false d.poison
  match r.who with
  | .txn tid => (h.onTxn hs tid fun x => { x with
      lock := false
      mem := false
      baseDue := false
      wrote := true
      gate := { x.gate with prep := some old } }).settle hs tid
  | _ => h

/-! ### Data at the slice -/

/-- The transaction that a read serves, while it is open on the read's line. -/
def Hub.readTxn (h : Hub) (hs : Nat) (r : MemRead) (tid : Byte) : Option Txn :=
  match h.txn hs tid with
  | some t => if t.req.line == r.line && t.memRead then some t else none
  | none => none

/-- A base that comes after its transaction has closed (R116): it completes the line below the written bytes, for a later transaction on
the line as well (R111). -/
def Hub.orphanBase (h : Hub) (hs : Nat) (l : Line) (d : Payload) : Hub :=
  match h.wbFind hs l with
  | none => h
  | some x =>
    if x.whole then h
    else
      let h := h.enterBase hs l d.bytes d.poison
      match (h.slice hs).txnOn l with
      | some t => h.settle hs t.tid
      | none => h.clearMasks hs l

/-- The data of a read whose transaction has closed, served from elsewhere: it fills as any read of the first kind of R290 does. -/
def Hub.orphanRead (h : Hub) (hs : Nat) (r : MemRead) (d : Payload) (own : Bool) : Hub :=
  let h := h.orphanBase hs r.line d
  match r.fill with
  | some stream => h.fillFrom hs r (.demand stream) d.bytes d.poison own
  | none => if (h.slice hs).chained r.line && !r.stale then h.chainFill hs r.line d.bytes d.poison else h

/-- The data of a transaction's read (R61, R112, R116), which releases its committed read (R270): the gate's prepared data where nothing else came first, then the fill. -/
def Hub.txnRead (h : Hub) (hs : Nat) (r : MemRead) (tid : Byte) (d : Payload) (own : Bool) : Hub :=
  match h.readTxn hs r tid with
  | none => h.orphanRead hs r d own
  | some t =>
    let h := h.onTxn hs tid fun x => { x with
      mem := false
      gate := { x.gate with prep := x.gate.prep.or (some { d with dirty := false }) } }
    let h := h.settle hs tid
    if t.req.op.staged then
      (if (h.slice hs).chained r.line && !r.stale then h.chainFill hs r.line d.bytes d.poison else h)
    else if t.req.op = .atom then
      match h.wbFind hs r.line with
      | some x => if x.whole || r.stale then h.fillFrom hs r (.demand t.req.stream) x.bytes x.poison own else h
      | none => if r.stale then h.fillFrom hs r (.demand t.req.stream) d.bytes d.poison own else h
    else h.fillFrom hs r (.demand t.req.stream) d.bytes d.poison own

/-- A channel takes a write now: one that is not paused, with a write credit, below its high watermark (R275, R278). -/
def Hub.takesWrite (h : Hub) (c : Nat) : Bool :=
  let k := h.chan c
  let n := h.writesOut c
  !k.down && h.chanOnline c && decide (k.wrUsed < k.wrCred.toNat) && decide (n < k.wmHigh.toNat) && !h.writePaused c

/-- A line copied to a channel that returns to service is written there, or waits at the edge router until the channel takes a write and a grant is there (R275, R278,
R280, R322). -/
def Hub.mirrorCopy (h : Hub) (r : MemRead) (d : Payload) : Hub :=
  let other := r.ch.toNat ^^^ 1
  let need := [(65 + portOfChan other, 3)]
  if h.takesWrite other && h.grantedAll need then
    let k := (h.useGrants need).takeTag (portOfChan other)
    let h := k.2.sendWrite other 0x08 k.1 r.line d.bytes d.poison
    { h with reads := h.reads ++ [{ r with ch := BitVec.ofNat 4 other, mtag := k.1, who := .mirror true, held := none }] }
  else { h with reads := h.reads ++ [{ r with sent := true, dec := .promoted, held := some d }] }

/-- A copied line that waits to be written. -/
def MemRead.copyWaits (r : MemRead) : Bool := r.who == .mirror false && r.dec == .promoted && r.held.isSome

/-- The data of a read is at its slice; `own` marks the poisoned line that the edge router returns itself. -/
def Hub.readDone (h : Hub) (r : MemRead) (d : Payload) (own : Bool) : Hub :=
  let hs := h.hsOf r.ls
  let h := (h.dropRead r).moved (epMp (portOfChan r.ch.toNat)) hs true 64
  if r.dec = .cancelled then h
  else match r.who, r.lk, r.aop with
    | _, true, some q => h.lockedDone hs r q d own
    | .txn tid, _, _ => h.txnRead hs r tid d own
    | .prefetch stream, _, _ =>
      (h.onSlice hs fun s => { s with prefetches := s.prefetches.filter fun x => x.line != r.line }).fillFrom hs r (.prefetch stream)
        d.bytes d.poison own
    | .chain, _, _ => if r.stale then h else h.chainFill hs r.line d.bytes d.poison
    | .lockFill w mb, _, _ => if r.stale || own then h.fillDropped hs r.line else h.lockArrive hs r.line w mb d.bytes d.poison
    | .mirror _, _, _ => if own then h else h.mirrorCopy r d

/-- A read whose data waits at the edge router for nothing more. -/
def MemRead.deliverable (r : MemRead) : Bool :=
  r.held.isSome && !r.copyWaits && !(r.spec && r.dec == .none && match r.who with
    | .txn _ => true
    | _ => false)

/-- Delivers the poisoned lines that edge routers return for reads of channels that are down (R279). -/
def Hub.flushHeld (h : Hub) : Hub :=
  (h.reads.filter fun r => r.deliverable).foldl (fun h r =>
    match r.held with
    | some d => h.readDone r d true
    | none => h) h

end Sys2Proof.Machine
end

