-- ==== Sys2Proof/Machine/Lookup.lean ====
section
/-!
DEFINITION. The lookup of an accepted request (R87, R109–R119, R126, R175–R178, R208, R218–R222): its view, snoops, prepared
source, grant and entries, in one command from round A+1 to A+2.
-/
namespace Sys2Proof.Machine

/-! ### Snoops (R109) -/

/-- The local snoops of a request: the agents that get `op`, and those that get `SNP_INV`. -/
structure SnoopPlan where
  op       : SnpOp
  first    : List La
  rest     : List La
  once     : Bool
  homeCopy : Bool
  deriving DecidableEq, Repr

/-- The table of R109 over a view, the requester excluded (R110); `dom` is the line's domain without it. -/
def snoopPlan (v : SView) (op : ReqOp) (named : Bool) (me : Option La) (dom : List La) : SnoopPlan :=
  let but (l : List La) : List La := l.filter fun a => some a != me
  let mk (o : SnpOp) (f r : List La) (once hc : Bool) : SnoopPlan := ⟨o, but f, but r, once, hc⟩
  let fwdOf : List La := v.fwd.toList
  if op.isShared || op.isOnce then
    match v with
    | .unc => mk .fwdS [] [] op.isOnce false
    | .own a => mk .fwdS [a] [] op.isOnce (!op.isOnce)
    | .deg _ => mk .fwdS dom [] op.isOnce (!op.isOnce)
    | _ => mk .fwdS fwdOf [] op.isOnce false
  else if op = .upgrade ∧ named then
    match v with
    | .shr l _ => mk .inv [] l false false
    | .brd _ _ => mk .inv [] dom false false
    | .own a => mk .fwdO [a] [] false false
    | .deg _ => mk .fwdO dom [] false false
    | .unc => mk .inv [] [] false false
  else if op.isOwn then
    match v with
    | .unc => mk .fwdO [] [] false false
    | .own a => mk .fwdO [a] [] false false
    | .shr l f => mk .fwdO fwdOf (l.filter fun a => some a != f) false false
    | .brd _ _ => mk .fwdO fwdOf (dom.filter fun a => !fwdOf.contains a) false false
    | .deg _ => mk .fwdO dom [] false false
  else if op = .wrFull then
    match v with
    | .unc => mk .inv [] [] false false
    | .own a => mk .inv [] [a] false false
    | .shr l _ => mk .inv [] l false false
    | .brd _ _ | .deg _ => mk .inv [] dom false false
  else
    match v with
    | .unc => mk .data [] [] false false
    | .own a => mk .data [a] [] false false
    | .shr l _ => mk .data [] l false false
    | .brd _ _ => mk .data [] dom false false
    | .deg _ => mk .data dom [] false false

/-- An `UPGRADE` is named when a valid pointer names its requester, or the entry is `BRD` (R109). -/
def SView.namesUpgrade (v : SView) (a : La) : Bool :=
  match v with
  | .own x => x == a
  | .shr l _ => l.contains a
  | .brd _ _ => true
  | _ => false

/-- A `SPAN_UPGRADE` is named when the span directory names its hub, or its entry is `HUB_BRD` (R222). -/
def HView.namesHub (v : HView) (x : HubNo) : Bool :=
  match v with
  | .own y => y == x
  | .shr l => l.contains x
  | .brd => true
  | _ => false

/-- The view is `DEG`, which names nobody. -/
def SView.isDeg : SView → Bool
  | .deg _ => true
  | _ => false

/-- A span snoop that leaves no local copy is being served on the line (R227). -/
def Slice.copiesGoing (s : Slice) (l : Line) : Bool := s.helds.any fun k => k.line == l && k.op != .fwdS

/-- The request as it is served: an `UPGRADE` that is not named is an `RD_OWN` (R109, R222), and so is one that finds `DEG` or whose copy a
span snoop is taking. -/
def servedOp (r : Req) (v : SView) (hv : HView) (going : Bool) : ReqOp :=
  if r.op = .upgrade then
    if !v.isDeg && (if r.span then hv.namesHub r.src else v.namesUpgrade r.gaid.la && !going) then .upgrade else .rdOwn
  else r.op

/-! ### The span directory at the home (R219, R222) -/

/-- The hubs to snoop, the snoop, the entry and `SGRANT`. -/
structure HubPlan where
  first : List HubNo
  fop   : SnpOp
  rest  : List HubNo
  once  : Bool
  entry : HView
  grant : BitVec 2
  deriving DecidableEq, Repr

/-- The table of R222; `r` is the requesting hub, `unc` that the home's filter view is `UNC`, `group` the line's reachable span
group. -/
def hubPlan (hv : HView) (op : ReqOp) (r : Option HubNo) (unc : Bool) (group : List HubNo) : HubPlan :=
  let but (l : List HubNo) : List HubNo := l.filter fun x => some x != r
  let join (l : List HubNo) : HView :=
    match r with
    | none => .shr l
    | some x => if l.contains x then .shr l else if l.length < 2 then .shr (l ++ [x]) else .brd
  let isSpan := r.isSome
  let grantS : BitVec 2 := if isSpan then 1 else 0
  if op.isShared then
    match hv with
    | .none =>
      match r with
      | none => ⟨[], .fwdS, [], false, .none, 0⟩
      | some x =>
        if op = .rdAny ∧ unc then ⟨[], .fwdS, [], false, .own x, 2⟩ else ⟨[], .fwdS, [], false, .shr [x], 1⟩
    | .own x => if r = some x then ⟨[], .fwdS, [], false, hv, 2⟩ else ⟨[x], .fwdS, [], false, join [x], grantS⟩
    | .shr l => ⟨[], .fwdS, [], false, join l, grantS⟩
    | .brd => ⟨[], .fwdS, [], false, .brd, grantS⟩
    | .deg => ⟨but group, .data, [], false, match r with
        | some x => .shr [x]
        | none => .none, grantS⟩
  else if op.isOnce then
    match hv with
    | .own x => ⟨but [x], .fwdS, [], true, hv, 0⟩
    | .deg => ⟨but group, .data, [], false, .none, 0⟩
    | _ => ⟨[], .fwdS, [], true, hv, 0⟩
  else
    let fop : SnpOp := if op.needsBase then .data else .fwdO
    let e : HView := if op.isOwn then
        match r with
        | some x => .own x
        | none => .none
      else .none
    let g : BitVec 2 := if op.isOwn && isSpan then 2 else 0
    match hv with
    | .none => ⟨[], fop, [], false, e, g⟩
    | .own x => ⟨but [x], fop, [], false, e, g⟩
    | .shr l => ⟨[], fop, but l, false, e, g⟩
    | .brd => ⟨[], fop, but group, false, e, g⟩
    | .deg => ⟨but group, .data, [], false, e, g⟩

/-! ### Reservations (R175, R178) -/

/-- The reservation table holds an entry that lets a conditional store succeed (R178), whatever the granule now in force (R176). -/
def Hub.rsvHeld (h : Hub) (hs : Nat) (r : Req) : Bool :=
  (h.slice hs).rsv.any fun x => x.gaid == r.gaid && x.anchor == r.line && x.seq == r.rsvSeq

/-- The shared entries in use by remote agents (R174). -/
def Hub.rsvRemoteUsed (h : Hub) : Nat :=
  h.slices.foldl (fun n e => n + (e.2.rsv.filter fun x => x.gaid.hub != h.num).length) 0

/-- An `RSV_LOAD` makes its agent's reservation and probes the watched lines of its granule (R175). -/
def Hub.makeRsv (h : Hub) (hs : Nat) (t : Txn) : Hub :=
  let r := t.req
  if r.gaid.hub ≠ h.num && h.rsvRemoteUsed ≥ 3968 && !((h.slice hs).rsv.any fun x => x.gaid == r.gaid) then
    (h.onTxn hs t.tid fun x => { x with gate := { x.gate with outcome := oNoRsv } }).raise
      (rzTx evRsvExhausted hs r.line r.gaid r.txid)
  else
    let n := match h.winOf r.line with
      | some w => h.p (0xC0 + w)
      | none => 0
    let h := h.onSlice hs fun s => { s with rsv := (s.rsv.filter fun x => x.gaid != r.gaid) ++ [⟨r.gaid, r.line, BitVec.ofNat 2 n, r.rsvSeq, []⟩] }
    let watched := ((upTo (2 ^ n)).drop 1).map fun i => r.line + BitVec.ofNat 46 i
    let notes := watched.map fun l => ((0 : BitVec 2), (⟨r.line, l, r.gaid, r.txid, r.rsvSeq⟩ : RsvNotice))
    let h := { h with rsvNotes := h.rsvNotes ++ notes }
    h.onTxn hs t.tid fun x => { x with gate := { x.gate with acks := x.gate.acks + watched.length } }

/-! ### The prepared source (R111, R118, R121, R296) -/

/-- Sends the next-line prefetch notice of a demand miss or of a stream (R296, R297): a miss of a request that reads the line, not of a write or
an atomic that needs its base. -/
def Hub.nextLine (h : Hub) (l : Line) (stream : Bool) : Hub :=
  if h.p 0x800 = 0 || l.extractLsb' 0 6 == 63 then h
  else { h with prefetchNotes := h.prefetchNotes ++ [(l + 1, stream, h.round)] }

/-- A speculative read is injected (R73, R118, R295); not for a line of the write buffer that awaits its base (R111). -/
def Hub.specOk (h : Hub) (hs : Nat) (t : Txn) : Bool :=
  let s := h.slice hs
  let l := t.req.line
  let kind := match t.req.op with
    | .rdShared | .rdAny | .rdOwn | .rdOnce | .rsvLoad => true
    | _ => false
  let chainCopy := match s.hcWay l with
    | some w => hcChain (s.hcAt l.hcSet w)
    | none => (s.fillOf l).any fun f => f.kind == .chain
  let baseOut : Bool := match h.wbFind hs l with
    | some x => !x.whole && h.readOut l
    | none => false
  let press := match h.readChan l with
    | some c => (h.chNote c).pressure
    | none => true
  t.specEn && kind && !chainCopy && !baseOut && !(h.reads.any fun x => x.line == l && x.who == .chain) && !press && !(s.prefetches.any fun x => x.line == l)

/-- Finds the prepared source of a home transaction: the write buffer, the hub cache, or a memory read; a far atomic on a line
that nothing holds reads under lock (R121). -/
def Hub.prepare (h : Hub) (hs : Nat) (t : Txn) (wanted quiet spec sent : Bool) : Hub :=
  let l := t.req.line
  let s := h.slice hs
  let h := if spec then
      let h := h.issueRead hs l (.txn t.tid) true t.req.crit false none
      if sent && (h.wbFind hs l).isNone then h.sendEarly l t.tid else h
    else h
  let h := if (s.hcWay l).isSome then h.hcTouch hs l else h
  let cancel (h : Hub) : Hub := if spec then h.cancelSpec l t.tid else h
  let give (h : Hub) (b : LineBits) (p : Bool) (src : Src) : Hub :=
    h.onTxn hs t.tid fun x => { x with gate := { x.gate with prep := some (payload b false p), prepSrc := src } }
  if !wanted then cancel h
  else
    let miss (h : Hub) : Hub :=
      match s.hcValue l with
      | some (b, p) =>
        let stream := match s.hcWay l with
          | some w => hcPf (s.hcAt l.hcSet w)
          | none => false
        let h := (cancel h).count 0x010 l.ls.toNat 1
        let h := give h b p .hubCache
        if stream then h.nextLine l true else h
      | none =>
        let h := h.count 0x011 l.ls.toNat 1
        let lock := t.req.op == .atom && quiet
        let h := if lock then h.issueRead hs l (.txn t.tid) false t.req.crit true (some t.req)
          else h.demandRead hs l t.tid t.req.crit (if t.req.op.needsBase then none else some t.req.stream)
        let h := h.onTxn hs t.tid fun x => { x with
          memRead := true
          lock := lock
          gate := { x.gate with prepSrc := .memory } }
        if t.req.op.needsBase then h else h.nextLine l t.req.stream
    match h.wbFind hs l with
    | some x =>
      if x.whole then give (cancel h) x.bytes x.poison .writeBuffer
      else if h.readOut l then cancel h
      else miss h
    | none => miss h

/-! ### The proxy (R208) -/

/-- The span request of a proxy; a staged write goes with its data when that has been pulled. -/
def Hub.sendSpanReq (h : Hub) (t : Txn) (op : ReqOp) (e : HubNo) : Hub :=
  let r := t.req
  if op.staged then h
  else
    let low := lowBit 27 r.crit ||| lowBit 28 (op == .rsvLoad) ||| (if op = .rsvLoad then lowField 3 r.rsvSeq.toNat else 0)
    let low := if op = .atom then
        low ||| lowBit 25 r.pair ||| lowField 23 r.aop.toNat ||| lowField 21 r.asize.toNat ||| lowField 15 r.aoff.toNat
      else low
    h.toHub e op.spanOpc (Flit.plain r.gaid r.txid r.line low) none (if op = .atom then some r.operand else none)

/-! ### The lookup -/

/-- The grant that a lookup decides (R109, R210); the gate applies the dirty rule. -/
def lookupGrant (op : ReqOp) (v : SView) (hv : HView) (remote fwd : Bool) : BitVec 3 :=
  match op with
  | .rdShared => if !remote || fwd then gF else gS
  | .rdAny =>
    if remote then (if fwd then gF else gS)
    else if v = SView.unc ∧ hv = .none then gE else gF
  | .rdOwn | .upgrade => gE
  | _ => gNone

/-- The local entry that a lookup writes (R83, R210); none where the view is `DEG`. -/
def lookupEntry (op : ReqOp) (r : Req) (v : SView) (hv : HView) (remote fwd : Bool) : Option SView :=
  match v with
  | .deg _ => none
  | _ =>
    if r.span then
      some (if op.isShared then
          match v with
          | .own a => .shr [a] none
          | .shr l _ => .shr l none
          | .brd p _ => .brd p false
          | x => x
        else if op.isOnce then v else .unc)
    else if op = .rdAny ∧ v = .unc ∧ !remote ∧ hv ≠ .none then some (v.shared r.gaid.la true)
    else some (entryAfter v op r.gaid.la (!remote || fwd))

/-- The ports to which snoops of these agents go: the edge routers answer for the others at once (R142, R253, R412). -/
def Hub.snoopedPorts (h : Hub) (las : List La) : List (BitVec 4) :=
  h.portsOf (las.filter fun a => let k := h.agent a; k.online && !k.dead && k.caching && !k.parked)

/-- Returns at lookup the snoop credits of a request that it does not need; those of the `needed` ports return once the snoops are
offered (R43). -/
def Slice.returnCredits (s : Slice) (t : Txn) (needed : List (BitVec 4)) : Slice :=
  let now := t.credits.filter fun p => !needed.contains p
  { s with
    snpUsed := now.foldl (fun u p => u.upd p.toNat 0 fun c => c - 1) s.snpUsed
    snpBack := s.snpBack ++ t.credits.filter fun p => needed.contains p }

/-- A lookup that finds two healthy ways of the line raises `EVT_SF_MALFORMED`, and its way is marked (R87, R91). -/
def Hub.lookedUp (h : Hub) (hs : Nat) (l : Line) : Hub :=
  let h := if (h.slice hs).splitView l then h.raise (rzLine evSfMalformed hs l) else h
  h.onSlice hs fun s => s.touchLine l h.round

/-- A conditional store without its reservation: its lookup keeps the prior view (R87), no snoop and no write follow (R122, R178). -/
def Hub.failStore (h : Hub) (hs : Nat) (t : Txn) : Hub :=
  let v := (h.slice hs).homeView t.req.line
  let hv := (h.slice hs).hubView t.req.line
  let h := h.lookedUp hs t.req.line
  let h := if ((h.slice hs).hcWay t.req.line).isSome then h.hcTouch hs t.req.line else h
  let h := (h.onTxn hs t.tid fun x => { x with
    phase := .looked
    view := v
    hview := hv
    worst := x.acc + 10
    mem := false
    gate := { x.gate with outcome := oNoRsv } }).unstage t.req
  (h.settleWay hs t.req.line).settle hs t.tid

/-- The snoops, source, grant and entries of an accepted request. Where the home snoops its own agents for a requester hub, it answers that
hub as one holder more, counted in `ACK_CNT` (DESIGN CHOICE, assumption log 82). A holder's answer copy is due within the Span Resolution
Bound from the acceptance, and Span Grace runs from there (R228; DESIGN CHOICE, assumption log 83). -/
def Hub.serve (h : Hub) (hs : Nat) (t : Txn) (sent : Bool) : Hub :=
  let l := t.req.line
  let r := t.req
  let s := h.slice hs
  let v := s.homeView l
  let hv := if t.spanReq then .none else s.hubView l
  let h := h.lookedUp hs l
  let op := servedOp r v hv (s.copiesGoing l)
  let me := if r.span then none else some r.gaid.la
  let dom := (h.domain l).filter fun a => some a != me
  let plan := snoopPlan v op (op == .upgrade) me dom
  let waiting := s.chained l || s.refused.any fun p => p.req.line == l
  let need := op.isShared || op.isOnce || op == .rdOwn || op == .atom
  let hp := if t.spanReq then ⟨[], .fwdS, [], false, .none, 0⟩
    else hubPlan hv op (if r.span then some r.src else none) (v == .unc) (h.spanGroup l)
  let hubs := (hp.first ++ hp.rest).filter fun x => h.reachable x
  let quiet := plan.first.isEmpty && plan.rest.isEmpty && hubs.isEmpty
  let entry := lookupEntry op r v hv t.spanReq t.rfwd
  let homeAns := r.span && !(plan.first.isEmpty && plan.rest.isEmpty)
  let upd (x : Txn) : Txn := { x with
    phase := .looked
    req := { r with op := op }
    view := v
    hview := hv
    entry := entry
    snooped := (plan.first ++ plan.rest).filter fun a => h.isOnline a
    baseDue := op.needsBase && !t.spanReq
    copies := hubs
    copyDue := t.acc + h.spanResBound + h.p 0x183
    homeAns := homeAns
    credits := []
    gate := { x.gate with
      expect := plan.first ++ plan.rest
      need := need
      pullWait := op.staged
      wbData := s.wbWait.any fun w => w.dirty && w.line == l
      grant := if r.span then 0 else lookupGrant op v hv t.spanReq t.rfwd
      spanAcks := if r.span then hubs.length + (if homeAns then 1 else 0) else hubs.length
      spanGrant := hp.grant } }
  let h := (h.onSlice hs fun s => { s.returnCredits t (h.snoopedPorts (plan.first ++ plan.rest)) with
    helds := List.mapIf (fun k => k.line == l) (fun k => { k with settled := true }) s.helds }).onTxn hs t.tid upd
  let t' := upd t
  -- the data source, or the span request
  let h := if t.spanReq then
      match h.remoteHome l with
      | some e => h.sendSpanReq t' op e
      | none => h
    else h.prepare hs t' (need || op.needsBase) quiet (h.specOk hs t) sent
  -- the entries
  let h := match entry, t.way with
    | some e, some w =>
      if e = v then
        (if v = SView.unc ∧ !(h.slice hs).chained l then h.onSlice hs fun s => (s.dropWay l).serveClaims h.round l.sfSet 16 else h)
      else h.putEntry hs l w.toNat e
    | _, _ => h
  let h := if t.spanReq || hv = HView.deg || hp.entry = hv then h
    else h.setHub hs l hp.entry
  let h := h.onTxn hs t.tid fun x => { x with hentry := if hv = HView.deg then some hp.entry else none }
  -- reservations (R175–R178)
  let h := if t.spanReq then h
    else if op = .rsvLoad then h.makeRsv hs t'
    else if op.isWrite then h.endRsv hs t.tid l r.gaid r.txid true
    else if op.isOwn || t'.gate.grant == gE || (hp.grant == 2 && hp.entry != hv) then h.endRsv hs t.tid l r.gaid r.txid false
    else h
  let h := if op = .rsvStore ∧ !t.spanReq then
      h.onSlice hs fun s => { s with rsv := s.rsv.filter fun x => !(x.gaid == r.gaid && x.anchor == l) }
    else h
  -- the worst close (R40, R63, R216)
  let memRead := match h.txn hs t.tid with
    | some x => x.memRead
    | none => false
  let spans := !hubs.isEmpty || hp.grant != 0 || r.span
  let worst := t.acc + (if t.spanReq then h.spanResBound
    else if spans then max h.spanResBound (if memRead then 6 + h.boundOf l else 10)
    else if memRead then 6 + h.boundOf l else 10)
  let h := h.onTxn hs t.tid fun x => { x with
    worst := worst
    mem := memRead }
  -- the snoops
  let isBroadcast : Bool := match v with
    | .brd _ _ | .deg _ => true
    | _ => false
  let h := h.countBroadcast l.ls (isBroadcast && !(plan.first.isEmpty && plan.rest.isEmpty))
  let base := Snoop.blank plan.op l.ls r.gaid r.txid l (.txn t.tid)
  let homeCopy := plan.homeCopy || ((plan.op == .fwdS || plan.op == .fwdO) && waiting && !t.spanReq)
  let a1 := Hub.snoopAll hs { base with once := plan.once, homeCopy := homeCopy, gateCopy := op == .atom && plan.op == .data }
    r.crit plan.first h
  let a2 := Hub.snoopAll hs { base with op := .inv } r.crit plan.rest a1.1
  let flit := Flit.plain r.gaid r.txid l (lowBit 28 hp.once ||| lowBit 27 r.crit)
  let h := hubs.foldl (fun h x => h.toHub x (if hp.first.contains x then hp.fop.spanOpc else 0x1A) flit none none) a2.1
  let now := a1.2 ++ a2.2
  let h := h.onTxn hs t.tid fun x => { x with gate := { x.gate with
    answers := x.gate.answers ++ now
    expect := x.gate.expect.filter fun a => !(now.any fun k => k.la == a) } }
  let h := h.settle hs t.tid
  (h.chainEnd hs l).checkLine hs l

/-- `SLICE_LOOKUP` (R109): the lookup of an accepted request, from the round after its acceptance; then the tickets that waited for
it (R63). `sent` says whether the memory edge router sent the speculative read before its decision came (R119). -/
def execSliceLookup (ls : BitVec 6) (tid : Byte) (e : LookupErr) (sent : Bool) (s : State) : Host.Outcome State Fault Refusal :=
  .next (s.withHub fun h =>
    let hs := h.hsOf ls
    match h.txn hs tid with
    | none => h
    | some t =>
      if t.phase != TPhase.accepted || h.round < t.acc + 1 then h
      else
        let l := t.req.line
        let h := h.readSf hs l e true
        let h := if t.spanReq then h else (h.readSd hs l e).readHc hs l e
        let h := if t.req.op = .rsvStore ∧ !t.spanReq ∧ !h.rsvHeld hs t.req then
            (h.onSlice hs fun s => s.returnCredits t []).failStore hs t
          else h.serve hs t sent
        ((h.runWbWaits hs l).ticketWaiting hs l).flushHeld)

end Sys2Proof.Machine
end

