-- ==== Sys2Proof/Machine/Fatal.lean ====
section
/-!
DEFINITION. The fatal stop of the hub (R346) and the lockstep mismatch of Uluhiva (R347), which several commands reach.
-/
namespace Sys2Proof.Machine

/-- Discards the requests that wait: in slices' input buffers, edge routers' hold stores and the span engines' re-presentation
store (R346). -/
def Hub.discardWaiting (h : Hub) : Hub :=
  { h with
    slices := List.map (fun e => (e.1, { e.2 with inbuf := [], refused := [] })) h.slices
    aps := List.map (fun e => (e.1, { e.2 with holds := [] })) h.aps
    spanReps := h.spanReps.filter fun x => x.at_ = 0
    spanBacks := []
    waitSnoops := [] }

/-! ### A test that stops short (R366) -/

/-- The soft repairs of a slice that the ledger holds. -/
def Aon.repairsOf (a : Aon) (hs : BitVec 7) : List Repair := a.repairs.vals.filter fun x => x.hs == hs

/-- `TEST_SLICE_RESULT_n` (R375): the pass, the coverages in per mille, the step's duration in µs and the result's code. -/
def Hub.testWord (h : Hub) (hs : BitVec 7) (sa tr : BitVec 10) (us : BitVec 16) (retired : Bool) (code : BitVec 3) : Word :=
  let mine := h.aon.repairsOf hs
  let due := mine.any fun x => x.recur == 3
  h.rot.passNo.setWidth 12 ++ sa ++ tr ++ us ++ BitVec.ofNat 6 (min 63 mine.length) ++ (h.rot.level - 1).setWidth 2 ++ (0 : BitVec 3)
    ++ BitVec.ofBool retired ++ BitVec.ofBool due ++ code

/-- The codes of `RESULT` (R375). -/
def resPass : BitVec 3 := 1
def resRepaired : BitVec 3 := 2
def resIncomplete : BitVec 3 := 3
def resFail : BitVec 3 := 4

/-- A test that is cut off ends `INCOMPLETE` and the slice waits for a retest (R366, R367). The coverages and the duration that it
reached are free values (assumption log 3). -/
def Hub.stopTest (h : Hub) : Hub :=
  match h.rot.testing with
  | none => h
  | some hs =>
    if h.rot.phase = 4 ∨ h.rot.phase = 6 then
      let k := Config.freeWord h.freeCtr
      let h := { h with freeCtr := h.freeCtr + 1 }
      let w := h.testWord hs (k.setWidth 10) (k.extractLsb' 10 10) (k.extractLsb' 20 16) false resIncomplete
      let h := { h with rot := { h.rot with
        phase := 0
        testing := none
        results := h.rot.results.put hs.toNat w
        notPass := h.rot.notPass + 1
        retests := hs :: h.rot.retests.filter fun x => x != hs } }
      h.raise (rz evTestIncomplete hs.toNat)
    else h

/-! ### Fatal errors -/

/-- What a fatal error stops (R346): `FAULT_N` falls, no slice accepts from the next round, the requests that wait are discarded, and the
always-on domain holds the record. A second one only adds to the events that followed the first. -/
def Hub.stopFatal (h : Hub) (source : BitVec 10) (inst : Byte) (synd : BitVec 16) : Hub :=
  if h.start.fatal then h
  else
    let h := { h with
      pins := { h.pins with faultN := false }
      start := { h.start with fatal := true, fatalAt := h.round, phase := if h.start.phase = Phase.draining then Phase.draining else Phase.stopped }
      aon := { h.aon with fatal := ⟨true, source, inst, synd, h.round, []⟩ } }
    h.discardWaiting.stopTest

/-- A fatal error (R346) with its event, whose delivery follows the fall of `FAULT_N` (R452). -/
def Hub.fatal (h : Hub) (source : BitVec 10) (inst : Byte) (synd : BitVec 16) : Hub :=
  ({ h with pins := { h.pins with faultN := false } }.raise { rz evHubFatal inst.toNat with synd := synd }).stopFatal source inst synd

/-! ### Lockstep -/

/-- The notice of a commit has been sent: the stops apply it at C (R397, R399). -/
def Commit.sent (c : Commit) (n : Nat) : Bool :=
  match c.c with
  | some k => decide (k ≤ n + 4)
  | none => false

/-- A mailbox at a mismatch: its doorbells are held, its staging area is discarded, and a command in progress whose effect is not fixed is
interrupted (R347, R389, R397, R399). -/
def Mbx.interrupt (m : Mbx) (sent : Bool) : Mbx :=
  let cut (k : Long) : Long := match k with
    | .ended c d w1 w2 => .ended c d w1 w2
    | .commit => if sent then .commit else .ended ccRestarted 0 0 0
    | _ => .ended ccRestarted 0 0 0
  let committing : Bool := match m.busy with
    | some b => b.long == .commit
    | none => false
  { m with
    held := true
    stage := []
    discarded := m.discarded || (!m.stage.isEmpty && !committing)
    busy := m.busy.map fun b => { b with long := cut b.long } }

/-- What a mismatch interrupts of Lupin's work: commits whose notice has not been sent, staging areas, commands in progress. -/
def Hub.interrupt (h : Hub) : Hub :=
  let going := h.core.commits.filter fun c => c.sent h.round
  let sent (n : Nat) : Bool := going.any fun c => c.mb.toNat == n
  let staged := !h.core.protStage.isEmpty && !(h.core.commits.any fun c => c.prot)
  let asked (f : BitVec 7 × BitVec 16 × BitVec 8) : Bool := h.mbx.any fun e => match e.2.busy with
    | some b => b.long == .fuse f.1 f.2.1 f.2.2
    | none => false
  let all := (upTo 8).map fun n => (n, (h.mb (BitVec.ofNat 3 n)).interrupt (sent n))
  { h with
    mbx := all
    rot := { h.rot with fuseReq := h.rot.fuseReq.filter fun f => !asked f }
    core := { h.core with
      commits := going
      protStage := []
      protLost := h.core.protLost || staged } }

/-- A lockstep mismatch (R347): both cores are held and restarted, mailbox doorbells are held, and the rotation starts no step; a second
one within 2^28 rounds is fatal. -/
def Hub.lockstep (h : Hub) : Hub :=
  let again : Bool := match h.core.lastMismatch with
    | some n => decide (h.round - n ≤ 2 ^ 28)
    | none => false
  let h := (h.raise (rz evHubLockstep epCore)).interrupt
  let h := { h with core := { h.core with restart := true, lastMismatch := some h.round } }
  if again then h.fatal evHubLockstep (BitVec.ofNat 8 epCore) 0 else h

end Sys2Proof.Machine
end

