-- ==== Sys2Proof/Machine/Ledger.lean ====
section
/-!
DEFINITION. The start ledger (R429–R431), its mirror in the flash (R432), and the failure counters with their exception bits
(R433–R435).
-/
namespace Sys2Proof.Machine

/-! ### Outcome records -/

/-- Step codes (R426). -/
def stAon : Nat := 0x01
def stClock : Nat := 0x02
def stOtp : Nat := 0x03
def stRail : Nat := 0x04
def stCheck : Nat := 0x05
def stRepair : Nat := 0x06
def stBistStop : Nat := 0x07
def stBistSlice : Nat := 0x08
def stImage : Nat := 0x0A
def stConfig : Nat := 0x0B
def stMpUp : Nat := 0x0C
def stApUp : Nat := 0x0D
def stSpanUp : Nat := 0x0E
def stOpen : Nat := 0x0F

/-- Outcomes (R430). -/
def outOk : Nat := 0
def outAlt : Nat := 1
def outSkip : Nat := 2
def outFail : Nat := 3
def outStop : Nat := 4
def outRefused : Nat := 5
def outReduced : Nat := 6
def outUndrained : Nat := 7
def outIncomplete : Nat := 8
def outFatalPrior : Nat := 9
def outAborted : Nat := 0x0A
def outEscalated : Nat := 0x0B

/-- W0 of an outcome record (R430). -/
def outcomeW0 (startNo : BitVec 16) (step inst outcome detail : Nat) : Word :=
  startNo ++ BitVec.ofNat 8 step ++ BitVec.ofNat 8 inst ++ BitVec.ofNat 8 outcome ++ BitVec.ofNat 16 detail ++ (0 : BitVec 8)

/-- The next place of the ring of outcome records; the current start's summary is not overwritten (R430). -/
def Aon.nextPlace (a : Aon) : Nat := if a.summary = some (a.nextOut % 32) then (a.nextOut + 1) % 32 else a.nextOut % 32

/-- Words that the manual leaves to the step: `n` free values. -/
def Hub.freeWords : Nat → Hub → List Word × Hub
  | 0, h => ([], h)
  | n + 1, h =>
    let r := Hub.freeWords n { h with freeCtr := h.freeCtr + 1 }
    (Config.freeWord h.freeCtr :: r.1, r.2)

/-- Writes an outcome record; what follows its first two words is the step's own (assumption log 3), or the words given. -/
def Hub.recordWith (h : Hub) (step inst outcome detail : Nat) (words : List Word) : Hub :=
  let k := h.aon.nextPlace
  let free := Hub.freeWords (6 - words.length) h
  let rec_ := [outcomeW0 h.aon.startNo step inst outcome detail, Config.dieId] ++ words.take 6 ++ free.1
  { free.2 with aon := { h.aon with
      outcomes := h.aon.outcomes.put k rec_
      nextOut := (k + 1) % 32 } }

/-- Writes an outcome record. -/
def Hub.record (h : Hub) (step inst outcome detail : Nat) : Hub := h.recordWith step inst outcome detail []

/-- Writes the summary record of the current start (R430). -/
def Hub.summarise (h : Hub) (step outcome : Nat) : Hub :=
  let k := h.aon.nextPlace
  let h := h.record step 0xFF outcome 0
  { h with aon := { h.aon with summary := some k } }

/-! ### The mirror -/

/-- The mirror of the always-on domain that Lupin keeps in the flash (R432). -/
def Hub.writeMirror (h : Hub) : Hub :=
  { h with mirror := some ⟨h.aon.repairs, h.aon.counts, h.aon.pref, h.aon.startNo, Config.dieId⟩ }

/-! ### Failure counters -/

/-- The counters of a slice, of the full rate of an agent port and of a span port, and of an image (R435, R446). -/
def bitSlice (hs : Nat) : Nat := hs
def bitAp (p : Nat) : Nat := 65 + p
def bitSp (sp : Nat) : Nat := 81 + sp
def bitImage (b : Bool) : Nat := if b then 88 else 87

/-- A step instance of the start has ended: its counter rises, to 3 at most, or is set to 0 (R433). -/
def Hub.countStep (h : Hub) (bit : Nat) (ok : Bool) : Hub :=
  if h.start.phase != .starting then h
  else
    let n := h.aon.counts.getD bit 0
    let m := if ok then 0 else min 3 (n + 1)
    if m = n then h else ({ h with aon := { h.aon with counts := h.aon.counts.set bit 0 m } }).writeMirror

/-- The exception bits that counters of 3 call for and the OTP does not hold yet. -/
def State.dueBits (s : State) : List Nat :=
  (upTo 89).filter fun b => decide (3 ≤ s.hub.aon.counts.getD b 0) && !s.otp.except.getLsbD b

/-- Programs an exception bit (R433, R434), with its record. -/
def State.programBit (s : State) (b : Nat) : State :=
  { s with
    otp := { s.otp with except := s.otp.except ||| (1#96 <<< b) }
    hub := s.hub.record s.hub.start.step.toNat b outEscalated 0 }

/-- Programs the exception bits that are due (R433). -/
def State.escalate (s : State) : State := s.dueBits.foldl (fun s b => s.programBit b) s

end Sys2Proof.Machine
end

