-- ==== Sys2Proof/Machine/DevOps.lean ====
section
/-!
DEFINITION. Ends of device requests (R182, R183, R185, R186) and of the fences that wait for them.
-/
namespace Sys2Proof.Machine

/-- A fence completes once none of its writes is pending (R185). -/
def Hub.settleFences (h : Hub) : Hub :=
  (h.dev.fences.filter fun f => f.wait.isEmpty).foldl (fun h f =>
    ({ h with dev := { h.dev with fences := h.dev.fences.filter fun x => !(x.gaid == f.gaid && x.txid == f.txid) } }).sendCmp
      epDev f.gaid f.txid f.line gNone (if f.lost then oLost else oDone)) h

/-- A pending early write has been performed or dropped: the fences that wait for it are told, and a drop that no fence waits for
is reported through its agent's next one (R185, R186). -/
def Hub.earlyEnded (h : Hub) (r : DevReq) (lost : Bool) : Hub :=
  let told := h.dev.fences.any fun f => f.wait.contains r.dtx
  let upd (f : Fence) : Fence :=
    if f.wait.contains r.dtx then { f with wait := f.wait.filter fun x => x != r.dtx, lost := f.lost || lost } else f
  let h := { h with dev := { h.dev with
    fences := List.map upd h.dev.fences
    dropped := if lost && !told && !h.dev.dropped.contains r.gaid then h.dev.dropped ++ [r.gaid] else h.dev.dropped } }
  h.settleFences

/-- A waiting write enters the posted-write buffer of 512 places and is acknowledged where its region lets it be (R183). -/
def Hub.postOne (h : Hub) (r : DevReq) : Hub :=
  let n := (h.dev.reqs.filter fun x => x.posted && !x.irq).length
  if r.posted || !r.write || r.region == 64 || n ≥ 512 then h
  else
    let h := { h with dev := { h.dev with
      reqs := List.mapIf (fun x => x.dtx == r.dtx) (fun x => { x with posted := true, acked := x.early }) h.dev.reqs } }
    (if r.early then h.sendCmp epDev r.gaid r.txid r.line gNone oDone else h).devPump

/-- The oldest write that waits for the posted-write buffer. -/
def Hub.postNext (h : Hub) : Option DevReq := h.dev.reqs.find? fun r => r.write && !r.posted && r.region != 64

/-- Ends a device request: its completion goes to whoever waits for it, a poisoned line with the outcome of a read that its
target did not serve (R182, R186, R253). -/
def Hub.devFinish (h : Hub) (r : DevReq) (outcome : BitVec 2) (d : Option Payload) : Hub :=
  let h := { h with dev := { h.dev with reqs := h.dev.reqs.filter fun x => x.dtx != r.dtx } }
  if r.irq then
    if outcome = oLost then { h with dev := { h.dev with irqSuspended := true } } else h
  else if r.acked then h.earlyEnded r (outcome == oLost)
  else
    let data := if r.write then none else some (d.getD (payload (Config.freeLine h.freeCtr) false true))
    let h := if r.write || d.isSome then h else { h with freeCtr := h.freeCtr + 1 }
    match r.span with
    | some x =>
      let h := match data with
        | some k => h.toHub x 0x30 (Flit.plain r.gaid r.txid r.line 0) (some k) none
        | none => h
      h.toHub x 0x28 (spanCmpFlit r.gaid r.txid r.line outcome 0 0) none none
    | none =>
      let h := match data with
        | some k => h.toAgent epDev { agentMsg opDevRd r.gaid r.txid r.line r.gaid.la with data := some (k.bytes, k.dirty, k.poison) }
        | none => h
      h.sendCmp epDev r.gaid r.txid r.line gNone outcome

/-- Drops a device request whose target is dead or late (R186, R187): it completes with `O_LOST`. -/
def Hub.devDrop (h : Hub) (r : DevReq) : Hub := (h.devFinish r oLost none).devPump

/-- The requests that a dead target will not serve. -/
def Hub.devDead (h : Hub) (la : La) : Hub :=
  (h.dev.reqs.filter fun r => r.region != 64 && r.target == la).foldl (fun h r => h.devDrop r) h

end Sys2Proof.Machine
end

