-- ==== Sys2Proof/Machine/Late.lean ====
section
/-!
DEFINITION. Gecko holds, tickets and held places that end by time (R49, R55, R66), agents that are late or dead (R139–R148),
run-ahead (R93, R224) and sweeps (R102, R225).
-/
namespace Sys2Proof.Machine

/-! ### Holds, tickets, held places -/

/-- `SPAN_CMP_ACK` of a proxy whose own worst close comes before its requester's `CMP_ACK` (R218). -/
def Hub.tellHome (h : Hub) (t : Txn) : Hub :=
  match h.remoteHome t.req.line with
  | some e => if t.spanReq && t.gate.spanGrant != 0 then h.toHub e 0x2C (Flit.plain t.req.gaid t.req.txid t.req.line 0) none none else h
  | none => h

/-- `GECKO_HOLD_WORST_CLOSE` (R66): the hold of a granted transaction starts at its worst close where no `CMP_ACK` came before. -/
def execGeckoHoldWorstClose (ls : BitVec 6) (tid : Byte) (s : State) : Host.Outcome State Fault Refusal :=
  .next (s.withHub fun h =>
    let hs := h.hsOf ls
    match h.txn hs tid with
    | none => h
    | some t =>
      let granted := if t.req.span then t.gate.spanGrant != 0 else t.gate.grant != 0
      if t.phase != TPhase.looked || !granted || t.acked.isSome || t.deadReq || h.round < t.worst then h
      else ((h.tellHome t).onSlice hs fun s => { s with acksDue := s.acksDue ++ [(t.req.gaid, t.req.txid, t.req.line)] }).startHold hs tid)

/-- A hold is over: the line's way is free to be taken again (R66, R89). -/
def Hub.endHold (h : Hub) (hs : Nat) (l : Line) (p : Hold → Bool) : Hub :=
  ((h.onSlice hs fun s => { s with holds := s.holds.filter fun x => !(x.line == l && p x) }).settleWay hs l).checkRun hs l.sfSet

/-- `GECKO_HOLD_END` (R66): a hold that has run through the last of its rounds ends. -/
def execGeckoHoldEnd (ls : BitVec 6) (line : Line) (s : State) : Host.Outcome State Fault Refusal :=
  .next (s.withHub fun h =>
    let past (x : Hold) : Bool := decide (x.last < h.round)
    if (h.slice (h.hsOf ls)).holds.any fun x => x.line == line && past x then h.endHold (h.hsOf ls) line past else h)

/-- `TICKET_LAPSE` (R49): a ticket for round T whose request was not presented by round T+1 lapses; its refusal age runs on for 64
rounds (R53). -/
def execTicketLapse (ls : BitVec 6) (gaid : Gaid) (txid : Txid) (line : Line) (s : State) : Host.Outcome State Fault Refusal :=
  .next (s.withHub fun h =>
    let hs := h.hsOf ls
    let mine (t : Ticket) : Bool :=
      t.req.gaid == gaid && t.req.txid == txid && t.req.line == line && decide (t.round + 1 ≤ h.round)
    if (h.slice hs).tickets.any mine then
      let h := h.lapse hs mine
      if (h.records.getD gaid.toNat []).any fun r => r.isOf txid line then
        { h with lapses := h.lapses.set gaid.toNat [] ((dropRefusal h.lapses gaid txid line).getD gaid.toNat [] ++ [⟨txid, line, h.round⟩]) }
      else h
    else h)

/-- `HELD_PLACE_EXPIRY` (R55): a record whose request was not presented by round D+80 ends. -/
def execHeldPlaceExpiry (ls : BitVec 6) (gaid : Gaid) (txid : Txid) (s : State) : Host.Outcome State Fault Refusal :=
  .next (s.withHub fun h => h.onSlice (h.hsOf ls) fun s => { s with
    places := s.places.filter fun x => !(x.gaid == gaid && x.txid == txid && decide (x.d + 80 ≤ h.round)) })

/-! ### Late and dead agents -/

/-- The outstanding snoop that a deadline names. -/
def Hub.snoopOf (h : Hub) (la : La) (g : Gaid) (t : Txid) (l : Line) : Option Snoop :=
  (h.ap (h.agent la).port).snoops.find? fun x => x.la == la && x.gaid == g && x.txid == t && x.line == l

/-- `AGENT_SNOOP_DEADLINE` (R139): no answer within 4 rounds of the offer, or not all of the data forwarded with it (R57); the agent stays online
and Agent Grace starts. -/
def execAgentSnoopDeadline (la : La) (gaid : Gaid) (txid : Txid) (line : Line) (s : State) : Host.Outcome State Fault Refusal :=
  .next (s.withHub fun h =>
    match h.snoopOf la gaid txid line with
    | none => h
    | some sn =>
      if sn.late || h.round < sn.offered + 4 then h
      else
        let p := (h.agent la).port
        (h.onAp p fun a => a.onSnoop sn fun x => { x with late := true }).raise
          { rzTx evApSnoopLate p.toNat line (Gaid.mk h.num la) txid with extra := sn.op.opc.setWidth 32 })

/-- The declaration of death (R140): the edge router answers every outstanding snoop of the agent with `RSP_I`, `KEPT` 0, `DEAD` 1, in
place of any answer whose data has not wholly come. -/
def Hub.declareDead (h : Hub) (la : La) : Hub :=
  if (h.agent la).dead || !(h.agent la).valid then h
  else
    let p := (h.agent la).port
    let mine := (h.ap p).snoops.filter fun x => x.la == la
    let h := h.onAgent la fun a => { a with dead := true }
    mine.foldl (fun h sn =>
      ((h.onAp p fun a => a.dropSnoop sn).deliverAnswer { sn with dataIn := true } ⟨la, .i, 0, true⟩ none).releaseHeldWb la sn.line) h

/-- `AGENT_GRACE` (R140): 64 rounds after the deadline the agent is declared dead. -/
def execAgentGrace (la : La) (gaid : Gaid) (txid : Txid) (line : Line) (s : State) : Host.Outcome State Fault Refusal :=
  .next (s.withHub fun h =>
    match h.snoopOf la gaid txid line with
    | none => h
    | some sn => if !sn.late || h.round < sn.offered + 68 then h else h.declareDead la)

/-- The physical slices that hold state in service: every mapped one, and both of a migration. -/
def Hub.servingSlices (h : Hub) : List Nat :=
  let mapped := (upTo 64).map fun ls => h.hsOf (BitVec.ofNat 6 ls)
  let old := (upTo 64).map fun ls => h.map.getD ls ls
  let newt := match h.rot.newt with
    | some n => if h.rot.phase = 1 ∨ h.rot.phase = 2 then [n.toNat] else []
    | none => []
  (upTo 65).filter fun hs => mapped.contains hs || old.contains hs || newt.contains hs

/-- A slice's reclaim walk takes a death in: it starts, or runs a full pass again (R146, R147). Sweeps in being are marked (R144,
case 4). -/
def Slice.joinWalk (s : Slice) (la : La) : Slice :=
  let bit : BitVec 128 := 1#128 <<< la.toNat
  let w : Walk := match s.walk with
    | some w => { w with mask := w.mask ||| bit, left := 16384 }
    | none => ⟨bit, 0, 16384, []⟩
  { s with
    walk := some w
    sweeps := s.sweeps.map fun x => if x.span then x else { x with loss := x.loss.or (some la) } }

/-- What a slice lets go of a dead agent (R142, R143): tickets, held places, its hold and its reservation; its open transactions
release nothing to it. -/
def Hub.sliceDead (h : Hub) (hs : Nat) (la : La) : Hub :=
  let g := Gaid.mk h.num la
  let h := h.lapse hs fun t => t.req.gaid == g
  let h := h.onSlice hs fun s => { s with
    places := s.places.filter fun x => x.gaid != g
    rsv := s.rsv.filter fun x => x.gaid != g
    txns := List.mapIf (fun t => !t.req.span && t.req.gaid == g) (fun t => { t with deadReq := true }) s.txns }
  ((h.slice hs).holds.filter fun x => x.la == some la).foldl (fun h x => h.endHold hs x.line fun y => y.la == some la) h

/-- What the hub lets go of a dead agent from the round in which the stops apply the notice (R142). The manual does not say what becomes of the
agent's reservation sequence: its record goes, and the number's next agent starts from 0 (DESIGN CHOICE, assumption log 81). -/
def Hub.applyDeath (h : Hub) (la : La) : Hub :=
  let p := (h.agent la).port
  let g := Gaid.mk h.num la
  let h := h.onAgent la fun a => { a with online := false, walking := true }
  let h := h.servingSlices.foldl (fun h hs => (h.sliceDead hs la).onSlice hs fun s => s.joinWalk la) h
  let h := (h.releaseRsv la).clearRecord g
  let h := { h with rsvRecs := h.rsvRecs.drop la.toNat }
  let h := h.onAp p fun a => { a with
    holds := a.holds.filter fun x => x.req.gaid != g
    outst := a.outst.filter fun o => o.la != la
    cmpWbHeld := a.cmpWbHeld.filter fun c => c.1 != la }
  let h := { h with dev := { h.dev with fences := h.dev.fences.filter fun f => f.gaid != g } }
  (h.devDead la).raise { rz evApAgentDead p.toNat with gaid := some g }

/-- `DEAD_AGENT_NOTICE` (R142). -/
def execDeadAgentNotice (la : La) (s : State) : Host.Outcome State Fault Refusal :=
  .next (s.withHub fun h => if (h.agent la).dead && (h.agent la).online then h.applyDeath la else h)

/-- `DEAD_REQUESTER_CLOSE` (R143): a transaction whose requester is dead closes at its worst close, its entry without the requester. -/
def execDeadRequesterClose (ls : BitVec 6) (tid : Byte) (s : State) : Host.Outcome State Fault Refusal :=
  .next (s.withHub fun h =>
    let hs := h.hsOf ls
    match h.txn hs tid with
    | none => h
    | some t => if t.deadReq && t.closableDead && decide (t.worst ≤ h.round) then (h.tellHome t).closeTxn hs t none else h)

/-! ### The reclaim walk (R146) -/

/-- A view names an agent of a mask. -/
def SView.namesDead (v : SView) (mask : BitVec 128) : Bool := v.names.any fun a => mask.getLsbD a.toNat

/-- The newt slice of a migration window, whose arrays follow those of the outgoing slice until the handover (R359). -/
def Hub.follows (h : Hub) (hs : Nat) : Bool :=
  (h.rot.phase == 1 || h.rot.phase == 2) && h.rot.newt.map (fun n => n.toNat) == some hs

/-- A way that the walk has to wait at: its owner is dead, nothing pins it, and a poison mark has no place beyond the count (R276). -/
def Hub.walkWaits (h : Hub) (hs : Nat) (mask : BitVec 128) (set : BitVec 14) (way : Nat) : Bool :=
  let s := h.slice hs
  let l := sfLine (sfWordTag (s.sfAt set way)) set
  match s.viewAt set way with
  | some (.own a) => mask.getLsbD a.toNat && !h.follows hs && !s.pinned l h.round && !(h.hasPlace hs l || h.freeBeyond hs)
  | _ => false

/-- The walk's visit of one way. A newt slice's arrays get what the walk of the outgoing slice writes. -/
def Hub.visitWay (h : Hub) (hs : Nat) (mask : BitVec 128) (set : BitVec 14) (way : Nat) : Hub :=
  let s := h.slice hs
  let v := (s.viewAt set way).getD .unc
  let l := sfLine (sfWordTag (s.sfAt set way)) set
  let dead (a : La) : Bool := mask.getLsbD a.toNat
  match v with
  | .deg _ =>
    let la := ((upTo 128).find? fun i => mask.getLsbD i).map (BitVec.ofNat 7)
    h.onSlice hs fun s => { s with
      sweeps := List.mapIf (fun x => !x.span && x.set == set && x.way.toNat == way) (fun x => { x with loss := x.loss.or la }) s.sweeps }
  | _ =>
    if !v.namesDead mask || h.follows hs then h
    else if s.pinned l h.round then
      let rec_ := (set, BitVec.ofNat 4 way)
      let list (w : Walk) : Walk := if w.revisit.contains rec_ then w else { w with revisit := w.revisit ++ [rec_] }
      h.onSlice hs fun s => { s with walk := s.walk.map list }
    else match v with
      | .own a =>
        if h.hasPlace hs l || h.freeBeyond hs then ((h.ownerLost hs l a).putEntry hs l way .unc).proxyFlush hs l true else h
      | _ => let h := h.putEntry hs l way (v.without dead)
             h.proxyFlush hs l true

/-- The walk of a slice is complete (R147): the numbers that no other walk holds may be assigned again (R148). -/
def Hub.endWalk (h : Hub) (hs : Nat) : Hub :=
  let h := (h.onSlice hs fun s => { s with walk := none }).raise (rz evSfReclaimDone hs)
  let busy (a : Nat) : Bool := h.slices.any fun e => match e.2.walk with
    | some w => w.mask.getLsbD a
    | none => false
  { h with agents := List.map (fun e => (e.1, if busy e.1 then e.2 else { e.2 with walking := false })) h.agents }

/-- The ways listed for a revisit that have come unpinned. -/
def Slice.unpinnedRevisits (s : Slice) (w : Walk) (n : Nat) : List (BitVec 14 × BitVec 4) :=
  w.revisit.filter fun x => !s.pinned (sfLine (sfWordTag (s.sfAt x.1 x.2.toNat)) x.1) n

/-- `RECLAIM_WALK_VISIT` (R146): one set, read through its correctors, and the ways that have come unpinned. A service write between the
walk's read and its write makes it repeat the set, and a poison mark without a place makes it wait there (R276). -/
def execReclaimWalkVisit (hs : BitVec 7) (e : LookupErr) (intervened : Bool) (s : State) : Host.Outcome State Fault Refusal :=
  onUnit (hsExists hs) (s.withHub fun h =>
    let n := hs.toNat
    match (h.slice n).walk with
    | none => h
    | some w =>
      let visit (h : Hub) : Hub :=
        if w.left = 0 || intervened then h
        else
          let h := (upTo 16).foldl (fun h k => h.visitWay n w.mask w.set k) (h.readSfSet n w.set e none)
          if (upTo 16).any fun k => h.walkWaits n w.mask w.set k then h
          else h.onSlice n fun s => { s with walk := s.walk.map fun w => { w with set := w.set + 1, left := w.left - 1 } }
      let h := visit h
      let again := match (h.slice n).walk with
        | some w => ((h.slice n).unpinnedRevisits w h.round).filter fun (x : BitVec 14 × BitVec 4) => !h.walkWaits n w.mask x.1 x.2.toNat
        | none => []
      let h := again.foldl (fun h x =>
        (h.onSlice n fun s => { s with walk := s.walk.map fun w => { w with revisit := w.revisit.filter fun y => y != x } }).visitWay
          n w.mask x.1 x.2.toNat) h
      match (h.slice n).walk with
      | some w => if w.left = 0 && w.revisit.isEmpty then h.endWalk n else h
      | none => h)

/-! ### Run-ahead (R93, R224) -/

/-- `RUNAHEAD_SELECTION` (R93, R94, R224): the first queued set with an eligible way starts a back-invalidation in a free in-flight
entry. Of several such sets the earliest queued is taken, filter sets before span directory sets (DESIGN CHOICE, assumption log 80).
Selections wait while a reclaim walk runs (R147) and from a drain round on (R360). -/
def execRunaheadSelection (ls : BitVec 6) (s : State) : Host.Outcome State Fault Refusal :=
  .next (s.withHub fun h =>
    let hs := h.hsOf ls
    if (h.slice hs).walk.isSome || h.drains hs h.round then h
    else
      let h := h.trimQueues hs
      match h.freeBack hs, h.aheadSets hs with
      | some idx, (set :: _, _) =>
        let v := (h.slice hs).victim set h.round
        match v.1 with
        | none => h
        | some w =>
          let h := h.onSlice hs fun _ => v.2
          let word := (h.slice hs).sfAt set w
          (h.startBack hs idx .runAhead (sfLine (sfWordTag word) set) ((SView.ofWord word).getD .unc)).trimQueues hs
      | some idx, ([], set :: _) =>
        let r := h.takeFree
        let h := r.2
        let el := (h.slice hs).sdEligible set h.round
        let w := List.nth el (r.1 % el.length) 0
        let word := (h.slice hs).sdAt set w
        (h.startSpanBack hs idx .spanRunAhead (sdLine (sdWordTag word) set) ((HView.ofWord word).getD .none)).trimQueues hs
      | _, _ => h)

/-! ### Sweeps (R102, R225) -/

/-- What a sweep does with the candidate at its pointer. -/
inductive SweepMove where
  | ended | wait | pass | list | start (l : Line)
  deriving DecidableEq, Repr

/-- The next move of a sweep (R102). A candidate with an open back-invalidation is skipped (R138). -/
def Hub.sweepMove (h : Hub) (hs : Nat) (ls : BitVec 6) (x : Sweep) : SweepMove :=
  let s := h.slice hs
  if x.waiting then .wait
  else if s.sweepLast x < x.ptr then .ended
  else
    let set12 := x.set.setWidth 12
    let exact := !x.span && s.viewAt x.set x.way.toNat == some (.deg true)
    let l : Line := if x.span then
        sdLine (BitVec.ofNat 34 (candTag 34 (sdWordTag (s.sdAt set12 x.way.toNat)).toNat x.ptr)) set12
      else sfLine (BitVec.ofNat 32 (candTag 32 (sfWordTag (s.sfAt x.set x.way.toNat)).toNat x.ptr)) x.set
    let healthy := if x.span then !(s.healthySd l).isEmpty else !(s.healthyWays l).isEmpty
    if l.ls != ls || healthy then .pass
    else if exact && s.pinned l h.round then .wait
    else if (s.txnOn l).isSome || s.chained l then .list
    else if (s.backOn l).isSome then .pass
    else .start l

/-- Advances a sweep's pointer. -/
def Hub.advanceSweep (h : Hub) (hs : Nat) (x : Sweep) (skip live : Bool) : Hub :=
  let upd (y : Sweep) : Sweep := { y with
    ptr := y.ptr + 1
    skip := if skip then y.skip ++ [y.ptr] else y.skip
    live := if live then y.live + 1 else y.live }
  h.onSlice hs fun s => { s with
    sweeps := List.mapIf (fun y => y.span == x.span && y.set == x.set && y.way == x.way) upd s.sweeps }

/-- `SWEEP_STEP` (R102, R225): one candidate is skipped, listed, or searched for its owner. Run-ahead has precedence over the in-flight
entries, and the reclaim walk over both. -/
def execSweepStep (ls : BitVec 6) (span : Bool) (set : BitVec 14) (way : BitVec 4) (s : State) :
    Host.Outcome State Fault Refusal :=
  .next (s.withHub fun h =>
    let hs := h.hsOf ls
    match (h.slice hs).sweepOf span set way.toNat with
    | none => h
    | some x =>
      if (h.slice hs).walk.isSome || h.drains hs h.round then h
      else match h.sweepMove hs ls x with
        | .wait => h
        | .ended => h.endSweeps hs
        | .pass => (h.advanceSweep hs x false false).endSweeps hs
        | .list => h.advanceSweep hs x true false
        | .start l =>
          let ahead := h.aheadSets hs
          match h.freeBack hs with
          | none => h
          | some idx =>
            if !ahead.1.isEmpty || !ahead.2.isEmpty then h
            else
              let h := h.advanceSweep hs x false true
              if span then h.startSpanBack hs idx (.spanSweep set way) l .deg
              else h.startBack hs idx (.sweep set way) l (.deg false))

end Sys2Proof.Machine
end

