-- ==== Sys2Proof/Machine/Memory.lean ====
section
/-!
DEFINITION. Memory ports (R261–R282, R291–R296): reads and writes as they are sent, data and completions, pauses, channels that go
down, late and lost reads, the spill store, fills that waited, prefetches.
-/
namespace Sys2Proof.Machine

/-! ### Sending (R270, R275, R277, R278) -/

/-- The channel is a member of a mirrored window's pairs. -/
def Hub.mirrored (h : Hub) (c : Nat) : Bool :=
  (upTo 16).any fun n => (h.winBase n).getLsbD 0 && (h.winCfg n).getLsbD 5 && (h.winCfg n).getLsbD (26 + c)

/-- The partner of a mirrored member serves. -/
def Hub.partnerServes (h : Hub) (c : Nat) : Bool :=
  let d := c ^^^ 1
  h.mirrored c && h.chanOnline d && !(h.chan d).down && (h.chan d).copying.isNone

/-- The reads that wait for a paused member of a mirrored pair go to its partner (R278, R280). -/
def Hub.takePaused (h : Hub) (c : Nat) : Hub :=
  let other := c ^^^ 1
  let mine (r : MemRead) : Bool :=
    r.ch.toNat == other && !r.sent && r.held.isNone && !h.pauseAllows other (r.pres.getD h.round) && match r.who with
      | .mirror _ => false
      | _ => true
  if h.partnerServes other && !h.readPaused c then
    { h with reads := List.mapIf mine (fun r => { r with ch := BitVec.ofNat 4 c }) h.reads }
  else h

/-- The next line to be copied to a channel that returns to service: the line of the cursor, where one lies there, and the cursor
after it (R280). -/
def Hub.copyLine (h : Hub) (c : Nat) (cur : Nat × Nat) : Option Line × Option (Nat × Nat) :=
  let base := h.winBase cur.1
  let cfg := h.winCfg cur.1
  let bits := chanBits (cfg.extractLsb' 26 16)
  let n := bits.length / 2
  let grain := 2 ^ ((cfg.extractLsb' 6 4).toNat + 2)
  let total := ((cfg.extractLsb' 42 22).toNat + 1 - (base.extractLsb' 30 22).toNat) * 2 ^ 24
  let ord := (bits.takeWhile fun b => b != c).length / 2
  let o := (cur.2 / grain * n + ord) * grain + cur.2 % grain
  if cur.1 ≥ 16 then (none, none)
  else if !(base.getLsbD 0 && cfg.getLsbD 5 && bits.contains c) || cur.2 ≥ total / (max n 1) + grain then (none, some (cur.1 + 1, 0))
  else if o < total then (some (BitVec.ofNat 46 ((base.extractLsb' 30 22).toNat * 2 ^ 24 + o)), some (cur.1, cur.2 + 1))
  else (none, some (cur.1, cur.2 + 1))

/-- The copy to a returned member goes on from a line, or has ended. -/
def Chan.copyGoes (x : Chan) (k : Option (Nat × Nat)) : Chan :=
  { x with
    copying := k
    stale := x.stale && k.isSome }

/-- Puts the next copy read of a returning partner into the speculative class of a channel (R280). -/
def Hub.copyStep (h : Hub) (c : Nat) : Hub :=
  match (h.chan (c ^^^ 1)).copying with
  | none => h
  | some cur =>
    let k := h.copyLine c cur
    let busy := h.reads.any fun r => match r.who with
      | .mirror _ => portOfChan r.ch.toNat == portOfChan c
      | _ => false
    match h.reads.find? fun r => r.copyWaits && r.ch.toNat == c, k.1 with
    | some r, _ => (h.dropRead r).mirrorCopy r (r.held.getD (payload 0 false true))
    | none, none => if busy then h else h.onChan (c ^^^ 1) fun x => x.copyGoes k.2
    | none, some l =>
      if h.hasPlace (h.homeHs l) l || h.readOut l then h
      else
        let t := h.takeTag (portOfChan c)
        let rd : MemRead := {
          ch := BitVec.ofNat 4 c, mtag := t.1, ls := l.ls, line := l, who := .mirror false, spec := true, crit := false, lk := false,
          sent := false, dec := .none, pres := none, held := none, late := false, stale := false, retry := false, aop := none,
          fill := none, noAlloc := false }
        ({ t.2 with reads := t.2.reads ++ [rd] }).onChan (c ^^^ 1) fun x => x.copyGoes k.2

/-- `MEM_RD` and `MEM_RD_LK` (R270, R277): the edge router sends a channel's next read. -/
def execMemRd (ch : BitVec 4) (s : State) : Host.Outcome State Fault Refusal :=
  .next (s.withHub fun h =>
    let c := ch.toNat
    if !h.chanOnline c || (h.chan c).down then h
    else
      let h := (h.takePaused c).refuseLock c
      match h.nextRead c with
      | none => h.copyStep c
      | some r => h.sendRead c r)

/-- A line whose write may be sent on a channel now (R117, R135, R274, R275, R278). -/
def Hub.writeSendable (h : Hub) (c : Nat) (x : WbLine) : Bool :=
  x.home && x.whole && !h.readOut x.line && ((h.lineMap x.line).1).contains c
    && !x.wrote.contains (BitVec.ofNat 4 c) && !(x.out.any fun o => o.ch.toNat == c) && (!x.wrote.isEmpty || x.out.isEmpty)
    && h.takesWrite c

/-- The grants that a line's write needs on a channel (R322): of the memory port, and for a slice's line that has not gone to the port before also of the
slice's egress. -/
def Hub.writeGrants (h : Hub) (x : WbLine) (c : Nat) : List (Nat × Nat) :=
  let port := 65 + portOfChan c
  if h.inSpill x.line then [(port, 1)] else (port, 0) :: if x.wrote.isEmpty then [(h.homeHs x.line, 0)] else []

/-- Sends a line's memory write on one channel. -/
def Hub.writeOn (h : Hub) (l : Line) (c : Nat) : Hub :=
  let hs := h.homeHs l
  match h.wbFind hs l with
  | none => h
  | some x =>
    let urgent := !x.front && h.allWb.any fun y => y.front && y.line != l && h.writeSendable c y
    if !h.writeSendable c x || urgent || !h.grantedAll (h.writeGrants x c) then h
    else
      let k := h.domReady (.mp (BitVec.ofNat 3 (portOfChan c)))
      if !k.2 then k.1
      else
        let t := (k.1.useGrants (h.writeGrants x c)).takeTag (portOfChan c)
        let from_ := if h.inSpill l then epSpill else hs
        let h := (t.2.sendWrite c 0x08 t.1 l x.bytes x.poison).moved from_ (epMp (portOfChan c)) true 64
        h.onWb hs l fun y => { y with
          out := y.out ++ [⟨BitVec.ofNat 4 c, t.1, false⟩]
          wrote := y.wrote ++ [BitVec.ofNat 4 c]
          front := false }

/-- `MEM_WR` (R117, R274, R275): a buffered line is written to each of its channels that takes it. -/
def execMemWr (line : Line) (s : State) : Host.Outcome State Fault Refusal :=
  .next (s.withHub fun h => ((h.lineMap line).1).foldl (fun h c => h.writeOn line c) h)

/-! ### Completions (R135, R274, R276) -/

/-- A pool line of a slice moves to a general place that has come free beyond the count (R276). -/
def Hub.rehome (h : Hub) (hs : Nat) : Hub :=
  let mine (x : WbLine) : Bool := x.place == .pool && h.hsOf x.ls == hs
  match h.spill.find? mine with
  | some x =>
    if h.freeBeyond hs then
      ({ h with spill := h.spill.filter fun y => y.line != x.line }).onSlice hs fun s => { s with wb := s.wb ++ [{ x with place := .general }] }
    else h
  | none => h

/-- A line leaves the buffers once its data is written on every channel that is not down; data that came meanwhile is written
next (R135, R274). -/
def Hub.tryComplete (h : Hub) (l : Line) : Hub :=
  let hs := h.homeHs l
  match h.wbFind hs l with
  | none => h
  | some x =>
    let live := ((h.lineMap l).1).filter fun c => !(h.chan c).down
    let done := x.out.isEmpty && !x.wrote.isEmpty && live.all fun c => x.wrote.contains (BitVec.ofNat 4 c)
    if !done then h
    else if x.again then
      (h.onWb hs l fun y => { y with
        wrote := []
        again := false }).writeDone l
    else ((h.dropWb hs l).writeDone l).rehome hs

/-- `MEM_WCMP` (R274): the completion of a memory write. -/
def execMemWcmp (mp : BitVec 3) (mtag : Txid) (s : State) : Host.Outcome State Fault Refusal :=
  .next (s.withHubR fun h =>
    let mine (o : OutWrite) : Bool := portOfChan o.ch.toNat == mp.toNat && o.mtag == mtag
    match h.allWb.find? fun x => x.out.any mine with
    | some x =>
      let h := h.onWb (h.homeHs x.line) x.line fun y => { y with out := y.out.filter fun o => !mine o }
      h.tryComplete x.line
    | none =>
      match h.readOf mp.toNat mtag with
      | some r => if r.who = .mirror true then h.dropRead r else h
      | none => h)

/-! ### Data (R61, R273, R281) -/

/-- A read of a failed mirrored member is made again at the partner (R281). -/
def Hub.rereadAt (h : Hub) (r : MemRead) (c : Nat) : Hub :=
  let t := h.takeTag (portOfChan c)
  let h := t.2.dropRead r
  ({ h with reads := h.reads ++ [{ r with ch := BitVec.ofNat 4 c, mtag := t.1, sent := false, retry := true, pres := some h.round }]
    }).checkPressure r.ch.toNat |>.checkPressure c

/-- `MEM_DAT` (R61, R263, R273): read data arrives at the edge router. -/
def execMemDat (mp : BitVec 3) (mtag : Txid) (d : MeshData) (s : State) : Host.Outcome State Fault Refusal :=
  .next (s.withHubR fun h =>
    if !d.line.sound then h
    else match (upTo 16).find? fun c => portOfChan c = mp.toNat && (h.chan c).lost.contains mtag with
    | some c => h.onChan c fun x => { x with lost := x.lost.filter fun t => t != mtag }
    | none =>
      match h.readOf mp.toNat mtag with
      | none => h
      | some r =>
        if !r.sent || r.held.isSome || r.who == .mirror true then h
        else
          let c := r.ch.toNat
          let h := if r.spec && r.dec == .none && (match r.who with
              | .txn _ => true
              | _ => false) then (h.onRead r fun x => { x with held := some (meshLine d) }).meshUe (h.hsOf r.ls) r.line d.ue
            else if d.line.poison && (h.chan c).down && h.partnerServes c && !r.retry then
              (h.rereadAt r (c ^^^ 1)).raise (rzLine evMpFailoverLate mp.toNat r.line)
            else (h.readDone r (meshLine d) false).meshUe (h.hsOf r.ls) r.line d.ue
          h.checkPressure c)

/-- `READ_LATE` (R273): a read's data has not come B rounds after its presentation. -/
def execReadLate (mp : BitVec 3) (mtag : Txid) (s : State) : Host.Outcome State Fault Refusal :=
  .next (s.withHub fun h =>
    match h.readOf mp.toNat mtag with
    | none => h
    | some r =>
      let due : Bool := match r.pres with
        | some p => decide (p + h.bound mp.toNat ≤ h.round)
        | none => false
      if !due || r.late || r.who == .mirror true then h
      else (h.onRead r fun x => { x with late := true }).raise (rzLine evMpReadLate mp.toNat r.line))

/-- `READ_LOST` (R273): after 2 × B rounds the edge router returns the line itself, poisoned. -/
def execReadLost (mp : BitVec 3) (mtag : Txid) (s : State) : Host.Outcome State Fault Refusal :=
  .next (s.withHubR fun h =>
    match h.readOf mp.toNat mtag with
    | none => h
    | some r =>
      let due : Bool := match r.pres with
        | some p => decide (p + 2 * h.bound mp.toNat ≤ h.round)
        | none => false
      if !due || r.who == .mirror true then h
      else
        let d := payload (Config.freeLine h.freeCtr) false true
        let h := ({ h with freeCtr := h.freeCtr + 1 }).raise (rzLine evMpReadLost mp.toNat r.line)
        let h := if r.sent then h.onChan r.ch.toNat fun x => { x with lost := x.lost ++ [mtag] } else h
        (h.readDone r d true).checkPressure r.ch.toNat)

/-! ### Pauses (R278, R282) -/

/-- The rounds that two spans share. -/
def overlapOf (a b : Nat × Nat) : Option (Nat × Nat) :=
  if a.1 ≤ b.2 ∧ b.1 ≤ a.2 then some (max a.1 b.1, min a.2 b.2) else none

/-- Sends a notice to every slice for application in the next round's arbitration phase (R38). -/
def Hub.notify (h : Hub) (n : Notice) : Hub := { h with notices := h.notices ++ [n] }

/-- `MEM_PAUSE` (R278, R282): the rounds from the arrival's plus `LEAD`, `LEN` of them. -/
def execMemPause (ch : BitVec 4) (lead : BitVec 12) (len : BitVec 7) (s : State) : Host.Outcome State Fault Refusal :=
  .next (s.withHub fun h =>
    let c := ch.toNat
    if !h.chanOnline c then h
    else
      let p := (h.round + lead.toNat, h.round + lead.toNat + len.toNat - 1)
      let own := (h.chan c).announced.filterMap fun x => overlapOf x p
      let both := if h.mirrored c then (h.chan (c ^^^ 1)).announced.filterMap fun x => overlapOf x p else []
      let breach := decide (lead.toNat < 500) || decide (len.toNat < 1) || decide (125 < len.toNat) || !own.isEmpty || !both.isEmpty
      let h := if breach then h.raise (rz evMpPauseBreach (portOfChan c)) else h
      if len = 0 then h
      else
        let h := h.onChan c fun x => { x with announced := x.announced ++ [p] }
        let h := if h.partnerServes c then h else h.notify (.pause ch p.1 p.2)
        both.foldl (fun h o => (h.notify (.pause ch o.1 o.2)).notify (.pause (ch ^^^ 1) o.1 o.2)) h)

/-- `MEM_PAUSE_START` (R278): the first round of an announced pause has come. -/
def execMemPauseStart (ch : BitVec 4) (s : State) : Host.Outcome State Fault Refusal :=
  .next (s.withHub fun h =>
    let c := ch.toNat
    if (h.chan c).announced.any fun p => decide (p.1 ≤ h.round) && decide (h.round ≤ p.2) then
      h.onChan c fun x => { x with paused := true }
    else h)

/-- Reads answered with poison before they are sent; the data bits of each are a free value of its own. -/
def answerReads (mine : MemRead → Bool) : Nat → List MemRead → List MemRead
  | _, [] => []
  | k, r :: t =>
    if mine r then
      { r with
        sent := true
        held := some (payload (Config.freeLine k) false true) } :: answerReads mine (k + 1) t
    else r :: answerReads mine k t

/-- The reads that wait for a down channel are answered with poison at once (R279). -/
def Hub.answerDown (h : Hub) (c : Nat) : Hub :=
  (({ h with
    freeCtr := h.freeCtr + h.reads.length
    reads := answerReads (fun r => r.ch.toNat == c && !r.sent) h.freeCtr h.reads }).flushHeld).checkPressure c

/-- `MEM_PAUSE_END` (R278, R279): the last round of the union of the announced pauses is past. -/
def execMemPauseEnd (ch : BitVec 4) (s : State) : Host.Outcome State Fault Refusal :=
  .next (s.withHubR fun h =>
    let c := ch.toNat
    let inForce := (h.chan c).announced.any fun p => decide (p.1 ≤ h.round) && decide (h.round ≤ p.2)
    if !(h.chan c).paused || inForce then h
    else
      let n := h.round
      let h := h.onChan c fun x => { x with
        paused := false
        announced := x.announced.filter fun p => decide (n ≤ p.2) }
      if (h.chan c).down && !h.partnerServes c then h.answerDown c else h)

/-! ### Channels that go down (R279–R281) -/

/-- The buffered lines that have the channel among theirs lose its write: whole lines of it alone are dropped, a mirrored line whose
other copy is written is complete (R279, R280). -/
def Hub.dropWrites (h : Hub) (c : Nat) : Hub :=
  let lines := (h.allWb.filter fun x => x.home && ((h.lineMap x.line).1).contains c).map fun x => x.line
  lines.foldl (fun h l =>
    let hs := h.homeHs l
    let h := h.onWb hs l fun y => { y with out := y.out.filter fun o => o.ch.toNat != c }
    if h.lineDown l then h.dropIfDown hs l else h.tryComplete l) h

/-- A channel is down (R279–R281), which ends copies to it; its event has the mirror-lost flag in bit 0 of `extra`: `onTime` where the report came inside an announced pause, 16 rounds before its end at least. -/
def Hub.chanDown (h : Hub) (c : Nat) (onTime : Bool) : Hub :=
  let n := h.round
  let ch := BitVec.ofNat 4 c
  let mp := portOfChan c
  let survivor := h.partnerServes c
  let h := h.onChan c fun x => { x with
    down := true
    lock := none
    copying := none
    stale := survivor || x.stale
    failEnd := if onTime then none else some (n + 64) }
  let copies (r : MemRead) : Bool := r.who == .mirror true && r.ch == ch || r.who == .mirror false && r.ch.toNat == c ^^^ 1
  let h := { h with reads := h.reads.filter fun r => !copies r }
  let h := (h.raise { rz evMpChannelDown mp with extra := if h.mirrored c then 1 else 0 }).notify (.down ch)
  let h := if onTime then h else h.notify (.failover ch (n + 64))
  let h := h.dropWrites c
  if survivor then
    (h.reads.filter fun r => r.ch.toNat == c && !r.sent).foldl (fun h r => h.rereadAt { r with retry := false } (c ^^^ 1)) h
  else if onTime then h
  else h.answerDown c

/-- A report or a failure outside what R269 allows is a breach, and the channel's lines are ticketed for 64 rounds (R281). -/
def Hub.downOnTime (h : Hub) (c : Nat) : Bool :=
  (h.chan c).announced.any fun p => decide (p.1 ≤ h.round) && decide (h.round + 16 ≤ p.2)

/-- `MEM_DOWN` (R279–R281). -/
def execMemDown (ch : BitVec 4) (s : State) : Host.Outcome State Fault Refusal :=
  .next (s.withHubR fun h =>
    let c := ch.toNat
    if !h.chanOnline c || (h.chan c).down then h else h.chanDown c (h.downOnTime c && (h.chan c).paused))

/-- `MEM_REPLAYED` is counted only (R262). -/
def execMemReplayed (ch : BitVec 4) (s : State) : Host.Outcome State Fault Refusal :=
  .next (s.withHub fun h => h.onChan ch.toNat fun x => { x with replayed := x.replayed + 1 })

/-- `FAILOVER_WINDOW_END` (R281): the 64 rounds of a failover window are over. -/
def execFailoverWindowEnd (ch : BitVec 4) (s : State) : Host.Outcome State Fault Refusal :=
  .next (s.withHub fun h =>
    match (h.chan ch.toNat).failEnd with
    | some n => if n ≤ h.round then h.onChan ch.toNat fun x => { x with failEnd := none } else h
    | none => h)

/-- A memory port goes down: both of its channels are marked down (R281, R284). -/
def Hub.mpGoesDown (h : Hub) (mp : BitVec 3) : Hub :=
  if !(h.mps.getD mp.toNat MpPort.init).online then h
  else
    let fail (h : Hub) (c : Nat) : Hub := if (h.chan c).down || (h.chan c).cap = 0 then h else h.chanDown c false
    let h := fail (fail h (2 * mp.toNat)) (2 * mp.toNat + 1)
    { h with mps := h.mps.put mp.toNat { h.mps.getD mp.toNat MpPort.init with
        link := .down
        online := false
        trained := false } }

/-- A failed link of a memory port raises `EVT_AP_LINK_DOWN`, as R240 has it, and marks both of its channels down (R259, R281). -/
def Hub.mpLinkFails (h : Hub) (mp : BitVec 3) : Hub :=
  if (h.mps.getD mp.toNat MpPort.init).online then (h.raise (rz evApLinkDown (epMp mp.toNat))).mpGoesDown mp else h

/-- `MP_LINK_DOWN` (R259, R281). -/
def execMpLinkDown (mp : BitVec 3) (s : State) : Host.Outcome State Fault Refusal :=
  .next (s.withHubR fun h => h.mpLinkFails mp)

/-! ### The spill store (R275) -/

/-- The line's memory write cannot be sent for a reason of its channels (R275). -/
def Hub.writeStuck (h : Hub) (x : WbLine) : Bool :=
  let chans := (h.lineMap x.line).1
  let asleep (c : Nat) : Bool := match h.power.doms.look (16 + portOfChan c) with
    | none | some .awake | some (.closing _) => false
    | _ => true
  let stuck (c : Nat) : Bool :=
    h.writePaused c || asleep c || (h.chan c).failEnd.isSome || decide ((h.chan c).wrCred.toNat ≤ (h.chan c).wrUsed)
      || decide ((h.chan c).wmHigh.toNat ≤ h.writesOut c)
  x.home && x.whole && chans.any fun c => (x.again || !x.wrote.contains (BitVec.ofNat 4 c)) && stuck c

/-- `SPILL_MOVE` (R275): the oldest line of a slice that holds 224 lines or more, and whose write cannot be sent, moves to the spill
store. -/
def execSpillMove (ls : BitVec 6) (s : State) : Host.Outcome State Fault Refusal :=
  .next (s.withHub fun h =>
    let hs := h.hsOf ls
    let used := (h.spill.filter fun x => x.place == .guaranteed && h.hsOf x.ls == hs).length
    if (h.slice hs).wb.length < 224 || 24 ≤ used || !h.granted hs 1 then h
    else match (h.slice hs).wb.find? fun x => x.place == .general && h.writeStuck x with
      | none => h
      | some x =>
        let h := (h.useGrant hs 1).onSlice hs fun s => { s with wb := s.wb.filter fun y => y.line != x.line }
        ({ h with spill := h.spill ++ [{ x with place := .guaranteed }] }).moved hs epSpill true 64)

/-- `RECALL_COMPLETE` (R275): a recalled line comes into one of its slice's recall places. -/
def execRecallComplete (ls : BitVec 6) (line : Line) (s : State) : Host.Outcome State Fault Refusal :=
  .next (s.withHub fun h =>
    let hs := h.hsOf ls
    match h.spill.find? fun x => x.line == line && x.recallAt.isSome && h.hsOf x.ls == hs with
    | none => h
    | some x => if !h.granted hs 1 then h else
      let h := { h.useGrant hs 1 with spill := h.spill.filter fun y => y.line != line }
      let y : WbLine := { x with
        place := .recall
        recallAt := none }
      (h.onSlice hs fun s => { s with wb := s.wb ++ [y] }).moved epSpill hs true 64)

/-! ### Fills that wait (R293, R299) -/

/-- `FILL_INSTALL` (R293): the port has taken the victim's write, and the line is installed; a fill-and-lock whose way was pinned takes
it. -/
def execFillInstall (ls : BitVec 6) (line : Line) (s : State) : Host.Outcome State Fault Refusal :=
  .next (s.withHubR fun h =>
    let hs := h.hsOf ls
    match (h.slice hs).fillOf line with
    | none => h
    | some f =>
      match f.victim, f.way, f.kind with
      | some v, _, _ =>
        if (h.slice hs).writeWaits v then h
        else
          let f := { f with victim := none }
          let h := h.onSlice hs fun s => s.onFill line fun _ => f
          h.installFill hs f
      | none, none, .lock w _ => h.lockTake hs f w
      | none, _, _ => h)

/-- `FILL_VICTIM_WAIT_EXPIRY` (R293): after 16 rounds the fill chooses again among ways whose lines have no write waiting; where there
is none it is dropped, a chain copy excepted, and a fill-and-lock, which has no other way to choose (R299). -/
def execFillVictimWaitExpiry (ls : BitVec 6) (line : Line) (s : State) : Host.Outcome State Fault Refusal :=
  .next (s.withHubR fun h =>
    let hs := h.hsOf ls
    match (h.slice hs).fillOf line with
    | none => h
    | some f =>
      if f.victim.isNone || h.round < f.since + 16 || f.data.isNone then h
      else
        let s := h.slice hs
        let set := line.hcSet
        let quiet (w : Nat) : Bool := !hcValid (s.hcAt set w) || !s.writeWaits (hcLine (hcWordTag (s.hcAt set w)) set)
        let demand := match f.kind with
          | .prefetch _ => false
          | _ => true
        let isLock := match f.kind with
          | .lock _ _ => true
          | _ => false
        if isLock then h else
        let v := s.hcVictim set ((s.hcEligible set).filter quiet) demand
        match v.1 with
        | some w =>
          let unres (s : Slice) : Slice := { s with hcRsv := s.hcRsv.filter fun x => !(x.1 == set && some x.2 == f.way) }
          let h := h.onSlice hs fun _ => unres v.2
          let t := h.takeVictim hs set w
          let f := { f with way := some (BitVec.ofNat 4 w), victim := none }
          let h := t.1.onSlice hs fun s => s.onFill line fun _ => f
          h.installFill hs f
        | none => if f.kind == .chain then h else (h.onSlice hs fun s => s.dropFill line).fillDropped hs line)

/-! ### Prefetch (R296, R297) -/

/-- A notice of a channel is in force at the slices. -/
def Hub.chanQuiet (h : Hub) (c : Nat) : Bool :=
  let n := h.chNote c
  !n.pressure && !n.asleep && !n.down && (n.busy ++ n.failover).all fun b => decide (b.2 < h.round)

/-- `PREFETCH_NOTICE` (R38, R296): the receiving slice applies a notice for a line that a miss or a stream sent in an earlier round. -/
def execPrefetchNotice (line : Line) (stream : Bool) (s : State) : Host.Outcome State Fault Refusal :=
  .next (s.withHub fun h =>
    let due (x : Line × Bool × Nat) : Bool := x.1 == line && x.2.1 == stream && decide (x.2.2 < h.round)
    if !h.prefetchNotes.any due then h
    else
      let h := { h with prefetchNotes := List.dropFirst due h.prefetchNotes }
      let hs := h.homeHs line
      let s := h.slice hs
      let sameWin := h.isHome line && h.winOf line == h.winOf (line - 1)
      let quiet : Bool := match h.readChan line with
        | some c => h.chanQuiet c
        | none => false
      let idle := (s.hcValue line).isNone && (s.fillOf line).isNone && (h.wbFind hs line).isNone && !s.isOpen line && !s.chained line
        && !(s.prefetches.any fun x => x.line == line)
      if !sameWin || !quiet || !idle || s.prefetches.length ≥ 16 || s.walk.isSome then h
      else
        let h := (h.onSlice hs fun s => { s with prefetches := s.prefetches ++ [⟨line, stream⟩] }).count 0x012 line.ls.toNat 1
        (h.issueRead hs line (.prefetch stream) true false false none).flushHeld)

end Sys2Proof.Machine
end

