-- ==== Sys2Proof/Machine/Flags.lean ====
section
/-!
DEFINITION. Every status word the hub computes from its state: the read-only registers of the window (R471–R476, R384, R449, R453,
R457, R459) and the read-only parameters (R72, R189, R257, R283, R305, R328, R352, R375, R404, R419, R446), each with its field map.
-/
namespace Sys2Proof.Machine

/-- A field of a word: `v` at bit `lo`. -/
def fld (lo v : Nat) : Word := BitVec.ofNat 64 v <<< lo
/-- A one-bit field. -/
def bitAt (lo : Nat) (b : Bool) : Word := if b then 1#64 <<< lo else 0
/-- The number of set bits of a mask of 16. -/
def popcount16 (m : BitVec 16) : Nat := ((upTo 16).filter fun i => m.getLsbD i).length

/-! ### Identity (R471, R472, R473) -/

/-- `HUB_VERSION`: stepping B1, interface 1.2, the firmware release once an image has been verified. -/
def Hub.versionWord (h : Hub) : Word :=
  (0x42 : Byte) ++ (0x01 : Byte) ++ (0x01 : Byte) ++ (0x02 : Byte) ++ (if h.core.image then h.core.fw else 0)

/-- `HUB_STATE`. -/
def Hub.stateWord (h : Hub) (otp : Otp) : Word :=
  fld 47 h.num.toNat ||| fld 32 h.start.step.toNat ||| bitAt 15 (h.aon.fatal.valid && !h.pins.faultN)
    ||| bitAt 14 (h.start.phase == .draining) ||| bitAt 13 h.core.restart ||| bitAt 12 (h.start.phase == .serving)
    ||| fld 8 otp.lifecycle.toNat ||| bitAt 0 h.core.armed

/-- `HUB_TJ`. -/
def Hub.tjWord (h : Hub) : Word := fld 24 h.power.slots ||| fld 16 h.power.hot.toNat ||| fld 0 h.power.tj.toNat

/-- `HUB_FATAL_SRC`. -/
def Hub.fatalWord (h : Hub) : Word :=
  let f := h.aon.fatal
  if f.valid then fld 54 f.src.toNat ||| fld 46 f.inst.toNat ||| fld 16 f.synd.toNat ||| 1 else 0

/-- `HUB_ATTEST_KEY_k`: byte 8k + i in bits [8i+7:8i]. -/
def Otp.attestWord (o : Otp) (k : Nat) : Word := (o.attest >>> (64 * k)).setWidth 64

/-! ### Slices and ports (R474–R476) -/

/-- `HUB_SLICE_MAP_j`. -/
def Hub.mapWord (h : Hub) (j : Nat) : Word :=
  (upTo 8).foldl (fun w i => w ||| fld (7 * i) (h.map.getD (8 * j + i) (8 * j + i) % 128)) 0

/-- The codes of `ROLE`. -/
def Role.code : Role → Nat
  | .newt => 0 | .inService => 1 | .underTest => 2 | .substituted => 3

/-- A slice is the outgoing or the newt slice of a migration window, which ends with the isolation of the outgoing slice. -/
def Hub.migrating (h : Hub) (hs : Nat) : Bool :=
  (h.rot.phase == 1 || h.rot.phase == 2 || h.rot.phase == 3) && (h.rot.outHs.toNat == hs || h.rot.newt.map (fun n => n.toNat) == some hs)

/-- `LS` of a slice's health: the number it carries, 0 where it carries none. -/
def Hub.healthLs (h : Hub) (hs : Nat) : Nat :=
  if h.migrating hs then h.rot.ls.toNat else ((upTo 64).find? fun ls => h.map.getD ls ls == hs).getD 0

/-- `ROLE` of a slice's health: both slices of a migration window are in service. -/
def Hub.healthRole (h : Hub) (hs : Nat) : Nat := if h.migrating hs then 1 else (h.slice hs).role.code

/-- `HUB_SLICE_HEALTH_n`. -/
def Hub.healthWord (h : Hub) (hs : Nat) : Word :=
  let s := h.slice hs
  fld 58 (h.healthLs hs) ||| fld 56 (h.healthRole hs) ||| fld 48 (min 255 s.sweeps.length) ||| fld 39 (min 256 s.wb.length)
    ||| fld 31 (min 192 s.txns.length) ||| fld 26 (popcount16 s.wayDis) ||| bitAt 25 s.walk.isSome ||| bitAt 24 (h.migrating hs)

/-- The codes of `LINK`. -/
def Link.code : Link → Nat
  | .down => 0 | .training => 1 | .online => 2 | .replaying => 3

/-- A port domain is asleep: powered down and not yet serving again. -/
def Hub.asleep (h : Hub) (d : Domain) : Bool :=
  match h.power.doms.look (domKey d) with
  | some .asleep | some (.waking _ _) => true
  | _ => false

/-- The agent ports, memory ports and span ports by number. -/
def apDom (n : Nat) : Domain := .ap (BitVec.ofNat 4 n)
/-- A memory port's domain. -/
def mpDom (n : Nat) : Domain := .mp (BitVec.ofNat 3 n)
/-- A span port's domain. -/
def spDom (n : Nat) : Domain := .sp (BitVec.ofNat 3 n)

/-- `AP_STATUS_n`. -/
def Hub.apWord (h : Hub) (n : Nat) : Word :=
  let a := h.ap (BitVec.ofNat 4 n)
  fld 10 ((h.agents.filter fun e => e.2.online && e.2.port.toNat == n).length % 64) ||| fld 8 a.link.code
    ||| bitAt 7 (h.asleep (apDom n)) ||| bitAt 6 a.parked ||| bitAt 5 (a.trained && a.rate16)

/-- A pause of a channel is announced or in force. -/
def Hub.pauseShown (h : Hub) (c : Nat) : Bool := (h.chan c).announced.any fun p => decide (h.round ≤ p.2)

/-- `MP_STATUS_n`. -/
def Hub.mpWord (h : Hub) (n : Nat) : Word :=
  let lo := 2 * n
  let hi := 2 * n + 1
  bitAt 15 (h.pauseShown hi) ||| bitAt 14 (h.pauseShown lo) ||| bitAt 13 (h.chan hi).down ||| bitAt 12 (h.chan lo).down
    ||| bitAt 11 (h.chan hi).pressure ||| bitAt 10 (h.chan lo).pressure ||| fld 8 (h.mp n).link.code ||| bitAt 7 (h.asleep (mpDom n))

/-- `SPAN_STATUS_n`. -/
def Hub.spWord (h : Hub) (n : Nat) : Word :=
  let s := h.sp (BitVec.ofNat 3 n)
  fld 23 s.peer.toNat ||| fld 21 s.link.code ||| bitAt 20 s.half ||| bitAt 19 s.kep ||| bitAt 18 (h.asleep (spDom n))

/-! ### Mailboxes (R384), events (R449, R453), counters (R457, R459) -/

/-- `MB_STATUS`: a byte for each mailbox. `STALLED` is a full response ring over waiting commands. -/
def Hub.mbStatusByte (h : Hub) (n : Nat) : Word :=
  let m := h.mbx.getD n Mbx.init
  let p := h.prot.mbx.getD n ⟨0, false, false, 0⟩
  let stalled := (m.rspTail - m.rspHead) == 64 && m.cmdTail != m.cmdHead
  bitAt 7 p.enable ||| fld 5 p.level.toNat ||| bitAt 4 p.path ||| bitAt 3 m.held ||| bitAt 2 stalled ||| bitAt 1 m.busy.isSome

/-- `MB_STATUS`. -/
def Hub.mbStatusWord (h : Hub) : Word := (upTo 8).foldl (fun w n => w ||| (h.mbStatusByte n <<< (8 * n))) 0

/-- `EVT_STATUS_g`, with `AGAIN` in bit 32. -/
def Hub.evStatusWord (h : Hub) (g : Nat) : Word := (h.evStatus g).setWidth 64 ||| bitAt 32 (h.events.again.getLsbD g)

/-- `EVT_SUMMARY`. -/
def Hub.evSummaryWord (h : Hub) : Word := (upTo 32).foldl (fun w g => w ||| bitAt g (h.evStatus g &&& h.evMask g != 0)) 0

/-- `EVT_LOG_SEQ`: the newest and the oldest sequence number retained. -/
def Hub.logSeqWord (h : Hub) : Word :=
  match h.events.log.head?, h.events.log.getLast? with
  | some a, some b => b.seq ++ a.seq
  | _, _ => 0

/-- The words of a sample record (R461). -/
def Sample.at (s : Sample) (k : Nat) : Word := if k = 0 then s.w0 else if k = 1 then s.w1 else if k = 2 then s.w2 else if k = 3 then s.w3 else 0

/-- `PMC_STAT_j` of the selected kind and index (R459). -/
def Hub.statWord (h : Hub) (j : Nat) : Word :=
  let i := (h.pmc.statSel.extractLsb' 0 8).toNat
  let kind := (h.pmc.statSel.extractLsb' 8 8).toNat
  let at_ (t : Tbl (List Nat)) (k : Nat) : Word := BitVec.ofNat 64 (List.nth (t.getD i []) k 0 % 2 ^ 48)
  if kind = 0 then (if i ≤ 95 ∧ j < 8 then at_ h.pmc.latCtl j else 0)
  else if kind = 1 then (if i ≤ 95 ∧ j < 8 then at_ h.pmc.latDat j else 0)
  else if kind = 2 then
    (if 95 < i then 0 else if j < 4 then at_ h.pmc.bytes j else if j < 8 then at_ h.pmc.winLast (j - 4)
      else if j = 8 then BitVec.ofNat 64 (h.pmc.winRound % 2 ^ 48) else 0)
  else if kind = 3 then (if i ≤ 63 ∧ j < 8 then (h.pmc.samples.getD i ⟨0, 0, 0, 0⟩).at j else 0)
  else if kind = 4 then (if i ≤ 5 ∧ j < 12 then at_ h.pmc.spanHist j else 0)
  else if kind = 5 then (if i ≤ 63 ∧ j < 8 then at_ h.pmc.resHist j else 0)
  else 0

/-- The counter that `PMC_WIN_i` shows; banks 12–15 hold none. -/
def Hub.winCtr (h : Hub) (i : Nat) : Nat := h.pmc.bank.toNat * 32 + i

/-! ### Read-only parameters -/

/-- `HC_LOCKED_LINES`: locked ways holding a line, in the slices that serve (R305). -/
def Hub.lockedLines (h : Hub) : Nat :=
  ((upTo 64).map fun ls => ((h.slice (h.hsOf (BitVec.ofNat 6 ls))).hcTag.filter fun e => hcValid e.2 && hcLocked e.2).length).foldl
    (fun a b => a + b) 0

/-- `AP_AGENT_MAP_n`. -/
def Agent.mapWord (a : Agent) : Word :=
  bitAt 15 a.valid ||| bitAt 14 a.online ||| bitAt 13 a.caching ||| bitAt 12 a.device ||| fld 8 a.port.toNat ||| fld 0 a.pos.toNat

/-- `MP_CHAN_INFO_n`. -/
def Chan.infoWord (c : Chan) : Word := c.cap ++ c.bound ++ c.wmHigh ++ c.wmLow ++ c.rdCred ++ c.wrCred

/-- `HUB_ERR_SLICE_n`. -/
def ErrCount.word (e : ErrCount) : Word :=
  fld 60 e.ueCtl ||| fld 56 e.ueHc ||| fld 52 e.ueSd ||| fld 48 e.ueSf ||| fld 36 e.ceCtl ||| fld 24 e.ceHc ||| fld 12 e.ceSd ||| fld 0 e.ceSf

/-- `TEST_ROT_STATE`. -/
def Rot.stateWord (r : Rot) : Word :=
  fld 31 r.pointer ||| fld 24 r.outHs.toNat ||| fld 17 (r.newt.getD 0).toNat ||| fld 11 r.ls.toNat ||| fld 0 r.phase.toNat

/-- `PWR_DOMAIN_STATE`. -/
def Hub.domainWord (h : Hub) : Word :=
  (upTo 30).foldl (fun w n => w ||| bitAt n (match h.power.doms.look n with
    | some .asleep | some (.waking _ _) => true
    | _ => false)) 0

/-- `HUB_START_INFO`; `info` keeps `SUB_HS` and `RETEST_HS` as the start found them. -/
def Hub.startInfoWord (h : Hub) : Word :=
  let s := h.start
  fld 48 h.aon.startNo.toNat ||| fld 40 s.step.toNat ||| fld 38 s.kind.toNat ||| bitAt 37 s.image ||| bitAt 36 s.imageAlt
    ||| fld 34 s.gen.toNat ||| bitAt 33 s.genValid ||| bitAt 32 s.masterKept ||| (s.info &&& 0xFFFC0000#64)
    ||| fld 10 (min 255 s.undrained) ||| bitAt 9 h.aon.pref

/-- `MESH_EPOCH_STATE` (R328): the epoch in force, a table loaded and not yet flipped to, and an old epoch that still drains. -/
def Hub.epochWord (h : Hub) : Word :=
  bitAt 2 h.epoch.draining ||| bitAt 1 h.epoch.loaded.isSome ||| bitAt 0 h.epoch.epoch

/-- A read-only parameter (R12): computed from the state as its field map gives. -/
def Hub.roParam (h : Hub) (otp : Otp) (pid : Nat) : Word :=
  if pid = 0x42 then BitVec.ofNat 64 h.spanResBound
  else if within pid 0x48 0x4F then BitVec.ofNat 64 (h.bound (pid - 0x48) + 2)
  else if pid = 0xD1 then
    BitVec.ofNat 64 (h.slices.foldl (fun n e => n + (e.2.rsv.filter fun x => x.gaid.hub != h.num).length) 0)
  else if pid = 0x181 then 15
  else if within pid 0x690 0x70F then (h.agents.getD (pid - 0x690) Agent.init).mapWord
  else if within pid 0x7B0 0x7BF then (h.chan (pid - 0x7B0)).infoWord
  else if pid = 0x802 then BitVec.ofNat 64 h.lockedLines
  else if within pid 0x810 0x850 then fld 16 (h.slice (pid - 0x810)).wayMark.toNat ||| fld 0 (h.slice (pid - 0x810)).wayDis.toNat
  else if pid = 0x883 then h.epochWord
  else if within pid 0x910 0x950 then (h.slice (pid - 0x910)).errs.word
  else if pid = 0x981 then fld 0 h.rot.level.toNat
  else if pid = 0x983 then h.rot.record ||| bitAt 0 h.rot.noNewt
  else if pid = 0x984 then h.rot.stateWord
  else if within pid 0x990 0x9D0 then h.rot.results.getD (pid - 0x990) 0
  else if pid = 0xA01 then otp.vendor.setWidth 64
  else if pid = 0xA02 then h.core.commitCount.setWidth 64
  else if pid = 0xA85 then h.domainWord
  else if pid = 0xB00 then h.startInfoWord
  else if pid = 0xB01 then otp.except.setWidth 64
  else if pid = 0xB02 then (otp.except >>> 64).setWidth 64
  else 0

/-- The read-only bits inside a writable parameter. -/
def Hub.roBits (h : Hub) (pid : Nat) : Word :=
  if within pid 0x188 0x18D then bitAt 4 (h.sp (BitVec.ofNat 3 (pid - 0x188))).half
  else if within pid 0x680 0x68F then
    let a := h.ap (BitVec.ofNat 4 (pid - 0x680))
    bitAt 5 (a.trained && a.rate16) ||| bitAt 4 a.online
  else if within pid 0x7A0 0x7A7 then
    let n := pid - 0x7A0
    bitAt 7 (h.chan (2 * n + 1)).down ||| bitAt 6 (h.chan (2 * n)).down ||| bitAt 4 (h.mp n).online
  else 0

/-- The value of a parameter as a read shows it in this round (R478): computed, or the value in force. -/
def Hub.paramValue (h : Hub) (otp : Otp) (pid : Nat) : Word :=
  match Param.access pid with
  | .rw => (h.pw pid &&& ~~~(Param.roBits pid)) ||| h.roBits pid
  | .ro | .rc => h.roParam otp pid
  | .rsvd => 0

end Sys2Proof.Machine
end

