-- ==== Sys2Proof/Machine/Window.lean ====
section
/-!
DEFINITION. The register window (R465–R470): reads, the access check of R385 and R468, and the writes of R382, R449, R455 and R457.
-/
namespace Sys2Proof.Machine

/-! ### The directory (R470) -/

/-- Offsets governed by R385: index registers and rings of the mailboxes. -/
def isMbOff (off : Nat) : Bool := within off 0x400 0x4FF || within off 0x4000 0xFFFF

/-- The mailbox that such an offset belongs to. -/
def mbOfOff (off : Nat) : BitVec 3 :=
  if off < 0x500 then BitVec.ofNat 3 ((off - 0x400) / 0x20)
  else if off < 0xC000 then BitVec.ofNat 3 ((off - 0x4000) / 0x1000)
  else BitVec.ofNat 3 ((off - 0xC000) / 0x800)

/-- The index registers of a mailbox. -/
inductive MbReg where
  | cmdTail | cmdHead | rspTail | rspHead
  deriving DecidableEq, Repr

/-- The registers of the window. -/
inductive Reg where
  | version | dieId | lot | round | state | tj | fatalSrc | fatalRound | attest (k : Nat) | sliceMap (j : Nat) | mb (n : BitVec 3) (r : MbReg)
  | mbStatus | health (n : Nat) | ap (n : Nat) | mp (n : Nat) | sp (n : Nat) | evStatus (g : Nat) | evMask (g : Nat) | evSummary
  | logSeq | pmcCtl | bankSel | statSel | win (i : Nat) | stat (j : Nat) | ring
  deriving DecidableEq, Repr

/-- The register at an aligned offset; none where the directory lists none. -/
def regAt (off : Nat) : Option Reg :=
  let idx (base : Nat) : Nat := (off - base) / 8
  if off = 0x00 then some .version else if off = 0x08 then some .dieId else if off = 0x10 then some .lot
  else if off = 0x18 then some .round else if off = 0x20 then some .state else if off = 0x28 then some .tj
  else if off = 0x30 then some .fatalSrc else if off = 0x38 then some .fatalRound
  else if within off 0x40 0x70 then some (.attest (idx 0x40))
  else if within off 0x100 0x138 then some (.sliceMap (idx 0x100))
  else if within off 0x400 0x4F8 then
    some (.mb (mbOfOff off) (if off / 8 % 4 = 0 then .cmdTail else if off / 8 % 4 = 1 then .cmdHead else if off / 8 % 4 = 2 then .rspTail
      else .rspHead))
  else if off = 0x500 then some .mbStatus
  else if within off 0x600 0x800 then some (.health (idx 0x600))
  else if within off 0x900 0x978 then some (.ap (idx 0x900))
  else if within off 0x980 0x9B8 then some (.mp (idx 0x980))
  else if within off 0x9C0 0x9E8 then some (.sp (idx 0x9C0))
  else if within off 0x1000 0x10F8 then some (.evStatus (idx 0x1000))
  else if within off 0x1100 0x11F8 then some (.evMask (idx 0x1100))
  else if off = 0x1200 then some .evSummary else if off = 0x1208 then some .logSeq
  else if off = 0x2000 then some .pmcCtl else if off = 0x2008 then some .bankSel else if off = 0x2010 then some .statSel
  else if within off 0x2100 0x21F8 then some (.win (idx 0x2100))
  else if within off 0x2200 0x2278 then some (.stat (idx 0x2200))
  else if within off 0x4000 0xFFF8 then some .ring
  else none

/-- The reserved bits of a register's field map (R13). -/
def Reg.reserved : Reg → Word
  | .lot => 0x070000FF
  | .state => 0xFF007F00FFFF00FE
  | .tj => 0xFFFFFFFF00000000
  | .fatalSrc => 0x00003FFF0000FFFE
  | .attest k => if k = 6 then 0xFFFFFFFFFFFFFF00 else 0
  | .sliceMap _ => 0xFF00000000000000
  | .mb _ _ => 0xFFFFFFFFFFFFFF80
  | .mbStatus => 0x0101010101010101
  | .health _ => 0xFFFFFF
  | .ap _ => 0xFFFFFFFFFFFF001F
  | .mp _ => 0xFFFFFFFFFFFF007F
  | .sp _ => 0xFFFFFFFF0003FFFF
  | .evStatus _ => 0xFFFFFFFE00000000
  | .evMask _ | .evSummary => 0xFFFFFFFF00000000
  | .pmcCtl => 0xFFFFFFFFFFFFFFF8
  | .bankSel => 0xFFFFFFFFFFFFFFF0
  | .statSel => 0xFFFFFFFFFFFF0000
  | .win _ | .stat _ => 0xFFFF000000000000
  | _ => 0

/-! ### Reads -/

/-- The word of a register. -/
def Hub.regWord (h : Hub) (otp : Otp) (ring : Memory) (off : Nat) : Reg → Word
  | .version => h.versionWord
  | .dieId => otp.dieId
  | .lot => otp.lot
  | .round => BitVec.ofNat 64 h.round
  | .state => h.stateWord otp
  | .tj => h.tjWord
  | .fatalSrc => h.fatalWord
  | .fatalRound => if h.aon.fatal.valid then BitVec.ofNat 64 h.aon.fatal.round else 0
  | .attest k => otp.attestWord k
  | .sliceMap j => h.mapWord j
  | .mb n .cmdTail => (h.mb n).cmdTail.setWidth 64
  | .mb n .cmdHead => (h.mb n).cmdHead.setWidth 64
  | .mb n .rspTail => (h.mb n).rspTail.setWidth 64
  | .mb n .rspHead => (h.mb n).rspHead.setWidth 64
  | .mbStatus => h.mbStatusWord
  | .health n => h.healthWord n
  | .ap n => h.apWord n
  | .mp n => h.mpWord n
  | .sp n => h.spWord n
  | .evStatus g => h.evStatusWord g
  | .evMask g => (h.evMask g).setWidth 64
  | .evSummary => h.evSummaryWord
  | .logSeq => h.logSeqWord
  | .pmcCtl => bitAt 1 h.pmc.freeze
  | .bankSel => h.pmc.bank.setWidth 64
  | .statSel => h.pmc.statSel.setWidth 64
  | .win i => (h.pmc.ctrs.getD (h.winCtr i) 0).setWidth 64
  | .stat j => h.statWord j
  | .ring => ring.word off

/-- A local agent that owns an in-band mailbox (R385). -/
def Hub.owns (h : Hub) (g : Gaid) (n : BitVec 3) : Bool :=
  g.hub == h.num && !(h.priv n).path && (h.priv n).owners.getLsbD g.la.toNat

/-- Who may read an offset (R385, R468). -/
def Hub.mayRead (h : Hub) (g : Gaid) (off : Nat) : Bool :=
  if off < 0x80 then true else if isMbOff off then h.owns g (mbOfOff off) else g.hub == h.num

/-- Who may write an offset (R385, R468). -/
def Hub.mayWrite (h : Hub) (g : Gaid) (off : Nat) : Bool :=
  if off < 0x80 then false
  else if isMbOff off then h.owns g (mbOfOff off)
  else ((upTo 8).map (BitVec.ofNat 3)).any fun n => h.owns g n && (h.priv n).enable && decide (2 ≤ (h.priv n).level.toNat)

/-- A word of the window as a requester reads it (R468, R469). -/
def Hub.readWord (h : Hub) (otp : Otp) (ring : Memory) (g : Gaid) (off : Nat) : Word :=
  if h.mayRead g off then
    match regAt off with
    | some r => h.regWord otp ring off r
    | none => 0
  else 0

/-! ### Writes -/

/-- A write that changes nothing because it sets a reserved bit or names no register (R13, R469). -/
def Hub.reservedWrite (h : Hub) (g : Gaid) (off : Nat) : Hub :=
  h.raise { rz evRegRsvd epDev with addr := (Line.pa (BitVec.ofNat 46 (hubWindowLine + h.num.toNat * 1024))) + BitVec.ofNat 52 off, gaid := some g }

/-- The doorbell of a mailbox (R382): ignored where it would leave more than 64 commands in the ring. -/
def Hub.ringTail (h : Hub) (n : BitVec 3) (v : Word) : Hub :=
  let t : BitVec 7 := v.setWidth 7
  if ringCount t (h.mb n).cmdHead > 64 then h.raise (rz evMbRingError n.toNat) else h.onMb n fun m => { m with cmdTail := t }

/-- The owner frees response slots (R382): ignored where it passes the tail. -/
def Hub.freeSlots (h : Hub) (n : BitVec 3) (v : Word) : Hub :=
  let t : BitVec 7 := v.setWidth 7
  if ringCount t (h.mb n).rspHead > ringCount (h.mb n).rspTail (h.mb n).rspHead then h.raise (rz evMbRingError n.toNat)
  else h.onMb n fun m => { m with rspHead := t }

/-- Clears status bits of a group (R14, R449): a bit that hardware raises in the same cycle stays set, and `AGAIN` is set; what is left
set is delivered again (R451, R452). -/
def Hub.clearStatus (h : Hub) (g : Nat) (v : Word) (raised : BitVec 32) : Hub :=
  let clear : BitVec 32 := v.setWidth 32
  let clash := clear &&& raised
  let agBit : BitVec 32 := 1#32 <<< g
  let again := if clash != 0 then h.events.again ||| agBit
    else if v.getLsbD 32 then h.events.again &&& ~~~agBit
    else h.events.again
  let st := (h.evStatus g &&& ~~~clear) ||| raised
  ({ h with events := { h.events with
      status := h.events.status.set g 0 st
      again := again } }).redeliver g true

/-- Writes the in-band mask of a group (R451). -/
def Hub.putMask (h : Hub) (g : Nat) (v : Word) : Hub :=
  ({ h with events := { h.events with mask := h.events.mask.set g 0 (v.setWidth 32) } }).redeliver g false

/-- Presets the counter that a window position shows (R455, R462): increments of it still on their way in this cycle are discarded. -/
def Hub.preset (h : Hub) (i : Nat) (v : Word) : Hub :=
  if 12 ≤ h.pmc.bank.toNat then h
  else { h with pmc := { h.pmc with ctrs := h.pmc.ctrs.set (h.winCtr i) 0 (v.setWidth 48) } }

/-- Zeroes every histogram and bandwidth count (R457). -/
def Hub.clearStats (h : Hub) : Hub :=
  { h with pmc := { h.pmc with
      latCtl := []
      latDat := []
      bytes := []
      winBase := []
      winLast := []
      spanHist := []
      resHist := [] } }

/-- Zeroes every counter (R457). -/
def Hub.clearCounters (h : Hub) : Hub := { h with pmc := { h.pmc with ctrs := [] } }

/-- Holds or releases all counters (R457). -/
def Hub.setFreeze (h : Hub) (b : Bool) : Hub := { h with pmc := { h.pmc with freeze := b } }

/-- A write to `PMC_CTL`. -/
def Hub.putPmcCtl (h : Hub) (v : Word) : Hub :=
  let h := h.setFreeze (v.getLsbD 1)
  let h := if v.getLsbD 2 then h.clearStats else h
  if v.getLsbD 0 then h.clearCounters else h

/-- A permitted write of a word (R12, R13, R469): a read-only register ignores it. -/
def Hub.writeReg (h : Hub) (g : Gaid) (off : Nat) (v : Word) : Hub :=
  match regAt off with
  | none => h.reservedWrite g off
  | some r =>
    if v &&& r.reserved != 0 then h.reservedWrite g off
    else match r with
      | .mb n .cmdTail => h.ringTail n v
      | .mb n .rspHead => h.freeSlots n v
      | .evStatus k => h.clearStatus k v 0
      | .evMask k => h.putMask k v
      | .pmcCtl => h.putPmcCtl v
      | .bankSel => { h with pmc := { h.pmc with bank := v.setWidth 4 } }
      | .statSel => { h with pmc := { h.pmc with statSel := v.setWidth 16 } }
      | .win i => h.preset i v
      | _ => h

/-- A permitted write of a word to the machine: a command ring takes the word itself. -/
def State.writeWord (s : State) (g : Gaid) (off : Nat) (v : Word) : State :=
  if within off 0x4000 0xBFF8 then { s with ring := s.ring.writeWord off v } else s.withHub fun h => h.writeReg g off v

/-- The instance of a refused window write: the mailbox it was meant for (R495). -/
def deniedInst (off : Nat) : Nat := if isMbOff off then (mbOfOff off).toNat else noInst.toNat

/-- A single window write of a requester, as its row gives it: checked, then applied; a refused one changes nothing (R385, R468). -/
def State.windowWrite (s : State) (g : Gaid) (off : Nat) (f : Hub → Hub) : State :=
  if s.hub.mayWrite g off then s.withHub f else s.withHub fun h => h.raise { rz evMbDenied (deniedInst off) with gaid := some g }

/-! ### The rows of single registers -/

/-- `MB_CMD_TAIL_n` (R382). -/
def execMbCmdTailWrite (gaid : Gaid) (n : BitVec 3) (v : Word) (s : State) : Host.Outcome State Fault Refusal :=
  let off := 0x400 + 0x20 * n.toNat
  .next (s.windowWrite gaid off fun h => h.writeReg gaid off v)

/-- `MB_RSP_HEAD_n` (R382). -/
def execMbRspHeadWrite (gaid : Gaid) (n : BitVec 3) (v : Word) (s : State) : Host.Outcome State Fault Refusal :=
  let off := 0x418 + 0x20 * n.toNat
  .next (s.windowWrite gaid off fun h => h.writeReg gaid off v)

/-- `EVT_STATUS_g` (R14, R449, R451); `raised` are sources that hardware raises in the same cycle. -/
def execEvtStatusWrite (gaid : Gaid) (g : BitVec 5) (v : Word) (raised : BitVec 32) (s : State) : Host.Outcome State Fault Refusal :=
  let off := 0x1000 + 8 * g.toNat
  let bits := (upTo 32).filter fun i => raised.getLsbD i
  let s := s.withHub fun h => bits.foldl (fun h i => h.raise (rz (src g.toNat i) noInst.toNat)) h
  .next (s.windowWrite gaid off fun h =>
    if v &&& Reg.reserved (.evStatus g.toNat) != 0 then h.reservedWrite gaid off else h.clearStatus g.toNat v raised)

/-- `EVT_MASK_g` (R451). -/
def execEvtMaskWrite (gaid : Gaid) (g : BitVec 5) (v : Word) (s : State) : Host.Outcome State Fault Refusal :=
  let off := 0x1100 + 8 * g.toNat
  .next (s.windowWrite gaid off fun h => h.writeReg gaid off v)

/-- `PMC_WIN_i` (R455, R462). -/
def execPmcWinPreset (gaid : Gaid) (i : BitVec 5) (v : Word) (s : State) : Host.Outcome State Fault Refusal :=
  let off := 0x2100 + 8 * i.toNat
  .next (s.windowWrite gaid off fun h => h.writeReg gaid off v)

/-- `STAT_CLR` of `PMC_CTL` (R457). -/
def execStatClr (gaid : Gaid) (s : State) : Host.Outcome State Fault Refusal :=
  .next (s.windowWrite gaid 0x2000 fun h => h.clearStats)

/-- `FREEZE` of `PMC_CTL` (R457). -/
def execFreeze (gaid : Gaid) (v : Bool) (s : State) : Host.Outcome State Fault Refusal :=
  .next (s.windowWrite gaid 0x2000 fun h => h.setFreeze v)

/-- `RESET` of `PMC_CTL` (R457). -/
def execPmcReset (gaid : Gaid) (s : State) : Host.Outcome State Fault Refusal :=
  .next (s.windowWrite gaid 0x2000 fun h => h.clearCounters)

/-- A write to a window register without a row of its own (R13, R468, R469). -/
def execRegisterWrite (gaid : Gaid) (off : BitVec 16) (v : Word) (s : State) : Host.Outcome State Fault Refusal :=
  let o := off.toNat / 8 * 8
  if s.hub.mayWrite gaid o then .next (s.writeWord gaid o v)
  else .next (s.withHub fun h => h.raise { rz evMbDenied (deniedInst o) with gaid := some gaid })

end Sys2Proof.Machine
end

