-- ==== Sys2Proof/Machine/Device.lean ====
section
/-!
DEFINITION. Device requests and fences (R168, R181–R186, R253, R394, R467): at the edge router, at the device-region unit, at the
register window, and their answers.
-/
namespace Sys2Proof.Machine

/-! ### Arrival -/

/-- The edge router's record of a device request or a fence. -/
def ApPort.noteDev (a : ApPort) (f : Flit) : ApPort :=
  { a with outst := a.outst ++ [⟨f.gaid.la, f.gaid, f.txid, f.line, false, none, false⟩] }

/-- A device request as the unit holds it. -/
def devReq (f : Flit) (region : Nat) (target : La) (d : Option WrData) (be : ByteMask) (span : Option HubNo) : DevReq :=
  { dtx := 0, gaid := f.gaid, txid := f.txid, line := f.line, region := region, target := target, write := d.isSome,
    bytes := (d.map fun x => x.bytes).getD 0, be := (d.map fun x => x.mask).getD be,
    pois := if (d.map fun x => x.poison).getD false then allBytes else 0, early := false, acked := false, irq := false, span := span,
    posted := false, sent := none, rsp := none, got := none }

/-- Ends a request that the unit does not take up: at an agent of this hub, or at another hub. A refused read brings no data, and one
that is lost brings a poisoned line (R167, R182). -/
def Hub.devRefuse (h : Hub) (r : DevReq) (outcome : BitVec 2) : Hub :=
  let r := { r with dtx := h.dev.nextTx }
  if outcome = oLost then h.devFinish r outcome none else h.devFinish { r with write := true } outcome none

/-- A request for a device region at the unit (R183, R184, R394): checked against the agent access table, lost where its target is dead,
and queued otherwise; a write enters the posted-write buffer where no earlier write waits for it. -/
def Hub.devArrive (h : Hub) (n : Nat) (r : DevReq) : Hub :=
  let entry := if r.span.isSome then 0xFF else r.gaid.la.toNat
  if !(h.access entry).dev.getLsbD n then (h.raise (rzTx evAccessDenied epDev r.line r.gaid r.txid)).devRefuse r oMalformed
  else if !h.isOnline r.target || (h.agent r.target).dead then h.devRefuse r oLost
  else
    let r := { r with early := h.drtEarly n && r.span.isNone }
    let waits := h.postNext.isSome
    let h := h.devAdd r
    match h.postNext with
    | some x => if r.write && !waits then h.postOne x else h
    | none => h

/-! ### The register window (R467) -/

/-- The words of a line that byte enables name; none where part of a word is enabled. -/
def wholeWords (be : ByteMask) : Option (List Nat) :=
  let words := (upTo 8).filter fun k => be &&& wordMask k != 0
  if words.all fun k => be &&& wordMask k == wordMask k then some words else none

/-- Every word of a window read, sampled in one round; the words not asked for are a free value. -/
def State.windowRead (s : State) (g : Gaid) (l : Line) (be : ByteMask) (words : List Nat) : LineBits :=
  let data := words.foldl (fun (acc : LineBits) k =>
    acc ||| ((s.hub.readWord s.otp s.ring g (windowOffset l + 8 * k)).setWidth 512 <<< (64 * k))) 0
  mergeBytes be data (Config.freeLine s.hub.freeCtr)

/-- The port that a malformed window access is recorded for: none for a request of another hub. -/
def devInst (h : Hub) (r : DevReq) : Nat := if r.span.isSome then noInst.toNat else (h.agent r.gaid.la).port.toNat

/-- A read of the window at this hub. -/
def State.serveRead (s : State) (r : DevReq) : State :=
  match wholeWords r.be with
  | none => s.withHub fun h => (h.raise (rzTx evApMalformed (devInst h r) r.line r.gaid r.txid)).devRefuse r oMalformed
  | some words =>
    let b := s.windowRead r.gaid r.line r.be words
    s.withHub fun h => ({ h with freeCtr := h.freeCtr + 1 }).devFinish { r with dtx := h.dev.nextTx } oDone (some (payload b false false))

/-- A write of the window at this hub: every word or none. -/
def State.serveWrite (s : State) (r : DevReq) : State :=
  match wholeWords r.be with
  | none => s.withHub fun h => (h.raise (rzTx evApMalformed (devInst h r) r.line r.gaid r.txid)).devRefuse r oMalformed
  | some words =>
    let off (k : Nat) : Nat := windowOffset r.line + 8 * k
    match words.find? fun k => !s.hub.mayWrite r.gaid (off k) with
    | some k => s.withHub fun h => (h.raise { rz evMbDenied (deniedInst (off k)) with gaid := some r.gaid }).devRefuse r oMalformed
    | none =>
      (words.foldl (fun s k => s.writeWord r.gaid (off k) (wordOf r.bytes k)) s).withHub fun h => h.devRefuse r oDone

/-- An access to the window at this hub. -/
def State.serveWindow (s : State) (r : DevReq) : State := if r.write then s.serveWrite r else s.serveRead r

/-! ### Requests of this hub's agents -/

/-- A device request for another hub: kept, and sent as `SPAN_DEV_RD` or `SPAN_DEV_WR` (R182, R206); lost where the hub is not to be
reached. -/
def Hub.devRemote (h : Hub) (e : HubNo) (r : DevReq) : Hub :=
  if !h.reachable e then h.devRefuse r oLost
  else
    let k : DevReq := { r with
      dtx := h.dev.nextTx
      region := 64
      target := 0
      sent := some 0
      span := none }
    let h := { h with dev := { h.dev with
      reqs := h.dev.reqs ++ [k]
      nextTx := h.dev.nextTx + 1 } }
    h.toHubWith e (if r.write then 0x0D else 0x0C) (Flit.plain r.gaid r.txid r.line 0)
      (if r.write then some (payload r.bytes false (r.pois != 0)) else none) none r.be

/-- A device request at its edge router (R168, R256). -/
def State.device (s : State) (p : BitVec 4) (f : Flit) (d : Option WrData) (be : ByteMask) : State :=
  let h := s.hub
  let a := h.agent f.gaid.la
  let r := devReq f 0 0 d be none
  let sound := (d.map fun x => x.sound).getD true
  if h.start.phase != .serving then s
  else if f.gaid.hub != h.num || !a.valid || a.port != p || a.dead || !a.online then s.withHub fun h => h.fromGaid p f id
  else if (h.ap p).txidBusy f || !sound then s.withHub fun h => (h.malformedAt p f).malformedCmp p f
  else
    let s := s.withHub fun h => (h.onAp p fun x => x.noteDev f).moved (epAp p.toNat) epDev d.isSome (if d.isSome then 64 else 16)
    match h.classify f.line with
    | .window x => if x = h.num then s.serveWindow r else s.withHub fun h => h.devRemote x r
    | .device n => s.withHub fun h => h.devArrive n { r with
        region := n
        target := h.drtTarget n }
    | .remote e => s.withHub fun h => h.devRemote e r
    | .home _ => s.withHub fun h => (h.raise (rzTx evApRegionMismatch p.toNat f.line f.gaid f.txid)).devRefuse r oMalformed
    | .unmapped => s.withHub fun h => (h.raise (rzTx evApUnmapped p.toNat f.line f.gaid f.txid)).devRefuse r oMalformed

/-- `DEV_RD` (R168, R184, R467). -/
def execDevRd (p : BitVec 4) (f : Flit) (be : ByteMask) (s : State) : Host.Outcome State Fault Refusal :=
  .next (s.device p f none be)

/-- `DEV_WR` (R166, R168, R183, R467). -/
def execDevWr (p : BitVec 4) (f : Flit) (d : WrData) (s : State) : Host.Outcome State Fault Refusal :=
  .next (s.device p f (some d) 0)

/-- `FENCE_SWEEP` (R185): the fence waits for its agent's early-acknowledged writes; one that was dropped makes it `O_LOST`. -/
def execFenceSweep (p : BitVec 4) (f : Flit) (s : State) : Host.Outcome State Fault Refusal :=
  .next (s.withHub fun h =>
    if h.start.phase != .serving then h
    else h.fromGaid p f fun h =>
      if (h.ap p).txidBusy f then (h.malformedAt p f).malformedCmp p f
      else
        let h := (h.onAp p fun x => x.noteDev f).moved (epAp p.toNat) epDev false 16
        let wait := (h.dev.reqs.filter fun r => r.gaid == f.gaid && r.acked && !r.irq).map fun r => r.dtx
        let lost := h.dev.dropped.contains f.gaid
        let fe : Fence := ⟨f.gaid, f.txid, f.line, wait, lost⟩
        ({ h with dev := { h.dev with
          fences := h.dev.fences ++ [fe]
          dropped := h.dev.dropped.filter fun g => g != f.gaid } }).settleFences)

/-! ### Answers (R186, R253) -/

/-- `DEV_TARGET_ANSWER` (R253): a device agent's `CMP`, with data for a read. -/
def execDevTargetAnswer (p : BitVec 4) (la : La) (txid : Txid) (outcome : BitVec 2) (d : Payload) (s : State) :
    Host.Outcome State Fault Refusal :=
  .next (s.withHub fun h =>
    let f := Flit.plain (Gaid.mk h.num la) txid 0 0
    h.fromAgent p la f fun h =>
      match h.dev.reqs.find? fun r => r.dtx == txid && r.target == la && r.sent.isSome && r.region != 64 with
      | none => h.raise (rzTx evApStrayRsp p.toNat 0 (Gaid.mk h.num la) txid)
      | some r =>
        if !r.write && !d.sound then h.malformedAt p f
        else
          let h := h.moved (epAp p.toNat) epDev (!r.write) (if r.write then 16 else 64)
          (h.devFinish r outcome (if r.write then none else some d)).devPump)

/-- `DEV_TIMEOUT` (R186): a target has not answered within `HUB_DEV_TIMEOUT` rounds of the request's sending. -/
def execDevTimeout (txid : Txid) (s : State) : Host.Outcome State Fault Refusal :=
  .next (s.withHub fun h =>
    let due (r : DevReq) : Bool := match r.sent with
      | some n => decide (n ≤ h.round)
      | none => false
    match h.dev.reqs.find? fun r => r.dtx == txid && r.region != 64 && due r with
    | none => h
    | some r => (h.raise { rzTx evDevTimeout epDev r.line r.gaid r.txid with value := r.target.setWidth 64 }).devDrop r)

/-- `POSTED_WRITE_ENTRY` (R183): the oldest waiting write enters the posted-write buffer when room has freed. -/
def execPostedWriteEntry (s : State) : Host.Outcome State Fault Refusal :=
  .next (s.withHub fun h =>
    match h.postNext with
    | some r => h.postOne r
    | none => h)

end Sys2Proof.Machine
end

