-- ==== Sys2Proof/Machine/Scrub.lean ====
section
/-!
DEFINITION. Scrub reads and their outcomes (R333, R339–R341), and a pass that is late.
-/
namespace Sys2Proof.Machine

/-! ### Slice arrays -/

/-- A slice's share of the background port is taken while a reclaim walk runs (R147, R339). -/
def Hub.scrubFree (h : Hub) (hs : Nat) : Bool := (h.slice hs).walk.isNone

/-- The scrub reads a snoop-filter way (R333, R340); an uncorrectable word's tag is read with the bits of `flip` inverted. -/
def Hub.scrubSf (h : Hub) (hs : Nat) (set : BitVec 14) (way : Nat) (flip : BitVec 32) (e : Err) : Hub :=
  let s := h.slice hs
  match s.viewAt set way, e with
  | _, .uncorrectable => h.markDeg hs set way (sfWordTag (s.sfAt set way) ^^^ flip)
  | none, _ => h.markDeg hs set way (sfWordTag (s.sfAt set way))
  | some v, _ =>
    let h := h.corrected hs .sf (if e = .corrected then 1 else 0)
    match v with
    | .deg _ => h.onSlice hs fun s => s.queueSweep false set way
    | _ => h

/-- The entries of a span directory set join the shadow counters when the scrub has read the set (R340). -/
def Slice.passSet (s : Slice) (set : BitVec 12) : Slice :=
  if set.toNat = s.scrub.sdPos then
    let words := ((upTo 8).map fun w => s.sdAt set w).filter fun w => w != 0
    let add (t : Tbl Nat) (w : Word) : Tbl Nat :=
      let k := (sdLine (sdWordTag w) set).presence.toNat
      t.put k (t.getD k 0 + 1)
    { s with scrub := { s.scrub with
        sdPos := s.scrub.sdPos + 1
        shadow := words.foldl add s.scrub.shadow } }
  else s

/-- The scrub reads a span directory way. -/
def Hub.scrubSd (h : Hub) (hs : Nat) (set : BitVec 12) (way : Nat) (flip : BitVec 34) (e : Err) : Hub :=
  let s := h.slice hs
  let h := match HView.ofWord (s.sdAt set way), e with
    | _, .uncorrectable => h.markHubDeg hs set way (sdWordTag (s.sdAt set way) ^^^ flip)
    | none, _ => h.markHubDeg hs set way (sdWordTag (s.sdAt set way))
    | some v, _ =>
      let h := h.corrected hs .sd (if e = .corrected then 1 else 0)
      if v = .deg then h.onSlice hs fun s => s.queueSweep true (set.setWidth 14) way else h
  if way = 7 then h.onSlice hs fun s => s.passSet set else h

/-- The scrub reads a hub-cache tag or data word; a malformed tag word counts as uncorrectable (R288). -/
def Hub.scrubHc (h : Hub) (hs : Nat) (set : BitVec 10) (way : Nat) (e : Err) : Hub :=
  match e with
  | .uncorrectable => h.hcUncorrectable hs set way
  | _ =>
    if hcMalformed ((h.slice hs).hcAt set way) way then h.hcUncorrectable hs set way
    else if e = .corrected then (h.corrected hs .hc 1).wayCorrected hs way else h

/-- The scrub reads a slice's control state: an uncorrectable word is fatal. -/
def Hub.scrubControl (h : Hub) (hs : Nat) (e : Err) : Hub :=
  match e with
  | .clean => h
  | .corrected => h.corrected hs .ctl 1
  | .uncorrectable =>
    (h.onSlice hs fun s => { s with errs := { s.errs with ueCtl := satAdd 15 s.errs.ueCtl 1 } }).fatal evHubFatal (BitVec.ofNat 8 hs) 0

/-- The end of a slice's pass: a presence counter at 15 takes its shadow's value where that is below 15, and the next pass begins
(R339, R340). -/
def Hub.endPass (h : Hub) (hs : Nat) : Hub :=
  let due := h.round + 250000 * h.p 0x901
  let settle (s : Slice) (t : Tbl Nat) (e : Nat × Nat) : Tbl Nat :=
    if e.2 = 15 && s.scrub.shadow.getD e.1 0 < 15 then t.set e.1 0 (s.scrub.shadow.getD e.1 0) else t
  if (h.slice hs).scrub.sdPos = 4096 then
    h.onSlice hs fun s => { s with
      presence := s.presence.foldl (settle s) s.presence
      scrub := ⟨due, 0, [], false⟩ }
  else h

/-! ### Byte stores -/

/-- A byte of a buffered line is met upset. -/
def WbLine.meet (x : WbLine) (u : ByteUpset) : WbLine :=
  let r := applyUpsets x.bytes x.pois [u]
  { x with
    bytes := r.1
    pois := r.2.1 }

/-- The event and the count of a byte that its decoder corrected or could not (R332, R333). -/
def Hub.byteMet (h : Hub) (bytes : LineBits) (pois : ByteMask) (u : ByteUpset) (r : Raise) (hs : Option Nat) : Hub :=
  match meetUpset bytes pois u with
  | .corrected _ => match hs with
    | some n => h.stormCount n 1
    | none => h.count 0x060 0x7F 1
  | .uncorrectable => h.raise r
  | _ => h

/-- The scrub reads a byte of a write buffer, of the spill store, of a staged write or of the posted-write buffer. -/
def Hub.scrubWb (h : Hub) (x : WbLine) (u : ByteUpset) (inst : Nat) (hs : Option Nat) : Hub :=
  let mine (y : WbLine) : Bool := y.line == x.line
  let h := match hs with
    | some n => h.onSlice n fun s => { s with wb := List.mapIf mine (fun y => y.meet u) s.wb }
    | none => { h with spill := List.mapIf mine (fun y => y.meet u) h.spill }
  h.byteMet x.bytes x.pois u (rzLine evHubDataUe inst x.line) hs

/-- The same for a staged write. -/
def Hub.scrubStaged (h : Hub) (p : BitVec 4) (d : Staged) (u : ByteUpset) : Hub :=
  let r := applyUpsets d.bytes d.pois [u]
  let mine (x : Staged) : Bool := x.gaid == d.gaid && x.txid == d.txid
  let h := h.onAp p fun a => { a with staged := List.mapIf mine (fun x => { x with bytes := r.1, pois := r.2.1 }) a.staged }
  h.byteMet d.bytes d.pois u (rzTx evHubDataUe (epAp p.toNat) d.line d.gaid d.txid) none

/-- The same for a posted write. -/
def Hub.scrubPosted (h : Hub) (r : DevReq) (u : ByteUpset) : Hub :=
  let k := applyUpsets r.bytes r.pois [u]
  let h := { h with dev := { h.dev with
    reqs := List.mapIf (fun x => x.dtx == r.dtx) (fun x => { x with bytes := k.1, pois := k.2.1 }) h.dev.reqs } }
  h.byteMet r.bytes r.pois u (rzTx evHubDataUe epDev r.line r.gaid r.txid) none

/-! ### Tables and other state -/

/-- A word of a table outside the slices is corrected. -/
def Hub.otherCorrected (h : Hub) (e : Err) : Hub := if e = .corrected then h.count 0x060 0x7F 1 else h

/-- A record of the start ledger is lost (R333): a repair record with its eight repairs, or an outcome record. -/
def Aon.loseRecord (a : Aon) (n : Nat) : Aon :=
  if n < 32 then { a with repairs := a.repairs.filter fun e => e.1 / 8 != n } else { a with outcomes := a.outcomes.drop (n - 32) }

/-- A scrub read of each kind of place (R339). -/
def Hub.scrub (h : Hub) (t : ScrubTarget) (e : Err) : Hub :=
  match t with
  | .sf hs set way flip => if h.scrubFree hs.toNat then h.scrubSf hs.toNat set way.toNat flip e else h
  | .sd hs set way flip => if h.scrubFree hs.toNat then h.scrubSd hs.toNat set way.toNat flip e else h
  | .hcTag hs set way => if h.scrubFree hs.toNat then h.scrubHc hs.toNat set way.toNat e else h
  | .hcData hs set way =>
    if h.scrubFree hs.toNat && hcValid ((h.slice hs.toNat).hcAt set way.toNat) then h.scrubHc hs.toNat set way.toNat e else h
  | .control hs => if h.scrubFree hs.toNat then h.scrubControl hs.toNat e else h
  | .passEnd hs => h.endPass hs.toNat
  | .wbufByte hs line u =>
    match (h.slice hs.toNat).wbOf line with
    | some x => h.scrubWb x u hs.toNat (some hs.toNat)
    | none => h
  | .spillByte line u =>
    match h.spill.find? fun x => x.line == line with
    | some x => h.scrubWb x u epSpill none
    | none => h
  | .stagedByte p g x u =>
    match (h.ap p).staged.find? fun d => d.gaid == g && d.txid == x with
    | some d => h.scrubStaged p d u
    | none => h
  | .postedByte idx u =>
    match (h.dev.reqs.filter fun r => r.posted)[idx.toNat]? with
    | some r => h.scrubPosted r u
    | none => h
  | .configWord stop pid found =>
    if e = .uncorrectable || found != h.pw pid.toNat then h.raise (rz evHubCfgRefresh stop.toNat) else h.otherCorrected e
  | .stopState stop => if e = .uncorrectable then h.fatal evHubFatal (stop.setWidth 8) 0 else h.otherCorrected e
  | .uluhivaSram => if e = .uncorrectable then h.lockstep else h.otherCorrected e
  | .ledger n =>
    if e = .uncorrectable then
      let h := { h with aon := h.aon.loseRecord n.toNat }
      (if n.toNat < 32 then h.writeMirror else h).raise (rz evHubLedgerUe epCore)
    else h.otherCorrected e

/-- `SCRUB_READ` (R339). -/
def execScrubRead (t : ScrubTarget) (e : Err) (s : State) : Host.Outcome State Fault Refusal :=
  onUnit t.wf (s.withHub fun h => h.scrub t e)

/-- `SCRUB_PASS_LATE` (R339): a slice's pass that has outrun its deadline raises the event once and goes on; of another stop, whose
pass the model does not follow, the command says so itself. -/
def execScrubPassLate (stop : BitVec 7) (s : State) : Host.Outcome State Fault Refusal :=
  onUnit (stopExists stop) (s.withHub fun h =>
    if hsExists stop then
      let k := (h.slice stop.toNat).scrub
      if k.late || h.round < k.due then h
      else (h.onSlice stop.toNat fun s => { s with scrub := { s.scrub with late := true } }).raise (rz evHubScrubLate stop.toNat)
    else h.raise (rz evHubScrubLate stop.toNat))

end Sys2Proof.Machine
end

