-- ==== Sys2Proof/Machine/Governor.lean ====
section
/-!
DEFINITION. The current-step governor (R409, R410): the changes that it has placed, the sum of a window, and the placing of die steps
and of domain wakes (R413, R414).
-/
namespace Sys2Proof.Machine

/-- The sum of |ΔI| of the changes of a kind that touch the window of 250 rounds that starts at `s`, in 0.25 A. -/
def winSum (cs : List Change) (hub : Bool) (s : Nat) : Nat :=
  cs.foldl (fun n c => if c.hub = hub && decide (s ≤ c.last) && decide (c.first ≤ s + 249) then n + c.di else n) 0

/-- A change of `di` may run from `t` for `len` rounds under a limit: every window that touches it stays within. The sum rises only
where a window comes to touch a later change, so those windows and the first one suffice. -/
def placeable (cs : List Change) (hub : Bool) (limit di len t : Nat) : Bool :=
  let starts := (t - 249) :: (cs.filter fun c => c.hub = hub).map fun c => c.first - 249
  (starts.filter fun s => decide (t - 249 ≤ s) && decide (s ≤ t + len - 1)).all fun s => decide (winSum cs hub s + di ≤ limit)

/-- The earliest round from `t0` at which a change may run (R410): `t0`, or a round at which a window frees. -/
def placeRound (cs : List Change) (hub : Bool) (limit di len t0 : Nat) : Option Nat :=
  let frees := ((cs.filter fun c => c.hub = hub).map fun c => c.last + 250).filter fun t => decide (t0 < t)
  (t0 :: List.sorted (fun a b => decide (a < b)) frees).find? fun t => placeable cs hub limit di len t

/-- The limit for die steps: L minus the reserve, in 0.25 A (R409). -/
def Hub.stepLimit (h : Hub) : Nat := 4 * (h.p 0xA81 - h.p 0xA82)
/-- The reserve for the hub's own domains, in 0.25 A. -/
def Hub.wakeLimit (h : Hub) : Nat := 4 * h.p 0xA82

/-- Places a change. -/
def Hub.addChange (h : Hub) (di first len : Nat) (hub : Bool) : Hub :=
  let c : Change := ⟨di, first, first + len - 1, hub⟩
  { h with power := { h.power with changes := h.power.changes ++ [c] } }

/-- Changes that no later window touches are forgotten. -/
def Hub.pruneChanges (h : Hub) : Hub :=
  { h with power := { h.power with changes := h.power.changes.filter fun c => decide (h.round ≤ c.last + 249) } }

/-- The current of a port domain's switching: 2.0 A, of a span port 3.0 A, in 0.25 A (R409). -/
def domCurrent : Domain → Nat
  | .sp _ => 12
  | _ => 8

/-- The rounds from the first closing round to the service round (R413). -/
def domWake : Domain → Nat
  | .sp _ => 3020
  | _ => 770

/-- The domain kept under a number. -/
def domOf (k : Nat) : Domain :=
  if k < 16 then .ap (BitVec.ofNat 4 k) else if k < 24 then .mp (BitVec.ofNat 3 (k - 16)) else .sp (BitVec.ofNat 3 (k - 24))

/-- The state of a port domain. -/
def Hub.dom (h : Hub) (d : Domain) : DomState := (h.power.doms.look (domKey d)).getD .awake

/-- Sets the state of a port domain. -/
def Hub.setDom (h : Hub) (d : Domain) (s : DomState) : Hub :=
  { h with power := { h.power with doms := h.power.doms.set (domKey d) .awake s } }

/-- A domain's wake is no longer asked for. -/
def Hub.wakeServed (h : Hub) (d : Domain) : Hub :=
  { h with power := { h.power with wakeBufs := h.power.wakeBufs.change (domKey d) fun w => { w with asked := false } } }

/-- Places the wake of a domain that is powered down (R413, R414): its first closing round under the reserve, its service round, and a
memory port's notice to every slice. -/
def Hub.placeWake (h : Hub) (d : Domain) : Hub :=
  match h.dom d with
  | .asleep =>
    match placeRound h.power.changes true h.wakeLimit (domCurrent d) 512 (h.round + 1) with
    | none => h
    | some t =>
      let serve := t + domWake d
      let h := (((h.addChange (domCurrent d) t 512 true).setDom d (.waking t serve)).wakeServed d)
      match d with
      | .mp n => h.notify (.wake n serve)
      | _ => h
  | _ => h

/-- Places every wake that is asked for (R319, R414). -/
def Hub.placeWakes (h : Hub) : Hub :=
  (h.power.wakeBufs.filter fun e => e.2.asked).foldl (fun h e => h.placeWake (domOf e.1)) h

end Sys2Proof.Machine
end

