-- ==== Sys2Proof/Machine/Power.lean ====
section
/-!
DEFINITION. The power manager (R406–R418): core dies and their grants, the cap loop, port domains, rails, `VDD_CORE` and temperature.
-/
namespace Sys2Proof.Machine

/-- A port in use (R24): enabled, and for an agent or memory port not left unused by its checks or its bring-up. -/
def Hub.domUsed (h : Hub) (d : Domain) : Bool :=
  match d with
  | .ap p => h.apUsed p
  | .mp m => h.mpUsed m.toNat
  | .sp n => h.spUsed n

/-! ### Core dies (R406, R407, R410) -/

/-- A core die's record. -/
def Hub.die (h : Hub) (p : BitVec 4) : Die := h.power.dies.getD p.toNat Die.init
/-- Changes a core die's record. -/
def Hub.onDie (h : Hub) (p : BitVec 4) (f : Die → Die) : Hub :=
  { h with power := { h.power with dies := h.power.dies.upd p.toNat Die.init f } }

/-- The declared maximum power of an operating point, in 0.25 W. -/
def Die.pmax (d : Die) (op : Nat) : Nat := (List.nth d.points op (0, 0)).1
/-- The declared maximum current of an operating point, in 0.25 A. -/
def Die.imax (d : Die) (op : Nat) : Nat := (List.nth d.points op (0, 0)).2

/-- The highest operating point up to `top` whose declared power is within a budget; OP0 at least (R408). -/
def Die.opWithin (d : Die) (top budget : Nat) : Nat :=
  (((upTo (top + 1)).filter fun op => decide (d.pmax op ≤ budget)).getLast?).getD 0

/-- The power that the test adds at a BIST level above 1, in 0.25 W (R355, R408). -/
def Hub.testPower (h : Hub) : Nat :=
  let k := h.rot.level.toNat
  if h.rot.testing.isSome && 1 < k then (88 * k) / 10 else 0

/-- The package power (R408). -/
def Hub.pkgPower (h : Hub) : Nat :=
  h.power.hubPower + h.power.memPower + h.testPower + h.power.dies.foldl (fun n e => n + e.2.power) 0

/-- `PWR_PKG_CAP` in 0.25 W. -/
def Hub.pkgCap (h : Hub) : Nat := 4 * h.p 0xA80

/-- Sends the placed grants whose step round lies no more than 250 rounds ahead (R410). A grant of the present point, which only names a
budget, is over when it is sent. -/
def Hub.tellGrants (h : Hub) : Hub :=
  h.power.dies.foldl (fun h e =>
    match e.2.grant with
    | some (op, t) =>
      if e.2.told || h.round + 250 < t then h
      else
        let p := BitVec.ofNat 4 e.1
        let same := op = e.2.op
        (h.emit (.sideband (.ap p) (sbWord 0x12 (fld 48 op ||| fld 32 (e.2.share % 65536) ||| fld 0 (t % 65536))))).onDie p fun d => { d with
          told := true
          budget := d.share
          grant := if same then none else d.grant }
    | none => h) h

/-- A raise is within the cap (R408, R418). -/
def Hub.raiseOk (h : Hub) (d : Die) (op : Nat) : Bool := decide (h.pkgPower + (d.pmax op - d.pmax d.op) ≤ h.pkgCap)

/-- Places one waiting grant (R410); none where its die has one outstanding, where the cap does not allow it, or where no window does. -/
def Hub.placeGrant (h : Hub) (p : BitVec 4) (op : Nat) (lowered : Bool) : Option Hub :=
  let d := h.die p
  if d.grant.isSome || (!lowered && d.op < op && !h.raiseOk d op) then none
  else
    let di := (d.imax op - d.imax d.op) + (d.imax d.op - d.imax op)
    match placeRound h.power.changes false h.stepLimit di 50 (h.round + 8) with
    | none => none
    | some t =>
      let h := if di = 0 then h else h.addChange di t 50 false
      let share := if lowered then d.share else max d.share (d.pmax op)
      some (h.onDie p fun d => { d with
        grant := some (op, t)
        told := false
        share := share })

/-- Places the grants that wait, in their order; none while Uluhiva restarts (R418). -/
def Hub.placeWaiting (h : Hub) : List (BitVec 4 × Nat × Bool) → Hub
  | [] => h
  | w :: t =>
    match h.placeGrant w.1 w.2.1 w.2.2 with
    | some k => Hub.placeWaiting k t
    | none => Hub.placeWaiting { h with power := { h.power with waiting := h.power.waiting ++ [w] } } t

/-- The grants that wait are placed and those due are sent. -/
def Hub.runGrants (h : Hub) : Hub :=
  if h.core.restart then h.tellGrants
  else (Hub.placeWaiting { h with power := { h.power with waiting := [] } } h.power.waiting).tellGrants

/-- Queues a grant: a lowered one ahead of every raise (R410), in place of what waited for the same die. -/
def Hub.queueGrant (h : Hub) (p : BitVec 4) (op : Nat) (lowered : Bool) : Hub :=
  let rest := h.power.waiting.filter fun w => !(w.1 == p && w.2.2 == lowered)
  let low := rest.filter fun w => w.2.2
  let high := rest.filter fun w => !w.2.2
  { h with power := { h.power with
      waiting := if lowered then low ++ [(p, op, true)] ++ high else rest ++ [(p, op, false)] } }

/-- A breach of a die (R407): the event, and OP0. -/
def Hub.dieBreach (h : Hub) (p : BitVec 4) : Hub :=
  let h := h.onDie p fun d => { d with
    grant := none
    told := true
    overs := 0
    wanted := none
    budget := d.pmax 0
    share := d.pmax 0 }
  (({ h with power := { h.power with waiting := h.power.waiting.filter fun w => w.1 != p } }.queueGrant p 0 true).raise
    (rz evPwrDieBreach p.toNat)).runGrants

/-- `DIE_STEP_WINDOW_EXPIRY` (R407): the 50 rounds after a granted step round are over. -/
def execDieStepWindowExpiry (p : BitVec 4) (s : State) : Host.Outcome State Fault Refusal :=
  .next (s.withHub fun h =>
    match (h.die p).grant with
    | some (_, t) => if t + 50 < h.round then h.dieBreach p else h
    | none => h)

/-! ### The cap loop (R408, R417) -/

/-- Lowers grants, highest power first, until the excess is covered. -/
def Hub.lowerDies (h : Hub) : List (Nat × Die) → Nat → Hub
  | [], _ => h
  | e :: t, excess =>
    if excess = 0 then h
    else
      let d := e.2
      let p := BitVec.ofNat 4 e.1
      let op := d.opWithin d.op (d.pmax d.op - excess)
      let h := (h.onDie p fun d => { d with share := d.pmax op }).queueGrant p op true
      Hub.lowerDies h t (excess - (d.pmax d.op - d.pmax op))

/-- The raises that have been placed and not sent are withdrawn with their current changes (R418). -/
def Hub.withdrawRaises (h : Hub) : Hub :=
  h.power.dies.foldl (fun h e =>
    match e.2.grant with
    | some (op, t) =>
      if e.2.told || op ≤ e.2.op then h
      else
        let di := e.2.imax op - e.2.imax e.2.op
        let h := h.onDie (BitVec.ofNat 4 e.1) fun d => { d with grant := none, share := d.budget }
        { h with power := { h.power with changes := List.dropFirst (fun (c : Change) => c.di == di && c.first == t && !c.hub) h.power.changes } }
    | none => h) h

/-- Divides what is left of the cap among the dies that ask for more, in proportion to their weights; none below its OP0 power. -/
def Hub.shareCap (h : Hub) : Hub :=
  let asks (d : Die) : Bool := match d.wanted with
    | some w => decide (d.op < w)
    | none => false
  let asking := h.power.dies.filter fun e => asks e.2
  let kept := (h.power.dies.filter fun e => !asks e.2).foldl (fun n e => n + e.2.power) 0
  let rest := h.pkgCap - (h.power.hubPower + h.testPower + h.power.memPower + kept)
  let weights := asking.foldl (fun n e => n + h.p (0xA90 + e.1)) 0
  asking.foldl (fun h e =>
    let p := BitVec.ofNat 4 e.1
    let share := rest * h.p (0xA90 + e.1) / max 1 weights
    let budget := max (e.2.pmax 0) share
    let op := e.2.opWithin (e.2.wanted.getD 0) budget
    let h := h.onDie p fun d => { d with share := budget }
    if e.2.op < op then h.queueGrant p op false else h) h

/-- Lowers every budget by a tenth for each run of the loop since the throttle began (R417); never below OP0. -/
def Hub.coolDies (h : Hub) : Hub :=
  h.power.dies.foldl (fun h e =>
    let p := BitVec.ofNat 4 e.1
    let budget := max (e.2.pmax 0) (e.2.share * 9 / 10)
    (h.onDie p fun d => { d with share := budget }).queueGrant p (e.2.opWithin e.2.op budget) true) h

/-- `CAP_LOOP` (R408). -/
def execCapLoop (s : State) : Host.Outcome State Fault Refusal :=
  .next (s.withHub fun h =>
    let excess := h.pkgPower - h.pkgCap
    let h := if h.power.hotOn then { h.coolDies with power := { h.coolDies.power with cut := h.power.cut + 1 } }
      else { h with power := { h.power with cut := 0 } }
    let h := if excess = 0 then h.shareCap
      else
        let h := { h with power := { h.power with waiting := h.power.waiting.filter fun w => w.2.2 } }.withdrawRaises
        h.lowerDies (List.sorted (fun a b => decide (b.2.power < a.2.power)) h.power.dies) excess
    h.runGrants)

/-! ### Temperature, rails and `VDD_CORE` (R415–R417) -/

/-- The slots that a reading allows, given those offered now: a limit is lifted 2 °C below its threshold. Units of 0.125 °C. -/
def slotsFor (theta tj now : Nat) : Nat :=
  let at_ (excess lim : Nat) : Bool := decide (theta + 8 * excess ≤ tj) || (decide (now ≤ lim) && decide (theta + 8 * excess < tj + 16))
  if at_ 8 1 then 1 else if at_ 6 2 then 2 else if at_ 4 3 then 3 else 4

/-- `SENSOR_READ` (R417): Tj is the highest reading; readings and thresholds are compared above −4,096 °C, in 0.125 °C. -/
def execSensorRead (readings : List (BitVec 16)) (s : State) : Host.Outcome State Fault Refusal :=
  .next (s.withHub fun h =>
    let best := (readings.zip (upTo 32)).foldl (fun (b : Option (BitVec 16 × Nat)) r => match b with
      | none => some r
      | some x => if signed16 x.1 < signed16 r.1 then some r else b) none
    match best with
    | none => h
    | some (t, i) =>
      let tj := signed16 t
      let theta := 32768 + 8 * h.p 0xA84
      let slots := slotsFor theta tj h.power.slots
      let hot := decide (theta ≤ tj) || (h.power.hotOn && decide (theta < tj + 16))
      let rises := hot && !h.power.hotOn
      let h := if slots = h.power.slots then h else h.notify (.slots slots)
      let h := { h with
        rot := if hot && !h.rot.postponed then { h.rot with postponed := true } else h.rot
        power := { h.power with
          tj := t
          hot := BitVec.ofNat 5 i
          slots := slots
          hotOn := hot
          minCold := readings.any fun r => decide (signed16 r ≤ 32768) } }
      if rises then h.raise (rz evPwrHot i) else h)

/-- The power of the valid rails of some kinds, in 0.25 W. -/
def Hub.railPower (h : Hub) (kinds : List Nat) : Nat :=
  h.power.rails.foldl (fun n e =>
    let cfg := h.pw (0xAA0 + e.1)
    if cfg.getLsbD 0 && kinds.contains (cfg.extractLsb' 1 3).toNat then n + e.2.2 else n) 0

/-- `PMBUS_RAIL_READ` (R415): a fault bit raises `EVT_PWR_RAIL_FAULT`, and on a hub rail it is fatal. `BUSY`, bit 7 of `STATUS_WORD`, is
no fault. `pout` is in 0.25 W. -/
def execPmbusRailRead (rail : BitVec 4) (status pout : BitVec 16) (s : State) : Host.Outcome State Fault Refusal :=
  .next (s.withHub fun h =>
    let cfg := h.pw (0xAA0 + rail.toNat)
    if !cfg.getLsbD 0 then h
    else
      let h := { h with power := { h.power with rails := h.power.rails.put rail.toNat (status, pout.toNat) } }
      let h := { h with power := { h.power with
        hubPower := h.railPower [0, 1, 2, 3]
        memPower := h.railPower [5] } }
      let h := (h.emit (.pmbus rail))
      if status &&& 0xFF7F = 0 then h
      else
        let h := h.raise (rz evPwrRailFault rail.toNat)
        if (cfg.extractLsb' 1 3).toNat ≤ 3 then h.fatal evPwrRailFault (rail.setWidth 8) status else h)

/-- `AVS_STEP` (R416): one step of 5 mV within 0.65–0.85 V, at most one per 10 µs, and only upward while a sensor reads 0 °C or less. -/
def execAvsStep (up : Bool) (s : State) : Host.Outcome State Fault Refusal :=
  .next (s.withHub fun h =>
    let v := if up then h.power.vcore + 5 else h.power.vcore - 5
    if v < 650 || 850 < v || (!up && h.power.minCold) || (h.power.lastAvs ≠ 0 && h.round < h.power.lastAvs + 2500) then h
    else ({ h with power := { h.power with
      vcore := v
      lastAvs := h.round } }).emit (.avs v))

/-! ### Port domains (R319, R320, R411–R414) -/

/-- Starts the power-down of a domain under the reserve; a memory port counts as asleep at every slice from here on (R414). -/
def Hub.startDown (h : Hub) (d : Domain) : Hub :=
  match placeRound h.power.changes true h.wakeLimit (domCurrent d) 512 (h.round + 1) with
  | none => h
  | some t =>
    let h := (h.addChange (domCurrent d) t 512 true).setDom d (.closing t)
    match d with
    | .mp n => h.notify (.asleep n)
    | _ => h

/-- A filter pointer of a slice names an agent of a port, in an `OWN`, `SHR` or `SHF` entry. -/
def Hub.portNamed (h : Hub) (p : BitVec 4) : Bool :=
  let mine (a : La) : Bool := (h.agent a).valid && (h.agent a).port == p
  h.servingSlices.any fun hs => (h.slice hs).sf.any fun e => match SView.ofWord e.2 with
    | some (.own a) => mine a
    | some (.shr l _) => l.any mine
    | _ => false

/-- Parks the agents of a port (R412). -/
def Hub.park (h : Hub) (p : BitVec 4) : Hub :=
  { (h.onAp p fun a => { a with parked := true }) with
    agents := List.map (fun e => (e.1, if e.2.port = p then { e.2 with parked := true } else e.2)) h.agents }

/-- A device write that the hub has acknowledged early is still to be performed behind a port (R31, R183). -/
def Hub.ackedBehind (h : Hub) (p : BitVec 4) : Bool :=
  h.dev.reqs.any fun r => r.write && r.acked && r.region != 64 && (h.agent r.target).port == p

/-- `SLEEP_WALK_DONE` (R31, R412): every slice has looked, the reclaim walks aside, and the writes acknowledged through the port are performed. A
pointer refuses the sleep. -/
def execSleepWalkDone (p : BitVec 4) (s : State) : Host.Outcome State Fault Refusal :=
  .next (s.withHub fun h =>
    let busy := h.servingSlices.any fun hs => (h.slice hs).walk.isSome
    if (h.ap p).sleepWalk.isNone || busy || h.ackedBehind p then h
    else
      let h := h.onAp p fun a => { a with sleepWalk := none }
      if h.portNamed p then
        (h.emit (.sideband (.ap p) (sbWord 0x16 0))).raise (rz evPwrSleepRefused p.toNat)
      else ((h.emit (.sideband (.ap p) (sbWord 0x16 1))).park p).startDown (.ap p))

/-- The channels of a memory port are idle (R31, R411). -/
def Hub.mpQuiet (h : Hub) (mp : BitVec 3) : Bool :=
  let chans := [2 * mp.toNat, 2 * mp.toNat + 1]
  let quiet (c : Nat) : Bool :=
    decide ((h.chan c).lastUse + h.p 0xA83 ≤ h.round) && (h.chan c).lock.isNone && !(h.chan c).paused
      && h.readsOut c = 0 && h.writesOut c = 0 && !(h.mirrored c && (h.chan (c ^^^ 1)).down)
  chans.all quiet && !(h.reads.any fun r => portOfChan r.ch.toNat == mp.toNat)
    && !(h.allWb.any fun x => x.home && ((h.lineMap x.line).1).any fun c => portOfChan c == mp.toNat)

/-- `MEM_PORT_IDLE` (R411): a memory port that has been idle for `PWR_IDLE_ROUNDS` rounds is powered down. -/
def execMemPortIdle (mp : BitVec 3) (s : State) : Host.Outcome State Fault Refusal :=
  .next (s.withHub fun h =>
    if (h.mp mp.toNat).online && h.dom (.mp mp) == .awake && h.mpQuiet mp then h.startDown (.mp mp) else h)

/-- `POWER_DOWN_COMPLETE` (R320, R413): the domain is asleep; a wake that was asked for meanwhile starts at once. -/
def execPowerDownComplete (d : Domain) (s : State) : Host.Outcome State Fault Refusal :=
  onUnit d.wf (s.withHub fun h =>
    match h.dom d with
    | .opening u =>
      if u < h.round then
        let h := h.setDom d .asleep
        if (h.power.wakeBufs.getD (domKey d) ⟨[], false⟩).asked then h.placeWake d else h
      else h
    | _ => h)

/-- `WAKE_REQUEST` (R24, R319, R320): a packet at the edge router of a domain. A full wake buffer leaves it at its source. -/
def execWakeRequest (d : Domain) (k : WakePacket) (s : State) : Host.Outcome State Fault Refusal :=
  onUnit (d.wf && stopExists k.src) (s.withHub fun h =>
    if !h.domUsed d then h.raise (rz evMeshUnusedPort k.src.toNat)
    else
      let r := h.domReady d
      if r.2 then r.1
      else
        let b := r.1.power.wakeBufs.getD (domKey d) ⟨[], false⟩
        let same := (b.pkts.filter fun x => x.data == k.data).length
        if (if k.data then 8 else 32) ≤ same then h
        else
          let h := { r.1 with power := { r.1.power with
            wakeBufs := r.1.power.wakeBufs.put (domKey d) { b with pkts := b.pkts ++ [k] } } }
          h.placeWake d)

end Sys2Proof.Machine
end

