-- ==== Sys2Proof/Machine/SpanHome.lean ====
section
/-!
DEFINITION. The answers of holder hubs at the home and at the requester's hub (R209, R218, R225), and hubs that are unreachable
(R228).
-/
namespace Sys2Proof.Machine

/-! ### Answers of holder hubs -/

/-- A holder's answer, or its data, counts at the gate of a local requester (R209). -/
def Hub.holderAnswer (h : Hub) (hs : Nat) (tid : Byte) (fwd : Bool) : Hub :=
  (h.onTxn hs tid fun x => { x with gate := { x.gate with
    spanGot := x.gate.spanGot + 1
    spanFwd := x.gate.spanFwd || fwd } }).settle hs tid

/-- The copy of a holder's answer at the home (R218), with the data that it returns to the home (R225, R226). A reservation load whose holder
keeps its line exclusive has met an owner (R175). -/
def Hub.homeCopyIn (h : Hub) (hs : Nat) (t : Txn) (x : HubNo) (kept : BitVec 2) (d : Option Payload) : Hub :=
  let h := match d with
    | some p =>
      let pois : ByteMask := if p.poison then allBytes else 0
      (h.enterValue hs t.req.line .accepted true p.bytes pois none).newerData hs t.req.line p.bytes pois
    | none => h
  let upd (y : Txn) : Txn := { y with
    copies := y.copies.filter fun k => k != x
    hubAns := y.hubAns ++ [(x, kept, d.isSome)]
    gate := { y.gate with
      wbData := y.gate.wbData || d.isSome
      rsvOwner := y.gate.rsvOwner || (y.req.op == .rsvLoad && kept == 3)
      cross := if y.gate.need && y.req.op != .atom then y.gate.cross.or d else y.gate.cross } }
  (h.onTxn hs t.tid upd).settle hs t.tid

/-- The open home transaction that waits for a hub's copy of an answer. -/
def Hub.copyWaits (h : Hub) (x : HubNo) (f : Flit) : Option Txn :=
  match h.findTxn f.gaid f.txid f.line with
  | some t => if t.copies.contains x then some t else none
  | none => none

/-- The home tells the requester's hub, or its own requester's gate, that a holder which answers no message to it holds nothing. -/
def Hub.answerFor (h : Hub) (hs : Nat) (t : Txn) : Hub :=
  if t.req.span then
    h.toHub t.req.gaid.hub 0x20 (spanRspFlit t.req.gaid t.req.txid t.req.line 0 false) none none
  else h.holderAnswer hs t.tid false

/-! ### Unreachable hubs (R228) -/

/-- Codes of the notices between the Lupins of hubs; the manual names the notices and leaves their form open. -/
def smgtHubLost : BitVec 8 := 1
def smgtRoute : BitVec 8 := 2
def smgtRouteAck : BitVec 8 := 3

/-- Sends a notice to every hub that is reachable. -/
def Hub.smgtAll (h : Hub) (code : BitVec 8) (arg : Word) : Hub :=
  h.otherHubs.foldl (fun h x => h.emit (.smgt x code arg)) h

/-- Completes what waits for a lost hub at a slice as if it had answered `SPAN_RSP_I`. -/
def Hub.skipHub (h : Hub) (x : HubNo) (hs : Nat) : Hub :=
  let waits := (h.slice hs).txns.filter fun t => t.copies.contains x
  let h := waits.foldl (fun h t => (h.answerFor hs t).homeCopyIn hs t x 0 none) h
  let backs := (h.slice hs).backs.filter fun b => b.hubs.contains x
  backs.foldl (fun h b => h.backHub hs b.line x none) h

/-- The walk's visit of a way of the span directory; a pinned way is left for a later round. -/
def Hub.visitHubWay (h : Hub) (hs : Nat) (x : HubNo) (set : BitVec 12) (way : Nat) : Hub :=
  let s := h.slice hs
  let w := s.sdAt set way
  let l := sdLine (sdWordTag w) set
  match HView.ofWord w with
  | some (.own y) =>
    if y != x || s.pinned l h.round then h
    else ((h.poisonMark hs l true).raise (rzLine evSpanLineLost noInst.toNat l)).putHub hs l way .none
  | some (.shr k) =>
    if !k.contains x || s.pinned l h.round then h
    else
      let left := k.filter fun y => y != x
      h.putHub hs l way (if left.isEmpty then .none else .shr left)
  | _ => h

/-- A way of the span directory still names a hub. -/
def Slice.namesHub (s : Slice) (x : HubNo) : Bool :=
  s.sd.any fun e => match HView.ofWord e.2 with
    | some v => (match v with
      | .own y => y == x
      | .shr k => k.contains x
      | _ => false)
    | none => false

/-- The lines of a lost home that a slice's filter still names and may back-invalidate now. -/
def Hub.lostLines (h : Hub) (hs : Nat) (x : HubNo) : List (Line × SView) :=
  let s := h.slice hs
  s.sf.filterMap fun e =>
    let set := BitVec.ofNat 14 (e.1 / 16)
    let l := sfLine (sfWordTag e.2) set
    match SView.ofWord e.2 with
    | some (.deg _) | none => none
    | some v => if v != SView.unc && h.remoteHome l == some x && (s.backOn l).isNone then some (l, v) else none

/-- Starts back-invalidations of a lost home's lines while in-flight entries are free. -/
def Hub.startLost (hs : Nat) : List (Line × SView) → Hub → Hub
  | [], h => h
  | (l, v) :: t, h =>
    match h.freeBack hs with
    | some idx => if (h.slice hs).pinned l h.round then Hub.startLost hs t h else Hub.startLost hs t (h.startBack hs idx .lostHome l v)
    | none => h

/-- One round of a slice's walk for a lost hub: its directory, then the local copies of the lines homed there, while no reclaim walk
holds the in-flight entries; the walk is over once nothing of either is left. -/
def Hub.walkHub (h : Hub) (x : HubNo) (hs : Nat) : Hub :=
  let h := (h.slice hs).sd.foldl (fun h e => h.visitHubWay hs x (BitVec.ofNat 12 (e.1 / 8)) (e.1 % 8)) h
  let lines := h.lostLines hs x
  let h := if (h.slice hs).walk.isSome then h else Hub.startLost hs lines h
  let done := lines.isEmpty && !((h.slice hs).namesHub x) && !((h.slice hs).backs.any fun b => b.kind == .lostHome)
  if done then h.onSlice hs fun s => { s with hubWalk := s.hubWalk.filter fun y => y != x } else h

/-- One round of every walk for a lost hub. -/
def Hub.walkHubs (h : Hub) : Hub :=
  h.servingSlices.foldl (fun h hs => (h.slice hs).hubWalk.foldl (fun h x => h.walkHub x hs) h) h

/-- A proxy's open transaction on a line of a lost home ends with `O_LOST`, a read with a poisoned line. -/
def Hub.endLost (h : Hub) (hs : Nat) (t : Txn) : Hub :=
  let h := { h with freeCtr := h.freeCtr + 1 }
  let d := payload (Config.freeLine (h.freeCtr - 1)) false true
  (h.onTxn hs t.tid fun x => { x with
    wrote := true
    gate := { x.gate with
      spanCmp := true
      spanAcks := 0
      spanFwd := false
      pullWait := false
      outcome := oLost
      homeData := some d } }).settle hs t.tid

/-- What a proxy lets go of a lost home: its open transactions, buffered writebacks, and device requests. -/
def Hub.dropHome (h : Hub) (x : HubNo) : Hub :=
  let h := h.servingSlices.foldl (fun h hs =>
    let mine := (h.slice hs).txns.filter fun t => t.spanReq && !t.gate.spanCmp && h.remoteHome t.req.line == some x
    let h := mine.foldl (fun h t => h.endLost hs t) h
    h.onSlice hs fun s => { s with wb := s.wb.filter fun w => w.home || h.remoteHome w.line != some x }) h
  let h := { h with
    spill := h.spill.filter fun w => w.home || h.remoteHome w.line != some x
    spanBacks := h.spanBacks.filter fun b => h.remoteHome b.line != some x }
  let mine (r : DevReq) : Bool := r.region == 64 && (match h.classify r.line with
    | .window y => y == x
    | .remote y => y == x
    | _ => false)
  (h.dev.reqs.filter mine).foldl (fun h r => h.devFinish r oLost none) h

/-- A hub is unreachable (R228): it is left out of every broadcast, what waits for it goes on, and the walks start. -/
def Hub.loseHub (h : Hub) (x : HubNo) : Hub :=
  if h.lostHubs.contains x || x = h.num then h
  else
    let h := { h with lostHubs := h.lostHubs ++ [x] }
    let h := h.servingSlices.foldl (fun h hs => h.skipHub x hs) h
    let h := h.dropHome x
    let h := h.servingSlices.foldl (fun h hs => h.onSlice hs fun s => { s with hubWalk := s.hubWalk ++ [x] }) h
    h.walkHubs

/-- A home declares a hub unreachable (R228): the event, the notice to every hub, and what the notice brings here. -/
def Hub.declareLost (h : Hub) (x : HubNo) : Hub :=
  if h.lostHubs.contains x || x = h.num then h
  else ((h.raise (rz evSpanHubLost noInst.toNat)).loseHub x).smgtAll smgtHubLost (x.setWidth 64)

/-- Every slice has walked for a hub. -/
def Hub.walkedFor (h : Hub) (x : HubNo) : Bool := h.slices.all fun e => !e.2.hubWalk.contains x

end Sys2Proof.Machine
end

