-- ==== Sys2Proof/Machine/RoundTick.lean ====
section
/-!
DEFINITION. The parts of a round boundary (R6, R7): the notices that slices apply (R38), the round arbiters (R322–R325), the counters
(R455–R458), and commits at their round C (R397).
-/
namespace Sys2Proof.Machine

/-! ### Notices (R38, R44) -/

/-- Changes what the slices have applied of a channel. -/
def Hub.onNote (h : Hub) (c : Nat) (f : ChNotice → ChNotice) : Hub := { h with chNotes := h.chNotes.upd c ChNotice.init f }

/-- Rounds of a channel become unavailable at every slice. -/
def Hub.noteBusy (h : Hub) (c first last : Nat) : Hub := h.onNote c fun k => { k with busy := k.busy ++ [(first, last)] }

/-- A slice notice takes effect. -/
def Hub.applyNotice (h : Hub) : Notice → Hub
  | .pause ch first last => h.noteBusy ch.toNat first last
  | .failover ch last => h.onNote ch.toNat fun k => { k with failover := k.failover ++ [(h.round, last)] }
  | .pressure ch on => h.onNote ch.toNat fun k => { k with pressure := on }
  | .down ch => h.onNote ch.toNat fun k => { k with down := true }
  | .up ch => h.onNote ch.toNat fun k => { k with down := false }
  | .slots n => { h with slots := n }
  | .asleep mp =>
    (h.onNote (2 * mp.toNat) fun k => { k with asleep := true }).onNote (2 * mp.toNat + 1) fun k => { k with asleep := true }
  | .wake mp serve =>
    let wake (h : Hub) (c : Nat) : Hub := (h.onNote c fun k => { k with asleep := false }).noteBusy c h.round (serve - 1)
    wake (wake h (2 * mp.toNat)) (2 * mp.toNat + 1)

/-- Applies the notices that arrived in the round before, and forgets rounds that are past. -/
def Hub.applyNotices (h : Hub) : Hub :=
  let h := h.notices.foldl (fun h n => h.applyNotice n) { h with notices := [] }
  let keep (k : ChNotice) : ChNotice := { k with
    busy := k.busy.filter fun b => decide (h.round ≤ b.2)
    failover := k.failover.filter fun b => decide (h.round ≤ b.2) }
  { h with chNotes := List.map (fun e => (e.1, keep e.2)) h.chNotes }

/-! ### Round arbiters (R322–R325) -/

/-- The rank of a requester: `BASE` plus `LOSS`, at most 15. -/
def Arbiter.rank (a : Arbiter) (bases : List Nat) (i : Nat) : Nat := min 15 (List.nth bases i 0 + List.nth a.loss i 0)

/-- The order in which requesters are served: a lock's owner, then by rank, then from the pointer. -/
def Arbiter.order (a : Arbiter) (bases : List Nat) : List Nat :=
  let turn (i : Nat) : Nat := (i + 4 - a.pointer) % 4
  let before (i j : Nat) : Bool :=
    if a.lockBy = some i then a.lockBy != some j
    else if a.lockBy = some j then false
    else if a.rank bases i ≠ a.rank bases j then decide (a.rank bases j < a.rank bases i)
    else decide (turn i < turn j)
  List.sorted before [0, 1, 2, 3]

/-- Grants capacity in an order: each requester gets what it asks while the capacity lasts. -/
def grantIn (asks costs : List Nat) : List Nat → Nat → List Nat → List Nat
  | [], _, g => g
  | i :: t, cap, g =>
    let cost := max 1 (List.nth costs i 1)
    let n := min (List.nth asks i 0) (cap / cost)
    grantIn asks costs t (cap - n * cost) (List.setNth 0 n i g)

/-- One arbitration phase: the grants decided in the phase before come into force, and those of the next round are decided (R6) with the loss counts and
the pointer, which moves past the last requester served at rank 15. -/
def Arbiter.phase (a : Arbiter) (bases asks costs : List Nat) (cap : Nat) : Arbiter :=
  let ord := a.order bases
  let g := grantIn asks costs ord cap [0, 0, 0, 0]
  let loss (i : Nat) : Nat :=
    if List.nth g i 0 ≠ 0 then 0 else if List.nth asks i 0 ≠ 0 then min 15 (List.nth a.loss i 0 + 1) else List.nth a.loss i 0
  let top := (ord.filter fun i => a.rank bases i == 15 && List.nth g i 0 != 0).getLast?
  { a with
    loss := (upTo 4).map loss
    grants := a.next
    next := g
    pointer := match top with
      | some i => (i + 1) % 4
      | none => a.pointer }

/-- The bases of a kind of arbiter, its four classes from bit 0 up (R328). -/
def Hub.bases (h : Hub) (pid : Nat) : List Nat := (upTo 4).map fun i => ((h.pw pid).extractLsb' (3 * i) 3).toNat

/-- The key of an arbiter: slices, then memory ports, then span ports. -/
def arbKey : ArbiterId → Nat
  | .egress hs => hs.toNat
  | .memPort mp => 65 + mp.toNat
  | .spanPort sp => 73 + sp.toNat

/-- Runs the phase of an arbiter; one that nobody asks and nothing was lost at is left as it is. -/
def Hub.runArb (h : Hub) (key pid : Nat) (asks costs : List Nat) (cap : Nat) : Hub :=
  let a := h.arbs.getD key Arbiter.init
  if asks.all (fun n => n = 0) && (a.grants ++ a.next).all fun n => n = 0 then h
  else { h with arbs := h.arbs.put key (a.phase (h.bases pid) asks costs cap) }

/-- A slice's egress: buffered lines to write, spill moves and recalls, fill-and-lock reads, prefetch reads, in the four cycles less those that the reads of
transactions and chain copies have taken in the round before, one at least (R322, R326; DESIGN CHOICE, assumption log 31). -/
def Hub.runEgress (h : Hub) (hs : Nat) : Hub :=
  let s := h.slice hs
  let drain := (s.wb.filter fun x => x.home && x.whole && (x.wrote.isEmpty || x.again)).length
  let spill := (h.spill.filter fun x => x.recallAt.isSome && h.hsOf x.ls == hs).length + (if s.wb.length ≥ 224 then 1 else 0)
  let reads (p : ReadFor → Bool) : Nat := (h.reads.filter fun r => !r.sent && h.hsOf r.ls == hs && p r.who).length
  let maint := reads fun w => match w with
    | .lockFill _ _ => true
    | _ => false
  let pref := reads fun w => match w with
    | .prefetch _ => true
    | _ => false
  let outside := (h.reads.filter fun r => h.hsOf r.ls == hs && r.pres == some (h.round - 1) && match r.who with
    | .txn _ | .chain => true
    | _ => false).length
  h.runArb hs 0x880 [min 4 drain, min 4 spill, min 4 maint, min 4 pref] [1, 1, 1, 1] (max 1 (4 - outside))

/-- The arbiter lock of a memory port while a far atomic holds one of its channels, counted in rounds (R324). -/
def Arbiter.track (a : Arbiter) (held : Bool) : Arbiter :=
  if held then { a with
    lockBy := if a.lockAge = 0 then some 0 else a.lockBy
    lockAge := a.lockAge + 1 }
  else { a with
    lockBy := none
    lockAge := 0 }

/-- A memory port: writes of slices and of the spill store (six units each), speculative reads and mirror copies (one each), in the 56
units of its four frames that the normal reads and `MEM_WR_UL` leave. -/
def Hub.runMemPort (h : Hub) (mp : Nat) : Hub :=
  let chans := [2 * mp, 2 * mp + 1]
  let held := chans.any fun c => (h.chan c).lock.isSome
  let old := h.arbs.getD (65 + mp) Arbiter.init
  let h := if held || old.lockAge ≠ 0 then { h with arbs := h.arbs.put (65 + mp) (old.track held) } else h
  let here (r : MemRead) : Bool := portOfChan r.ch.toNat == mp && !r.sent
  let isMirror (r : MemRead) : Bool := match r.who with
    | .mirror _ => true
    | _ => false
  let writes (l : List WbLine) : Nat := (l.filter fun x => chans.any fun c => h.writeSendable c x).length
  let normal := (h.reads.filter fun r => here r && !r.spec).length
  let spec := (h.reads.filter fun r => here r && r.spec && !isMirror r).length
  let back (r : MemRead) : Bool := portOfChan r.ch.toNat == mp && r.copyWaits
  let copy := (h.reads.filter fun r => here r && isMirror r || back r).length
  h.runArb (65 + mp) 0x881 [writes (h.slices.flatMap fun e => e.2.wb), writes h.spill, spec, copy] [6, 6, 1, 1] (56 - min 50 (normal + 6 * (chans.filter fun c => (h.chan c).lock.isSome).length))

/-- A span port: the slots that its classes ask for beyond the guaranteed ones, a rekey's exchange among them. -/
def Hub.runSpanPort (h : Hub) (n : Nat) : Hub :=
  let p := h.sp (BitVec.ofNat 3 n)
  let asks := (p.asks.zip [0, 0, 0, if p.rekey then 1 else 0]).map fun x => x.1 + x.2
  h.runArb (73 + n) 0x882 asks [1, 1, 1, 1] p.roomLeft

/-- Every round arbiter. -/
def Hub.runArbiters (h : Hub) : Hub :=
  let h := h.servingSlices.foldl (fun h hs => h.runEgress hs) h
  let h := (upTo 8).foldl (fun h mp => h.runMemPort mp) h
  (upTo 6).foldl (fun h n => h.runSpanPort n) h

/-! ### Counters (R455–R458) -/

/-- The configured counters that count. -/
def Hub.counters (h : Hub) : List Nat := (upTo 384).filter fun c => (h.pw (0xC00 + c)).getLsbD 0

/-- The level of a code at a unit (R455). -/
def Hub.level (h : Hub) (ev unit : Nat) : Nat :=
  let sum (f : Slice → Nat) : Nat :=
    if unit = 0x40 then (upTo 64).foldl (fun n ls => n + f (h.slice (h.hsOf (BitVec.ofNat 6 ls)))) 0
    else f (h.slice (h.hsOf (BitVec.ofNat 6 unit)))
  if ev = 0x080 then sum fun s => s.commitment h.round
  else if ev = 0x081 then sum fun s => s.wb.length
  else if ev = 0x082 then h.spill.length
  else 0

/-- What a counter's selection has counted since the last tick. -/
def Hub.counted (h : Hub) (cfg : Word) : Nat :=
  let ev := (cfg.extractLsb' 28 12).toNat
  let unit := (cfg.extractLsb' 20 8).toNat
  let mine (x : Nat × Nat × Nat) : Bool := x.1 == ev && (x.2.1 == unit || (unit == 0x40 && decide (x.2.1 < 0x40)))
  let n := (h.pmc.pend.filter mine).foldl (fun n x => n + x.2.2) 0 + h.level ev unit
  if cfg.extractLsb' 10 2 = 1 then (if (cfg.extractLsb' 12 8).toNat ≤ n then 1 else 0) else n

/-- One counter advances; `carry` is how often its lower neighbour wrapped, and the answer how often it did. -/
def Hub.advance (h : Hub) (c carry : Nat) : Hub × Nat :=
  let cfg := h.pw (0xC00 + c)
  let chained := c % 2 = 1 && cfg.getLsbD 3
  let n := if chained then carry else h.counted cfg
  if !cfg.getLsbD 0 || n = 0 then (h, 0)
  else
    let v := (h.pmc.ctrs.getD c 0).toNat + n
    let wraps := v / 2 ^ 48
    let upper := h.pw (0xC00 + c + 1)
    let silent := c % 2 = 0 && upper.getLsbD 3
    let h := { h with pmc := { h.pmc with ctrs := h.pmc.ctrs.set c 0 (BitVec.ofNat 48 v) } }
    if wraps = 0 || silent then (h, wraps)
    else
      let h := if cfg.getLsbD 2 then { h with pmc := { h.pmc with freeze := true } } else h
      (if cfg.getLsbD 1 then h.raise (rz (evPmcOvf c) noInst.toNat) else h, wraps)

/-- Every counter that counts, from the lowest; increments are then spent. -/
def Hub.runCounters (h : Hub) : Hub :=
  let h := if h.pmc.freeze then h
    else (h.counters.foldl (fun (k : Hub × Nat × Nat) c =>
      let r := k.1.advance c (if k.2.1 + 1 = c then k.2.2 else 0)
      (r.1, c, r.2)) (h, 0, 0)).1
  { h with pmc := { h.pmc with pend := [] } }

/-! ### Maintenance of pinned chain copies (R298, R301) -/

/-- The pinned ways that a maintenance command has yet to invalidate, once their chains have emptied. -/
def Hub.unpinMaint (h : Hub) (n : BitVec 3) : Hub :=
  match (h.mb n).busy with
  | some b =>
    match b.long with
    | .maint op first last set waitW pins =>
      let free := pins.filter fun l => !h.chainPins l
      if free.isEmpty then h
      else (free.foldl (fun h l => h.maintInvalidate l) h).setLong n (.maint op first last set waitW (pins.filter fun l => h.chainPins l))
    | _ => h
  | none => h

/-! ### Commits at their round C (R38, R397) -/

/-- Parameters that a commit only records until the next warm reset (R268, R284). -/
def Param.delayed (pid : Nat) : Bool := within pid 0x780 0x79F || pid = 0x7C0

/-- The parameters that change only through a route change (R234). -/
def Param.routed (pid : Nat) : Bool := within pid 0x188 0x18D || within pid 0x1A0 0x1AF || within pid 0x200 0x67F

/-- The parameters whose commit does something besides giving the value: it switches a port, lets the interrupt word be written again, restarts
the samples, asks for fuses or judges the storm counts. -/
def Param.acts (pid : Nat) : Bool :=
  within pid 0x680 0x68F || within pid 0x7A0 0x7A7 || pid = 0xB80 || pid = 0xB85 || pid = 0x982 || pid = 0x902

/-- The words of staged items, by key. -/
def stagedWords : List StageItem → Tbl Word
  | [] => []
  | x :: t => Tbl.put (stagedWords t) (if x.hi then hiKey x.pid.toNat else x.pid.toNat) x.val

/-- The word that a committed parameter puts in force at once: none where its effect waits. A memory port keeps its read bound until its
next bring-up (R265). -/
def Hub.inForce (h : Hub) (k : Nat) (w : Word) : Option Word :=
  if Param.delayed k || Param.routed k then none
  else if within k 0x7A0 0x7A7 && ((h.mp (k - 0x7A0)).online || (h.mp (k - 0x7A0)).trained) then
    some ((w &&& ~~~(0xFF00 : Word)) ||| (h.pw k &&& 0xFF00))
  else some w

/-- Puts the values in force that take effect at once. -/
def Hub.putForce (h : Hub) : Tbl Word → Hub
  | [] => h
  | (k, w) :: t =>
    let h := match h.inForce k w with
      | some x => { h with par := h.par.put k x }
      | none => h
    h.putForce t

/-- A protection table with an item in place. -/
def Prot.set (p : Prot) : ProtItem → Prot
  | .mbx n e => { p with mbx := p.mbx.put n.toNat e }
  | .agent a e => { p with agents := p.agents.put a.toNat e }
  | .pmask m => { p with masks := (p.masks.filter fun x => x != m) ++ [m] }

/-- The tables with a staged set in place. -/
def Prot.with (p : Prot) (items : List ProtItem) : Prot := items.foldl (fun p x => p.set x) p

/-- Every stop uses the new copy of a commit from the arbitration phase of its round C; `COMMIT_ROUND` then updates the master and writes the
response. -/
def Hub.forceDue (h : Hub) : Hub :=
  match h.core.commits with
  | [] => h
  | c :: _ =>
    match c.c with
    | none => h
    | some k =>
      if h.round < k then h
      else if c.prot then { h with prot := h.prot.with c.tabs }
      else h.putForce ((stagedWords c.items).filter fun e => !Param.acts e.1)

/-! ### The round boundary -/

/-- A device request's data that had to wait for credits is reported (R249). -/
def Hub.reportStalls (h : Hub) : Hub :=
  ((upTo 16).map (BitVec.ofNat 4)).foldl (fun h p =>
    if (h.ap p).stallDue then (h.onAp p fun a => { a with stallDue := false }).raise (rz evApCreditStall p.toNat) else h) h

/-- Paused channel-rounds are counted (R455). -/
def Hub.countPauses (h : Hub) : Hub :=
  (upTo 16).foldl (fun h c => if (h.chan c).paused then h.count 0x034 (0x60 + portOfChan c) 1 else h) h

/-- A slice may begin acceptance: the newt slice of a handover does so in the round after the marker's arrival (R362). -/
def Hub.mayArbitrate (h : Hub) (hs : Nat) : Bool :=
  !(h.rot.ended && !h.rot.markerIn && h.rot.newt.map (fun x => x.toNat) == some hs)

/-- The snoop credits of the last round's lookups return as their snoops are offered (R43). -/
def Slice.offerSnoops (s : Slice) : Slice := { s with
  snpUsed := s.snpBack.foldl (fun u p => u.upd p.toNat 0 fun c => c - 1) s.snpUsed
  snpBack := [] }

/-- Every slice whose lookups sent snoops gets their credits back. -/
def Hub.offerSnoops (h : Hub) : Hub :=
  ((h.slices.filter fun e => !e.2.snpBack.isEmpty).map fun e => e.1).foldl (fun h hs => h.onSlice hs Slice.offerSnoops) h

end Sys2Proof.Machine
end

