-- ==== Sys2Proof/Machine/Opening.lean ====
section
/-!
DEFINITION. The end of a start: the ports that it brings up, `ST_OPEN` and the slice map (R19, R24, R426, R427), and a start that stops
(R428).
-/
namespace Sys2Proof.Machine

/-- BIST level of a Detection Interval in ms (R355). -/
def bistLevel (ms : Nat) : BitVec 3 := if 90 ≤ ms then 1 else if 47 ≤ ms then 2 else if 33 ≤ ms then 3 else 4

/-- The physical slice that carries `LSn` at the end of a start that leaves out a slice (R19, R427). -/
def startHs (out : Option Nat) (n : Nat) : Nat :=
  match out with
  | some k => if n < k then n else n + 1
  | none => n

/-- The slice that the start leaves out: a substituted one, else one carried `INCOMPLETE` (R427). -/
def Aon.leftOut (a : Aon) : Option Nat :=
  match a.subst with
  | k :: _ => some k.toNat
  | [] => a.carried.map fun c => c.toNat

/-- A start that stops (R428): `FAULT_N` falls and the summary record says so. -/
def Hub.stopStart (h : Hub) : Hub :=
  let h := h.summarise h.start.step.toNat outStop
  { h with
    pins := { h.pins with faultN := false }
    start := { h.start with
      phase := .stopped
      waiting := [] } }

/-- Roles at the end of a start. -/
def Hub.startRole (h : Hub) (hs : Nat) : Role :=
  if (h.aon.subst).any fun k => k.toNat == hs then .substituted
  else if h.aon.subst.isEmpty && hs == (h.aon.leftOut).getD 64 then .newt
  else .inService

/-- The domain of a port that no counterpart uses is held asleep (R24). -/
def Hub.sleepUnused (h : Hub) : Hub :=
  let sleep (h : Hub) (d : Domain) (used : Bool) : Hub :=
    if used then h else { h with power := { h.power with doms := h.power.doms.put (domKey d) .asleep } }
  let h := (upTo 16).foldl (fun h n => sleep h (apDom n) (h.ap (BitVec.ofNat 4 n)).online) h
  (upTo 8).foldl (fun h n => sleep h (mpDom n) (h.mp n).online) h

/-- `ST_OPEN` (R7, R19, R426, R427): the slice map is built and service begins in round 1; two substituted slices stop the start. -/
def Hub.openService (h : Hub) : Hub :=
  let h := { h with start := { h.start with step := 0x0F } }
  if 2 ≤ h.aon.subst.length then h.stopStart
  else
    let out := h.aon.leftOut
    let due := 1 + 250000 * h.p 0x901
    let ready (hs : Nat) : Slice := { h.slice hs with
      role := h.startRole hs
      scrub := ⟨due, 0, [], false⟩ }
    let newt := if h.aon.subst.isEmpty then some (BitVec.ofNat 7 (out.getD 64)) else none
    let sub : BitVec 7 := h.aon.subst.headD 0x7F
    let carried := h.aon.carried.getD 0x7F
    let slices := (upTo 65).map fun hs => (hs, ready hs)
    let level := bistLevel (h.p 0x900)
    let ms := h.p 0x900
    let h := h.sleepUnused.summarise 0x0F outOk
    let h := { h with
      round := 1
      map := (upTo 64).map fun n => (n, startHs out n)
      slices := slices
      rot := { Rot.init with
        newt := newt
        noNewt := newt.isNone
        retests := h.aon.carried.toList
        results := h.rot.results
        failedOnce := h.rot.failedOnce
        level := level
        interval := ms }
      pmc := { h.pmc with winLog := h.p 0xB84 }
      start := { h.start with
        phase := .serving
        info := fld 25 sub.toNat ||| fld 18 carried.toNat } }
    let h := if newt.isNone then h.raise (rz evTestNoNewt sub.toNat) else h
    h.writeMirror

/-- The step that a start waits in for its ports (R426). -/
def portStep (l : List PortId) : BitVec 8 :=
  if l.any fun p => match p with | .mp _ => true | _ => false then 0x0C
  else if l.any fun p => match p with | .ap _ => true | _ => false then 0x0D
  else 0x0E

/-- A start waits for a port no longer: it is in service, refused or unused. -/
def Hub.portDone (h : Hub) (p : PortId) : Hub :=
  let left := h.start.waiting.filter fun x => x != p
  { h with start := { h.start with
      waiting := left
      step := if h.start.phase = .starting ∧ !left.isEmpty then portStep left else h.start.step } }

/-- Service opens once no port is waited for (R426). -/
def Hub.tryOpen (h : Hub) : Hub :=
  if h.start.phase = .starting ∧ !h.core.restart ∧ 0x0C ≤ h.start.step.toNat ∧ h.start.waiting.isEmpty then h.openService else h

/-- What a start does after a port has been settled: exception bits that are due are programmed before `ST_OPEN` (R433). -/
def State.settlePorts (s : State) : State := (s.escalate).withHub fun h => h.tryOpen

end Sys2Proof.Machine
end

