-- ==== Sys2Proof/Machine/Links.lean ====
section
/-!
DEFINITION. Links of agent and memory ports (R235–R240, R259, R260) and their bring-up (R3, R26, R27, R141, R148, R248, R251, R252,
R264).
-/
namespace Sys2Proof.Machine

/-! ### Ports that go down -/

/-- Takes an agent port down: every agent of it is declared dead (R141). -/
def Hub.takeApDown (h : Hub) (p : BitVec 4) : Hub :=
  let mine := (h.agents.filter fun e => e.2.port == p && e.2.valid && !e.2.dead).map fun e => BitVec.ofNat 7 e.1
  let h := h.onAp p fun a => { a with
    link := .down
    online := false
    trained := false
    decl := none
    stalled := [] }
  mine.foldl (fun h la => h.declareDead la) h

/-- The agents that a bring-up has admitted and that are not online lose their admission. -/
def Hub.dropAdmitted (h : Hub) (p : BitVec 4) : Hub :=
  { h with agents := h.agents.filter fun e => !(e.2.port == p && e.2.valid && !e.2.online && !e.2.dead) }

/-- The link of an agent port fails (R240): its agents are declared dead; a bring-up that it ends begins again with training. -/
def Hub.apLinkFails (h : Hub) (p : BitVec 4) : Hub :=
  if (h.ap p).online then (h.raise (rz evApLinkDown p.toNat)).takeApDown p
  else if (h.ap p).trained then
    ((h.raise (rz evApLinkDown p.toNat)).dropAdmitted p).onAp p fun a => { a with
      trained := false
      decl := none }
  else h

/-- `AP_LINK_DOWN` (R240): the module reports that it has left the active state. -/
def execApLinkDown (p : BitVec 4) (s : State) : Host.Outcome State Fault Refusal :=
  .next (s.withHubR fun h => h.apLinkFails p)

/-! ### Frames (R237–R240) -/

/-- A frame whose header holds a reserved slot kind (R238). -/
def badKind (f : FrameHdr) : Bool := (upTo 7).any fun i => f.kinds.extractLsb' (3 * i) 3 == 7

/-- A replay in a round: those of the last 65,536 rounds are kept (R240). -/
def FrameState.noteReplay (f : FrameState) (n : Nat) : FrameState :=
  { f with replays := f.replays.filter (fun r => decide (n < r + 65536)) ++ [n] }

/-- A frame fails its CRC: its sends that have failed in a row (R240). -/
def FrameState.noteBad (f : FrameState) (seq : BitVec 16) : FrameState := { f with bads := f.bads.upd seq.toNat 0 fun n => n + 1 }

/-- A send of a frame whose CRC is good ends its run. -/
def FrameState.noteGood (f : FrameState) (seq : BitVec 16) : FrameState := { f with bads := f.bads.drop seq.toNat }

/-- The link fails by its frames (R240). -/
def FrameState.fails (f : FrameState) : Bool := (f.bads.any fun e => decide (3 ≤ e.2)) || decide (16 ≤ f.replays.length)

/-- What a frame that arrives does to its receiver: the new state, whether a replay runs, and whether the frame is taken (R239). The next frame sent
asks for the replay of one that is discarded; a frame out of sequence waits for the replay that is under way. -/
def FrameState.receive (f : FrameState) (hd : FrameHdr) (n : Nat) : FrameState × Bool × Bool :=
  let g := if hd.crcOk then f.noteGood hd.fseq else f.noteBad hd.fseq
  if !hd.crcOk || badKind hd then
    let r := g.noteReplay n
    ({ r with
      rpl := true
      tx := { r.tx with ask := true } }, true, false)
  else if hd.fseq ≠ f.rx then (g, false, false)
  else
    let k := { g with
      rx := f.rx + 1
      ack := hd.fack
      credits := hd.credits
      rpl := false }
    (if hd.rpl then k.noteReplay n else k, hd.rpl, true)

/-- The frames that a sender resends where the partner asks for them, bit-identical, from `FACK` + 1 (R239). -/
def Hub.replayMsgs (h : Hub) (port : PortId) (f : FrameState) (hd : FrameHdr) (taken : Bool) : Hub :=
  if taken && hd.rpl then (f.resends hd.fack).foldl (fun h x => h.emit (.frame port x)) h else h

/-- A frame on an agent port (R239, R240, R249). One that holds a reserved kind is malformed as well (R256). -/
def Hub.apFrame (h : Hub) (p : BitVec 4) (hd : FrameHdr) : Hub :=
  if !(h.ap p).online then h
  else
    let r := (h.ap p).frame.receive hd h.round
    let h := h.onAp p fun a => { a with
      frame := r.1
      link := if r.1.rpl then .replaying else .online }
    let h := if hd.crcOk && badKind hd then h.raise { rz evApMalformed p.toNat with extra := hd.fseq ++ (0 : BitVec 16) } else h
    let h := if r.2.1 then
        ((h.raise (rz evApReplay p.toNat)).count 0x040 (0x50 + p.toNat) 1).replayMsgs (.ap p) r.1 hd r.2.2
      else h
    let back (c : MsgClass) : Nat := (hd.credits.extractLsb' c.credBit 8).toNat
    if r.1.fails then h.apLinkFails p
    else if r.2.2 then h.giveCredits p (back .req) (back .snp) (back .rsp) (back .dat)
    else h

/-- The credits that a frame of a memory port returns: `RD0`, `RD1`, `WR0` and `WR1` (R260). No declaration counts the other two. -/
def Hub.memCredits (h : Hub) (m : BitVec 3) (w : Word) : Hub :=
  let back (lo : Nat) : Nat := (w.extractLsb' lo 8).toNat
  (h.onChan (2 * m.toNat) fun x => { x with
    rdUsed := x.rdUsed - back 56
    wrUsed := x.wrUsed - back 40 }).onChan (2 * m.toNat + 1) fun x => { x with
    rdUsed := x.rdUsed - back 48
    wrUsed := x.wrUsed - back 32 }

/-- A frame on a memory port (R259, R260). -/
def Hub.mpFrame (h : Hub) (m : BitVec 3) (hd : FrameHdr) : Hub :=
  let port := h.mp m.toNat
  if !port.online then h
  else
    let r := port.frame.receive hd h.round
    let h := { h with mps := h.mps.put m.toNat { port with
      frame := r.1
      link := if r.1.rpl then .replaying else .online } }
    let h := if r.2.1 then
        ((h.raise (rz evApReplay (epMp m.toNat))).count 0x040 (0x60 + m.toNat) 1).replayMsgs (.mp m) r.1 hd r.2.2
      else h
    if r.1.fails then h.mpLinkFails m else if r.2.2 then h.memCredits m hd.credits else h

/-! ### Link training (R236, R259, R194) -/

/-- Ports may be brought up: in a start that waits for them, or in service (R240). -/
def Hub.bringsUp (h : Hub) : Bool :=
  (h.start.phase == .starting && decide (0x0C ≤ h.start.step.toNat)) || h.start.phase == .serving

/-- The domain of a port that stays unused is held asleep (R24). -/
def Hub.holdAsleep (h : Hub) (d : Domain) : Hub := { h with power := { h.power with doms := h.power.doms.put (domKey d) .asleep } }

/-- An agent port stays unused: its bring-up has failed or was refused. -/
def Hub.apUnused (h : Hub) (p : BitVec 4) : Hub :=
  (((h.dropAdmitted p).onAp p fun a => { a with
    link := .down
    trained := false
    decl := none
    unused := true }).holdAsleep (.ap p)).portDone (.ap p)

/-- Refuses an agent port with a cause, which the ledger records (R26, R252). -/
def Hub.apRefuse (h : Hub) (p : BitVec 4) (cause : Nat) : Hub :=
  ((h.emit (.sideband (.ap p) (sbWord 0x05 (fld 0 cause)))).record stApUp p.toNat outRefused cause).apUnused p

/-- Training of an agent port has ended (R236); the fallback is that which the bring-up found (R258). `only16` leaves out the full rate (R434). -/
def Hub.apTrained (h : Hub) (p : BitVec 4) (r : Rate) (only16 : Bool) : Hub :=
  let n := p.toNat
  let fallback := (h.ap p).fallback
  let up (rate16 : Bool) (h : Hub) : Hub := h.onAp p fun a => { a with
    link := .training
    trained := true
    rate16 := rate16
    decl := none }
  match r with
  | .failed => ((h.record stApUp n outFail 0).countStep (bitAp n) false).apUnused p
  | .full =>
    if !only16 then up false (h.countStep (bitAp n) true)
    else if fallback then up true (h.record stApUp n outReduced 0)
    else h.apRefuse p 5
  | .reduced =>
    let h := if only16 then h else h.countStep (bitAp n) false
    if fallback then up true (h.record stApUp n outReduced 0) else h.apRefuse p 5

/-- A memory port stays unused. -/
def Hub.mpUnused (h : Hub) (m : BitVec 3) : Hub :=
  (({ h with mps := h.mps.put m.toNat { h.mp m.toNat with
      link := .down
      trained := false
      declared := false
      unused := true } }).holdAsleep (.mp m)).portDone (.mp m)

/-- Training of a memory port has ended (R259): at 32 GT/s, or it stays unused. A new read bound holds from here (R265). -/
def Hub.mpTrained (h : Hub) (m : BitVec 3) (r : Rate) : Hub :=
  let n := m.toNat
  let port := h.mp n
  match r with
  | .full => { h with
      par := h.par.put (0x7A0 + n) (h.pm (0x7A0 + n))
      chans := ((h.chans.change (2 * n) fun c => { c with geom := false, flow := false }).change (2 * n + 1)
        fun c => { c with geom := false, flow := false })
      mps := h.mps.put n { port with
        link := .training
        trained := true
        declared := false } }
  | _ =>
    let h := h.record stMpUp n outFail 5
    (if r = .reduced then h.emit (.sideband (.mp m) (sbWord 0x24 (fld 0 5))) else h).mpUnused m

/-- Training of a span port has ended (R194): at full rate, or at half rate, which the ledger records. -/
def Hub.spTrained (h : Hub) (n : BitVec 3) (r : Rate) (onlyHalf : Bool) : Hub :=
  let k := n.toNat
  let up (half : Bool) (h : Hub) : Hub := (h.onSp n fun s => { s with
    link := .training
    trained := true
    half := half
    keyed := false
    frame := FrameState.init }).offerKeys n
  match r with
  | .failed =>
    (((h.record stSpanUp k outFail 0).countStep (bitSp k) false).onSp n fun s => { s with
      link := .down
      trained := false }).portDone (.sp n)
  | .full => if onlyHalf then up true (h.record stSpanUp k outReduced 0) else up false (h.countStep (bitSp k) true)
  | .reduced => up true ((if onlyHalf then h else h.countStep (bitSp k) false).record stSpanUp k outReduced 0)

/-- The domain of a port serves. -/
def Hub.domUp (h : Hub) (d : Domain) : Bool := h.dom d == .awake

/-- A bring-up of an agent port begins: it goes by `FALLBACK` as it stands (R258). -/
def Hub.findFallback (h : Hub) (p : BitVec 4) : Hub := h.onAp p fun a => { a with fallback := (h.pw (0x680 + p.toNat)).getLsbD 6 }

/-- `LINK_TRAINING` (R236, R259, R194, R258, R434): the training of a port that is in use, or in a bring-up, and not online has ended. -/
def execLinkTraining (port : PortId) (r : Rate) (s : State) : Host.Outcome State Fault Refusal :=
  onUnit port.wf (State.settlePorts (s.withHub fun h =>
    if !h.bringsUp then h
    else match port with
      | .ap p =>
        let begun := (h.ap p).link == .training
        if !(begun || h.domUsed (.ap p)) || !h.domUp (.ap p) || (h.ap p).online || (h.ap p).trained then h
        else (if begun then h else h.findFallback p).apTrained p r
          (s.otp.except.getLsbD (bitAp p.toNat) || ((h.ap p).rate16 && begun))
      | .mp m =>
        if !((h.mp m.toNat).link == .training || h.domUsed (.mp m)) || !h.domUp (.mp m) || (h.mp m.toNat).online
            || (h.mp m.toNat).trained then h
        else h.mpTrained m r
      | .sp n =>
        if !h.domUsed (.sp n) || !h.domUp (.sp n) || (h.sp n).trained then h
        else h.spTrained n r (s.otp.except.getLsbD (bitSp n.toNat) || ((h.sp n).half && (h.sp n).link == .training))))

/-! ### Bring-up of an agent port (R251, R252) -/

/-- A message that its receiver discards fails a bring-up (R252): the port is trained again at 16 GT/s, or stays unused (R236, R426). -/
def Hub.apFails (h : Hub) (p : BitVec 4) : Hub :=
  if !(h.ap p).rate16 && (h.ap p).fallback then
    ((h.dropAdmitted p).countStep (bitAp p.toNat) false).onAp p fun a => { a with
      trained := false
      rate16 := true
      decl := none }
  else (h.record stApUp p.toNat outFail 0).apUnused p

/-- A trained agent port is in a bring-up. -/
def Hub.apBringing (h : Hub) (p : BitVec 4) : Bool := h.bringsUp && (h.ap p).trained && !(h.ap p).online

/-- A sideband message that its receiver discards, of an agent port: it fails a bring-up (R252). -/
def Hub.badSideband (h : Hub) (p : BitVec 4) : Hub := if h.apBringing p then h.apFails p else h

/-- The fields of `AP_DECLARE` (R252). -/
def apDeclOf (w : Word) : ApDecl :=
  { major := w.extractLsb' 48 8, minor := w.extractLsb' 40 8, count := w.extractLsb' 32 6, reqC := w.extractLsb' 24 8,
    snpC := w.extractLsb' 16 8, rspC := w.extractLsb' 8 8, datC := w.extractLsb' 0 8, next := 0 }

/-- The refusal cause of a declaration, 0 where none (R3, R26). -/
def ApDecl.cause (d : ApDecl) : Nat :=
  if d.major ≠ 1 then 1
  else if d.count = 0 ∨ 32 < d.count.toNat then 3
  else 0

/-- `AP_DECLARE` (R3, R24, R26, R251, R252): the port is refused whole, or its agents' declarations follow. A port that the configuration leaves
unused is refused; a change of `ENABLE` during a bring-up waits for the next (R258). -/
def execApDeclare (p : BitVec 4) (w : Word) (s : State) : Host.Outcome State Fault Refusal :=
  .next (State.settlePorts (s.withHub fun h =>
    let a := h.ap p
    if !h.bringsUp || a.online then h
    else if !a.trained then
      (if sbOk 0x01 w && a.link != .training && !(h.pw (0x680 + p.toNat)).getLsbD 0 then h.apRefuse p 4 else h)
    else if !sbOk 0x01 w then h.apFails p
    else if a.decl.isSome then h
    else
      let d := apDeclOf w
      match d.cause with
      | 0 => h.onAp p fun a => { a with decl := some d }
      | c => h.apRefuse p c))

/-- The local agent numbers that Lupin may assign: those of no agent, and those of dead agents that every walk has reclaimed (R27,
R148). -/
def Hub.freeNumbers (h : Hub) : List La :=
  ((upTo 128).map (BitVec.ofNat 7)).filter fun la =>
    let a := h.agent la
    !a.valid || (a.dead && !a.online && !a.walking)

/-- Admits the agent of a declaration position under a free number, Lupin's choice (R27), or refuses it (R26). -/
def Hub.admitAgent (h : Hub) (p : BitVec 4) (pos : BitVec 5) (caching device : Bool) : Hub :=
  match h.freeNumbers with
  | [] =>
    (h.emit (.sideband (.ap p) (sbWord 0x03 (fld 48 pos.toNat ||| fld 32 2)))).record stApUp p.toNat outRefused 2
  | l =>
    let k := h.takeFree
    let la := List.nth l (k.1 % l.length) 0
    let h := { k.2 with agents := k.2.agents.put la.toNat ⟨true, false, caching, device, p, pos, false, false, false⟩ }
    h.emit (.sideband (.ap p) (sbWord 0x03 (fld 48 pos.toNat ||| bitAt 40 true ||| fld 0 (Gaid.mk h.num la).toNat)))

/-- The port is online (R248, R251): the hub's credits and `AP_ONLINE` are sent, and its admitted agents are online. -/
def Hub.apOnline (h : Hub) (p : BitVec 4) (d : ApDecl) : Hub :=
  let h := h.emit (.sideband (.ap p) (sbWord 0x04 (fld 24 128 ||| fld 16 64 ||| fld 8 128 ||| fld 0 128)))
  let h := h.emit (.sideband (.ap p) (sbWord 0x06 0))
  let h := h.onAp p fun a => { a with
    link := .online
    online := true
    decl := none
    frame := FrameState.init
    reqCred := d.reqC.toNat
    snpCred := d.snpC.toNat
    rspCred := d.rspC.toNat
    datCred := d.datC.toNat
    stalled := []
    stallDue := false
    parked := false }
  let up (e : Nat × Agent) : Nat × Agent := if e.2.port == p && e.2.valid && !e.2.dead then (e.1, { e.2 with online := true }) else e
  ({ h with agents := List.map up h.agents }).portDone (.ap p)

/-- `AP_AGENT` (R26, R27, R251, R252): the next agent of a declaration is admitted or refused; after the last the port is online. -/
def execApAgent (p : BitVec 4) (w : Word) (s : State) : Host.Outcome State Fault Refusal :=
  .next (State.settlePorts (s.withHub fun h =>
    match (h.ap p).decl with
    | none => if sbOk 0x02 w then h else h.badSideband p
    | some d =>
      if !sbOk 0x02 w then h.apFails p
      else if (w.extractLsb' 48 5).toNat ≠ d.next then h
      else
        let h := h.admitAgent p (w.extractLsb' 48 5) (w.getLsbD 0) (w.getLsbD 1)
        let h := h.onAp p fun a => { a with decl := some { d with next := d.next + 1 } }
        if d.next + 1 = d.count.toNat then h.apOnline p d else h))

/-! ### Bring-up of a memory port (R259, R264) -/

/-- Refuses a memory port with a cause, which the ledger records (R252, R264). -/
def Hub.mpRefuse (h : Hub) (m : BitVec 3) (cause : Nat) : Hub :=
  ((h.emit (.sideband (.mp m) (sbWord 0x24 (fld 0 cause)))).record stMpUp m.toNat outRefused cause).mpUnused m

/-- A message that its receiver discards fails the bring-up of a memory port (R252, R426). -/
def Hub.mpFails (h : Hub) (m : BitVec 3) : Hub := (h.record stMpUp m.toNat outFail 0).mpUnused m

/-- A trained memory port is in a bring-up. -/
def Hub.mpBringing (h : Hub) (m : BitVec 3) : Bool := h.bringsUp && (h.mp m.toNat).trained && !(h.mp m.toNat).online

/-- `MP_DECLARE` (R3, R24, R252, R264). -/
def execMpDeclare (mp : BitVec 3) (w : Word) (s : State) : Host.Outcome State Fault Refusal :=
  .next (State.settlePorts (s.withHub fun h =>
    let port := h.mp mp.toNat
    if !h.bringsUp || port.online then h
    else if !port.trained then
      (if sbOk 0x20 w && port.link != .training && !(h.pw (0x7A0 + mp.toNat)).getLsbD 0 then h.mpRefuse mp 4 else h)
    else if !sbOk 0x20 w then h.mpFails mp
    else if port.declared then h
    else if (w.extractLsb' 48 8).toNat ≠ 1 then h.mpRefuse mp 1
    else { h with mps := h.mps.put mp.toNat { port with declared := true } }))

/-- A declaration within what R264 admits; an absent channel's is not judged. -/
def Hub.chanOk (h : Hub) (c : Nat) : Bool :=
  let k := h.chan c
  k.cap == 0 || (decide (k.bound.toNat ≤ h.bound (portOfChan c)) && decide (64 * h.p 0x7C0 + h.p 0x7C2 ≤ k.rdCred.toNat)
    && decide (k.wmHigh.toNat ≤ k.wrCred.toNat) && decide (k.wmLow.toNat < k.wmHigh.toNat))

/-- A channel of a port that comes into service: one that had failed returns; where its partner holds a mirror, the partner's regions
are copied to it before it serves reads (R280). The slices are told that no pressure is left. -/
def Hub.chanUp (h : Hub) (c : Nat) : Hub :=
  let k := h.chan c
  if k.cap = 0 then h
  else
    let copy := k.stale && h.partnerServes c
    let h := if k.down then h.notify (.up (BitVec.ofNat 4 c)) else h
    let h := if k.pressure then h.notify (.pressure (BitVec.ofNat 4 c) false) else h
    { h with chans := h.chans.put c { k with
        announced := []
        paused := false
        down := false
        failEnd := none
        pressure := false
        lock := none
        lastUse := h.round
        copying := if copy then some (0, 0) else none
        stale := copy
        lost := []
        rdUsed := 0
        wrUsed := 0 } }

/-- `MP_ACCEPT` (R252): the port is online and frames start. -/
def Hub.mpAccept (h : Hub) (m : BitVec 3) : Hub :=
  let h := h.emit (.sideband (.mp m) (sbWord 0x23 0))
  let h := { h with mps := h.mps.put m.toNat { h.mp m.toNat with
      link := .online
      online := true
      frame := FrameState.init } }
  let lo := 2 * m.toNat
  let h := if (h.chan lo).stale then (h.chanUp (lo + 1)).chanUp lo else (h.chanUp lo).chanUp (lo + 1)
  h.portDone (.mp m)

/-- Once both channels are declared whole, Lupin accepts or refuses the port (R264). -/
def Hub.mpJudge (h : Hub) (m : BitVec 3) : Hub :=
  let lo := 2 * m.toNat
  let whole (c : Nat) : Bool := (h.chan c).geom && (h.chan c).flow
  if whole lo && whole (lo + 1) then
    if h.chanOk lo && h.chanOk (lo + 1) then h.mpAccept m else h.mpRefuse m 3
  else h

/-- The declaration of a channel, by a well-formed message of a port that has declared its version. -/
def Hub.mpDeclares (h : Hub) (m : BitVec 3) (id : Byte) (w : Word) (f : Chan → Chan) : Hub :=
  if !h.mpBringing m then h
  else if !sbOk id w then h.mpFails m
  else if !(h.mp m.toNat).declared then h
  else
    let c := 2 * m.toNat + (if w.getLsbD 55 then 1 else 0)
    ({ h with chans := h.chans.upd c Chan.init f }).mpJudge m

/-- `MP_CHAN_GEOM` (R252, R264). -/
def execMpChanGeom (mp : BitVec 3) (w : Word) (s : State) : Host.Outcome State Fault Refusal :=
  .next (State.settlePorts (s.withHub fun h => h.mpDeclares mp 0x21 w fun c =>
    if c.geom then c
    else { c with
      cap := w.extractLsb' 32 16
      bound := w.extractLsb' 16 8
      geom := true }))

/-- `MP_CHAN_FLOW` (R252, R264). -/
def execMpChanFlow (mp : BitVec 3) (w : Word) (s : State) : Host.Outcome State Fault Refusal :=
  .next (State.settlePorts (s.withHub fun h => h.mpDeclares mp 0x22 w fun c =>
    if c.flow then c
    else { c with
      wmHigh := w.extractLsb' 30 10
      wmLow := w.extractLsb' 20 10
      rdCred := w.extractLsb' 10 10
      wrCred := w.extractLsb' 0 10
      flow := true }))

end Sys2Proof.Machine
end

