-- ==== Sys2Proof/Machine/Mesh.lean ====
section
/-!
DEFINITION. The mesh: the change of its route tables (R19, R317), locks and budgets that expire (R315, R324), and the checks that
run on every mesh link, span engine and stop (R349).
-/
namespace Sys2Proof.Machine

/-! ### Route tables (R317) -/

/-- Loads a new slice map into the inactive copies and names the earliest flip round, or queues it behind a change that has not drained
(R317). -/
def Hub.loadMap (h : Hub) (m : Tbl Nat) : Hub :=
  let e := h.epoch
  { h with epoch :=
      if e.loaded.isNone && !e.draining then { e with
        loaded := some m
        flipAt := some (h.round + 2) }
      else { e with waiting := e.waiting ++ [m] } }

/-- `EPOCH_FLIP` (R317): from cycle 0 of round F every endpoint resolves new flits with the new table. -/
def execEpochFlip (s : State) : Host.Outcome State Fault Refusal :=
  .next (s.withHub fun h =>
    match h.epoch.loaded, h.epoch.flipAt with
    | some m, some f =>
      if f ≤ h.round then { h with
        map := m
        epoch := { h.epoch with
          loaded := none
          draining := true } }
      else h
    | _, _ => h)

/-- The next change waits no longer once the one before it has drained. -/
def Hub.loadWaiting (h : Hub) : Hub :=
  match h.epoch.waiting with
  | [] => h
  | m :: t => ({ h with epoch := { h.epoch with waiting := t } }).loadMap m

/-- `EPOCH_DRAINED` (R317): no flit of the old epoch is left in a cycle after round F; the old copy is released and `EPOCH` changes. -/
def execEpochDrained (s : State) : Host.Outcome State Fault Refusal :=
  .next (s.withHub fun h =>
    let past : Bool := match h.epoch.flipAt with
      | some f => decide (f < h.round)
      | none => true
    if h.epoch.draining && past then
      ({ h with epoch := { h.epoch with
          draining := false
          flipAt := none
          epoch := !h.epoch.epoch } }).loadWaiting
    else h)

/-! ### Locks and budgets -/

/-- The endpoint of an arbiter. -/
def arbEp : ArbiterId → Nat
  | .egress hs => hs.toNat
  | .memPort mp => epMp mp.toNat
  | .spanPort sp => epSpan sp.toNat

/-- `LOCK_EXPIRED` (R324): a lock ends at the end of its fourth round at the latest. -/
def execLockExpired (a : ArbiterId) (s : State) : Host.Outcome State Fault Refusal :=
  onUnit a.wf (s.withHub fun h =>
    let b := h.arbs.getD (arbKey a) Arbiter.init
    if b.lockBy.isSome && decide (4 ≤ b.lockAge) then
      ({ h with arbs := h.arbs.put (arbKey a) { b with lockBy := none } }).raise (rz evMeshLockExpired (arbEp a))
    else h)

/-- `VALUE` of `EVT_MESH_BUDGET` (R453): the source in [22:16], the destination in [14:8] and the overrun in cycles, at most 255, in
[7:0]. -/
def budgetValue (src dst : BitVec 7) (cycles : BitVec 16) : Word :=
  BitVec.ofNat 64 (src.toNat * 2 ^ 16 + dst.toNat * 2 ^ 8 + min 255 cycles.toNat)

/-- `MESH_BUDGET_OVERRUN` (R315): a budget flit that is late is still delivered; the event names its endpoints and its overrun. -/
def execMeshBudgetOverrun (src dst : BitVec 7) (cycles : BitVec 16) (s : State) : Host.Outcome State Fault Refusal :=
  onUnit (stopExists src && stopExists dst) (s.withHub fun h =>
    h.raise { rz evMeshBudget src.toNat with value := budgetValue src dst cycles })

/-! ### Checks that run by themselves (R349) -/

/-- `MESH_PROBE_ROUND` (R349): the probe flits of every mesh link; one that is wrong in content, order or transit is fatal (R344). -/
def execMeshProbeRound (bad : Bool) (s : State) : Host.Outcome State Fault Refusal :=
  .next (s.withHub fun h => if bad then h.fatal evHubFatal noInst 0 else h)

/-- `AES_KNOWN_ANSWER_TEST` (R349): a span engine computes a known answer; a wrong one is fatal (R344). -/
def execAesKnownAnswerTest (engine : BitVec 1) (ok : Bool) (s : State) : Host.Outcome State Fault Refusal :=
  .next (s.withHub fun h => if ok then h else h.fatal evHubFatal (BitVec.ofNat 8 (66 + engine.toNat)) 0)

/-- `ROUND_COMPARE` (R349): every 256 rounds a stop compares `ROUND_COUNT`[7:0] with the control core's broadcast; a mismatch is
fatal (R344). -/
def execRoundCompare (stop : BitVec 7) (seen : Byte) (s : State) : Host.Outcome State Fault Refusal :=
  onUnit (stopExists stop) (s.withHub fun h =>
    if h.round % 256 = 0 && h.round != 0 && seen != BitVec.ofNat 8 h.round then h.fatal evHubFatal (stop.setWidth 8) 0 else h)

end Sys2Proof.Machine
end

