-- ==== Sys2Proof/Machine/SpanLinks.lean ====
section
/-!
DEFINITION. Span links (R191–R204): frames and what they carry for other hubs, keying and rekeying, links that go down, route
changes, and hop tickets.
-/
namespace Sys2Proof.Machine

/-! ### Route changes (R202, R228, R234) -/

/-- Messages of the epoch before may still be on their way: those of this hub that wait at its ports, and those of others within the hop bound
of twelve half-rate hops (R202; DEDUCED, assumption log 90). -/
def Hub.draining (h : Hub) : Bool :=
  h.routeOld.flip != 0
    && (decide (h.round < h.routeOld.flip + 252) || h.sps.any fun e => (e.2.hopHeld ++ e.2.waits).any fun m => m.epoch != h.spanEpoch)

/-- A route in the table that a change has loaded, or the one in force. -/
def Hub.routeNext (h : Hub) (x : HubNo) : Word := (h.routeNew.getD []).getD (0x400 + x.toNat) (h.pw (0x400 + x.toNat))

/-- A lost hub that the change under way routes to again (R228; DESIGN CHOICE, assumption log 93). -/
def Hub.readmits (h : Hub) (x : HubNo) : Bool :=
  h.lostHubs.contains x && ((h.routeNew.getD []).getD (0x400 + x.toNat) 0).getLsbD 0

/-- The hubs of the old and of the new table: those that are to acknowledge a change. -/
def Hub.routeHubs (h : Hub) : List HubNo :=
  ((upTo 512).map (BitVec.ofNat 9)).filter fun x =>
    x != h.num && (h.readmits x || (!h.lostHubs.contains x && (h.routeValid x || (h.routeNext x).getLsbD 0)))

/-- Takes a span port out of use; what waits there for a credit or under a hop ticket stays and is sent again. -/
def Hub.spanDown (h : Hub) (n : BitVec 3) : Hub :=
  let h := h.onSp n fun s => { s with
    link := .down
    trained := false
    keyed := false
    rekey := false
    keys := 0
    tx := []
    rx := []
    creds := []
    tagBad := []
    queue := []
    wire := SpanTx.init
    idle := false }
  h.endWhere (fun k => k == .rekey n) ccFailed

/-- Puts words into a table. -/
def putAll : Tbl Word → Tbl Word → Tbl Word
  | [], t => t
  | (k, w) :: r, t => putAll r (t.put k w)

/-- What waits for a credit at a port that has gone down takes the route in force. -/
def Hub.resendWaits (h : Hub) (n : BitVec 3) : Hub :=
  if (h.sp n).keyed then h
  else (h.sp n).waits.foldl (fun h m =>
    if h.reachable m.dest then h.sendSpan { m with sp := h.routePort m.dest, epoch := h.spanEpoch } else h)
    (h.onSp n fun p => { p with waits := [] })

/-- A span port that some route names. -/
def Hub.routed (h : Hub) (n : BitVec 3) : Bool :=
  ((upTo 512).map (BitVec.ofNat 9)).any fun x => x != h.num && h.routeValid x && h.routePort x == n

/-- What a new table does to the domain of a span port (R411; DESIGN CHOICE, assumption log 95): a keyed port that it takes out of every route is to
sleep, and the domain of one that it names wakes. -/
def Hub.routeDomain (h : Hub) (was : Bool) (n : BitVec 3) : Hub :=
  if h.routed n then
    let h := h.onSp n fun p => { p with idle := false }
    if !h.spUsed n then h
    else match h.dom (.sp n) with
      | .awake => h
      | .closing _ => h.abortDown (.sp n)
      | _ => (h.askWake (.sp n)).placeWake (.sp n)
  else h.onSp n fun p => { p with idle := was && p.keyed }

/-- The new epoch begins: the loaded words are in force, the old routes serve the messages of the old epoch, ports no longer enabled go
down, hubs that no route reaches are unreachable (R228), and one that has acknowledged and that every slice has walked for returns. -/
def Hub.flipRoutes (h : Hub) (words : Tbl Word) : Hub :=
  let before := h.otherHubs
  let acked := h.routeAcks
  let old := (upTo 512).map fun i => (0x400 + i, h.pw (0x400 + i))
  let ports := (upTo 6).map (BitVec.ofNat 3)
  let was := ports.map fun n => h.routed n
  let h := { h with
    par := putAll words h.par
    routeNew := none
    routeOld := ⟨old, h.round⟩
    routeAcks := []
    spanEpoch := !h.spanEpoch }
  let h := ports.foldl (fun h n =>
    if !(h.pw (0x188 + n.toNat)).getLsbD 0 && (h.sp n).trained then h.spanDown n else h) h
  let h := (before.filter fun x => !h.reachable x).foldl (fun h x => h.declareLost x) h
  let h := ports.foldl (fun h n => (h.resendWaits n).routeDomain (List.nth was n.toNat false) n) h
  { h with lostHubs := h.lostHubs.filter fun x => !(acked.contains x && h.routeValid x && h.walkedFor x) }

/-- The new epoch begins once every hub has acknowledged the change (R202), the change before has drained (R317), and every slice has walked for the hubs that
it brings back (R228). While Uluhiva restarts,
the change waits in its record (R347). -/
def Hub.tryRoutes (h : Hub) : Hub :=
  match h.routeNew with
  | none => h
  | some words =>
    let ready (x : HubNo) : Bool := h.routeAcks.contains x && (!h.readmits x || h.walkedFor x)
    if !h.core.restart && !h.draining && h.routeHubs.all ready then h.flipRoutes words else h

/-- Loads new words of the home map, the routes, the port configuration and the groups beside those in force (R202, R234), and
acknowledges them to every hub. A change that comes before the one under way has its acknowledgements joins it. -/
def Hub.startRoutes (h : Hub) (words : Tbl Word) : Hub :=
  let h := { h with
    routeAcks := if h.routeNew.isSome then [] else h.routeAcks
    routeNew := some (putAll words (h.routeNew.getD [])) }
  (h.routeHubs.foldl (fun h x => h.emit (.smgt x smgtRouteAck 0)) h).tryRoutes

/-- `ROUTE_CHANGE_ACK` (R202). -/
def execRouteChangeAck (hub : HubNo) (s : State) : Host.Outcome State Fault Refusal :=
  .next (s.withHubR fun h =>
    if hub = h.num || h.routeAcks.contains hub then h
    else ({ h with routeAcks := h.routeAcks ++ [hub] }).tryRoutes)

/-! ### Links that go down (R193, R228) -/

/-- The ring sizes of the torus. -/
def ringSizes : List Nat := (upTo 3).map fun d => max 1 (Config.ring d)

/-- The coordinates of a hub in the torus, from its number x + X·y + X·Y·z (R200). -/
def torusAt (n : Nat) : List Nat :=
  let x := List.nth ringSizes 0 1
  let y := List.nth ringSizes 1 1
  [n % x, n / x % y, n / (x * y)]

/-- The dimension-ordered routes from one hub to another: in the first ring in which they differ, either way round, then the shorter way in
each later one; the port of the first hop and the hops, the shorter route first (R200). -/
def torusRoutes (a b : Nat) : List (Nat × Nat) :=
  let ahead (d : Nat) : Nat :=
    let size := List.nth ringSizes d 1
    (List.nth (torusAt b) d 0 + size - List.nth (torusAt a) d 0) % size
  let back (d : Nat) : Nat := List.nth ringSizes d 1 - ahead d
  match (upTo 3).find? fun d => ahead d != 0 with
  | none => []
  | some d =>
    let rest := ((upTo 3).filter fun k => d < k && ahead k != 0).foldl (fun n k => n + min (ahead k) (back k)) 0
    let plus := (d, ahead d + rest)
    let minus := (d + 3, back d + rest)
    if plus.2 ≤ minus.2 then [plus, minus] else [minus, plus]

/-- Lupin's new route to a hub whose link is lost: dimension-ordered, through a keyed port, within 12 hops, or none (R200, R202; assumption log
45). -/
def Hub.newRoute (h : Hub) (x : HubNo) : Word :=
  match (torusRoutes h.num.toNat x.toNat).find? fun r => (h.sp (BitVec.ofNat 3 r.1)).keyed && decide (r.2 ≤ 12) with
  | some (p, n) => fld 8 n ||| fld 2 p ||| 1
  | none => h.pw (0x400 + x.toNat) &&& ~~~1

/-- A span link fails: its event, and new routes for the hubs that it led to. -/
def Hub.spanFails (h : Hub) (n : BitVec 3) : Hub :=
  if !(h.sp n).trained then h
  else
    let h := ((h.raise (rz evSpanLinkDown n.toNat)).spanDown n).portDone (.sp n)
    let lost := ((upTo 512).map (BitVec.ofNat 9)).filter fun x => h.routeValid x && h.routePort x == n
    if lost.isEmpty then h else h.startRoutes (lost.map fun x => (0x400 + x.toNat, h.newRoute x))

/-- `SPAN_LINK_DOWN` (R193). -/
def execSpanLinkDown (sp : BitVec 3) (s : State) : Host.Outcome State Fault Refusal :=
  onUnit (spExists sp) (State.settlePorts (s.withHubR fun h => h.spanFails sp))

/-! ### Keying (R196, R197, R199) -/

/-- The digest of this hub's home map (R199). -/
def Hub.mapDigest (h : Hub) : BitVec 384 := Config.sha384 ((upTo 512).map fun i => h.pw (0x200 + i))

/-- A hub number that is in use: this hub's, or that of another hub at another link (R196). -/
def Hub.numberUsed (h : Hub) (sp : BitVec 3) (k : KeyingPeer) : Bool :=
  k.hub == h.num || (upTo 6).any fun n =>
    let p := h.sp (BitVec.ofNat 3 n)
    n != sp.toNat && p.keyed && p.peer == k.hub && p.peerKey != k.attest

/-- A peer that keying lets in (R3, R196, R199): its certificate is checked by the authority key that the Steward has installed. -/
def Hub.peerOk (h : Hub) (sp : BitVec 3) (k : KeyingPeer) : Bool :=
  h.core.authority != 0 && k.certOk && k.sigOk && k.major == 1 && !h.numberUsed sp k && k.mapDigest == h.mapDigest

/-- The key and salt of a direction of a link (R195, R196). -/
def linkKey (secret : BitVec 384) (dir : Nat) : LinkKey :=
  let k := Config.hkdf secret dir
  ⟨k.extractLsb' 32 256, k.extractLsb' 0 32⟩

/-- The credits that a link starts with, for each class and dateline set (assumption log 88). -/
def startCredits : Tbl Nat := (upTo 8).map fun i => (i + 2, Config.spanCredit (i + 2))

/-- A link whose keying has succeeded: new keys for both directions, in the idle slot of a link that was keyed before; the direction from the
hub of the smaller number is numbered 0 (DESIGN CHOICE, assumption log 91). -/
def SpPort.takeKeys (s : SpPort) (own : HubNo) (log2 : Nat) (k : KeyingPeer) : SpPort :=
  let kep := if s.keyed then !s.kep else false
  let slot := if kep then 1 else 0
  let out := if own.toNat < k.hub.toNat then 0 else 1
  { s with
    link := .online
    keyed := true
    kep := kep
    rekey := false
    frames := 0
    sent := 0
    keys := if s.keyed then 3 else 1
    tx := s.tx.put slot (linkKey k.secret out)
    rx := s.rx.put slot (linkKey k.secret (1 - out))
    rekeyLog2 := log2
    peer := k.hub
    peerKey := k.attest
    creds := if s.keyed then s.creds else startCredits
    wire := if s.keyed then s.wire else SpanTx.init
    frame := if s.keyed then s.frame else FrameState.init }

/-- Sends what waits at a port, in its order, as far as the credits reach. -/
def Hub.flushSpan (h : Hub) (n : BitVec 3) : Hub :=
  (h.sp n).waits.foldl (fun h m => h.sendSpan m) (h.onSp n fun p => { p with waits := [] })

/-- The route of a lost hub whose link is keyed again: one hop through that port (R228; DESIGN CHOICE, assumption log 93). -/
def Hub.routeBack (h : Hub) (sp : BitVec 3) (x : HubNo) : Hub :=
  if h.lostHubs.contains x then h.startRoutes [(0x400 + x.toNat, fld 8 1 ||| fld 2 sp.toNat ||| 1)] else h

/-- `SPAN_KEYING` (R196, R197, R199, R228): a lost hub comes back with the route change that follows, once every hub has acknowledged it. The ledger record of a refused peer has `DETAIL` 0 (DESIGN CHOICE, assumption log 79). -/
def execSpanKeying (sp : BitVec 3) (k : KeyingPeer) (s : State) : Host.Outcome State Fault Refusal :=
  onUnit (spExists sp) (State.settlePorts (s.withHubR fun h =>
    let p := h.sp sp
    if !p.trained || (p.keyed && !p.rekey) || (!p.keyed && !h.bringsUp) then h
    else if !h.peerOk sp k then (h.record stSpanUp sp.toNat outRefused 0).spanFails sp
    else
      let h := ((h.onSp sp fun s => s.takeKeys h.num (h.p 0x184) k).flushSpan sp).endWhere (fun k => k == .rekey sp) ccOk
      (h.routeBack sp k.hub).portDone (.sp sp)))

/-- `SPAN_REKEY_COUNT` (R197): as many frames have been sent under the key, idle ones among them, as its limit allows, and the exchange for
the next key begins. -/
def execSpanRekeyCount (sp : BitVec 3) (s : State) : Host.Outcome State Fault Refusal :=
  onUnit (spExists sp) (s.withHub fun h =>
    if (h.sp sp).keyed && !(h.sp sp).rekey then
      (h.onSp sp fun p => { p with
        rekey := true
        sent := 2 ^ p.rekeyLog2 }).offerKeys sp
    else h)

/-- `REKEY_DEADLINE` (R197): a rekey has not completed in 2^48 frames. -/
def execRekeyDeadline (sp : BitVec 3) (s : State) : Host.Outcome State Fault Refusal :=
  onUnit (spExists sp) (State.settlePorts (s.withHubR fun h =>
    if (h.sp sp).rekey then (h.onSp sp fun p => { p with sent := 2 ^ 48 }).spanFails sp else h))

/-! ### Messages for other hubs (R201, R202, R204, R205) -/

/-- The route word of a message by its epoch: the table in force, the one before while it drains, or the loaded one. -/
def Hub.routeFor (h : Hub) (x : HubNo) (epoch : Bool) : Word :=
  if epoch = h.spanEpoch then h.pw (0x400 + x.toNat)
  else if h.routeNew.isSome && !h.draining then h.routeNext x
  else h.routeOld.table.getD (0x400 + x.toNat) (h.pw (0x400 + x.toNat))

/-- Adds to a statistic of a span port (R459, kind 4). -/
def Hub.countSpan (h : Hub) (n : BitVec 3) (i : Nat) : Hub :=
  { h with pmc := { h.pmc with spanHist := h.pmc.spanHist.upd n.toNat [] fun l => addNth l i 1 } }

/-- Forwards a message that came in at a port (R201, R205). A request finds the queue full while 64 wait there under hop tickets, and is
answered with a hop ticket; its delay is the engine's (R204). -/
def Hub.forward (h : Hub) (n : BitVec 3) (u : SpanUnit) : Hub :=
  let w := u.header
  if hdrHops w = 12 then h.raise (rzTx evSpanHops n.toNat u.flit.line u.flit.gaid u.flit.txid)
  else
    let r := h.routeFor (hdrDest w) (hdrEpoch w)
    let out : BitVec 3 := r.extractLsb' 2 3
    if !r.getLsbD 0 || !decide (out.toNat ≤ 5) then h
    else if hdrSvc w = 0 && decide (64 ≤ (h.sp out).hopHeld.length) then
      let k := h.takeFree
      k.2.emit (.hopTicket n u.flit.gaid u.flit.txid (k.1 % 65536))
    else
      h.sendSpan {
        sp := out, dest := hdrDest w, src := hdrSrc w, svc := hdrSvc w, dset := h.dsetOut out (some (n, hdrDset w)),
        epoch := hdrEpoch w, hops := hdrHops w + 1, opc := u.opc, flit := u.flit, data := u.data, operand := u.operand, be := u.be,
        until_ := none }

/-- The slots that a message's `LEN` names: 2 of a control message, 12 of one with data or an operand (R205). -/
def spanLenOk (u : SpanUnit) : Bool := hdrLen u.header == (if u.data.isSome || u.operand.isSome then 12 else 2)

/-- A message of a frame that R205 and R207 make malformed; a length that no message has is one (DEDUCED, assumption log 92). -/
def badUnit (u : SpanUnit) : Bool :=
  let w := u.header
  w.extractLsb' 0 33 != 0 || !spanLenOk u || !spanOpcOk (hdrSvc w) u.opc || u.flit.spanBad u.opc

/-- An answer of the home to a request: the request has been accepted at every hop. -/
def answersReq (u : SpanUnit) : Bool := [0x28, 0x29, 0x2A].contains u.opc.toNat

/-- A request whose acceptance is known is kept at no port (assumption log 89). -/
def Hub.reqAccepted (h : Hub) (u : SpanUnit) : Hub :=
  if answersReq u then
    { h with sps := List.map (fun e => (e.1, { e.2 with
      queue := e.2.queue.filter fun m => !m.isReq u.flit.gaid u.flit.txid })) h.sps }
  else h

/-- A message of a frame: discarded where it is malformed, left to its own command where it is for this hub, forwarded otherwise. Before
the link is keyed only `SMGT` is admitted (R196). -/
def Hub.spanUnit (n : BitVec 3) (h : Hub) (u : SpanUnit) : Hub :=
  let w := u.header
  let smgt := hdrSvc w = 4
  if !smgt && (badUnit u || !(h.sp n).keyed) then h.raise (rzTx evSpanMalformed n.toNat u.flit.line u.flit.gaid u.flit.txid)
  else
    let h := h.reqAccepted u
    if hdrDest w = h.num then h else h.forward n u

/-! ### Frames (R193) -/

/-- A replay on a span link: its event and its counts. -/
def Hub.spanReplay (h : Hub) (n : BitVec 3) : Hub :=
  ((h.raise (rz evSpanReplay n.toNat)).count 0x040 (0x68 + n.toNat) 1).countSpan n 8

/-- A frame's tag is good under the key in the slot that it names; on a keyed link an empty slot verifies nothing (R192, R195). -/
def SpPort.tagGood (p : SpPort) (fr : SpanFrameIn) : Bool := fr.tagOk && (!p.keyed || p.keys.getLsbD (if fr.kep then 1 else 0))

/-- A frame that the receiver discards (R193): by the FEC, the CRC or the tag. -/
def Hub.badSpanFrame (h : Hub) (n : BitVec 3) (fr : SpanFrameIn) : Hub :=
  let s := h.sp n
  let byTag := fr.fecOk && fr.crcOk && !s.tagGood fr
  let twice := byTag && s.tagBad.contains fr.fseq
  let f := { s.frame.noteReplay h.round with rpl := true }
  let h := h.onSp n fun p => { p with
    frame := f
    wire := { p.wire with ask := true }
    link := if p.keyed then .replaying else p.link
    tagBad := if byTag then p.tagBad ++ [fr.fseq] else p.tagBad }
  let h := h.spanReplay n
  if twice || decide (16 ≤ f.replays.length) then h.spanFails n else h

/-- The credit returns of a frame: the counts of `SSNP`, `SRSP`, `SDAT` and `SMGT`, for the dateline set that `CSET` names (R192). -/
def SpPort.giveCred (p : SpPort) (fr : SpanFrameIn) : Tbl Nat :=
  (upTo 4).foldl (fun t i => t.upd (2 * (i + 1) + (if fr.cset then 1 else 0)) 0 fun n => n + (fr.cred.extractLsb' (18 - 6 * i) 6).toNat)
    p.creds

/-- The frames that a replay asks for go once more, bit-identical (R193). -/
def Hub.resendFrames (h : Hub) (n : BitVec 3) (fack : BitVec 16) : Hub :=
  ((h.sp n).resends fack).foldl (fun h x => h.emit (.spanFrame n x)) h

/-- The credit of a message that has been taken off the link is freed (R192, R203); requests take none. -/
def SpPort.freeUnit (p : SpPort) (u : SpanUnit) : SpPort :=
  let svc := (hdrSvc u.header).toNat
  if decide (1 ≤ svc) && decide (svc ≤ 4) then p.free (2 * svc + (if hdrDset u.header then 1 else 0)) else p

/-- A frame in sequence: its credits and its acknowledgement, a replay that it asks for, and its messages. -/
def Hub.goodSpanFrame (h : Hub) (n : BitVec 3) (fr : SpanFrameIn) : Hub :=
  let f := (h.sp n).frame
  let f := { f with
    rx := f.rx + 1
    ack := fr.fack
    rpl := false
    credits := fr.cred.setWidth 64 }
  let f := if fr.rpl then f.noteReplay h.round else f
  let h := h.onSp n fun p => { p with
    frame := f
    frames := p.frames + 1
    creds := p.giveCred fr
    wire := (fr.units.foldl SpPort.freeUnit p).wire
    tagBad := p.tagBad.filter fun x => x != fr.fseq
    link := if p.keyed then .online else p.link }
  let h := h.flushSpan n
  let h := if fr.rpl then (h.spanReplay n).resendFrames n fr.fack else h
  if decide (16 ≤ f.replays.length) then h.spanFails n else fr.units.foldl (Hub.spanUnit n) h

/-- `SPAN_FRAME` (R192, R193, R205). -/
def execSpanFrame (sp : BitVec 3) (fr : SpanFrameIn) (s : State) : Host.Outcome State Fault Refusal :=
  onUnit (spExists sp) (State.settlePorts (s.withHubR fun h =>
    if !(h.sp sp).trained then h
    else if !(fr.fecOk && fr.crcOk && (h.sp sp).tagGood fr) then h.badSpanFrame sp fr
    else if fr.fseq ≠ (h.sp sp).frame.rx then h
    else h.goodSpanFrame sp fr))

/-! ### Hop tickets (R204) -/

/-- Rounds that a hub's own span request waits are added to its transaction (R204, R212). -/
def Hub.addWait (h : Hub) (g : Gaid) (t : Txid) (l : Line) (n : Nat) : Hub :=
  match h.findTxn g t l with
  | some x =>
    if x.spanReq && !x.req.span then
      h.onTxn (h.homeHs l) x.tid fun y => { y with
        worst := y.worst + n
        added := y.added + n }
    else h
  | none => h

/-- `HOP_TICKET` (R204): the next hop has no room; the request is kept for the delay that it names. -/
def execHopTicket (sp : BitVec 3) (gaid : Gaid) (txid : Txid) (delay : BitVec 16) (s : State) : Host.Outcome State Fault Refusal :=
  onUnit (spExists sp) (s.withHub fun h =>
    match (h.sp sp).queue.find? fun m => m.isReq gaid txid with
    | none => h
    | some m =>
      let h := h.onSp sp fun p => { p with
        queue := List.dropFirst (fun x => x.isReq gaid txid) p.queue
        hopHeld := p.hopHeld ++ [{ m with until_ := some (h.round + delay.toNat) }] }
      let h := (h.count 0x051 (0x68 + sp.toNat) 1).countSpan sp 9
      h.addWait gaid txid m.flit.line delay.toNat)

/-- `HOP_TICKET_RESEND` (R204): the delay is over; a request whose port is down takes the route in force. -/
def execHopTicketResend (sp : BitVec 3) (gaid : Gaid) (txid : Txid) (s : State) : Host.Outcome State Fault Refusal :=
  onUnit (spExists sp) (s.withHub fun h =>
    let due (m : SpanOut) : Bool := m.isReq gaid txid && (match m.until_ with
      | some n => decide (n ≤ h.round)
      | none => false)
    match (h.sp sp).hopHeld.find? due with
    | none => h
    | some m =>
      let h := h.onSp sp fun p => { p with hopHeld := List.dropFirst due p.hopHeld }
      let out := if (h.sp sp).keyed then sp else h.routePort m.dest
      if out ≠ sp && !h.reachable m.dest then h
      else h.sendSpan { m with
        sp := out
        until_ := none })

end Sys2Proof.Machine
end

