-- ==== Sys2Proof/Machine/SpanMsgs.lean ====
section
/-!
DEFINITION. Span messages (R205–R228): requests, writebacks and snoops as they come in at this hub, and the answers, completions and
acknowledgements that go between a home, its holders and a proxy.
-/
namespace Sys2Proof.Machine

/-! ### Requests at the home (R199, R214, R215) -/

/-- A malformed span message is discarded (R207). -/
def Hub.badSpan (h : Hub) (f : Flit) : Hub := h.raise (rzTx evSpanMalformed noInst.toNat f.line f.gaid f.txid)

/-- A message without a reserved bit set goes on (R207). -/
def Hub.spanGood (h : Hub) (opc : BitVec 6) (m : SpanMsg) (k : Hub → Hub) : Hub := if m.flit.spanBad opc then h.badSpan m.flit else k h

/-- A span request as the home's slice judges it (R207, R214). -/
def spanReq (op : ReqOp) (f : Flit) (operand : BitVec 256) : Req :=
  { op := op, gaid := f.gaid, txid := f.txid, line := f.line, crit := f.crit, stream := false, pair := f.pair, aop := f.aop,
    asize := f.asize, aoff := f.aoff, rsvSeq := if op == .rsvLoad || op == .rsvStore then f.rsvSeq else 0, operand := operand, span := true,
    src := f.gaid.hub, age := 0, tkt := none }

/-- Ends a span request that no slice of this hub serves. -/
def Hub.refuseSpan (h : Hub) (f : Flit) : Hub :=
  h.toHub f.gaid.hub 0x28 (spanCmpFlit f.gaid f.txid f.line oMalformed 0 0) none none

/-- A coherent span request arrives (R214): it is presented to its line's slice, its write data kept at the span engine. An address that
is not in a memory window of this hub, and a form that R169 or R173 makes malformed, end it here. -/
def Hub.spanRequest (h : Hub) (op : ReqOp) (m : SpanMsg) (d : Option WrData) (operand : BitVec 256) : Hub :=
  let f := m.flit
  if h.start.phase != .serving then h
  else if f.spanBad op.spanOpc || !((d.map fun x => x.sound).getD true) then h.badSpan f
  else match h.classify f.line with
    | .home _ =>
      if h.badForm f op then h.refuseSpan f
      else
        let r := spanReq op f operand
        let h := match d with
          | some _ =>
            let rep : SpanRep := ⟨r, d, 0⟩
            { h with spanReps := h.spanReps ++ [rep] }
          | none => h
        h.present r none
    | .device _ | .window _ => (h.raise (rzTx evApRegionMismatch noInst.toNat f.line f.gaid f.txid)).refuseSpan f
    | .unmapped | .remote _ => (h.raise (rzTx evApUnmapped noInst.toNat f.line f.gaid f.txid)).refuseSpan f

/-- `SPAN_RD_S` (R208, R214). -/
def execSpanRdS (m : SpanMsg) (s : State) : Host.Outcome State Fault Refusal :=
  .next (s.withHub fun h => h.spanRequest .rdShared m none 0)

/-- `SPAN_RD_ANY` (R208, R214). -/
def execSpanRdAny (m : SpanMsg) (s : State) : Host.Outcome State Fault Refusal :=
  .next (s.withHub fun h => h.spanRequest .rdAny m none 0)

/-- `SPAN_RD_O` (R208, R214). -/
def execSpanRdO (m : SpanMsg) (s : State) : Host.Outcome State Fault Refusal :=
  .next (s.withHub fun h => h.spanRequest .rdOwn m none 0)

/-- `SPAN_UPGRADE` (R222). -/
def execSpanUpgrade (m : SpanMsg) (s : State) : Host.Outcome State Fault Refusal :=
  .next (s.withHub fun h => h.spanRequest .upgrade m none 0)

/-- `SPAN_RD_ONCE` (R206, R214): with `RSV` = 1 a reservation load. -/
def execSpanRdOnce (m : SpanMsg) (s : State) : Host.Outcome State Fault Refusal :=
  .next (s.withHub fun h => h.spanRequest (if m.flit.b28 then .rsvLoad else .rdOnce) m none 0)

/-- `SPAN_WR` (R206, R214): with `RSV` = 1 a conditional store, with byte enables a partial write. -/
def execSpanWr (m : SpanMsg) (d : WrData) (s : State) : Host.Outcome State Fault Refusal :=
  .next (s.withHub fun h =>
    h.spanRequest (if m.flit.b28 then .rsvStore else if d.beValid then .wrPart else .wrFull) m (some d) 0)

/-- `SPAN_ATOM` (R206, R214). -/
def execSpanAtom (m : SpanMsg) (operand : BitVec 256) (s : State) : Host.Outcome State Fault Refusal :=
  .next (s.withHub fun h => h.spanRequest .atom m none operand)

/-- `SPAN_REPRESENT` (R215): a stored request is presented again for its ticket round, or at D+64. -/
def execSpanRepresent (gaid : Gaid) (txid : Txid) (s : State) : Host.Outcome State Fault Refusal :=
  .next (s.withHub fun h =>
    let mine (x : SpanRep) : Bool := x.req.gaid == gaid && x.req.txid == txid && x.at_ != 0
    match h.spanReps.find? mine with
    | none => h
    | some x =>
      if h.start.phase != .serving || h.round + 1 < x.at_ then h
      else
        let keep := List.mapIf mine (fun y => { y with at_ := 0 }) h.spanReps
        ({ h with spanReps := keep.filter fun y => !(y.req.gaid == gaid && y.req.txid == txid && y.data.isNone) }).present x.req (some x.at_))

/-! ### Device requests of other hubs (R182, R206, R467) -/

/-- A device request from another hub: at the device-region unit or the register window of this hub. -/
def State.spanDevice (s : State) (m : SpanMsg) (d : Option WrData) (be : ByteMask) : State :=
  let h := s.hub
  let f := m.flit
  let r := devReq f 0 0 d be (some f.gaid.hub)
  if h.start.phase != .serving then s
  else if f.spanBad (if d.isSome then 0x0D else 0x0C) || !((d.map fun x => x.sound).getD true) then s.withHub fun h => h.badSpan f
  else match h.classify f.line with
    | .window x => if x = h.num then s.serveWindow r else s.withHub fun h => (h.raise (rzTx evApUnmapped noInst.toNat f.line f.gaid f.txid)).devRefuse r oMalformed
    | .device n => s.withHub fun h => h.devArrive n { r with
        region := n
        target := h.drtTarget n }
    | .home _ => s.withHub fun h => (h.raise (rzTx evApRegionMismatch noInst.toNat f.line f.gaid f.txid)).devRefuse r oMalformed
    | .unmapped | .remote _ => s.withHub fun h => (h.raise (rzTx evApUnmapped noInst.toNat f.line f.gaid f.txid)).devRefuse r oMalformed

/-- `SPAN_DEV_RD` (R182). -/
def execSpanDevRd (m : SpanMsg) (be : ByteMask) (s : State) : Host.Outcome State Fault Refusal := .next (s.spanDevice m none be)

/-- `SPAN_DEV_WR` (R182). -/
def execSpanDevWr (m : SpanMsg) (d : WrData) (s : State) : Host.Outcome State Fault Refusal := .next (s.spanDevice m (some d) 0)

/-! ### Writebacks and notices (R211, R223) -/

/-- Acknowledges a writeback or notice (R223). -/
def Hub.spanCmpWb (h : Hub) (m : SpanMsg) : Hub := h.toHub m.src 0x2B (Flit.plain m.flit.gaid m.flit.txid m.flit.line 0) none none

/-- `SPAN_WB` (R211, R223): its data enters the write buffer and is never refused. -/
def execSpanWb (m : SpanMsg) (d : MeshData) (e : LookupErr) (s : State) : Host.Outcome State Fault Refusal :=
  .next (s.withHub fun h =>
    let l := m.flit.line
    if !h.takesAnswers then h
    else if m.flit.spanBad 0x10 || !d.line.sound then h.badSpan m.flit
    else if !h.isHome l then h.spanCmpWb m
    else
      let hs := h.homeHs l
      let h := ((h.moved (h.epToward m.src) hs true 64).count 0x006 l.ls.toNat 1).readSd hs l e
      let h := h.meshUe hs l d.ue
      let pois := enterPoison d.line.poison d.ue
      let mine (b : BackInv) : Bool := b.line == l && b.hubs.contains m.src
      let h := ((h.readMerge hs l e).enterValue hs l .writeback true d.line.bytes pois (some m.flit.gaid)).newerData hs l d.line.bytes pois
      let h := h.onSlice hs fun s => { s with backs := List.mapIf mine (fun b => { b with data := true }) s.backs }
      let h := (h.turnHubNotice hs l m.src m.flit.b28).spanCmpWb m
      match (h.slice hs).lookedOn l with
      | some t => h.settle hs t.tid
      | none => h)

/-- `SPAN_EVICT` (R211, R223). -/
def execSpanEvict (m : SpanMsg) (e : LookupErr) (s : State) : Host.Outcome State Fault Refusal :=
  .next (s.withHub fun h =>
    let l := m.flit.line
    if !h.takesAnswers then h
    else h.spanGood 0x11 m fun h =>
      if !h.isHome l then h.spanCmpWb m
      else
        let hs := h.homeHs l
        let h := ((h.moved (h.epToward m.src) hs false 16).count 0x006 l.ls.toNat 1).readSd hs l e
        (h.turnHubNotice hs l m.src false).spanCmpWb m)

/-- `SPAN_CMP_WB` (R211): the proxy lets the writeback's data go, or sends what has come since. -/
def execSpanCmpWb (m : SpanMsg) (s : State) : Host.Outcome State Fault Refusal :=
  .next (s.withHub fun h =>
    let l := m.flit.line
    let hs := h.homeHs l
    if !h.takesAnswers then h
    else h.spanGood 0x2B m fun h => if m.flit.txid = evictTx l then h else match h.wbFind hs l with
      | none => h
      | some x =>
        if x.home || !x.sent then h
        else if x.again then
          (h.onWb hs l fun y => { y with
            sent := false
            again := false }).proxyFlush hs l false
        else h.dropWb hs l)

/-! ### Snoops at a holder (R226) -/

/-- The held entries of a logical slice that are free. -/
def Hub.freeHeld (h : Hub) (hs : Nat) : Option (BitVec 4) :=
  ((upTo 16).map (BitVec.ofNat 4)).find? fun i => !((h.slice hs).helds.any fun k => k.idx == i)

/-- A span snoop takes a held entry, whose lookup reads the line's set through the correctors, or waits in order at the span engine while all 16
are busy. -/
def Hub.spanSnoop (h : Hub) (op : SnpOp) (m : SpanMsg) (e : LookupErr) : Hub :=
  if h.start.phase != .serving && h.start.phase != .draining then h
  else h.spanGood op.spanOpc m fun h =>
    let ls := m.flit.line.ls
    let hs := h.homeHs m.flit.line
    let h := h.moved (h.epToward m.src) hs false 16
    match h.freeHeld hs, h.waitSnoops.any fun w => w.ls == ls with
    | some idx, false => (h.readSf hs m.flit.line e true).startHeld hs idx op m
    | _, _ =>
      let w : WaitSnoop := ⟨ls, op, m, h.round⟩
      ({ h with waitSnoops := h.waitSnoops ++ [w] }).countSpan (h.routePort m.src) 11

/-- `SPAN_SNP_S` (R226). -/
def execSpanSnpS (m : SpanSnoopIn) (s : State) : Host.Outcome State Fault Refusal := .next (s.withHub fun h => h.spanSnoop .fwdS m.msg m.err)

/-- `SPAN_SNP_O` (R226). -/
def execSpanSnpO (m : SpanSnoopIn) (s : State) : Host.Outcome State Fault Refusal := .next (s.withHub fun h => h.spanSnoop .fwdO m.msg m.err)

/-- `SPAN_SNP_INV` (R226). -/
def execSpanSnpInv (m : SpanSnoopIn) (s : State) : Host.Outcome State Fault Refusal := .next (s.withHub fun h => h.spanSnoop .inv m.msg m.err)

/-- `SPAN_SNP_DATA` (R226). -/
def execSpanSnpData (m : SpanSnoopIn) (s : State) : Host.Outcome State Fault Refusal := .next (s.withHub fun h => h.spanSnoop .data m.msg m.err)

/-- `SPAN_SNOOP_ENTRY_FREE` (R226): the first snoop that waits takes the entry that has come free. -/
def execSpanSnoopEntryFree (ls : FreedEntry) (s : State) : Host.Outcome State Fault Refusal :=
  .next (s.withHub fun h =>
    let hs := h.hsOf ls.ls
    match h.freeHeld hs, h.waitSnoops.find? fun w => w.ls == ls.ls with
    | some idx, some w =>
      let h := ({ h with waitSnoops := List.dropFirst (fun x => x.ls == ls.ls) h.waitSnoops }).readSf hs w.msg.flit.line ls.err true
      h.startHeld hs idx w.op w.msg
    | _, _ => h)

/-! ### Answers of holders (R209, R218, R224) -/

/-- A holder's answer: its copy at the home, or the answer at the requester's hub. One that nothing waits for is absorbed. The data of the home's
own answer comes as the home's (R209). -/
def Hub.holderRsp (h : Hub) (opc : BitVec 6) (m : SpanMsg) : Hub :=
  let f := m.flit
  if !h.takesAnswers then h
  else h.spanGood opc m fun h =>
    if f.b26 then
      let hs := h.homeHs f.line
      match h.copyWaits m.src f with
      | some t => h.homeCopyIn hs t m.src f.kept none
      | none => h.backHub hs f.line m.src none
    else match h.findTxn f.gaid f.txid f.line with
      | some t =>
        if t.req.span then h else h.holderAnswer (h.homeHs f.line) t.tid (opc == 0x22 && h.remoteHome f.line != some m.src)
      | none => h

/-- `SPAN_RSP_I` (R218). -/
def execSpanRspI (m : SpanMsg) (s : State) : Host.Outcome State Fault Refusal := .next (s.withHub fun h => h.holderRsp 0x20 m)

/-- `SPAN_RSP_S` (R218). -/
def execSpanRspS (m : SpanMsg) (s : State) : Host.Outcome State Fault Refusal := .next (s.withHub fun h => h.holderRsp 0x21 m)

/-- `SPAN_RSP_FWD` (R218): its data comes as `SPAN_DAT`. -/
def execSpanRspFwd (m : SpanMsg) (s : State) : Host.Outcome State Fault Refusal := .next (s.withHub fun h => h.holderRsp 0x22 m)

/-- `SPAN_RSP_DATA` (R224–R226): the holder's data enters the home's write buffer; its answer counts for the requester too. -/
def execSpanRspData (m : SpanMsg) (d : MeshData) (s : State) : Host.Outcome State Fault Refusal :=
  .next (s.withHub fun h =>
    let f := m.flit
    let hs := h.homeHs f.line
    if !h.takesAnswers then h
    else if f.spanBad 0x24 || !d.line.sound then h.badSpan f
    else match h.copyWaits m.src f with
      | some t => ((h.answerFor hs t).meshUe hs f.line d.ue).homeCopyIn hs t m.src f.kept (some { meshLine d with dirty := false })
      | none =>
        if (h.slice hs).backs.any fun b => b.line == f.line && b.hubs.contains m.src then
          (h.meshUe hs f.line d.ue).backHub hs f.line m.src (some (meshLine d))
        else h)

/-! ### Data and completions at the requester's hub (R209, R210, R212) -/

/-- This hub's own device request at another hub. -/
def Hub.remoteDev (h : Hub) (f : Flit) : Option DevReq :=
  h.dev.reqs.find? fun r => r.region == 64 && r.gaid == f.gaid && r.txid == f.txid && r.line == f.line

/-- Ends a remote device request once its completion and, for a read that was served, its data are in. -/
def Hub.settleDev (h : Hub) (f : Flit) : Hub :=
  match h.remoteDev f with
  | none => h
  | some r =>
    match r.rsp with
    | none => h
    | some o =>
      if r.write || o = oMalformed || o = oNoRsv then h.devFinish { r with write := true } o none
      else if r.got.isSome then h.devFinish r o r.got else h

/-- Changes a device request. -/
def Hub.onDev (h : Hub) (dtx : Txid) (f : DevReq → DevReq) : Hub :=
  { h with dev := { h.dev with reqs := List.mapIf (fun r => r.dtx == dtx) f h.dev.reqs } }

/-- `SPAN_DAT` (R209): a holder's or the home's data at the gate, or the data of a device read. Data for an `UPGRADE` says that the home has
served an ownership read, so that the gate passes it on (R210, R222). -/
def execSpanDat (m : SpanMsg) (d : MeshData) (s : State) : Host.Outcome State Fault Refusal :=
  .next (s.withHub fun h =>
    let f := m.flit
    let hs := h.homeHs f.line
    if !h.takesAnswers then h
    else if f.spanBad 0x30 || !d.line.sound then h.badSpan f
    else match h.findTxn f.gaid f.txid f.line, h.remoteDev f with
      | some t, _ =>
        if t.req.span then h
        else
          let fromHome := h.remoteHome f.line == some m.src
          let upd (x : Txn) : Txn := { x with gate := { x.gate with
            need := x.gate.need || x.req.op == .upgrade
            homeData := if fromHome then x.gate.homeData.or (some (meshLine d)) else x.gate.homeData
            spanData := if fromHome then x.gate.spanData else x.gate.spanData.or (some (meshLine d)) } }
          (((h.moved (h.epToward m.src) hs true 64).meshUe hs f.line d.ue).onTxn hs t.tid upd).settle hs t.tid
      | none, some r => ((h.meshUe epDev f.line d.ue).onDev r.dtx fun x => { x with got := some (meshLine d) }).settleDev f
      | none, none => h)

/-- The bucket of the rounds that tickets have added to a span request (R459, kind 4). -/
def addedBucket (n : Nat) : Nat :=
  if n = 0 then 0 else if n ≤ 7 then 1 else if n ≤ 15 then 2 else if n ≤ 63 then 3 else if n ≤ 255 then 4
  else if n ≤ 1023 then 5 else if n ≤ 4095 then 6 else 7

/-- The grant of an `RD_ANY` that the home answers with `SG_E` where the proxy's entry was `UNC` (R210): its entry names an owner. -/
def Hub.ownAny (h : Hub) (hs : Nat) (t : Txn) : Hub :=
  let h := h.onTxn hs t.tid fun x => { x with
    entry := some (.own t.req.gaid.la)
    gate := { x.gate with grant := gE } }
  match (h.slice hs).wayOf t.req.line with
  | some w => h.putEntry hs t.req.line w (.own t.req.gaid.la)
  | none => h

/-- A request that the home turns away leaves its requester without a copy. -/
def Hub.turnedAway (h : Hub) (hs : Nat) (t : Txn) : Hub :=
  let h := h.onTxn hs t.tid fun x => { x with
    wrote := true
    gate := { x.gate with
      need := false
      pullWait := false
      grant := gNone } }
  match (h.slice hs).healthyWays t.req.line with
  | w :: _ =>
    let v := ((h.slice hs).viewAt t.req.line.sfSet w).getD .unc
    if t.view.names.contains t.req.gaid.la && !t.req.op.isOwn then h
    else h.putEntry hs t.req.line w (v.without fun a => a == t.req.gaid.la)
  | [] => h

/-- `SPAN_CMP` at the proxy (R209, R210): the hub-level grant and the answers to collect; a gate that has released already records it. -/
def Hub.proxyCmp (h : Hub) (f : Flit) (t : Txn) : Hub :=
  let hs := h.homeHs f.line
  let port := match h.remoteHome f.line with
    | some e => h.routePort e
    | none => 0
  let h := { h with pmc := { h.pmc with
    spanHist := h.pmc.spanHist.upd port.toNat [] fun l => addBucket l (addedBucket t.added) } }
  let h := h.onTxn hs t.tid fun x => { x with gate := { x.gate with
    spanCmp := true
    spanAcks := f.ackCnt.toNat
    spanGrant := f.sgrant
    outcome := f.kept } }
  let h := if t.gate.released then h
    else if f.kept = oMalformed then h.turnedAway hs t
    else if t.req.op = .rdAny ∧ f.sgrant = 2 ∧ t.view = SView.unc then h.ownAny hs t
    else h
  let late := (h.slice hs).acksDue.contains (f.gaid, f.txid, f.line)
  let h := if late && t.acked.isSome && f.sgrant != 0 then h.tellHome { t with gate := { t.gate with spanGrant := f.sgrant } } else h
  h.settle hs t.tid

/-- `SPAN_CMP` (R209, R210): for a proxy's transaction, or for a device request of this hub. -/
def execSpanCmp (m : SpanMsg) (s : State) : Host.Outcome State Fault Refusal :=
  .next (s.withHub fun h =>
    let f := m.flit
    if !h.takesAnswers then h
    else h.spanGood 0x28 m fun h => match h.findTxn f.gaid f.txid f.line, h.remoteDev f with
      | some t, _ => if t.req.span || !t.spanReq || t.gate.spanCmp then h else h.proxyCmp f t
      | none, some r => (h.onDev r.dtx fun x => { x with rsp := some f.kept }).settleDev f
      | none, none => h)

/-- `SPAN_TICKET` (R212): the home holds the request; the named delay is added to the transaction. -/
def execSpanTicket (m : SpanMsg) (s : State) : Host.Outcome State Fault Refusal :=
  .next (s.withHub fun h =>
    if h.takesAnswers then h.spanGood 0x29 m fun h => h.addWait m.flit.gaid m.flit.txid m.flit.line m.flit.delay.toNat else h)

/-- `SPAN_DEFER` (R212): the same; with `RETURN` = 1 the proxy sends the request again after 64 of its rounds. -/
def execSpanDefer (m : SpanMsg) (s : State) : Host.Outcome State Fault Refusal :=
  .next (s.withHub fun h =>
    let f := m.flit
    if !h.takesAnswers then h
    else h.spanGood 0x2A m fun h =>
      let waits : Bool := match h.findTxn f.gaid f.txid f.line with
        | some t => t.spanReq && !t.req.span && !t.gate.spanCmp
        | none => false
      let back : SpanBack := ⟨f.gaid, f.txid, f.line, h.round + 64⟩
      let h := if waits && f.b28 then { h with spanBacks := h.spanBacks ++ [back] } else h
      h.addWait f.gaid f.txid f.line f.delay.toNat)

/-- Sends a proxy's span request again, a write with the data that the proxy kept. -/
def Hub.resendSpan (h : Hub) (t : Txn) (e : HubNo) : Hub :=
  match t.wdata with
  | some d => h.sendSpanWr t.req e d.bytes (if d.poison then allBytes else 0) d.be
  | none => h.sendSpanReq t t.req.op e

/-- `SPAN_DEFER_RESEND` (R212). -/
def execSpanDeferResend (gaid : Gaid) (txid : Txid) (s : State) : Host.Outcome State Fault Refusal :=
  .next (s.withHub fun h =>
    let due (b : SpanBack) : Bool := b.gaid == gaid && b.txid == txid && decide (b.at_ ≤ h.round)
    match h.spanBacks.find? due with
    | none => h
    | some b =>
      let h := { h with spanBacks := List.dropFirst due h.spanBacks }
      match h.findTxn gaid txid b.line, h.remoteHome b.line with
      | some t, some e => if t.spanReq && !t.gate.spanCmp then h.resendSpan t e else h
      | _, _ => h)

/-! ### Acknowledgements and releases at the home (R179, R218) -/

/-- `SPAN_CMP_ACK` (R218): the gecko hold of the home's transaction starts; one that comes after the hold has begun is absorbed. -/
def execSpanCmpAck (m : SpanMsg) (s : State) : Host.Outcome State Fault Refusal :=
  .next (s.withHub fun h =>
    let f := m.flit
    let hs := h.homeHs f.line
    let key := (f.gaid, f.txid, f.line)
    if !h.takesAnswers then h
    else h.spanGood 0x2C m fun h => if (h.slice hs).acksDue.contains key then h.onSlice hs fun s => { s with acksDue := s.acksDue.filter fun x => x != key }
    else match h.findTxn f.gaid f.txid f.line with
      | some t => if t.req.span && t.gate.spanGrant != 0 && t.acked.isNone then h.startHold hs t.tid else h
      | none => h)

/-- `SPAN_RSV_RELEASE` (R179): passed to the anchor slice. -/
def execSpanRsvRelease (m : SpanMsg) (s : State) : Host.Outcome State Fault Refusal :=
  .next (s.withHub fun h =>
    let f := m.flit
    if !h.takesAnswers then h
    else h.spanGood 0x2D m fun h => if h.isHome f.line then { h with rsvNotes := h.rsvNotes ++ [(2, ⟨f.line, f.line, f.gaid, f.txid, f.rsvSeq⟩)] }
    else h)

/-! ### Unreachable hubs (R228) -/

/-- `SPAN_GRACE` (R228): a holder's copy of its answer to a transaction's snoop, or to a span back-invalidation of the slice (R232), is missing
at the end of Span Grace. -/
def execSpanGrace (ls : BitVec 6) (tid : Byte) (hub : HubNo) (s : State) : Host.Outcome State Fault Refusal :=
  .next (s.withHub fun h =>
    let hs := h.hsOf ls
    let byTxn : Bool := match h.txn hs tid with
      | some t => t.copies.contains hub && decide (t.copyDue ≤ h.round)
      | none => false
    let byBack : Bool := (h.slice hs).backs.any fun b => b.hubs.contains hub && decide (b.due ≤ h.round)
    if byTxn || byBack then h.declareLost hub else h)

/-- `SPAN_HUB_LOST_NOTICE` (R228): another home has declared a hub unreachable. -/
def execSpanHubLostNotice (hub : HubNo) (s : State) : Host.Outcome State Fault Refusal :=
  .next (s.withHub fun h => h.loseHub hub)

end Sys2Proof.Machine
end

