-- ==== Sys2Proof/Machine/Dies.lean ====
section
/-!
DEFINITION. Power messages of core dies (R252, R406, R407, R412), and the rows at which port domains pass their points of no return and serve again
(R320, R411, R413).
-/
namespace Sys2Proof.Machine

/-! ### Power messages -/

/-- A power message at its agent port: one that the receiver discards fails a bring-up (R252). -/
def onSideband (id : Byte) (p : BitVec 4) (w : Word) (s : State) (f : Hub → Hub) : Host.Outcome State Fault Refusal :=
  if sbOk id w then .next (s.withHub f) else .next (State.settlePorts (s.withHub fun h => h.badSideband p))

/-- `PWR_DECLARE`: one operating point, from OP0 upward (R252, R406). -/
def execPwrDeclare (p : BitVec 4) (w : Word) (s : State) : Host.Outcome State Fault Refusal :=
  onSideband 0x10 p w s fun h =>
    let d := h.die p
    let op := (w.extractLsb' 48 4).toNat
    if d.closed || op ≠ d.points.length then h
    else
      let pt := ((w.extractLsb' 16 16).toNat, (w.extractLsb' 0 16).toNat)
      h.onDie p fun d => { d with
        points := d.points ++ [pt]
        closed := w.getLsbD 52
        budget := if op = 0 then pt.1 else d.budget
        share := if op = 0 then pt.1 else d.share }

/-- `PWR_REQ` (R406, R410). -/
def execPwrReq (p : BitVec 4) (w : Word) (s : State) : Host.Outcome State Fault Refusal :=
  onSideband 0x11 p w s fun h =>
    let op := (w.extractLsb' 0 4).toNat
    if (h.die p).points.length ≤ op then h
    else ((h.onDie p fun d => { d with wanted := some op }).queueGrant p op false).runGrants

/-- A round that a die names, as the round of receipt reads it (R9). -/
def roundOf (now : Nat) (v : BitVec 16) : Nat :=
  let d := (v - BitVec.ofNat 16 now).toNat
  if d < 32768 then now + d else now + d - 65536

/-- `PWR_STEP_DONE` (R407): the granted point is reached, no earlier than S and within 50 rounds of it. -/
def execPwrStepDone (p : BitVec 4) (w : Word) (s : State) : Host.Outcome State Fault Refusal :=
  onSideband 0x13 p w s fun h =>
    match (h.die p).grant with
      | none => h
      | some (op, t) =>
        let at_ := roundOf h.round (w.extractLsb' 0 16)
        if (w.extractLsb' 48 4).toNat ≠ op then h
        else if at_ < t || t + 50 < at_ then (h.onDie p fun d => { d with op := op }).dieBreach p
        else (h.onDie p fun d => { d with
          op := op
          grant := none
          wanted := if d.wanted = some op then none else d.wanted }).runGrants

/-- `PWR_TELEM` (R407): a budget exceeded for two telemetry periods in a row is a breach. -/
def execPwrTelem (p : BitVec 4) (w : Word) (s : State) : Host.Outcome State Fault Refusal :=
  onSideband 0x14 p w s fun h =>
    let pw := (w.extractLsb' 32 16).toNat
    let excess := if (h.die p).budget < pw then (h.die p).overs + 1 else 0
    let h := h.onDie p fun d => { d with
      power := pw
      current := (w.extractLsb' 16 16).toNat
      temp := w.extractLsb' 8 8
      overs := excess }
    if 2 ≤ excess then h.dieBreach p else h

/-- `PWR_SLEEP_REQ` (R412): the slices begin the check of their filters. -/
def execPwrSleepReq (p : BitVec 4) (w : Word) (s : State) : Host.Outcome State Fault Refusal :=
  onSideband 0x15 p w s fun h =>
    if h.dom (.ap p) != .awake || (h.ap p).sleepWalk.isSome then h
    else h.onAp p fun a => { a with sleepWalk := some (h.round, false) }

/-- `PWR_WAKE_REQ` (R24, R412, R418): it ends a sleep walk with a refusal, aborts a power-down, or asks for the wake; an unused port's domain is
never woken. -/
def execPwrWakeReq (p : BitVec 4) (w : Word) (s : State) : Host.Outcome State Fault Refusal :=
  onSideband 0x17 p w s fun h =>
    if (h.ap p).sleepWalk.isSome then
      (h.onAp p fun a => { a with sleepWalk := none }).emit (.sideband (.ap p) (sbWord 0x16 0))
    else if !h.domUsed (.ap p) then h
    else match h.dom (.ap p) with
      | .awake => h.unpark (.ap p)
      | .closing _ => h.abortDown (.ap p)
      | _ => (h.askWake (.ap p)).placeWake (.ap p)

/-! ### Port domains -/

/-- The link of a span port that goes to sleep is down; it is keyed again at its wake (R411). -/
def Hub.linkOff (h : Hub) (d : Domain) : Hub :=
  match d with
  | .sp n => (h.spanDown n).onSp n fun p => { p with idle := false }
  | _ => h

/-- `POINT_OF_NO_RETURN` (R320, R411, R413): the first opening stage of a power-down begins. -/
def execPointOfNoReturn (d : Domain) (s : State) : Host.Outcome State Fault Refusal :=
  onUnit d.wf (s.withHub fun h =>
    match h.dom d with
    | .closing t => if t ≤ h.round then (h.linkOff d).setDom d (.opening (t + 511)) else h
    | _ => h)

/-- `DOMAIN_SERVE` (R319, R413): the domain serves again; what its wake buffer held is delivered first. -/
def execDomainServe (d : Domain) (s : State) : Host.Outcome State Fault Refusal :=
  onUnit d.wf (s.withHub fun h =>
    match h.dom d with
    | .waking _ r =>
      if r ≤ h.round then
        let h := (h.setDom d .awake).unpark d
        ({ h with power := { h.power with wakeBufs := h.power.wakeBufs.drop (domKey d) } }).devPump
      else h
    | _ => h)

end Sys2Proof.Machine
end

