-- ==== Sys2Proof/Machine/Frames.lean ====
section
/-!
DEFINITION. What the frames of agent and memory ports bring (R237, R238, R243–R248, R256, R260–R263): their slots, the messages
and the data headers in them, the data paired with its message, and each whole message taken as the command that it is. The choices that the
frames leave open are those of assumption logs 94 and 96.
-/
namespace Sys2Proof.Machine

/-! ### Slots (R238) -/

/-- What a slot holds. -/
inductive RxUnit where
  | flit (w : BitVec 128)
  | header (w : BitVec 128)
  | beat (b : BitVec 256)
  deriving DecidableEq, Repr

/-- The units of a slot of a kind. -/
def slotUnits (kind : BitVec 3) (b : BitVec 256) : List RxUnit :=
  let lo := b.extractLsb' 0 128
  let hi := b.extractLsb' 128 128
  match kind.toNat with
  | 1 => [.beat b]
  | 2 => [.flit lo, .flit hi]
  | 3 => [.flit lo, .header hi]
  | 4 => [.header lo, .flit hi]
  | 5 => [.header lo, .header hi]
  | 6 => [.flit lo]
  | _ => []

/-- A place in a port's frames: the frame's `FSEQ`, the slot and the unit (R256). -/
def framePos (fseq : BitVec 16) (slot unit : Nat) : BitVec 32 := fseq ++ BitVec.ofNat 8 slot ++ BitVec.ofNat 8 unit

/-- What a frame holds, in the order in which it is offered. -/
def frameHolds (f : FrameHdr) : List (BitVec 32 × RxUnit) :=
  (upTo 7).flatMap fun i =>
    let us := slotUnits (f.kinds.extractLsb' (3 * i) 3) (f.slots.extractLsb' (256 * i) 256)
    (upTo us.length).flatMap fun k => (us.drop k).take 1 |>.map fun u => (framePos f.fseq i k, u)

/-! ### Headers and beats (R245–R247) -/

/-- The beats of a header are all in. -/
def RxHdr.whole (x : RxHdr) : Bool := decide (headBeats x.word ≤ x.beats.length)

/-- The beats of a message's data: one of an `ATOM`, two of a line. -/
def beatsDue (opc : BitVec 6) : Nat := if opc = 0x0B then 1 else 2

/-- A header that belongs to nothing, kept to absorb its beats. -/
def RxHdr.sunk (x : RxHdr) : Bool := headOpc x.word == 0
/-- A header loses what it belongs to. -/
def RxHdr.sink (x : RxHdr) : RxHdr := { x with word := x.word &&& 0x06000000 }

/-- A beat goes to the first header that still waits for one; without a header it is stray. -/
def takeBeat (b : BitVec 256) : List RxHdr → List RxHdr × Bool
  | [] => ([], true)
  | x :: t =>
    if x.whole then
      let r := takeBeat b t
      (x :: r.1, r.2)
    else ({ x with beats := x.beats ++ [b] } :: t, false)

/-- A unit comes in; the answer says whether it is a beat without a header. -/
def RxSide.takeUnit (r : RxSide) (pos : BitVec 32) : RxUnit → RxSide × Bool
  | .flit w =>
    let m : RxMsg := ⟨pos, (Flit.ofWord w).1, (Flit.ofWord w).2, 8⟩
    ({ r with msgs := r.msgs ++ [m] }, false)
  | .header w =>
    let x : RxHdr := ⟨pos, w.extractLsb' 64 64, w.extractLsb' 0 64, []⟩
    ({ r with hdrs := r.hdrs ++ [x] }, false)
  | .beat b =>
    let k := takeBeat b r.hdrs
    ({ r with hdrs := k.1 }, k.2)

/-- The line of a header's beats. -/
def RxHdr.line (x : RxHdr) : LineBits := lineOf x.beats (headFirst x.word)
/-- A header's data; `ok` is false where it breaks R246 or R247. -/
def RxHdr.payload (x : RxHdr) (ok : Bool) : Payload := ⟨x.line, headDirty x.word, headPoison x.word, ok⟩
/-- A header's data as write data. -/
def RxHdr.wrData (x : RxHdr) (ok : Bool) : WrData := ⟨x.line, x.be, headBeValid x.word, headPoison x.word, ok⟩

/-- A header of a message, by `OPC`, `GAID` and `TXID` (R247). -/
def RxHdr.pairs (x : RxHdr) (opc : BitVec 6) (m : RxMsg) : Bool :=
  headOpc x.word == opc && headGaid x.word == m.flit.gaid && headTxid x.word == m.flit.txid

/-! ### Messages of an agent port (R244, R256) -/

/-- The opcodes that the agent side may send. -/
def agentOpc (opc : BitVec 6) : Bool :=
  within opc.toNat 0x00 0x05 || within opc.toNat 0x08 0x0E || opc = 0x10 || opc = 0x11 || within opc.toNat 0x20 0x25 || opc = opCmp || opc = 0x2C

/-- The opcodes of the data headers that the agent side may send. -/
def agentData (opc : BitVec 6) : Bool := within opc.toNat 0x08 0x0D || opc = 0x10 || opc = 0x24 || opc = opDatFwd

/-- The device request that a `CMP` of an agent port answers. -/
def Hub.devAnswered (h : Hub) (p : BitVec 4) (f : Flit) : Option DevReq :=
  h.dev.reqs.find? fun r => r.dtx == f.txid && r.sent.isSome && r.region != 64 && (h.agent r.target).port == p

/-- The header `OPC` of the data that a message waits for (R244, R245, R253). -/
def Hub.dataOpc (h : Hub) (p : BitVec 4) (m : RxMsg) : Option (BitVec 6) :=
  if [0x08, 0x09, 0x0A, 0x0B, 0x0D, 0x10, 0x24].contains m.opc.toNat then some m.opc
  else if m.opc = opCmp then
    match h.devAnswered p m.flit with
    | some r => if r.write then none else some opDevRd
    | none => none
  else none

/-- The state after a command that completes. -/
def outcomeOr (s : State) : Host.Outcome State Fault Refusal → State
  | .next t => t
  | _ => s

/-- Changes what a port's frames have brought. -/
def State.onPart (s : State) (p : BitVec 4) (f : FrameState → FrameState) : State := s.withHub fun h => h.onAp p fun a => { a with frame := f a.frame }

/-- A malformed message of a frame (R256): a request of an agent of the port completes with `O_MALFORMED`. -/
def Hub.malformedMsg (h : Hub) (p : BitVec 4) (m : RxMsg) : Hub :=
  let a := h.agent m.flit.gaid.la
  let h := h.malformedAt p m.flit
  if msgClass m.opc = .req && m.flit.gaid.hub == h.num && a.valid && a.port == p && a.online && !a.dead then h.malformedCmp p m.flit else h

/-- The command that a whole message is, run on the state. -/
def State.runMsg (s : State) (p : BitVec 4) (m : RxMsg) (x : RxHdr) (ok : Bool) : Host.Outcome State Fault Refusal :=
  let f := m.flit
  match m.opc.toNat with
  | 0x00 => execRdShared p f s
  | 0x01 => execRdAny p f s
  | 0x02 => execRdOwn p f s
  | 0x03 => execUpgrade p f s
  | 0x04 => execRdOnce p f s
  | 0x05 => execRsvLoad p f s
  | 0x08 => execWrFull p f (x.wrData ok) s
  | 0x09 => execWrPart p f (x.wrData ok) s
  | 0x0A => execRsvStore p f (x.wrData ok) s
  | 0x0B => execAtom p f ⟨List.nth x.beats 0 0, ok⟩ s
  | 0x0C => execDevRd p f allBytes s
  | 0x0D => execDevWr p f (x.wrData ok) s
  | 0x0E => execFenceSweep p f s
  | 0x10 => execWbDirty p f ⟨x.payload ok, 0⟩ LookupErr.none s
  | 0x11 => execEvictClean p f LookupErr.none s
  | 0x20 => execRspI p f s
  | 0x21 => execRspS p f s
  | 0x22 => execRspFwdS p f s
  | 0x23 => execRspFwdI p f s
  | 0x24 => execRspWb p f (x.payload ok) 0 s
  | 0x25 => execRspCross p f s
  | 0x28 => match s.hub.devAnswered p f with
    | some r => execDevTargetAnswer p r.target f.txid f.kept (x.payload ok) s
    | none => .next (s.withHub fun h => h.raise (rzTx evApStrayRsp p.toNat f.line f.gaid f.txid))
  | _ => execCmpAck p f s

/-- A message that is whole, or can be whole no more, is taken: the command that it is, or malformed; its credits are freed (R248, R256). -/
def State.takeMsg (s : State) (p : BitVec 4) (m : RxMsg) (x : Option RxHdr) (ok : Bool) : State :=
  let s := s.onPart p fun f =>
    let g := (if x.isSome then f.free (MsgClass.credBit .dat) else f).free (msgClass m.opc).credBit
    { g with part := { g.part with
      pos := m.pos
      msgs := g.part.msgs.filter fun y => y.pos != m.pos } }
  if agentOpc m.opc then outcomeOr s (s.runMsg p m (x.getD ⟨m.pos, 0, 0, []⟩) ok) else s.withHub fun h => h.malformedMsg p m

/-- A message in its turn: taken with its data once that is wholly in, and as malformed where it is not in within 8 frames (R247). -/
def State.offerMsg (p : BitVec 4) (s : State) (m : RxMsg) : State :=
  match s.hub.dataOpc p m with
  | none => s.takeMsg p m none true
  | some opc =>
    let hdrs := (s.hub.ap p).frame.part.hdrs
    let put (l : List RxHdr) : State := s.onPart p fun f => { f with part := { f.part with hdrs := l } }
    match hdrs.find? fun x => x.pairs opc m with
    | some x =>
      if x.whole then
        (put (hdrs.filter fun y => y.pos != x.pos)).takeMsg p m (some x) (headBeats x.word == beatsDue opc)
      else if m.left = 0 then (put (List.mapIf (fun y => y.pos == x.pos) RxHdr.sink hdrs)).takeMsg p m (some x) false
      else s
    | none => if m.left = 0 then s.takeMsg p m none false else s

/-- Forwarded data is taken as the data of the snoop that it answers (R243); data that no snoop asked for is stray. -/
def State.takeFwd (s : State) (p : BitVec 4) (x : RxHdr) (ok : Bool) : State :=
  let g := headGaid x.word
  let t := headTxid x.word
  let mine (y : Snoop) : Bool := y.gaid == g && y.txid == t && !y.dataIn
  let snoops := (s.hub.ap p).snoops
  match (snoops.find? fun y => mine y && y.got.isSome).or (snoops.find? mine) with
  | some y => outcomeOr s (execDatFwd p (Flit.plain g t y.line (lowField 20 y.la.toNat)) ⟨x.payload ok, 0⟩ s)
  | none => s.withHub fun h => h.raise (rzTx evApStrayRsp p.toNat 0 g t)

/-- A header after a frame's messages (R246, R247): forwarded data that is in is taken; one that no message waits for is malformed, and only
absorbs the beats that still follow it. -/
def State.offerHdr (p : BitVec 4) (fseq : BitVec 16) (s : State) (x : RxHdr) : State :=
  let part := (s.hub.ap p).frame.part
  let waits := part.msgs.any fun m => match s.hub.dataOpc p m with
    | some opc => x.pairs opc m
    | none => false
  let late := decide (8 ≤ (fseq - x.pos.extractLsb' 16 16).toNat)
  let gone (s : State) : State := s.onPart p fun f =>
    let l := if x.whole then f.part.hdrs.filter fun y => y.pos != x.pos else List.mapIf (fun y => y.pos == x.pos) RxHdr.sink f.part.hdrs
    { f with part := { f.part with hdrs := l } }
  let freed (s : State) : State := s.onPart p fun f =>
    let g := f.free (MsgClass.credBit .dat)
    { g with part := { g.part with pos := x.pos } }
  if x.sunk then (if x.whole then gone s else s)
  else if headOpc x.word = opDatFwd then
    if x.whole then (freed (gone s)).takeFwd p x (headBeats x.word == 2)
    else if late then (freed (gone s)).takeFwd p x false
    else s
  else if waits && agentData (headOpc x.word) then s
  else (freed (gone s)).withHub fun h => h.malformedAt p (Flit.plain (headGaid x.word) (headTxid x.word) 0 0)

/-- A unit of a frame comes in at an agent port; a beat without a header is malformed (R246, R256). -/
def State.takeUnit (p : BitVec 4) (s : State) (u : BitVec 32 × RxUnit) : State :=
  let r := (s.hub.ap p).frame.part.takeUnit u.1 u.2
  let s := s.onPart p fun f => { f with part := if r.2 then { r.1 with pos := u.1 } else r.1 }
  if r.2 then s.withHub fun h => h.malformedAt p (Flit.plain 0 0 0 0) else s

/-- What a taken frame brings at an agent port: its units, then every message and header in its turn (R238, R247). -/
def State.unpackAp (s : State) (p : BitVec 4) (hd : FrameHdr) : State :=
  let s := (frameHolds hd).foldl (State.takeUnit p) s
  let s := (s.hub.ap p).frame.part.msgs.foldl (State.offerMsg p) s
  let s := (s.hub.ap p).frame.part.hdrs.foldl (State.offerHdr p hd.fseq) s
  s.onPart p fun f => { f with part := { f.part with msgs := f.part.msgs.map fun m => { m with left := m.left - 1 } } }

/-! ### Messages of a memory port (R261–R263) -/

/-- Changes a memory port's frame state. -/
def State.onMpPart (s : State) (m : BitVec 3) (f : FrameState → FrameState) : State :=
  s.withHub fun h => { h with mps := h.mps.put m.toNat { h.mp m.toNat with frame := f (h.mp m.toNat).frame } }

/-- A control message of a memory die is the command of its row. -/
def State.memMsg (mp : BitVec 3) (s : State) (w : BitVec 128) : State :=
  let ch := BitVec.ofNat 4 (2 * mp.toNat + (if memCh w then 1 else 0))
  let s := s.onMpPart mp fun f => f.free mrspBit
  match (memOpc w).toNat with
  | 0x20 => outcomeOr s (execMemWcmp mp (memTag w) s)
  | 0x21 => outcomeOr s (execMemPause ch (memLead w) (memLen w) s)
  | 0x22 => outcomeOr s (execMemDown ch s)
  | 0x23 => outcomeOr s (execMemReplayed ch s)
  | _ => s

/-- A unit of a frame comes in at a memory port: a control message at once, a header and its beats to be paired. -/
def State.memUnit (mp : BitVec 3) (s : State) (u : BitVec 32 × RxUnit) : State :=
  match u.2 with
  | .flit w => s.memMsg mp w
  | k => s.onMpPart mp fun f => { f with part := (f.part.takeUnit u.1 k).1 }

/-- Read data is taken once its beats are in; other data is of no message (R262). -/
def State.memHdr (mp : BitVec 3) (s : State) (x : RxHdr) : State :=
  if !x.whole then s
  else
    let s := s.onMpPart mp fun f =>
      let g := f.free mdatBit
      { g with part := { g.part with hdrs := g.part.hdrs.filter fun y => y.pos != x.pos } }
    if headOpc x.word = opDatHome then outcomeOr s (execMemDat mp (headTxid x.word) ⟨x.payload (headBeats x.word == 2), 0⟩ s) else s

/-- What a taken frame brings at a memory port. -/
def State.unpackMp (s : State) (mp : BitVec 3) (hd : FrameHdr) : State :=
  let s := (frameHolds hd).foldl (State.memUnit mp) s
  (s.hub.mp mp.toNat).frame.part.hdrs.foldl (State.memHdr mp) s

/-! ### The row -/

/-- `AP_FRAME` (R237–R240, R259): a frame on an agent or memory port, and where it is taken, what it brings. -/
def execApFrame (port : PortId) (hd : FrameHdr) (s : State) : Host.Outcome State Fault Refusal :=
  match port with
  | .ap p =>
    let taken := (s.hub.ap p).online && ((s.hub.ap p).frame.receive hd s.hub.round).2.2
    let t := s.withHubR fun h => h.apFrame p hd
    .next (if taken && (t.hub.ap p).online then t.unpackAp p hd else t)
  | .mp m =>
    let taken := (s.hub.mp m.toNat).online && ((s.hub.mp m.toNat).frame.receive hd s.hub.round).2.2
    let t := s.withHubR fun h => h.mpFrame m hd
    .next (if taken && (t.hub.mp m.toNat).online then t.unpackMp m hd else t)
  | .sp _ => onUnit false s

end Sys2Proof.Machine
end

