-- ==== Sys2Proof/Machine/Rotation.lean ====
section
/-!
DEFINITION. The rotation (R354–R363): its step slots, the copy, the drain, the handover and the isolation of the outgoing slice; the
results of its tests with repair, retest and retirement (R364–R371); and test access (R373, R374, R442).
-/
namespace Sys2Proof.Machine

/-! ### Step slots (R354–R356) -/

/-- The Detection Interval in force for the pass, in rounds (R348). -/
def Rot.span (r : Rot) : Nat := r.interval * 250000

/-- A step slot: a 66th of the interval, in whole rounds (R355). -/
def Rot.slotLen (r : Rot) : Nat := (r.span + 65) / 66

/-- The next step slot has come: one slot after the last, one more where the power manager has postponed the step, and past an unused
spare slot at the end of a pass. -/
def Rot.slotDue (r : Rot) (n : Nat) : Bool :=
  let spare := if !r.passOpen && r.slotsUsed = 65 then 1 else 0
  let post := if r.postponed then 1 else 0
  r.lastStart = 0 || decide (r.lastStart + (1 + spare + post) * r.slotLen ≤ n)

/-- The first step of a pass takes the interval and its BIST level (R353, R355, R376). -/
def Hub.openPass (h : Hub) : Hub :=
  if h.rot.passOpen then h
  else
    let ms := h.p 0x900
    { h with rot := { h.rot with
      passOpen := true
      passNo := h.rot.passNo + 1
      passStart := h.round
      tested := 0
      slotsUsed := 0
      notPass := 0
      saMin := 1000
      trMin := 1000
      late := false
      level := bistLevel ms
      interval := ms } }

/-- The slice to vacate (R354): one moved to the front, else the next in descending cyclic order from the newt slice, not yet tested in
the pass. -/
def Rot.nextOut (r : Rot) (newt : Nat) : Option Nat :=
  match r.front.find? fun k => k.toNat != newt && !r.tested.getLsbD k.toNat with
  | some k => some k.toNat
  | none => ((upTo 64).map fun i => (newt + 64 - i) % 65).find? fun k => !r.tested.getLsbD k

/-- A step or a retest takes a slot. -/
def Rot.takeSlot (r : Rot) (n : Nat) : Rot :=
  { r with
    lastStart := n
    slotsUsed := r.slotsUsed + 1
    postponed := false }

/-- A retest: only the test and the reinitialisation, `PHASE` 6 (R367). The slice has no logical number and is the newt no longer. -/
def Hub.startRetest (h : Hub) (k : BitVec 7) : Hub :=
  { h.onSlice k.toNat fun s => { s with role := .underTest } with rot := { h.rot.takeSlot h.round with
    phase := 6
    newt := none
    testing := some k } }

/-- A step begins its copy (R357, R358). -/
def Hub.startStep (h : Hub) (newt : Nat) : Hub :=
  match h.rot.nextOut newt with
  | none => h
  | some out =>
    { h with rot := { h.rot.takeSlot h.round with
      phase := 1
      outHs := BitVec.ofNat 7 out
      ls := BitVec.ofNat 6 ((h.lsOf out).getD 0)
      pointer := 0
      drainAt := none
      ended := false
      marker := []
      markerIn := false
      front := h.rot.front.filter fun k => k.toNat != out } }

/-- `ROTATION_STEP_START` (R355): a slot's retest where one waits, else a step. -/
def execRotationStepStart (s : State) : Host.Outcome State Fault Refusal :=
  .next (s.withHub fun h =>
    let r := h.rot
    if h.start.phase != .serving || r.phase != 0 || h.core.restart || h.p 0x980 != 1 || r.noNewt || !r.slotDue h.round then h
    else
      let h := h.openPass
      match h.rot.retests, h.rot.newt with
      | k :: _, none => h.startRetest k
      | k :: _, some n => if k = n then h.startRetest k else h.startStep n.toNat
      | [], some n => h.startStep n.toNat
      | [], none => h)

/-! ### Copy (R358, R359) -/

/-- The reads of a copy group pass the correctors: uncorrectable and malformed entries become `DEG` and `HUB_DEG` at the outgoing slice, and the
carried ways of a hub-cache set lose their lines. -/
def Hub.markGroup (h : Hub) (out g : Nat) (sf : List LookupErr) (rest : LookupErr) : Hub :=
  let h := (upTo 4).foldl (fun h i => h.readSfSet out (BitVec.ofNat 14 (4 * g + i)) (List.nth sf i LookupErr.none) none) h
  let h := h.readSdSet out (BitVec.ofNat 12 g) rest
  if g % 4 = 3 then
    let set := BitVec.ofNat 10 (g / 4)
    let s := h.slice out
    let carried : BitVec 16 := (upTo 16).foldl (fun m w => if hcCarried (s.hcAt set w) then m ||| (1#16 <<< w) else m) 0
    h.readHcWays out set ((rest.tagUe ||| s.badHcWays set) &&& carried) (rest.tagCe &&& carried)
  else h

/-- The group's entries as they arrive at the newt slice, which counts the lines of the span directory (R216). -/
def Slice.takeGroup (s o : Slice) (g : Nat) : Slice :=
  let s := { s with sf := (upTo 64).foldl (fun (t : Tbl Word) i => t.set (64 * g + i) 0 (o.sf.getD (64 * g + i) 0)) s.sf }
  let set := BitVec.ofNat 12 g
  (upTo 8).foldl (fun s w => s.putSd set w (o.sdAt set w)) s

/-- The locked, chained and lost ways of a hub-cache set arrive at the newt slice (R303). A way that is disabled there keeps its lock and
loses its line (R301). -/
def Hub.takeHcSet (h : Hub) (newt out : Nat) (set : BitVec 10) : Hub :=
  let o := h.slice out
  ((upTo 16).filter fun w => hcCarried (o.hcAt set w)).foldl (fun h w =>
    let word := o.hcAt set w
    let dis := (h.slice newt).wayShut w
    let put (h : Hub) (x : Word) (d : LineBits) : Hub := h.onSlice newt fun s => { s with
      hcTag := s.hcTag.set (hcKey set w) 0 x
      hcData := s.hcData.set (hcKey set w) ⟨0⟩ ⟨d⟩ }
    if !dis then put h word (o.hcBytes set w)
    else if hcLocked word then
      let h := put h (hcWord 0 false true true false false false) 0
      if hcValid word then h.raise (rzLine evHcLockLost newt (hcLine (hcWordTag word) set)) else h
    else h) h

/-- A copy group is complete: `POINTER` advances, and the drain round is named 256 rounds ahead when it reaches 4,096 (R360). -/
def Rot.groupDone (r : Rot) (n : Nat) : Rot :=
  { r with
    pointer := r.pointer + 1
    drainAt := if r.pointer + 1 = 4096 then some (n + 256) else r.drainAt }

/-- `MIGRATION_COPY_GROUP` (R358): four snoop-filter sets and a span directory set; a hub-cache set with every fourth group. `sf` is what the
correctors report of the filter sets, `rest` of the others. The copy
waits while a reclaim walk runs (R147). -/
def execMigrationCopyGroup (sf : List LookupErr) (rest : LookupErr) (s : State) : Host.Outcome State Fault Refusal :=
  .next (s.withHub fun h =>
    let out := h.rot.outHs.toNat
    let g := h.rot.pointer
    match h.rot.newt with
    | none => h
    | some k =>
      let n := k.toNat
      if h.start.phase != .serving || h.rot.phase != 1 || 4096 ≤ g || (h.slice out).walk.isSome || (h.slice n).walk.isSome then h
      else
        let h := h.markGroup out g sf rest
        let o := h.slice out
        let h := h.onSlice n fun s => s.takeGroup o g
        let h := if g % 4 = 3 then h.takeHcSet n out (BitVec.ofNat 10 (g / 4)) else h
        { h with rot := h.rot.groupDone h.round })

/-! ### Drain and handover (R360–R362) -/

/-- `DRAIN_ROUND` (R360). -/
def execDrainRound (s : State) : Host.Outcome State Fault Refusal :=
  .next (s.withHub fun h =>
    match h.rot.drainAt with
    | some d => if h.rot.phase = 1 ∧ d ≤ h.round then { h with rot := { h.rot with phase := 2 } } else h
    | none => h)

/-- No open transaction, no chained ticket and no writeback in the path of the slice (R361). -/
def Slice.drained (s : Slice) : Bool :=
  s.txns.isEmpty && s.tickets.isEmpty && s.refused.isEmpty && s.backs.isEmpty && s.helds.isEmpty

/-- The buffered lines of a slice move into the spill store, each with its memory write: those of general places into the places
guaranteed to the slice while they last (R276, R361). -/
def spillLines : List WbLine → Nat → List WbLine
  | [], _ => []
  | x :: t, free =>
    if x.place == .general && 0 < free then { x with place := .guaranteed } :: spillLines t (free - 1)
    else { x with place := .pool } :: spillLines t free

/-- A sweep begins again (R102). -/
def Sweep.restart (x : Sweep) : Sweep :=
  { x with
    ptr := 0
    skip := []
    live := 0 }

/-- What the newt slice holds of the outgoing slice at the handover beside the copied arrays: reservations, requests held for it, the
gecko holds and worst closes of its lines (R63, R66), its run-ahead queues and its sweeps, which restart. -/
def Slice.takeOver (s o : Slice) : Slice :=
  let old := o.sweeps.map Sweep.restart
  let own := s.sweeps.filter fun x => !(old.any fun y => y.span == x.span && y.set == x.set && y.way == x.way)
  { s with
    inbuf := o.inbuf
    acksDue := o.acksDue
    holds := o.holds
    lastC0 := o.lastC0
    runQ := o.runQ
    sdRunQ := o.sdRunQ
    hubWalk := o.hubWalk
    rsv := o.rsv
    sweeps := old ++ own
    walk := o.walk.or s.walk }

/-- The outgoing slice after the handover: its arrays stand until they are reinitialised, and nothing else is left. -/
def Slice.handedOver (s : Slice) : Slice :=
  { Slice.init with
    role := s.role
    sf := s.sf
    nru := s.nru
    sd := s.sd
    presence := s.presence
    hcTag := s.hcTag
    hcData := s.hcData
    hcAge := s.hcAge
    wayErr := s.wayErr
    wayMark := s.wayMark
    markDue := s.markDue
    wayDis := s.wayDis
    errs := s.errs
    storm := s.storm }

/-- The end of the drain: fills are dropped (R291), buffered lines spilled, and the newt slice takes over (R361). -/
def Hub.handOver (h : Hub) (out newt : Nat) : Hub :=
  let o := h.slice out
  let used := (h.spill.filter fun x => x.place == .guaranteed && x.ls == h.rot.ls).length
  let mine (r : MemRead) : Bool := r.ls == h.rot.ls && match r.who with
    | .txn _ | .mirror _ => false
    | _ => true
  let h := (o.fills.filter fun (f : Fill) => f.kind != .chain).foldl (fun h f => h.fillDropped out f.line) h
  let h := (h.onSlice newt fun s => s.takeOver o).onSlice out fun s => s.handedOver
  { h with
    spill := h.spill ++ spillLines o.wb (24 - used)
    reads := List.mapIf mine (fun r => { r with stale := true }) h.reads
    rot := { h.rot with
      phase := 3
      ended := true
      drainAt := none
      marker := o.places } }

/-- `DRAIN_END` (R361). -/
def execDrainEnd (s : State) : Host.Outcome State Fault Refusal :=
  .next (s.withHub fun h =>
    match h.rot.newt with
    | none => h
    | some n => if h.rot.phase = 2 ∧ (h.slice h.rot.outHs.toNat).drained then h.handOver h.rot.outHs.toNat n.toNat else h)

/-- `HANDOVER_MARKER` (R362): the newt slice accepts from the next round, and the slice map is changed through a route epoch. -/
def execHandoverMarker (s : State) : Host.Outcome State Fault Refusal :=
  .next (s.withHub fun h =>
    match h.rot.newt with
    | none => h
    | some n =>
      if h.rot.phase != 3 || h.rot.markerIn then h
      else
        let due := h.round + 250000 * h.p 0x901
        let h := h.onSlice n.toNat fun s => { s with
          role := .inService
          places := h.rot.marker ++ s.places
          scrub := ⟨due, 0, [], false⟩ }
        ({ h with rot := { h.rot with
          markerIn := true
          marker := [] } }).loadMap (h.map.put h.rot.ls.toNat n.toNat))

/-- `SLICE_ISOLATION` (R362): the old epoch has drained; the outgoing slice is isolated and its test begins. -/
def execSliceIsolation (s : State) : Host.Outcome State Fault Refusal :=
  .next (s.withHub fun h =>
    match h.rot.newt with
    | none => h
    | some n =>
      let flipped := h.map.getD h.rot.ls.toNat h.rot.ls.toNat = n.toNat
      if h.rot.phase = 3 ∧ h.rot.markerIn ∧ flipped ∧ h.epoch.loaded.isNone ∧ !h.epoch.draining then
        { h.onSlice h.rot.outHs.toNat fun s => { s with role := .underTest } with rot := { h.rot with
          phase := 4
          newt := none
          ended := false
          testing := some h.rot.outHs } }
      else h)

/-! ### Results (R366–R371) -/

/-- A complete test applies 32,768 patterns (R365). -/
def BistOutcome.complete (r : BistOutcome) : Bool := r.done && r.patterns == 32768

/-- The result of a test (R366). -/
def bistResult (r : BistOutcome) : BitVec 3 :=
  if !BistOutcome.complete r then resIncomplete
  else if !r.sigOk then resFail
  else if r.memClean then resPass
  else if r.repairsOk then resRepaired
  else resFail

/-- A logic BIST failure. -/
def bistLogicFail (r : BistOutcome) : Bool := BistOutcome.complete r && !r.sigOk

/-- A macro has no spares left for its failing cells (R371). -/
def bistUnrepairable (r : BistOutcome) : Bool := BistOutcome.complete r && !r.memClean && !r.repairsOk

/-- An element of a slice. -/
def Repair.isAt (x : Repair) (hs : BitVec 7) (mac : BitVec 16) (el : BitVec 8) : Bool := x.hs == hs && x.mac == mac && x.el == el

/-- The word of the repair records that holds an element's soft repair. -/
def Aon.repairAt (a : Aon) (hs : BitVec 7) (mac : BitVec 16) (el : BitVec 8) : Option (Nat × Repair) :=
  a.repairs.find? fun e => e.2.isAt hs mac el

/-- A soft repair is recorded in a free word of the 32 repair records of 8 words; a full ledger says so and records nothing (R431). -/
def Hub.softRepair (h : Hub) (hs : BitVec 7) (mac : BitVec 16) (el : BitVec 8) (spare : BitVec 3) : Hub :=
  let put (k : Nat) (x : Repair) : Hub := { h with aon := { h.aon with repairs := h.aon.repairs.put k x } }
  match h.aon.repairAt hs mac el with
  | some (k, x) => put k { x with spare := spare }
  | none =>
    match (upTo 256).find? fun k => (h.aon.repairs.look k).isNone with
    | some k => put k ⟨hs, mac, el, spare, 0⟩
    | none => h.raise (rz evTestLedgerFull hs.toNat)

/-- A soft-repaired element has failed with its spare withheld (R369): the third recurrence makes its fuse due (R370). -/
def Hub.recurrence (h : Hub) (hs : BitVec 7) (mac : BitVec 16) (el : BitVec 8) : Hub :=
  match h.aon.repairAt hs mac el with
  | none => h
  | some (k, x) =>
    if x.recur = 3 then h
    else
      let h := { h with aon := { h.aon with repairs := h.aon.repairs.put k { x with recur := x.recur + 1 } } }
      if x.recur = 2 then
        let h := h.raise (rz evTestFuseDue hs.toNat)
        if h.p 0x982 = 1 then { h with rot := { h.rot with fuseReq := h.rot.fuseReq ++ [(hs, mac, el)] } } else h
      else h

/-- What memory BIST changes in the ledger: recurrences, then the new repairs where the macros pass with them. -/
def Hub.ledgerRepairs (h : Hub) (hs : BitVec 7) (r : BistOutcome) : Hub :=
  let h := r.recurred.foldl (fun h x => h.recurrence hs x.1 x.2) h
  let h := if r.repairsOk then r.repairs.foldl (fun h x => h.softRepair hs x.1 x.2.1 x.2.2) h else h
  if r.recurred.isEmpty && r.repairs.isEmpty then h else h.writeMirror

/-- The coverages of a test: a complete one reaches the curve's full figures, 98.6 % and 93.2 % (R368). -/
def bistCoverage (r : BistOutcome) : BitVec 10 × BitVec 10 :=
  if BistOutcome.complete r then (986, 932) else (r.saCov, r.trCov)

/-- The event of a result (R368). -/
def resultEvent (code : BitVec 3) : BitVec 10 :=
  if code = resPass then evTestPass
  else if code = resRepaired then evTestRepaired
  else if code = resIncomplete then evTestIncomplete
  else evTestFail

/-- A result is recorded and counted for its pass. -/
def Hub.recordResult (h : Hub) (hs : BitVec 7) (r : BistOutcome) (retire : Bool) : Hub :=
  let code := bistResult r
  let c := bistCoverage r
  let least (a b : BitVec 10) : BitVec 10 := if a.toNat ≤ b.toNat then a else b
  let w := h.testWord hs c.1 c.2 r.durUs retire code
  let h := { h with rot := { h.rot with
    results := h.rot.results.put hs.toNat w
    saMin := least h.rot.saMin c.1
    trMin := least h.rot.trMin c.2
    notPass := if code = resPass then h.rot.notPass else h.rot.notPass + 1
    testing := none } }
  h.raise (rz (resultEvent code) hs.toNat)

/-- `TEST_PASS_RECORD` of the pass that ends (R375). -/
def Rot.passRecord (r : Rot) (n : Nat) : Word :=
  r.passNo ++ BitVec.ofNat 16 ((n - r.passStart) / 25000) ++ r.saMin ++ r.trMin ++ BitVec.ofNat 7 65
    ++ BitVec.ofNat 3 (min 7 r.notPass) ++ BitVec.ofBool r.late ++ (0 : BitVec 1)

/-- A pass that has outrun its interval is late, once (R356). -/
def Hub.checkLate (h : Hub) : Hub :=
  if h.rot.passOpen && !h.rot.late && decide (h.rot.passStart + h.rot.span < h.round) then
    ({ h with rot := { h.rot with late := true } }).raise (rz evTestPassLate 0xFF)
  else h

/-- The pass ends with its 65th test (R368). -/
def Hub.endPassOf (h : Hub) : Hub :=
  if h.rot.passOpen && h.rot.tested == BitVec.allOnes 65 then
    let h := h.checkLate
    { h with rot := { h.rot with
      passOpen := false
      record := h.rot.passRecord h.round } }
  else h

/-- A slice whose result stands is tested in the pass and waits for no retest; the ledger carries it no longer. -/
def Hub.resultStands (h : Hub) (hs : BitVec 7) : Hub :=
  let gone (l : List (BitVec 7)) : List (BitVec 7) := l.filter fun x => x != hs
  let h := { h with
    aon := { h.aon with carried := h.aon.carried.filter fun x => x != hs }
    rot := { h.rot with
      tested := h.rot.tested ||| (1#65 <<< hs.toNat)
      retests := gone h.rot.retests
      failedOnce := gone h.rot.failedOnce } }
  h.endPassOf

/-- A retirement (R371): the ledger records the slice as substituted, the rotation stops, and its exception bit is programmed at once
(R433). -/
def State.retire (s : State) (hs : BitVec 7) : State :=
  let s := s.withHub fun h =>
    let h := (h.onSlice hs.toNat fun x => { x with role := .substituted }).resultStands hs
    let h := { h with
      aon := { h.aon with subst := h.aon.subst ++ [hs] }
      rot := { h.rot with
        phase := 0
        newt := none
        noNewt := true } }
    ((h.record stBistSlice hs.toNat outFail 0).writeMirror).raise (rz evTestNoNewt hs.toNat)
  if s.otp.except.getLsbD (bitSlice hs.toNat) then s else s.programBit (bitSlice hs.toNat)

/-- The slice stays isolated and waits for a retest (R367). -/
def Hub.awaitRetest (h : Hub) (hs : BitVec 7) (failed : Bool) : Hub :=
  { h with rot := { h.rot with
    phase := 0
    retests := hs :: h.rot.retests.filter fun x => x != hs
    failedOnce := if failed then hs :: h.rot.failedOnce.filter fun x => x != hs else h.rot.failedOnce } }

/-- What a test's result leads to (R366, R367, R371). -/
def State.testEnds (s : State) (hs : BitVec 7) (r : BistOutcome) : State :=
  let code := bistResult r
  let retire := bistUnrepairable r || (bistLogicFail r && s.hub.rot.failedOnce.contains hs)
  let s := s.withHub fun h => (h.ledgerRepairs hs r).recordResult hs r retire
  if retire then s.retire hs
  else if code = resIncomplete ∨ code = resFail then s.withHub fun h => h.awaitRetest hs (bistLogicFail r)
  else s.withHub fun h => { h.resultStands hs with rot := { (h.resultStands hs).rot with
    phase := 5
    outHs := hs } }

/-- `BIST_COMPLETE` (R366): the test of the isolated slice ends. -/
def execBistComplete (r : BistOutcome) (s : State) : Host.Outcome State Fault Refusal :=
  .next (match s.hub.rot.testing with
    | none => s
    | some hs => if s.hub.rot.phase = 4 ∨ s.hub.rot.phase = 6 then s.testEnds hs r else s)

/-! ### Fuses (R370) -/

/-- Fuse records of a slice in OTP: 32 at most (R440). -/
def Otp.fusesOf (o : Otp) (hs : BitVec 7) : Nat := (o.fuses.filter fun f => f.1 == hs).length

/-- A fuse is burned: the record takes the place of the element's soft repair. -/
def State.burn (s : State) (hs : BitVec 7) (mac : BitVec 16) (el : BitVec 8) (spare : BitVec 3) : State :=
  { s with otp := { s.otp with fuses := s.otp.fuses ++ [(hs, mac, el, spare)] } }.withHub fun h =>
    let h := { h with aon := { h.aon with repairs := h.aon.repairs.filter fun e => !e.2.isAt hs mac el } }
    h.writeMirror.raise (rz evTestFuseBurned hs.toNat)

/-- The commands that asked for a burn end (R390). -/
def Hub.endFuse (h : Hub) (hs : BitVec 7) (mac : BitVec 16) (el : BitVec 8) (code : Byte) : Hub :=
  h.endWhere (fun k => k == .fuse hs mac el) code

/-- `FUSE_BURN` (R370): a fuse that is asked for is burned while its slice is isolated. Where the slice's 32 fuse records are full its
soft repair continues. -/
def execFuseBurn (hs : BitVec 7) (mac : BitVec 16) (element : BitVec 8) (s : State) : Host.Outcome State Fault Refusal :=
  onUnit (hsExists hs) (
    let asked := s.hub.rot.fuseReq.contains (hs, mac, element)
    let done (s : State) (code : Byte) : State := s.withHubR fun h =>
      ({ h with rot := { h.rot with fuseReq := h.rot.fuseReq.filter fun f => f != (hs, mac, element) } }).endFuse hs mac element code
    if !asked || (s.hub.slice hs.toNat).role != Role.underTest || s.hub.core.restart then s
    else match s.hub.aon.repairAt hs mac element with
      | none => done s ccNotPresent
      | some (_, x) => if 32 ≤ s.otp.fusesOf hs then done s ccLimit else done (s.burn hs mac element x.spare) ccOk)

/-! ### Reinitialisation and late passes -/

/-- The tested slice with its arrays cleared (R79, R303): what the physical slice keeps are its error counts, and its disabled ways where
no repair has returned them (R302). -/
def Slice.reinit (s : Slice) (repaired : Bool) : Slice :=
  { Slice.init with
    role := .newt
    errs := s.errs
    storm := s.storm
    wayErr := if repaired then [] else s.wayErr
    wayMark := if repaired then 0 else s.wayMark
    markDue := if repaired then 0 else s.markDue
    wayDis := if repaired then 0 else s.wayDis }

/-- `REINITIALISATION_END` (R357): the tested slice becomes the newt slice. -/
def execReinitialisationEnd (s : State) : Host.Outcome State Fault Refusal :=
  .next (s.withHub fun h =>
    if h.rot.phase = 5 then
      let k := h.rot.outHs.toNat
      let repaired := (h.rot.results.getD k 0).extractLsb' 0 3 == resRepaired
      { h.onSlice k fun s => s.reinit repaired with rot := { h.rot with
        phase := 0
        newt := some h.rot.outHs } }
    else h)

/-- `TEST_PASS_LATE` (R356). -/
def execTestPassLate (s : State) : Host.Outcome State Fault Refusal := .next (s.withHub fun h => h.checkLate)

/-! ### Test access (R373, R374, R442) -/

/-- The secrets are cleared (R374): the span key slots, the attestation register with its path from OTP, and the whole of Uluhiva's SRAM
with the image, the staging areas and the configuration master in it. -/
def Hub.clearSecrets (h : Hub) : Hub :=
  { h with
    sps := List.map (fun e => (e.1, { e.2 with keyed := false, kep := false, keys := 0, tx := [], rx := [] })) h.sps
    mbx := List.map (fun e => (e.1, { e.2 with stage := [], busy := none })) h.mbx
    master := []
    core := { h.core with
      image := false
      commits := []
      protStage := []
      attestOpen := false
      sramZero := true } }

/-- `TEST_ACCESS_MODE` (R373, R374): the three plain instructions and the status segment clear nothing. A test access mode is accepted
only in an armed session or on a die still at manufacturing; it stops service as a fatal error does, clears the secrets and then takes
effect. -/
def execTestAccessMode (t : TapLoad) (s : State) : Host.Outcome State Fault Refusal :=
  .next (match t with
    | .bypass | .idcode | .samplePreload | .statusSegment => s
    | .accessMode =>
      if s.hub.core.armed || s.otp.lifecycle == 0 then
        s.withHub fun h =>
          let h := ((h.raise (rz evTestAccess 0xFF)).stopFatal evTestAccess noInst 0).clearSecrets
          { h with start := { h.start with access := true } }
      else s)

/-- `OTP_PROGRAM` (R441, R442): only through a test access mode. A place of the OTP is programmed once, and the lifecycle only
advances. -/
def execOtpProgram (w : OtpWrite) (s : State) : Host.Outcome State Fault Refusal :=
  .next (
    if !s.hub.start.access then s
    else match w with
      | .generation g words ok =>
        if (s.otp.gens.look g.toNat).isSome then s
        else { s with otp := { s.otp with gens := s.otp.gens.put g.toNat ⟨words, ok⟩ } }
      | .lifecycle => { s with otp := { s.otp with lifecycle := 1 } }
      | .keyHash k => if s.otp.keyHash = 0 then { s with otp := { s.otp with keyHash := k } } else s)

end Sys2Proof.Machine
end

