-- ==== Sys2Proof/Machine/Commits.lean ====
section
/-!
DEFINITION. Commits (R396–R399): the rules that refuse a staged set of parameters or protection items, and what a commit changes at its
round C, with the effects that each parameter's chapter gives it.
-/
namespace Sys2Proof.Machine

/-! ### The state that a staged set would leave -/

/-- A parameter as the state in force together with the staged values gives it (R397). -/
def Hub.would (h : Hub) (st : Tbl Word) (pid : Nat) : Word :=
  match st.look pid with
  | some w => w
  | none => if Param.delayed pid then h.pm pid else h.pw pid

/-! ### Memory windows (R268) -/

/-- A memory window as two words give it: its GiB range, its channels and its region in each of them, in bytes. -/
structure WinGeo where
  valid : Bool
  first : Nat
  last  : Nat
  chans : List Nat
  mirror : Bool
  start : Nat
  size  : Nat
  deriving DecidableEq, Repr

/-- Interleaving that R268 admits. -/
def winWays : List Nat := [1, 2, 3, 4, 6, 8, 12, 16]

/-- The channel ordinals of a window. -/
def WinGeo.ways (g : WinGeo) : Nat := if g.mirror then g.chans.length / 2 else g.chans.length

/-- Reads a window's two words (R266, R267). -/
def winGeo (base cfg : Word) : WinGeo :=
  let chans := chanBits (cfg.extractLsb' 26 16)
  let mirror := cfg.getLsbD 5
  let n := max 1 (if mirror then chans.length / 2 else chans.length)
  let first := (base.extractLsb' 30 22).toNat
  let last := (cfg.extractLsb' 42 22).toNat
  let g := (cfg.extractLsb' 6 4).toNat + 8
  let grains := (last + 1 - first) * 2 ^ 30 / 2 ^ g
  { valid := base.getLsbD 0, first := first, last := last, chans := chans, mirror := mirror,
    start := (cfg.extractLsb' 10 16).toNat * 2 ^ 30, size := ((grains + n - 1) / n) * 2 ^ g }

/-- Window `n` of the state that a staged set would leave. -/
def Hub.geo (h : Hub) (st : Tbl Word) (n : Nat) : WinGeo := winGeo (h.would st (0x780 + n)) (h.would st (0x790 + n))

/-- Two ranges meet. -/
def meets (a b c d : Nat) : Bool := decide (a ≤ d) && decide (c ≤ b)

/-- A channel that a window may not name: absent, its port unused, or too small for the region (R268). Before the ports are brought up
nothing is declared yet, and the declarations judge nothing. -/
def Hub.chanBad (h : Hub) (st : Tbl Word) (g : WinGeo) (c : Nat) : Bool :=
  let cap := (h.chan c).cap.toNat
  !(h.would st (0x7A0 + portOfChan c)).getLsbD 0 || (h.mp (portOfChan c)).unused
    || (h.start.phase != .starting && (cap == 0 || decide (cap * 2 ^ 30 < g.start + g.size)))

/-- The home map would give some address of a GiB range to another hub (R199). -/
def Hub.mappedAway (h : Hub) (st : Tbl Word) (first last : Nat) : Bool :=
  let num : HubNo := (h.would st 0x180).setWidth 9
  (upTo 512).any fun n =>
    let w := h.would st (0x200 + n)
    meets first last (8192 * n) (8192 * n + 8191) && w.getLsbD 0 && w.extractLsb' 1 9 != num

/-- The GiB of the hub-window block and of the alias window (R465). -/
def hubWindowGiB : Nat := 0xFFFE000000000 / 2 ^ 30

/-- A device region of the state that a staged set would leave: its first and last page. -/
def Hub.region (h : Hub) (st : Tbl Word) (n : Nat) : Option (Nat × Nat) :=
  let attr := h.would st (0x140 + n)
  if attr.getLsbD 0 then
    some (((h.would st (0x100 + n)).extractLsb' 12 40).toNat, (attr.extractLsb' 12 40).toNat)
  else none

/-- Two windows that may not both be valid: they overlap, or their regions do on a channel. -/
def WinGeo.clash (a b : WinGeo) : Bool :=
  a.valid && b.valid &&
    (meets a.first a.last b.first b.last
      || (a.chans.any (fun c => b.chans.contains c) && decide (a.start < b.start + b.size) && decide (b.start < a.start + a.size)))

/-- A valid window that R268 refuses, with R182, R199 and R466. -/
def Hub.windowBad (h : Hub) (st : Tbl Word) (n : Nat) : Bool :=
  let g := h.geo st n
  g.valid &&
    (decide (g.last < g.first) || !winWays.contains g.ways
      || (g.mirror && g.chans.any fun c => !g.chans.contains (if c % 2 = 0 then c + 1 else c - 1))
      || g.chans.any (fun c => h.chanBad st g c)
      || (upTo 16).any (fun m => m != n && g.clash (h.geo st m))
      || (upTo 64).any (fun r => match h.region st r with
        | some (a, b) => meets (g.first * 2 ^ 18) (g.last * 2 ^ 18 + (2 ^ 18 - 1)) a b
        | none => false)
      || meets g.first g.last hubWindowGiB hubWindowGiB
      || h.mappedAway st g.first g.last)

/-! ### Device regions (R182), domains (R86) and the other rules -/

/-- The pages of the hub-window block and of the alias window (R465). -/
def hubWindowPages : Nat × Nat := (0xFFFE000000000 / 4096, 0xFFFE00200FFFF / 4096)

/-- A valid device region that R182 refuses, with R199 and R466. -/
def Hub.regionBad (h : Hub) (st : Tbl Word) (n : Nat) : Bool :=
  match h.region st n with
  | none => false
  | some (a, b) =>
    decide (b < a) || !h.isOnline ((h.would st (0x140 + n)).extractLsb' 5 7)
      || (upTo 64).any (fun m => m != n && match h.region st m with
        | some (c, d) => meets a b c d
        | none => false)
      || (upTo 16).any (fun m =>
        let g := h.geo st m
        g.valid && meets (g.first * 2 ^ 18) (g.last * 2 ^ 18 + (2 ^ 18 - 1)) a b)
      || meets a b hubWindowPages.1 hubWindowPages.2
      || h.mappedAway st (a / 2 ^ 18) (b / 2 ^ 18)

/-- The mask of a snoop domain of the state that a staged set would leave. -/
def Hub.wouldDomain (h : Hub) (st : Tbl Word) (k : Nat) : BitVec 128 := h.would st (hiKey (0x90 + k)) ++ h.would st (0x90 + k)

/-- The agents that an access table lets read window `w` cacheably (R86, R393), whether or not they have been admitted yet. -/
def cacheable (t : Tbl AgentAcc) (w : Nat) : List La :=
  ((upTo 128).map (BitVec.ofNat 7)).filter fun a =>
    (t.getD a.toNat AgentAcc.start).win.extractLsb' (2 * w) 2 == 3

/-- An agent that R86 wants in the domain of window `w` and that is not there. -/
def Hub.outsider (h : Hub) (st : Tbl Word) (t : Tbl AgentAcc) (w : Nat) : Option La :=
  let m := h.wouldDomain st (h.would st (0xA0 + w)).toNat
  (cacheable t w).find? fun a => !m.getLsbD a.toNat

/-- A snoop domain that R86 does not let change so. -/
def Hub.domainBad (h : Hub) (st : Tbl Word) (k : Nat) : Bool :=
  let new := h.wouldDomain st k
  (h.onlineAgents.any fun a => (h.pw128 (0x90 + k)).getLsbD a.toNat && !new.getLsbD a.toNat)
    || (upTo 16).any fun w => (h.would st (0xA0 + w)).toNat == k && (h.outsider st h.prot.agents w).isSome

/-- A route that does not reach its destination (R200): it leads to this hub for another, or out of a port that is not in use, or over
one hop to another hub. The tables of the hubs on the way are not this hub's (DEDUCED, assumption log 54). -/
def Hub.routeBad (h : Hub) (st : Tbl Word) (x : Nat) : Bool :=
  let w := h.would st (0x400 + x)
  let port := (w.extractLsb' 2 3).toNat
  let own := x == (h.would st 0x180).toNat
  w.getLsbD 0 &&
    (if own then port != 7
    else
      let p := h.sp (BitVec.ofNat 3 port)
      let dist := (w.extractLsb' 8 4).toNat
      5 < port || dist == 0 || !(h.would st (0x188 + port)).getLsbD 0 || (dist == 1 && p.keyed && p.peer.toNat != x))

/-- A route in the table that a staged set would leave does not reach its destination. -/
def Hub.routesBad (h : Hub) (st : Tbl Word) : Bool := (upTo 512).any fun x => h.routeBad st x

/-- A port's declarations that a new `MP_READ_ALLOW` would not meet (R264, R284). -/
def Hub.allowBad (h : Hub) (st : Tbl Word) : Bool :=
  (upTo 16).any fun c =>
    let k := h.chan c
    (h.mp (portOfChan c)).online && k.cap != 0
      && decide (k.rdCred.toNat < 64 * (h.would st 0x7C0).toNat + (h.would st 0x7C2).toNat)

/-- `EVT_IRQ_ADDR` outside every valid device region (R464). -/
def Hub.irqBad (h : Hub) (st : Tbl Word) : Bool :=
  let w := h.would st 0xB80
  let page := (w.toNat) / 4096
  w != 0 && !((upTo 64).any fun n => match h.region st n with
    | some (a, b) => within page a b
    | none => false)

/-- A valid window or region of this hub that the home map would give to another hub (R199). -/
def Hub.homeBad (h : Hub) (st : Tbl Word) : Bool :=
  ((upTo 16).any fun n =>
    let g := h.geo st n
    g.valid && h.mappedAway st g.first g.last)
  || (upTo 64).any fun n => match h.region st n with
    | some (a, b) => h.mappedAway st (a / 2 ^ 18) (b / 2 ^ 18)
    | none => false

/-- Some span port is not down (R198). -/
def Hub.spanUp (h : Hub) : Bool := h.sps.any fun e => e.2.link != .down

/-- The rules of R397 that a staged item may break. -/
def Hub.itemBad (h : Hub) (st : Tbl Word) (pid : Nat) : Bool :=
  if within pid 0x780 0x79F then h.windowBad st ((pid - 0x780) % 16)
  else if within pid 0x100 0x17F then h.regionBad st ((pid - 0x100) % 64)
  else if within pid 0x90 0x9F then h.domainBad st (pid - 0x90)
  else if within pid (hiKey 0x90) (hiKey 0x9F) then h.domainBad st (pid - hiKey 0x90)
  else if within pid 0xA0 0xAF then (h.outsider st h.prot.agents (pid - 0xA0)).isSome
  else if pid = 0x180 then h.spanUp || h.homeBad st || h.routesBad st
  else if within pid 0x188 0x18D then h.routesBad st
  else if within pid 0x200 0x3FF then h.homeBad st
  else if within pid 0x400 0x5FF then h.routeBad st (pid - 0x400)
  else if pid = 0x7C0 then h.allowBad st
  else if within pid 0x900 0x901 then decide ((h.would st 0x900).toNat < (h.would st 0x901).toNat)
  else if within pid 0xA81 0xA82 then decide ((h.would st 0xA81).toNat < 2 * (h.would st 0xA82).toNat)
  else if pid = 0xB80 then h.irqBad st
  else false

/-- The first offender of a staged set of parameters (R388, R397): its parameter ID. -/
def Hub.refuses (h : Hub) (st : Tbl Word) : Option Nat := ((st.map fun e => e.1).find? fun k => h.itemBad st k).map fun k => k % 0x10000

/-! ### Applying parameters -/

/-- The digest of the configuration master, which the always-on domain holds (R378). -/
def masterDigest (m : Tbl Word) : BitVec 384 := Config.sha384 (m.flatMap fun e => [BitVec.ofNat 64 e.1, e.2])

/-- Clearing `ENABLE` takes an online port down (R258, R284), whose domain is then held asleep (R24); a bring-up under way goes on. Setting it wakes the
domain for the port's bring-up. -/
def Hub.portSwitched (h : Hub) (old : Hub) (k : Nat) : Hub :=
  let was := (old.pw k).getLsbD 0
  let now := (h.pw k).getLsbD 0
  if was == now then h
  else
    let d : Domain := if k < 0x690 then .ap (BitVec.ofNat 4 (k - 0x680)) else .mp (BitVec.ofNat 3 (k - 0x7A0))
    match d with
    | .ap p =>
      if now then (h.onAp p fun a => { a with unused := false }).setDom d .awake
      else if (h.ap p).online then (h.takeApDown p).holdAsleep d
      else h
    | .mp m =>
      if now then { h with mps := h.mps.put m.toNat { h.mp m.toNat with unused := false } }.setDom d .awake
      else if (h.mp m.toNat).online then (h.mpGoesDown m).holdAsleep d
      else h
    | .sp _ => h

/-- The fuses that are due and not asked for yet (R370, R376). -/
def Hub.askDue (h : Hub) : Hub :=
  let due := (h.aon.repairs.vals.filter fun x => x.recur == 3).map fun x => (x.hs, x.mac, x.el)
  { h with rot := { h.rot with fuseReq := h.rot.fuseReq ++ due.filter fun f => !h.rot.fuseReq.contains f } }

/-- What a committed parameter does besides taking its value. -/
def Hub.paramActs (h : Hub) (old : Hub) (k : Nat) : Hub :=
  if within k 0x680 0x68F || within k 0x7A0 0x7A7 then h.portSwitched old k
  else if k = 0xB80 then { h with dev := { h.dev with irqSuspended := false } }
  else if k = 0xB85 then { h with pmc := { h.pmc with smpCount := 0 } }
  else if k = 0x982 ∧ h.p 0x982 = 1 then h.askDue
  else if k = 0x902 then h.stormsHeld (old.p 0x902)
  else h

/-- A commit of parameters at its round C (R397, R405): the master and its digest are updated, values take effect as their chapters give. -/
def Hub.applyParams (h : Hub) (words : Tbl Word) : Hub :=
  let m := putAll words h.master
  let old := h
  let h := { h with
    master := m
    core := { h.core with
      digest := masterDigest m
      commitCount := h.core.commitCount + 1 } }
  let h := h.putForce words
  let h := words.foldl (fun h e => h.paramActs old e.1) h
  match words.filter fun e => Param.routed e.1 with
  | [] => h
  | l => h.startRoutes l

/-! ### Protection tables (R392–R398) -/

/-- A mailbox's entry. -/
def Prot.entry (p : Prot) (n : Nat) : MbxPriv := p.mbx.getD n ⟨0, false, false, 0⟩

/-- The least mailbox that a staged set names; 0 where it names none. -/
def leastMbx (items : List ProtItem) : Nat :=
  ((upTo 8).find? fun n => items.any fun x => match x with
    | .mbx k _ => k.toNat == n
    | _ => false).getD 0

/-- The first offender of a staged set of protection items (R398): a mailbox or an agent number. -/
def Hub.refusesProt (h : Hub) (items : List ProtItem) : Option Nat :=
  let p := h.prot.with items
  if !((upTo 8).any fun n => (p.entry n).enable && (p.entry n).level == 3) then some (leastMbx items)
  else if !(p.entry 3).path && (upTo 8).any fun n => (p.entry n).path then some 3
  else match (upTo 8).find? fun n => !(p.entry n).path && (p.entry n).enable && (p.entry n).owners == 0 with
    | some n => some n
    | none => ((upTo 16).findSome? fun w => h.outsider [] p.agents w).map fun a => a.toNat

/-- A commit of protection items at its round C. -/
def Hub.applyProt (h : Hub) (items : List ProtItem) : Hub :=
  { h with
    prot := h.prot.with items
    core := { h.core with commitCount := h.core.commitCount + 1 } }

end Sys2Proof.Machine
end

