-- ==== Sys2Proof/Machine/Start.lean ====
section
/-!
DEFINITION. A start (R421, R426–R444): its steps in code order, from the scan of the ledger to the configuration, after which the ports are
brought up by their own commands; and a port step that exceeds its limit.
-/
namespace Sys2Proof.Machine

/-! ### Steps -/

/-- A cold start. -/
def Hub.isCold (h : Hub) : Bool := h.start.kind == 0

/-- Goes on with a start that has not stopped, at a step. -/
def State.atStep (s : State) (code : Nat) (f : State → State) : State :=
  if s.hub.start.phase = .starting then
    f (s.withHub fun h => { h with start := { h.start with step := BitVec.ofNat 8 code } })
  else s

/-- A start stops: exception bits that are due are programmed even so (R428, R433). -/
def State.stop (s : State) : State := s.escalate.withHub fun h => h.stopStart

/-- A step fails and stops the start: it has its record of `FAIL` beside the summary (R430). -/
def State.failStop (s : State) (code : Nat) : State := (s.withHub fun h => h.record code 0xFF outFail 0).stop

/-- A start begins: `FAULT_N` is released (R486), the start is counted (R446). A cold start takes its number from the mirror later. -/
def Hub.beginStart (h : Hub) : Hub :=
  { h with
    pins := { h.pins with faultN := true }
    aon := { h.aon with
      startNo := h.aon.startNo + 1
      summary := none }
    start := { h.start with phase := .starting } }

/-- `ST_AON` (R426): uncorrectable records are discarded, and the fatal record of the service before is copied into the ledger. -/
def Hub.stepAon (h : Hub) (env : StartEnv) : Hub :=
  let h := if env.ledgerUe.isEmpty then h
    else
      let aon := env.ledgerUe.foldl (fun (a : Aon) n => a.loseRecord n.toNat) h.aon
      (({ h with aon := aon }).record stAon 0xFF outFail env.ledgerUe.length).raise (rz evHubLedgerUe epCore)
  let h := if h.start.fatal && h.aon.fatal.valid then
      h.recordWith stAon 0xFF outFatalPrior 0 [h.fatalWord, BitVec.ofNat 64 h.aon.fatal.round]
    else h
  { h with start := { h.start with fatal := false } }

/-- A generation of the OTP that is valid (R441). -/
def OtpGen.valid (g : OtpGen) : Bool := (g.words.headD 0).extractLsb' 56 8 == 0x5A && g.digestOk

/-- The ruling generation: the highest valid one (R441). -/
def Otp.ruling (o : Otp) : Option Nat :=
  [3, 2, 1, 0].find? fun n => match o.gens.look n with
    | some g => g.valid
    | none => false

/-- The words of a generation; none where none rules. -/
def Otp.genWords (o : Otp) (n : Option Nat) : List Word :=
  match n with
  | some k => (o.gens.look k).elim [] fun g => g.words
  | none => []

/-- The entries of a generation: at most 12 pairs of a parameter ID and a value (R441). -/
def genEntries (w : List Word) : List (Nat × Word) :=
  (upTo (min 12 ((w.headD 0).extractLsb' 48 8).toNat)).map fun k =>
    (((List.nth w (2 * k + 1) 0).extractLsb' 0 16).toNat, List.nth w (2 * k + 2) 0)

/-- `MIN_FW` of a generation; 0 where none rules. -/
def minFw (w : List Word) : BitVec 32 := (w.headD 0).extractLsb' 0 32

/-- `ST_OTP` (R426, R441). -/
def State.stepOtp (s : State) (env : StartEnv) : State :=
  if env.otpReadable then
    s.withHub fun h => { h with start := { h.start with
      gen := BitVec.ofNat 2 (s.otp.ruling.getD 0)
      genValid := s.otp.ruling.isSome } }
  else s.failStop stOtp

/-- `ST_RAIL` (R416, R426, R487): below −10 °C `VDD_CORE` is set to 0.78 V at least. -/
def State.stepRail (s : State) (env : StartEnv) : State :=
  if env.railsOk then
    s.withHub fun h => { h with power := { h.power with
      tj := env.tj
      minCold := decide (env.tj.toInt ≤ 0)
      vcore := if env.tj.toInt < -80 then max h.power.vcore 780 else h.power.vcore } }
  else s.failStop stRail

/-- The slices that exception bits substitute before every start (R434). -/
def Otp.preSubst (o : Otp) : List (BitVec 7) :=
  ((upTo 65).filter fun n => o.except.getLsbD n).map (BitVec.ofNat 7)

/-- Records a slice as substituted (R19, R427). -/
def Hub.substitute (h : Hub) (hs : BitVec 7) : Hub :=
  if h.aon.subst.contains hs then h else { h with aon := { h.aon with subst := h.aon.subst ++ [hs] } }

/-- A port that a check or a self-test leaves unused for this start (R24, R343). -/
def Hub.portUnused (h : Hub) (p : PortId) : Hub :=
  match p with
  | .ap n => h.onAp n fun a => { a with unused := true }
  | .mp n => { h with mps := h.mps.put n.toNat { h.mp n.toNat with unused := true } }
  | .sp n => { h with par := h.par.put (0x188 + n.toNat) (h.pw (0x188 + n.toNat) &&& ~~~1) }

/-- The number of a port in a ledger record. -/
def portNo : PortId → Nat
  | .ap n => n.toNat
  | .mp n => n.toNat
  | .sp n => n.toNat

/-- `ST_CHECK` (R342, R343, R434): a failing checker substitutes its slice or leaves its port unused; any other stops the start. -/
def State.stepCheck (s : State) (env : StartEnv) : State :=
  let pre := s.otp.preSubst
  let s := s.withHub fun h =>
    let h := pre.foldl (fun h hs => (h.substitute hs).record stCheck hs.toNat outSkip 0) h
    let h := (env.checkSlices.filter fun x => !pre.contains x.1).foldl
      (fun h x => (h.substitute x.1).record stCheck x.1.toNat outFail x.2.toNat) h
    env.checkPorts.foldl (fun h x => h.record stCheck (portNo x.1) outFail x.2.toNat) h
  match env.checkOther with
  | none => s
  | some d => (s.withHub fun h => h.record stCheck 0xFF outFail d.toNat).stop

/-- The mirror in the flash gives back repairs, counters, preference and start number to a cold start where it can be read, is whole and
is this die's; else they are cleared (R426, R432). -/
def Hub.restore (h : Hub) (env : StartEnv) : Hub :=
  match h.mirror with
  | some m =>
    if env.flashOk && env.mirrorOk && m.dieId == Config.dieId then
      { h with aon := { h.aon with
        repairs := m.repairs
        counts := m.counts
        pref := m.pref
        startNo := m.startNo + 1 } }
    else ({ h with aon := { h.aon with repairs := [], counts := [] } }).record stRepair 0xFF outFail 0
  | none => ({ h with aon := { h.aon with repairs := [], counts := [] } }).record stRepair 0xFF outFail 0

/-- `TEST_FUSE_AUTO` as this start will apply it. -/
def State.autoFuse (s : State) : Bool :=
  if s.hub.isCold then
    (genEntries (s.otp.genWords s.otp.ruling)).any fun e => e.1 == 0x982 && e.2 == 1
  else s.hub.pm 0x982 == 1

/-- The fuse burns that are due at a start (R370, R426): a burn that fails leaves the soft repair, and is recorded. -/
def State.startBurns (s : State) (env : StartEnv) : State :=
  if s.autoFuse then
    (s.hub.aon.repairs.vals.filter fun x => x.recur == 3).foldl (fun s x =>
      if env.burnFails.contains (x.hs, x.mac, x.el) then s.withHub fun h => h.record stRepair x.hs.toNat outFail 0
      else if 32 ≤ s.otp.fusesOf x.hs then s
      else s.burn x.hs x.mac x.el x.spare) s
  else s

/-- `ST_REPAIR` (R426, R432): the slices that failed `ST_CHECK` are counted once the counters stand. -/
def State.stepRepair (s : State) (env : StartEnv) : State :=
  let pre := s.otp.preSubst
  let s := s.withHub fun h =>
    let h := if h.isCold then h.restore env else h
    (env.checkSlices.filter fun x => !pre.contains x.1).foldl (fun h x => h.countStep (bitSlice x.1.toNat) false) h
  s.startBurns env

/-- `ST_BIST_STOP` (R372, R426): a failing edge router leaves its port unused; anything else stops the start. -/
def State.stepBistStop (s : State) (env : StartEnv) : State :=
  if !s.hub.isCold then s
  else
    let s := s.withHub fun h => env.bistPorts.foldl (fun h p => h.record stBistStop (portNo p) outFail 0) h
    if env.stopBist then s else s.failStop stBistStop

/-- The self-test of one slice at a cold start (R369, R426, R433): one that does not pass is substituted. -/
def Hub.bistSlice (h : Hub) (hs : BitVec 7) (r : Option BistOutcome) : Hub :=
  match r with
  | none => h.countStep (bitSlice hs.toNat) true
  | some r =>
    let h := h.ledgerRepairs hs r
    if bistResult r = resPass ∨ bistResult r = resRepaired then h.countStep (bitSlice hs.toNat) true
    else ((h.substitute hs).record stBistSlice hs.toNat outFail 0).countStep (bitSlice hs.toNat) false

/-- `ST_BIST_SLICE` (R426, R434): all slices but those substituted already; those of exception bits are recorded as skipped. -/
def State.stepBistSlice (s : State) (env : StartEnv) : State :=
  if !s.hub.isCold then s
  else
    let pre := s.otp.preSubst
    s.withHub fun h =>
      let h := pre.foldl (fun h hs => h.record stBistSlice hs.toNat outSkip 0) h
      let run := ((upTo 65).map (BitVec.ofNat 7)).filter fun hs => !h.aon.subst.contains hs
      run.foldl (fun h hs => h.bistSlice hs ((env.bistSlices.find? fun x => x.1 == hs).map fun x => x.2)) h

/-! ### Image and configuration (R436–R443) -/

/-- An image verifies (R438): the key of the OTP, both digests, a release within R1 and not below the generation's. -/
def Otp.verifies (o : Otp) (img : ImageHdr) : Bool :=
  img.keyHash == o.keyHash && img.sigOk && img.codeOk && img.release.extractLsb' 24 8 == 1 && img.release.extractLsb' 16 8 == 2
    && decide ((img.release.extractLsb' 0 16).toNat ≤ 15) && decide ((minFw (o.genWords o.ruling)).toNat ≤ img.release.toNat)

/-- The image preference with the exception bits of R434. -/
def State.firstImage (s : State) : Bool :=
  let pref := s.hub.aon.pref
  if s.otp.except.getLsbD (bitImage pref) && !s.otp.except.getLsbD (bitImage (!pref)) then !pref else pref

/-- The image runs: Uluhiva's working state begins afresh. -/
def Hub.runImage (h : Hub) (b alt : Bool) (img : ImageHdr) : Hub :=
  let h := h.countStep (bitImage b) true
  { h with
    core := { h.core with
      image := true
      fw := img.release
      codeDig := img.code
      sramZero := false }
    start := { h.start with
      image := b
      imageAlt := alt } }

/-- An image that does not verify is recorded and counted. -/
def Hub.imageFails (h : Hub) (b : Bool) : Hub := (h.record stImage (if b then 1 else 0) outFail 0).countStep (bitImage b) false

/-- `ST_IMAGE` (R436, R438, R439): the preferred image, else the other; where neither verifies the start stops. -/
def State.stepImage (s : State) (env : StartEnv) : State :=
  let img (b : Bool) : ImageHdr := if b then env.imageB else env.imageA
  let a := s.firstImage
  let ok (b : Bool) : Bool := env.flashOk && s.otp.verifies (img b)
  if ok a then s.withHub fun h => h.runImage a false (img a)
  else if ok (!a) then s.withHub fun h => (h.imageFails a).runImage (!a) true (img (!a))
  else (s.withHub fun h => (h.imageFails a).imageFails (!a)).stop

/-- One entry of the ruling generation is applied as a commit that no rule refuses, or recorded (R443). -/
def Hub.genEntry (h : Hub) (e : Nat × Word) : Hub :=
  let ok := Param.access e.1 == .rw && Param.inRange e.1 e.2 && (h.refuses [e]).isNone
  if ok then { h with
      par := h.par.put e.1 e.2
      master := h.master.put e.1 e.2 }
  else h.record stConfig 0xFF outFail e.1

/-- The defaults with the entries of the ruling generation. -/
def State.applyGen (s : State) : State :=
  s.withHub fun h =>
    let h := (genEntries (s.otp.genWords s.otp.ruling)).foldl (fun h e => h.genEntry e) { h with
      par := []
      master := [] }
    { h with core := { h.core with digest := masterDigest h.master } }

/-- `ST_CONFIG` (R443): a warm start applies the configuration master where its digest holds. -/
def State.stepConfig (s : State) (env : StartEnv) (kept : Bool) : State :=
  if s.hub.isCold then s.applyGen
  else if kept && env.masterFound == s.hub.core.digest then
    s.withHub fun h => { h with
      par := h.master
      start := { h.start with masterKept := true } }
  else (s.withHub fun h => h.record stConfig 0xFF outAlt 0).applyGen

/-- Every port that is in use is waited for (R426). -/
def Hub.bringPorts (h : Hub) (out : List PortId) : Hub :=
  let h := out.foldl (fun h p => h.portUnused p) h
  let aps := ((upTo 16).map (BitVec.ofNat 4)).filter fun n => h.domUsed (.ap n)
  let mps := ((upTo 8).map (BitVec.ofNat 3)).filter fun n => h.domUsed (.mp n)
  let sps := ((upTo 6).map (BitVec.ofNat 3)).filter fun n => h.domUsed (.sp n)
  let h := aps.foldl (fun h n => (h.findFallback n).onAp n fun a => { a with link := .training }) h
  let h := mps.foldl (fun h n => { h with mps := h.mps.put n.toNat { h.mp n.toNat with link := .training } }) h
  let h := sps.foldl (fun h n => h.onSp n fun x => { x with link := .training }) h
  let wait := mps.map PortId.mp ++ aps.map PortId.ap ++ sps.map PortId.sp
  { h with start := { h.start with
    waiting := wait
    step := portStep wait } }

/-- The steps 0x01 to 0x0B of a start, in code order (R426). -/
def State.runStart (s : State) (env : StartEnv) : State :=
  let kept := !s.hub.core.sramZero
  let s := s.withHub fun h => h.beginStart
  let s := s.atStep stAon fun s => s.withHub fun h => h.stepAon env
  let s := s.atStep stClock fun s => if env.pllLocks then s else s.failStop stClock
  let s := s.atStep stOtp fun s => s.stepOtp env
  let s := s.atStep stRail fun s => s.stepRail env
  let s := s.atStep stCheck fun s => s.stepCheck env
  let s := s.atStep stRepair fun s => s.stepRepair env
  let s := s.atStep stBistStop fun s => s.stepBistStop env
  let s := s.atStep stBistSlice fun s => s.stepBistSlice env
  let s := s.atStep stImage fun s => s.stepImage env
  let s := s.atStep stConfig fun s => s.stepConfig env kept
  s.atStep stMpUp fun s => s.withHub fun h => h.bringPorts (env.bistPorts ++ env.checkPorts.map fun x => x.1)

/-- `START_BEGIN` (R421, R422, R426): once a reset has taken hold, with `PWRGOOD` and `RESET_N` high. -/
def execStartBegin (env : StartEnv) (s : State) : Host.Outcome State Fault Refusal :=
  .next (
    let p := s.hub.pins
    if p.pwrgood && p.resetN && p.thermtripN && s.hub.start.phase == .reset then (s.runStart env).settlePorts else s)

/-! ### A port step that exceeds its limit (R264, R426) -/

/-- A span port's step: half rate, or down. -/
def Hub.spLate (h : Hub) (n : BitVec 3) : Hub :=
  let k := n.toNat
  if (h.sp n).half then
    ((h.record stSpanUp k outFail 0).spanDown n).portDone (.sp n)
  else (h.countStep (bitSp k) false).onSp n fun x => { x with
    link := .training
    trained := false
    keyed := false
    half := true }

/-- `START_STEP_LIMIT` (R264, R426): a port that a start still waits for. -/
def execStartStepLimit (port : PortId) (s : State) : Host.Outcome State Fault Refusal :=
  onUnit port.wf (State.settlePorts (s.withHub fun h =>
    if h.start.phase != .starting || !h.start.waiting.contains port then h
    else match port with
      | .ap p => h.apFails p
      | .mp m => if (h.mp m.toNat).trained then h.mpRefuse m 3 else (h.record stMpUp m.toNat outFail 0).mpUnused m
      | .sp n => h.spLate n))

end Sys2Proof.Machine
end

