-- ==== Sys2Proof/Machine/Resets.lean ====
section
/-!
DEFINITION. Fatal errors and lockstep mismatches as commands (R346, R347, R379), power loss and warm resets (R421–R425, R445), the trip
and the clock (R417, R486, R349), and the alert input of the PMBus (R484).
-/
namespace Sys2Proof.Machine

/-- The hub is up: a start runs, or it has ended in service or in a stop. -/
def Hub.isUp (h : Hub) : Bool := h.start.phase != .off && h.start.phase != .reset

/-! ### What a reset leaves (R421) -/

/-- The hub after everything that a cold start loses is lost; the flash keeps the mirror. -/
def Hub.lost (h : Hub) : Hub :=
  { Hub.cold with
    mirror := h.mirror
    out := h.out
    freeCtr := h.freeCtr
    pins := h.pins }

/-- A physical slice across a warm reset: its way disables survive (R302), and its error counts, which a cold start clears (R353). -/
def Slice.warm (s : Slice) : Slice := { Slice.init with wayDis := s.wayDis ||| s.wayMark, errs := s.errs }

/-- The hub after everything that a warm reset loses is lost (R421); the rail of the core keeps its voltage, and a mirrored member whose copy was lost
is still to be copied (R280). -/
def Hub.warm (h : Hub) : Hub :=
  { h.lost with
    aon := h.aon
    master := h.master
    chans := (h.chans.filter fun e => e.2.stale).map fun e => (e.1, { Chan.init with stale := true })
    slices := List.map (fun e => (e.1, e.2.warm)) h.slices
    rot := { Rot.init with
      results := h.rot.results
      failedOnce := h.rot.failedOnce }
    core := { Core.init with
      digest := h.core.digest
      commitCount := h.core.commitCount
      attestOpen := h.core.attestOpen
      sramZero := h.core.sramZero }
    power := { Power.init with vcore := h.power.vcore } }

/-! ### Writes that a drain has not completed (R187, R423, R424) -/

/-- The lines of the writes that the hub has taken or accepted and not completed (R187), a proxy's among them. -/
def Hub.undrainedLines (h : Hub) : List Line :=
  let ofBuf (l : List WbLine) : List Line := l.map fun x => x.line
  let ofTxns (l : List Txn) : List Line := (l.filter fun t => t.req.op.isWrite && !t.wrote).map fun t => t.req.line
  h.slices.flatMap (fun e => ofBuf e.2.wb ++ ofTxns e.2.txns) ++ ofBuf h.spill

/-- The posted device writes that have not been performed. -/
def Hub.undrainedDev (h : Hub) : List Line := (h.dev.reqs.filter fun r => r.posted && !r.irq).map fun r => r.line

/-- The addresses of the writes that are not done. -/
def Hub.undrained (h : Hub) : List Pa := (h.undrainedLines ++ h.undrainedDev).map fun l => l.pa

/-- Groups of six, at most `n` of them. -/
def sixes : Nat → List Pa → List (List Pa)
  | 0, _ => []
  | _ + 1, [] => []
  | n + 1, l => l.take 6 :: sixes n (l.drop 6)

/-- Records the undrained writes: six to a record, at most 16 records, all of them counted (R424). -/
def Hub.recordUndrained (h : Hub) : Hub :=
  let all := h.undrained
  let h := (sixes 16 all).foldl (fun h l =>
    h.recordWith h.start.step.toNat 0xFF outUndrained l.length (l.map fun a => a.setWidth 64)) h
  { h with start := { h.start with undrained := all.length } }

/-! ### A warm reset -/

/-- The result of a slice that waits for its retest is carried in the ledger (R366, R367). -/
def Hub.carryRetest (h : Hub) : Hub :=
  match h.rot.retests with
  | [] => { h with aon := { h.aon with carried := none } }
  | hs :: _ => ({ h with aon := { h.aon with carried := some hs } }).record stBistSlice hs.toNat outIncomplete 0

/-- A warm reset takes hold (R422, R424, R486): a test stops short, undrained writes are recorded, every link drops, `FAULT_N` is
released. -/
def Hub.hold (h : Hub) (kind : BitVec 2) : Hub :=
  let h := h.stopTest.recordUndrained.carryRetest
  { h.warm with
    pins := { h.pins with faultN := true }
    start := { Start.init with
      phase := .reset
      kind := kind
      undrained := h.start.undrained
      fatal := h.start.fatal
      fatalAt := h.start.fatalAt } }

/-- A warm reset takes hold of the hub and clears the mailbox rings. -/
def State.hold (s : State) (kind : BitVec 2) : State :=
  { s with
    ring := []
    hub := s.hub.hold kind }

/-- The drain of a warm reset begins (R423): it lasts 500 rounds at most, and requests that wait are discarded. -/
def Hub.beginDrain (h : Hub) (kind : BitVec 2) : Hub :=
  { h.discardWaiting with start := { h.start with
    phase := .draining
    drainEnd := h.round + 500
    pendKind := kind } }

/-- Takes a warm reset (R422): after a drain in service, at once after a fatal error, a stopped start or during a start, whose step is
recorded `ABORTED` (R445). -/
def State.takeReset (s : State) (kind : BitVec 2) : State :=
  match s.hub.start.phase with
  | .serving => s.withHub fun h => h.beginDrain kind
  | .stopped => s.hold kind
  | .starting => (s.withHub fun h => h.record h.start.step.toNat 0xFF outAborted 0).hold kind
  | _ => s

/-- `RESET_N_TAKEN_LOW` (R421, R422, R445). Without `PWRGOOD` there is nothing to reset. -/
def execResetNTakenLow (s : State) : Host.Outcome State Fault Refusal :=
  .next (
    let low (s : State) : State := s.withHub fun h => { h with pins := { h.pins with resetN := false } }
    low (if s.hub.pins.resetN then s.takeReset 1 else s))

/-- `RESET_N_RISE` (R421, R422). -/
def execResetNRise (s : State) : Host.Outcome State Fault Refusal :=
  .next (s.withHub fun h => { h with pins := { h.pins with resetN := true } })

/-- `WARM_RESET_DRAIN_END` (R422, R423): every write is done, or 500 rounds have passed. -/
def execWarmResetDrainEnd (s : State) : Host.Outcome State Fault Refusal :=
  .next (
    if s.hub.start.phase = .draining ∧ (s.hub.undrained = [] ∨ s.hub.start.drainEnd ≤ s.hub.round) then s.hold s.hub.start.pendKind else s)

/-! ### Power -/

/-- `PWRGOOD_RISE` (R421, R485): the rails have come up, and a cold start begins once `RESET_N` is high. -/
def execPwrgoodRise (s : State) : Host.Outcome State Fault Refusal :=
  .next (
    if s.hub.pins.pwrgood then s
    else { s with
      ring := []
      hub := { s.hub.lost with
        pins := { s.hub.pins with
          pwrgood := true
          thermtripN := true }
        start := { Start.init with phase := .reset } } })

/-- `PWRGOOD_FALL` (R425, R485): a power loss, of which nothing is recorded. -/
def execPwrgoodFall (s : State) : Host.Outcome State Fault Refusal :=
  .next { s with
    ring := []
    hub := { s.hub.lost with pins := { s.hub.pins with pwrgood := false } } }

/-! ### Fatal errors -/

/-- `FATAL_ERROR` (R346). -/
def execFatalError (src : BitVec 10) (inst : Byte) (syndrome : BitVec 16) (s : State) : Host.Outcome State Fault Refusal :=
  .next (s.withHub fun h => if h.isUp then h.fatal src inst syndrome else h)

/-- `FATAL_POSTED_WRITE_DROP` (R187): 500 rounds after a fatal error the posted writes that were not sent are dropped and logged. -/
def execFatalPostedWriteDrop (s : State) : Host.Outcome State Fault Refusal :=
  .next (s.withHubR fun h =>
    if h.start.fatal && h.takesAnswers && decide (h.start.fatalAt + 500 ≤ h.round) then
      (h.dev.reqs.filter fun r => r.posted && !r.irq && r.sent.isNone).foldl (fun h r =>
        (h.raise { rzTx evDevTimeout epDev r.line r.gaid r.txid with value := r.target.setWidth 64 }).devDrop r) h
    else h)

/-- `PLL_LOCK_LOSS` (R344, R349): a clock fault is fatal. -/
def execPllLockLoss (s : State) : Host.Outcome State Fault Refusal :=
  .next (s.withHub fun h => if h.isUp then h.fatal evHubFatal noInst 0 else h)

/-- `THERMTRIP` (R417, R445, R486): the trip stays latched until the rails go. A start stops with its step `ABORTED`; service stops as at a
fatal error. -/
def execThermtrip (s : State) : Host.Outcome State Fault Refusal :=
  .next (s.withHub fun h =>
    let h := { h with pins := { h.pins with thermtripN := false } }
    match h.start.phase with
    | .starting => (h.record h.start.step.toNat 0xFF outAborted 0).stopStart
    | .serving | .draining => h.stopFatal evHubFatal noInst 0
    | _ => h)

/-! ### The control core -/

/-- A mismatch finds both cores running. -/
def Hub.coresRun (h : Hub) : Bool := h.isUp && !h.core.restart

/-- `LOCKSTEP_MISMATCH` (R347, R349). -/
def execLockstepMismatch (s : State) : Host.Outcome State Fault Refusal :=
  .next (s.withHubR fun h => if h.coresRun then h.lockstep else h)

/-- `WATCHDOG_EXPIRY` (R379): the expiry is treated as a mismatch. -/
def execWatchdogExpiry (s : State) : Host.Outcome State Fault Refusal :=
  .next (s.withHubR fun h => if h.coresRun then (h.raise (rz evHubWatchdog epCore)).lockstep else h)

/-- The responses that waited for the end of the restart are written (R389, R399). -/
def Hub.releaseOver (h : Hub) : Hub :=
  ((upTo 8).map (BitVec.ofNat 3)).foldl (fun h n =>
    match (h.mb n).busy with
    | some b => (match b.long with
      | .ended c d w1 w2 => h.endLong n c d w1 w2
      | _ => h)
    | none => h) h

/-- The working data of Lupin begins afresh, the code region holds the verified image again and doorbells are released (R347, R378). -/
def Hub.coresBack (h : Hub) : Hub :=
  let free (e : Nat × Mbx) : Nat × Mbx := (e.1, { e.2 with held := false })
  let h := { h with
    mbx := h.mbx.map free
    core := { h.core with
      restart := false
      authority := 0
      cert := []
      certTotal := 0
      certDone := false
      eid := none
      spdmVersion := false
      spdmAlgo := false } }
  let h := if h.start.phase = .starting then h.record h.start.step.toNat 0xFF outAborted 0 else h
  h.releaseOver.tryRoutes

/-- `ULUHIVA_RESTART_DONE` (R347, R378): a configuration master that does not match its digest is fatal. A start that the mismatch met goes
on (R445). -/
def execUluhivaRestartDone (masterFound : BitVec 384) (s : State) : Host.Outcome State Fault Refusal :=
  .next (
    if !s.hub.core.restart || !s.hub.isUp then s
    else if masterFound != s.hub.core.digest then s.withHub fun h => h.fatal evHubFatal noInst 0
    else (s.withHubR fun h => h.coresBack).settlePorts)

/-! ### The alert input -/

/-- `PMB_ALERT_N` (R484): the input's level. -/
def execPmbAlertN (high : Bool) (s : State) : Host.Outcome State Fault Refusal :=
  .next (s.withHub fun h => { h with pins := { h.pins with pmbAlertN := high } })

end Sys2Proof.Machine
end

