-- ==== Sys2Proof/Machine/LogTake.lean ====
section
/-!
DEFINITION. The event log, which Lupin fills from the capture queue (R453, R454), and the bandwidth windows (R460, R464).
-/
namespace Sys2Proof.Machine

/-- The sequence number after another: 2^32 − 1 is followed by 1 (R453). -/
def nextSeq (n : BitVec 32) : BitVec 32 := if n + 1 = 0 then 1 else n + 1

/-- A record that a raise may be merged into (R454). -/
def LogRec.takes (x : LogRec) (r : Raise) : Bool := decide (x.again < 2047) && decide (r.round - x.latest ≤ 256)

/-- Merges a raise into the newest record of its source and instance: the log is searched from its newest end. -/
def mergeNewest (r : Raise) : List LogRec → Option (List LogRec)
  | [] => none
  | x :: t =>
    if x.rs.src == r.src && x.rs.inst == r.inst then
      if x.takes r then some ({ x with
        again := x.again + 1
        latest := r.round } :: t)
      else none
    else (mergeNewest r t).map fun l => x :: l

/-- Writes a new record; the oldest of 512 gives way. -/
def Events.append (e : Events) (r : Raise) : Events :=
  let n := nextSeq e.lastSeq
  let log := e.log ++ [{ seq := n, rs := r, again := 0, latest := r.round : LogRec }]
  { e with
    log := log.drop (log.length - 512)
    lastSeq := n }

/-- Logs a raise. -/
def Events.logRaise (e : Events) (r : Raise) : Events :=
  match mergeNewest r e.log.reverse with
  | some l => { e with log := l.reverse }
  | none => e.append r

/-- Once the queue has drained, the raises that found it full are reported (R454). -/
def Hub.reportLost (h : Hub) : Hub :=
  if h.events.queue.isEmpty && decide (0 < h.events.lost) then
    let n := h.events.lost
    ({ h with events := { h.events with lost := 0 } }).raise { rz evLogLost epCore with value := BitVec.ofNat 64 n }
  else h

/-- `LOG_QUEUE_TAKE` (R454). While Uluhiva restarts Lupin takes nothing. -/
def execLogQueueTake (s : State) : Host.Outcome State Fault Refusal :=
  .next (s.withHub fun h =>
    if !h.core.image || h.core.restart then h
    else match h.events.queue with
      | [] => h
      | r :: t => ({ h with events := { h.events with queue := t }.logRaise r }).reportLost)

/-- The totals of an endpoint since a window began. -/
def windowCounts (total base : List Nat) : List Nat := (upTo 4).map fun i => List.nth total i 0 - List.nth base i 0

/-- Ends a window of `len` rounds at every endpoint; a committed length applies from here (R460, R464). -/
def Pmc.endWindow (p : Pmc) (len log : Nat) : Pmc :=
  { p with
    winLast := p.bytes.map fun e => (e.1, windowCounts e.2 (p.winBase.getD e.1 []))
    winBase := p.bytes
    winRound := p.winStart + len - 1
    winStart := p.winStart + len
    winLog := log }

/-- `BW_WINDOW_END` (R460). -/
def execBwWindowEnd (s : State) : Host.Outcome State Fault Refusal :=
  .next (s.withHub fun h =>
    let len := 2 ^ h.pmc.winLog
    if h.round < h.pmc.winStart + len then h else { h with pmc := h.pmc.endWindow len (h.p 0xB84) })

end Sys2Proof.Machine
end

