-- ==== Sys2Proof/Machine/MbCmds.lean ====
section
/-!
DEFINITION. Lupin takes mailbox commands (R382, R383, R387–R390, R428), and the commands that read identity, log and ledger or set the
image, the test access, fuses and retests, or reset the hub.
-/
namespace Sys2Proof.Machine

/-! ### Taking a command -/

/-- A command as Lupin copies it: its mailbox and the words W0–W7 of its descriptor (R387). -/
structure Desc where
  mb : BitVec 3
  w  : List Word
  deriving DecidableEq, Repr

/-- A word of a descriptor. -/
def Desc.word (d : Desc) (k : Nat) : Word := List.nth d.w k 0
/-- `CMD`. -/
def Desc.cmd (d : Desc) : BitVec 16 := (d.word 0).extractLsb' 48 16
/-- `TAG`. -/
def Desc.tag (d : Desc) : BitVec 16 := (d.word 0).extractLsb' 32 16
/-- `NOTIFY`. -/
def Desc.notify (d : Desc) : Bool := (d.word 0).getLsbD 0
/-- A field of a word. -/
def Desc.field (d : Desc) (k lo len : Nat) : Nat := ((d.word k) >>> lo).toNat % 2 ^ len

/-- The bits of a word that a command uses. -/
def allWord : Word := BitVec.allOnes 64

/-- The level of a command (R390), and the bits of W1–W7 that it uses; none where `CMD` is not assigned. -/
def cmdRow (cmd : Nat) : Option (Nat × List Word) :=
  match cmd with
  | 0x01 => some (0, [])
  | 0x02 => some (0, [])
  | 0x10 => some (0, [0x0000FFFFFFFFFFFF, 0x103])
  | 0x11 => some (1, [allWord, allWord, allWord, allWord, allWord, 7])
  | 0x12 => some (1, [])
  | 0x13 => some (1, [])
  | 0x20 => some (3, [0x01010307, allWord, allWord])
  | 0x21 => some (3, [0xFF, 0x00000003FFFFFFFF, allWord])
  | 0x22 => some (3, [0xFFFFFFFF0000000F])
  | 0x23 => some (3, [])
  | 0x24 => some (3, [])
  | 0x25 => some (0, [0xFFFF0003])
  | 0x30 => some (2, [0x0000000F03FF3F37, allWord, allWord])
  | 0x31 => some (1, [0x0000000F3FFF003F])
  | 0x32 => some (1, [0x000000070FFF003F])
  | 0x33 => some (1, [0x0000000F03FF003F])
  | 0x40 => some (3, [allWord, allWord, allWord, allWord, allWord, allWord, 0xFF])
  | 0x41 => some (3, [0x00000001FFFFFFFF, allWord, allWord, allWord, allWord, allWord, allWord])
  | 0x42 => some (3, [7])
  | 0x50 => some (3, [1])
  | 0x51 => some (3, [0x000000FFFFFF007F])
  | 0x52 => some (1, [0x7F])
  | 0x60 => some (0, [0x0000000FFFFFFFFF])
  | 0x61 => some (0, [0x0000000F0000003F])
  | 0x70 => some (3, [1])
  | 0x71 => some (3, [])
  | _ => none

/-- The word in which a bit stands that the command does not use (R387). -/
def Desc.badWord (d : Desc) (masks : List Word) : Option Nat :=
  (upTo 8).find? fun k => d.word k &&& ~~~(if k = 0 then 0xFFFFFFFF00000001 else List.nth masks (k - 1) 0) != 0

/-- The commands that the boot ROM serves on MB3 of a stopped start (R428). -/
def bootCmds : List Nat := [0x01, 0x61, 0x70, 0x71]

/-- The boot ROM serves after a start that stopped past `ST_BIST_STOP` (R428). -/
def Hub.bootRom (h : Hub) : Bool := h.start.phase == .stopped && !h.start.fatal && decide (7 < h.start.step.toNat)

/-- Commands of a mailbox are served: by Lupin in service, during a drain and after a fatal error, by the boot ROM on MB3. -/
def Hub.servesMb (h : Hub) (n : BitVec 3) : Bool :=
  !h.core.restart &&
    (match h.start.phase with
    | .serving | .draining => true
    | .stopped => if h.start.fatal then h.core.image else h.bootRom && n == 3
    | _ => false)

/-- A mailbox has a command ready (R383). -/
def Hub.mbReady (h : Hub) (n : BitVec 3) : Bool :=
  let m := h.mb n
  h.servesMb n && (h.priv n).enable && !m.held && m.busy.isNone && m.cmdTail != m.cmdHead && decide (ringCount m.rspTail m.rspHead < 64)

/-- The descriptor that a mailbox's head points at. -/
def State.desc (s : State) (n : BitVec 3) : Desc :=
  ⟨n, (upTo 8).map fun k => s.ring.word (cmdSlot n (s.hub.mb n).cmdHead + 8 * k)⟩

/-- The command is taken: the head advances (R382). -/
def State.advanceHead (s : State) (n : BitVec 3) : State := s.withHub fun h => h.onMb n fun m => { m with cmdHead := m.cmdHead + 1 }

/-- Answers a command. -/
def State.answer (s : State) (d : Desc) (code : Byte) (detail : Nat) (w1 w2 w3 : Word) : State :=
  (s.withHub fun h => h.respond d.mb d.cmd d.tag d.notify code (BitVec.ofNat 8 detail) w1 w2 w3).flush

/-- Answers a command that changes nothing. -/
def State.reject (s : State) (d : Desc) (code : Byte) (detail : Nat) : State := s.answer d code detail 0 0 0

/-- A performed command without a result. -/
def State.ok (s : State) (d : Desc) : State := s.answer d ccOk 0 0 0 0

/-- Takes the oldest command of a mailbox where it is the row's own; `CMD`, then the level, then the arguments are checked (R389). -/
def State.takeCmd (s : State) (n : BitVec 3) (mine : Desc → Bool) (run : Desc → State → State) : State :=
  if !s.hub.mbReady n then s
  else
    let d := s.desc n
    match cmdRow d.cmd.toNat with
    | none => (s.advanceHead n).reject d ccBadCmd 0
    | some (level, masks) =>
      if !mine d then s
      else
        let denied := (s.hub.bootRom && !bootCmds.contains d.cmd.toNat) || decide ((s.hub.priv n).level.toNat < level)
        let s := s.advanceHead n
        if denied then s.reject d ccDenied 0
        else match d.badWord masks with
          | some k => s.reject d ccBadArg k
          | none => run d s

/-- The same for the row of one `CMD`. -/
def State.takeOf (s : State) (n : BitVec 3) (cmd : Nat) (run : Desc → State → State) : State :=
  s.takeCmd n (fun d => d.cmd.toNat == cmd) run

/-- A command outlasts its own step (R391). -/
def Hub.begin (h : Hub) (d : Desc) (k : Long) : Hub := h.onMb d.mb fun m => { m with busy := some ⟨d.cmd, d.tag, d.notify, k⟩ }

/-! ### Identity and nothing -/

/-- `HUB_GET_ID` (R390, R252). -/
def execHubGetId (mb : BitVec 3) (s : State) : Host.Outcome State Fault Refusal :=
  .next (s.takeOf mb 0x01 fun d s =>
    s.answer d ccOk 0 s.otp.dieId s.hub.versionWord ((s.otp.vendor.setWidth 64 <<< 32) ||| s.otp.sideband.setWidth 64))

/-- `MB_NOP` (R390). -/
def execMbNop (mb : BitVec 3) (s : State) : Host.Outcome State Fault Refusal :=
  .next (s.takeOf mb 0x02 fun d s => s.answer d ccOk 0 (BitVec.ofNat 64 s.hub.round) 0 0)

/-! ### The event log and the start ledger (R429–R431, R453) -/

/-- The words of a log record (R453). -/
def LogRec.words (x : LogRec) : List Word :=
  let r := x.rs
  let w4 : Word := (match r.gaid with
      | some g => (g.setWidth 64 <<< 48) ||| 1
      | none => 0)
    ||| match r.txid with
      | some t => (t.setWidth 64 <<< 36) ||| 2
      | none => 0
  let w5 : Word := match r.sw with
    | some (set, way) => fld 32 set.toNat ||| fld 24 way.toNat ||| 1
    | none => 0
  [x.seq ++ r.src ++ (severity r.src).code ++ r.inst ++ BitVec.ofNat 11 x.again, BitVec.ofNat 64 r.round, BitVec.ofNat 64 x.latest,
    r.addr.setWidth 64, w4, w5, r.synd.setWidth 64, r.value]

/-- Three words of a record of eight: a chunk of 24 bytes, zero beyond byte 63. -/
def chunkOf (words : List Word) (c : Nat) : Word × Word × Word :=
  (List.nth words (3 * c) 0, List.nth words (3 * c + 1) 0, List.nth words (3 * c + 2) 0)

/-- `EVT_LOG_READ` (R453): a chunk above 2 is out of range. -/
def execEvtLogRead (mb : BitVec 3) (s : State) : Host.Outcome State Fault Refusal :=
  .next (s.takeOf mb 0x60 fun d s =>
    if 2 < d.field 1 32 4 then s.reject d ccBadArg 1
    else match s.hub.events.log.find? fun x => x.seq.toNat == d.field 1 0 32 with
      | some x =>
        let c := chunkOf x.words (d.field 1 32 4)
        s.answer d ccOk 0 c.1 c.2.1 c.2.2
      | none => s.reject d ccNotPresent 0)

/-- The word of a soft repair (R431). -/
def Repair.word (x : Repair) : Word := x.hs ++ x.mac ++ x.el ++ x.spare ++ x.recur ++ (1 : BitVec 1) ++ (0 : BitVec 27)

/-- The eight words of a ledger record (R429): one never written reads zero. -/
def Aon.ledgerWords (a : Aon) (n : Nat) : List Word :=
  if n < 32 then (upTo 8).map fun k => (a.repairs.look (8 * n + k)).elim 0 fun x => x.word else a.outcomes.getD (n - 32) []

/-- `LEDGER_READ` (R429). -/
def execLedgerRead (mb : BitVec 3) (s : State) : Host.Outcome State Fault Refusal :=
  .next (s.takeOf mb 0x61 fun d s =>
    if 2 < d.field 1 32 4 then s.reject d ccBadArg 1
    else
      let c := chunkOf (s.hub.aon.ledgerWords (d.field 1 0 6)) (d.field 1 32 4)
      s.answer d ccOk 0 c.1 c.2.1 c.2.2)

/-! ### Images and resets -/

/-- `FW_SELECT` (R390, R432, R436): the preference for the next start, with its copy in the flash. -/
def execFwSelect (mb : BitVec 3) (s : State) : Host.Outcome State Fault Refusal :=
  .next (s.takeOf mb 0x70 fun d s =>
    (s.withHub fun h => { h with aon := { h.aon with pref := d.field 1 0 1 == 1 } }.writeMirror).ok d)

/-- `HUB_RESET` (R390, R421, R445): the response is written at the start of the drain; no second drain begins. -/
def execHubReset (mb : BitVec 3) (s : State) : Host.Outcome State Fault Refusal :=
  .next (s.takeOf mb 0x71 fun d s => (s.ok d).takeReset 2)

/-! ### Test -/

/-- `TEST_ARM_ACCESS` (R373, R390). -/
def execTestArmAccess (mb : BitVec 3) (s : State) : Host.Outcome State Fault Refusal :=
  .next (s.takeOf mb 0x50 fun d s => (s.withHub fun h => { h with core := { h.core with armed := d.field 1 0 1 == 1 } }).ok d)

/-- `TEST_FUSE_BURN` (R370, R390): the burn waits for the slice's next isolation. -/
def execTestFuseBurn (mb : BitVec 3) (s : State) : Host.Outcome State Fault Refusal :=
  .next (s.takeOf mb 0x51 fun d s =>
    let hs : BitVec 7 := BitVec.ofNat 7 (d.field 1 0 7)
    let mac : BitVec 16 := BitVec.ofNat 16 (d.field 1 16 16)
    let el : BitVec 8 := BitVec.ofNat 8 (d.field 1 32 8)
    if (s.hub.aon.repairAt hs mac el).isNone then s.reject d ccNotPresent 0
    else if 32 ≤ s.otp.fusesOf hs then s.reject d ccLimit 0
    else s.withHub fun h =>
      let h := h.begin d (.fuse hs mac el)
      if h.rot.fuseReq.contains (hs, mac, el) then h
      else { h with rot := { h.rot with fuseReq := h.rot.fuseReq ++ [(hs, mac, el)] } })

/-- A slice waits for a test in the pass's spare slot (R355): at the front, and to be tested in this pass again. -/
def Rot.schedule (r : Rot) (hs : BitVec 7) : Rot :=
  { r with
    front := if r.front.contains hs then r.front else r.front ++ [hs]
    tested := r.tested &&& ~~~(1#65 <<< hs.toNat) }

/-- `TEST_RETEST` (R355, R390). A substituted slice takes part in no test (R371). -/
def execTestRetest (mb : BitVec 3) (s : State) : Host.Outcome State Fault Refusal :=
  .next (s.takeOf mb 0x52 fun d s =>
    let hs : BitVec 7 := BitVec.ofNat 7 (d.field 1 0 7)
    if 64 < hs.toNat then s.reject d ccNotPresent 0
    else if (s.hub.slice hs.toNat).role = Role.substituted then s.answer d ccRefused 0 (hs.setWidth 64) 0 0
    else (s.withHub fun h => { h with rot := h.rot.schedule hs }).ok d)

end Sys2Proof.Machine
end

