-- ==== Sys2Proof/Machine/MbParams.lean ====
section
/-!
DEFINITION. The mailbox commands on parameters and protection tables (R390, R392–R398, R477, R478), and the commits from their check to
their round C (R396–R399).
-/
namespace Sys2Proof.Machine

/-! ### Items -/

/-- The write level of a parameter at the end of a start (R395). -/
def Param.writeLevel (pid : Nat) : BitVec 2 :=
  if within pid 0x180 0x67F || within pid 0x980 0x9D0 || pid = 0xA00 then 3 else 2

/-- The write and the read level of a parameter: the last mask that holds it, else its start value (R395). -/
def Prot.levels (p : Prot) (pid : Nat) : BitVec 2 × BitVec 2 :=
  match p.masks.reverse.find? fun m => within pid m.first.toNat m.last.toNat with
  | some m => (m.wr, m.rd)
  | none => (Param.writeLevel pid, 0)

/-- The items that a list of IDs names: a 128-bit parameter takes two in a row, low word first (R390). The second answer is the first
item that stands alone without its pair. -/
def pairItems : Nat → List Nat → List (Nat × Bool) × Option Nat
  | _, [] => ([], none)
  | i, [p] => if Param.wide p then ([], some i) else ([(p, false)], none)
  | i, p :: q :: t =>
    if Param.wide p then
      if q = p then
        let r := pairItems (i + 2) t
        ((p, false) :: (p, true) :: r.1, r.2)
      else ([], some i)
    else
      let r := pairItems (i + 1) (q :: t)
      ((p, false) :: r.1, r.2)

/-- The first failure among items, with its place. -/
def firstBad {α : Type} (check : α → Option Byte) : Nat → List α → Option (Byte × Nat)
  | _, [] => none
  | i, x :: t =>
    match check x with
    | some c => some (c, i)
    | none => firstBad check (i + 1) t

/-- Why an item may not be read (R395, R477). -/
def Hub.readBad (h : Hub) (n : BitVec 3) (pid : Nat) : Option Byte :=
  if 0x17FF < pid then some ccNotPresent
  else if (h.priv n).level.toNat < (h.prot.levels pid).2.toNat then some ccDenied
  else none

/-- Why an item may not be staged (R395, R396, R477, R478): existence, access, level and range, in this order. -/
def Hub.stageBad (h : Hub) (n : BitVec 3) (pid : Nat) (val : Word) : Option Byte :=
  if 0x17FF < pid then some ccNotPresent
  else if Param.access pid != .rw then some ccBadArg
  else if (h.priv n).level.toNat < (h.prot.levels pid).1.toNat then some ccDenied
  else if !Param.inRange pid val then some ccBadArg
  else none

/-! ### `PARAM_READ` -/

/-- An item's value (R390, R478), and the hub with an `RC` parameter cleared by the read. -/
def Hub.readItem (h : Hub) (otp : Otp) (stage : List StageItem) (x : Nat × Bool) : Word × Hub :=
  match stage.find? fun y => y.pid.toNat == x.1 && y.hi == x.2 with
  | some y => (y.val, h)
  | none =>
    if x.2 then (h.pw (hiKey x.1), h)
    else if Param.access x.1 = .rc then
      (h.paramValue otp x.1, h.onSlice (x.1 - 0x910) fun s => { s with errs := ⟨0, 0, 0, 0, 0, 0, 0, 0⟩ })
    else (h.paramValue otp x.1, h)

/-- The values of items, in their order. -/
def Hub.readItems (otp : Otp) (stage : List StageItem) : List (Nat × Bool) → Hub → List Word × Hub
  | [], h => ([], h)
  | x :: t, h =>
    let r := h.readItem otp stage x
    let k := Hub.readItems otp stage t r.2
    (r.1 :: k.1, k.2)

/-- The IDs of a command's W1: `n` of them from bit `top` down. -/
def Desc.pids (d : Desc) (top n : Nat) : List Nat := (upTo n).map fun i => d.field 1 (top - 16 * i) 16

/-- `PARAM_READ` (R390, R395, R478). -/
def execParamRead (mb : BitVec 3) (s : State) : Host.Outcome State Fault Refusal :=
  .next (s.takeOf mb 0x10 fun d s =>
    let n := d.field 2 0 2
    let items := pairItems 0 (d.pids 32 n)
    if n = 0 then s.reject d ccBadArg 2
    else if ((d.pids 32 3).drop n).any fun p => p != 0 then s.reject d ccBadArg n
    else match firstBad (s.hub.readBad mb) 0 (d.pids 32 n) with
      | some (c, i) => s.reject d c i
      | none =>
        match items.2 with
        | some i => s.reject d ccBadArg i
        | none =>
          let r := Hub.readItems s.otp (if d.field 2 8 1 = 1 then (s.hub.mb mb).stage else []) items.1 s.hub
          (s.withHub fun _ => r.2).answer d ccOk 0 (List.nth r.1 0 0) (List.nth r.1 1 0) (List.nth r.1 2 0))

/-! ### Staging -/

/-- Stages an item in place of an earlier one of its ID (R396); read-only bits are ignored (R12). -/
def stageOne (l : List StageItem) (x : StageItem) : List StageItem :=
  let mine (y : StageItem) : Bool := y.pid == x.pid && y.hi == x.hi
  let x := { x with val := x.val &&& ~~~(Param.roBits x.pid.toNat) }
  if l.any mine then List.replFirst mine (fun _ => x) l else l ++ [x]

/-- The items of a `PARAM_STAGE`. -/
def stageItems : List (Nat × Bool) → List Word → List StageItem
  | [], _ => []
  | _ :: _, [] => []
  | x :: t, v :: vs => ⟨BitVec.ofNat 16 x.1, x.2, v⟩ :: stageItems t vs

/-- `PARAM_STAGE` (R390, R396, R478). -/
def execParamStage (mb : BitVec 3) (s : State) : Host.Outcome State Fault Refusal :=
  .next (s.takeOf mb 0x11 fun d s =>
    let n := d.field 6 0 3
    let vals := (upTo 4).map fun i => d.word (2 + i)
    let items := pairItems 0 (d.pids 48 n)
    let new := stageItems items.1 vals
    let all := new.foldl stageOne (s.hub.mb mb).stage
    if n = 0 ∨ 4 < n then s.reject d ccBadArg 6
    else if (((d.pids 48 4).drop n).any fun p => p != 0) || ((vals.drop n).any fun v => v != 0) then s.reject d ccBadArg n
    else match firstBad (fun x : Nat × Word => s.hub.stageBad mb x.1 x.2) 0 ((d.pids 48 n).zip vals) with
      | some (c, i) => s.reject d c i
      | none =>
        match items.2 with
        | some i => s.reject d ccBadArg i
        | none =>
          if 256 < all.length then s.reject d ccLimit 0
          else (s.withHub fun h => h.onMb mb fun m => { m with stage := all }).ok d)

/-- `PARAM_DISCARD` (R390). -/
def execParamDiscard (mb : BitVec 3) (s : State) : Host.Outcome State Fault Refusal :=
  .next (s.takeOf mb 0x13 fun d s => (s.withHub fun h => h.onMb mb fun m => { m with stage := [] }).ok d)

/-- Two protection items for one entry: the later replaces the earlier. Masks are kept in order. -/
def ProtItem.sameEntry : ProtItem → ProtItem → Bool
  | .mbx n _, .mbx m _ => n == m
  | .agent a _, .agent b _ => a == b
  | _, _ => false

/-- Stages a protection item (R396). -/
def Hub.stageProt (h : Hub) (x : ProtItem) : Hub :=
  let l := h.core.protStage
  let new := if l.any fun y => y.sameEntry x then List.replFirst (fun y => y.sameEntry x) (fun _ => x) l else l ++ [x]
  { h with core := { h.core with protStage := new } }

/-- `PROT_STAGE_MBX` (R390, R392). -/
def execProtStageMbx (mb : BitVec 3) (s : State) : Host.Outcome State Fault Refusal :=
  .next (s.takeOf mb 0x20 fun d s =>
    let e : MbxPriv := ⟨BitVec.ofNat 2 (d.field 1 8 2), d.field 1 16 1 == 1, d.field 1 24 1 == 1, d.word 3 ++ d.word 2⟩
    (s.withHub fun h => h.stageProt (.mbx (BitVec.ofNat 3 (d.field 1 0 3)) e)).ok d)

/-- `PROT_STAGE_AGENT` (R390, R393). -/
def execProtStageAgent (mb : BitVec 3) (s : State) : Host.Outcome State Fault Refusal :=
  .next (s.takeOf mb 0x21 fun d s =>
    let a := d.field 1 0 8
    let e : AgentAcc := ⟨(d.word 2).setWidth 32, BitVec.ofNat 2 (d.field 2 32 2), d.word 3⟩
    if 127 < a ∧ a ≠ 0xFF then s.reject d ccBadArg 1
    else (s.withHub fun h => h.stageProt (.agent (BitVec.ofNat 8 a) e)).ok d)

/-- `PROT_STAGE_PMASK` (R390, R395). -/
def execProtStagePmask (mb : BitVec 3) (s : State) : Host.Outcome State Fault Refusal :=
  .next (s.takeOf mb 0x22 fun d s =>
    let m : PMask := {
      first := BitVec.ofNat 16 (d.field 1 48 16), last := BitVec.ofNat 16 (d.field 1 32 16), wr := BitVec.ofNat 2 (d.field 1 2 2),
      rd := BitVec.ofNat 2 (d.field 1 0 2) }
    if m.last.toNat < m.first.toNat then s.reject d ccBadArg 1
    else (s.withHub fun h => h.stageProt (.pmask m)).ok d)

/-- `PROT_DISCARD` (R390). -/
def execProtDiscard (mb : BitVec 3) (s : State) : Host.Outcome State Fault Refusal :=
  .next (s.takeOf mb 0x24 fun d s => (s.withHub fun h => { h with core := { h.core with protStage := [] } }).ok d)

/-! ### `PROT_READ` -/

/-- A mailbox's entry in the layout of its stage command. -/
def MbxPriv.words (e : MbxPriv) (n : Nat) : Word × Word × Word :=
  (fld 0 n ||| fld 8 e.level.toNat ||| bitAt 16 e.path ||| bitAt 24 e.enable, e.owners.setWidth 64, (e.owners >>> 64).setWidth 64)

/-- An agent's entry in the layout of its stage command. -/
def AgentAcc.words (e : AgentAcc) (a : Nat) : Word × Word × Word :=
  (fld 0 a, e.win.setWidth 64 ||| fld 32 e.remote.toNat, e.dev)

/-- The levels of a parameter in the layout of the stage command, as a range of one ID. -/
def Prot.maskWords (p : Prot) (pid : Nat) : Word × Word × Word :=
  let l := p.levels pid
  (fld 48 pid ||| fld 32 pid ||| fld 2 l.1.toNat ||| fld 0 l.2.toNat, 0, 0)

/-- The entry that a `PROT_READ` names: none where it does not exist. -/
def Prot.readEntry (p : Prot) (table idx : Nat) : Option (Word × Word × Word) :=
  if table = 0 then (if idx < 8 then some ((p.entry idx).words idx) else none)
  else if table = 1 then
    (if idx < 128 ∨ idx = 0xFF then some ((p.agents.getD idx AgentAcc.start).words idx) else none)
  else if idx ≤ 0x17FF then some (p.maskWords idx)
  else none

/-- `PROT_READ` (R390). -/
def execProtRead (mb : BitVec 3) (s : State) : Host.Outcome State Fault Refusal :=
  .next (s.takeOf mb 0x25 fun d s =>
    if d.field 1 0 2 = 3 then s.reject d ccBadArg 1
    else match s.hub.prot.readEntry (d.field 1 0 2) (d.field 1 16 16) with
      | some w => s.answer d ccOk 0 w.1 w.2.1 w.2.2
      | none => s.reject d ccNotPresent 0)

/-! ### Commits (R396–R399) -/

/-- What a commit that comes to the head of the queue is refused with (R396, R397): a code, its item, the first offender. -/
def Hub.commitBad (h : Hub) (c : Commit) : Option (Byte × Nat × Word) :=
  if c.prot then (h.refusesProt h.core.protStage).map fun k => (ccRefused, 0, BitVec.ofNat 64 k)
  else
    let st := (h.mb c.mb).stage
    match firstBad (fun x : StageItem => h.stageBad c.mb x.pid.toNat x.val) 0 st with
    | some (code, i) => some (code, i, 0)
    | none => (h.refuses (stagedWords st)).map fun k => (ccRefused, 0, BitVec.ofNat 64 k)

/-- Starts the commit at the head of the queue, once the one before it has reached its round: refused ones end, the staged set kept; the
first that holds is distributed, and its round C lies four rounds after its last acknowledgement. -/
def Hub.startCommits : Nat → Hub → Hub
  | 0, h => h
  | n + 1, h =>
    match h.core.commits with
    | [] => h
    | c :: t =>
      if c.c.isSome then h
      else match h.commitBad c with
        | some (code, i, w1) =>
          Hub.startCommits n (({ h with core := { h.core with commits := t } }).endLong c.mb code (BitVec.ofNat 8 i) w1 0)
        | none =>
          let c := { c with
            items := if c.prot then [] else (h.mb c.mb).stage
            tabs := if c.prot then h.core.protStage else []
            c := some (h.round + c.acks + 4) }
          { h with core := { h.core with commits := c :: t } }

/-- A commit joins the queue (R397). -/
def Hub.queueCommit (h : Hub) (d : Desc) (prot : Bool) (acks : Nat) : Hub :=
  let h := h.begin d .commit
  Hub.startCommits 8 { h with core := { h.core with commits := h.core.commits ++ [⟨d.mb, prot, acks, [], [], none⟩] } }

/-- `PARAM_COMMIT` (R396, R397). After a restart has discarded the staged set, the next commit says so. -/
def execParamCommit (mb : BitVec 3) (ackRounds : Nat) (s : State) : Host.Outcome State Fault Refusal :=
  .next (s.takeOf mb 0x12 fun d s =>
    if (s.hub.mb mb).discarded then (s.withHub fun h => h.onMb mb fun m => { m with discarded := false }).reject d ccRestarted 0
    else s.withHubR fun h => h.queueCommit d false ackRounds)

/-- `PROT_COMMIT` (R396–R398). -/
def execProtCommit (mb : BitVec 3) (ackRounds : Nat) (s : State) : Host.Outcome State Fault Refusal :=
  .next (s.takeOf mb 0x23 fun d s =>
    if s.hub.core.protLost then (s.withHub fun h => { h with core := { h.core with protLost := false } }).reject d ccRestarted 0
    else s.withHubR fun h => h.queueCommit d true ackRounds)

/-- A commit is applied at its round C, its items are staged no longer, and its response is written (R397). -/
def Hub.applyCommit (h : Hub) (c : Commit) (k : Nat) : Hub :=
  let h := if c.prot then h.applyProt c.tabs else h.applyParams (stagedWords c.items)
  let h := if c.prot then { h with core := { h.core with protStage := h.core.protStage.filter fun x => !c.tabs.contains x } }
    else h.onMb c.mb fun m => { m with stage := m.stage.filter fun x => !c.items.contains x }
  let n := (c.items.filter fun x => !x.hi).length
  h.endLong c.mb ccOk 0 (BitVec.ofNat 64 k) (BitVec.ofNat 64 n)

/-- `COMMIT_ROUND` (R397, R399): round C of the commit in progress has come; the next one is then checked against what it leaves, unless
Uluhiva restarts. -/
def execCommitRound (s : State) : Host.Outcome State Fault Refusal :=
  .next (s.withHubR fun h =>
    match h.core.commits with
    | [] => h
    | c :: t =>
      match c.c with
      | none => h
      | some k =>
        if h.round < k then h
        else
          let h := ({ h with core := { h.core with commits := t } }).applyCommit c k
          if h.core.restart then h else Hub.startCommits 8 h)

end Sys2Proof.Machine
end

