-- ==== Sys2Proof/Machine/MbMaint.lean ====
section
/-!
DEFINITION. Hub-cache maintenance (R298, R299) and the reads of array entries through the mailboxes (R390).
-/
namespace Sys2Proof.Machine

/-! ### Scope -/

/-- What an `HC_MAINT` addresses (R298). -/
inductive MScope where
  | line (l : Line)
  | range (first last : Line)
  | way (ls : BitVec 6) (set : BitVec 10) (way : BitVec 4)
  deriving DecidableEq, Repr

/-- A line address in a descriptor word: PA[51:6], the other bits zero. -/
def lineOfWord (w : Word) : Option Line := if w &&& 0xFFF000000000003F = 0 then some (w.extractLsb' 6 46) else none

/-- The scope of an `HC_MAINT` (R390), or the word that is out of range; `lock` allows `WAY` beside an address. -/
def Desc.maintScope (d : Desc) (lock : Bool) : MScope ⊕ Nat :=
  let place := d.word 1 &&& 0x0000000F03FF3F00
  match d.field 1 4 2 with
  | 0 =>
    if place &&& (if lock then 0x0000000003FF3F00 else allWord) != 0 then .inr 1
    else if d.word 3 != 0 then .inr 3
    else match lineOfWord (d.word 2) with
      | some l => .inl (.line l)
      | none => .inr 2
  | 1 =>
    if place != 0 then .inr 1
    else match lineOfWord (d.word 2), lineOfWord (d.word 3) with
      | none, _ => .inr 2
      | _, none => .inr 3
      | some a, some b => if b.toNat < a.toNat then .inr 3 else .inl (.range a b)
  | 2 =>
    if d.word 2 != 0 then .inr 2
    else if d.word 3 != 0 then .inr 3
    else .inl (.way (BitVec.ofNat 6 (d.field 1 8 6)) (BitVec.ofNat 10 (d.field 1 16 10)) (BitVec.ofNat 4 (d.field 1 32 4)))
  | _ => .inr 1

/-- The line that a way of a logical slice holds. -/
def Hub.lineIn (h : Hub) (ls : BitVec 6) (set : BitVec 10) (way : BitVec 4) : Option Line :=
  let s := h.slice (h.hsOf ls)
  let w := s.hcAt set way.toNat
  if hcValid w && !s.wayDis.getLsbD way.toNat then some (hcLine (hcWordTag w) set) else none

/-- A line lies in a scope. -/
def Hub.inScope (h : Hub) (c : MScope) (l : Line) : Bool :=
  match c with
  | .line x => x == l
  | .range a b => within l.toNat a.toNat b.toNat
  | .way ls set way => h.lineIn ls set way == some l

/-- The memory writes that a clean waits for (R298): one for each buffered home line in scope, and a second where newer data follows. -/
def Hub.cleanWaits (h : Hub) (c : MScope) : List Line :=
  (h.allWb.filter fun x => x.home && h.inScope c x.line).flatMap fun x => if x.again then [x.line, x.line] else [x.line]

/-! ### Invalidate and unlock -/

/-- Invalidates a line, or notes it as one that a chain pins. -/
def Hub.invalidateOne (k : Hub × List Line) (l : Line) : Hub × List Line :=
  if k.1.chainPins l then (k.1, if k.2.contains l then k.2 else k.2 ++ [l]) else (k.1.maintInvalidate l, k.2)

/-- Unlocks a way: `LOCKED` and `LOST` are cleared, the line stays at age 3 (R298). -/
def Hub.unlockWay (h : Hub) (hs : Nat) (set : BitVec 10) (way : Nat) : Hub :=
  let w := (h.slice hs).hcAt set way
  if hcLocked w then
    let new := if hcValid w then setBit (setBit w 26 false) 25 false else 0
    (h.putHc hs set way new ((h.slice hs).hcBytes set way)).onSlice hs fun s => s.putAge set way 3
  else h

/-- The lines of a set that a walk meets: in ways, in the fill buffer and in reads on their way. -/
def Hub.linesOfSet (h : Hub) (hs : Nat) (set : BitVec 10) : List Line :=
  let s := h.slice hs
  let ways := ((upTo 16).filter fun w => !s.wayDis.getLsbD w && hcValid (s.hcAt set w)).map fun w => hcLine (hcWordTag (s.hcAt set w)) set
  let more := (s.fills.map fun f => f.line) ++ (h.reads.filter fun r => h.homeHs r.line == hs).map fun r => r.line
  ways ++ more.filter fun l => l.hcSet == set && !ways.contains l

/-- A range walk's visit of a set of a slice. -/
def Hub.walkSet (op : BitVec 3) (first last : Line) (set : BitVec 10) (k : Hub × List Line) (hs : Nat) : Hub × List Line :=
  if op = 4 then
    let ways := (upTo 16).filter fun w =>
      let t := (k.1.slice hs).hcAt set w
      hcLocked t && hcValid t && within (hcLine (hcWordTag t) set).toNat first.toNat last.toNat
    (ways.foldl (fun h w => h.unlockWay hs set w) k.1, k.2)
  else
    ((k.1.linesOfSet hs set).filter fun l => within l.toNat first.toNat last.toNat).foldl Hub.invalidateOne k

/-! ### The commands -/

/-- A command that walks for a range, or is done but for what it waits for. -/
def Hub.beginMaint (h : Hub) (d : Desc) (op : BitVec 3) (c : MScope) (waitW pins : List Line) : Hub :=
  match c with
  | .range a b => h.begin d (.maint op a b (if op = 0 then 1024 else 0) waitW pins)
  | .line l => h.begin d (.maint op l l 1024 waitW pins)
  | .way _ _ _ => h.begin d (.maint op 0 0 1024 waitW pins)

/-- Clean, invalidate, clean-and-invalidate and unlock (R298): what is done at once, and what the command then waits for. -/
def Hub.maint (h : Hub) (d : Desc) (op : BitVec 3) (c : MScope) : Hub :=
  let waits := if op = 0 ∨ op = 2 then h.cleanWaits c else []
  let k : Hub × List Line :=
    if op = 1 ∨ op = 2 then
      (match c with
      | .line l => Hub.invalidateOne (h, []) l
      | .way ls set way => match h.lineIn ls set way with
        | some l => Hub.invalidateOne (h, []) l
        | none => (h, [])
      | .range _ _ => (h, []))
    else if op = 4 then
      (match c with
      | .line l => match (h.slice (h.homeHs l)).hcWay l with
        | some w => (h.unlockWay (h.homeHs l) l.hcSet w, [])
        | none => (h, [])
      | .way ls set way => (h.unlockWay (h.hsOf ls) set way.toNat, [])
      | .range _ _ => (h, []))
    else (h, [])
  k.1.beginMaint d op c waits k.2

/-- An operation by address on a line that has no home here fails (R298). -/
def Hub.notHome (h : Hub) (c : MScope) : Bool :=
  match c with
  | .line l => !h.isHome l
  | _ => false

/-- Completes a maintenance command that failed. -/
def State.maintFails (s : State) (d : Desc) (res : Byte) : State := s.reject d ccFailed res.toNat

/-- Maintenance on the background port, which a clean does not use, waits while a reclaim walk runs (R299). -/
def Hub.maintHeld (h : Hub) (op : Nat) : Bool := op != 0 && h.slices.any fun e => e.2.walk.isSome

/-- Takes an `HC_MAINT` whose `OP` is a row's own, or one that no row has. -/
def State.takeMaint (s : State) (n : BitVec 3) (op : Nat) (run : Desc → State → State) : State :=
  s.takeCmd n (fun d => d.cmd.toNat == 0x30 && ((d.field 1 0 3 == op && !s.hub.maintHeld op) || decide (4 < d.field 1 0 3)))
    fun d s => if 4 < d.field 1 0 3 then s.reject d ccBadArg 1 else run d s

/-- An operation on a scope. -/
def State.maintOp (s : State) (n : BitVec 3) (op : BitVec 3) : State :=
  s.takeMaint n op.toNat fun d s =>
    match d.maintScope false with
    | .inr k => s.reject d ccBadArg k
    | .inl c => if s.hub.notHome c then s.maintFails d hcNotHome else s.withHubR fun h => h.maint d op c

/-- `CLEAN` (R298). -/
def execHcClean (mb : BitVec 3) (s : State) : Host.Outcome State Fault Refusal := .next (s.maintOp mb 0)

/-- `INVALIDATE` (R298). -/
def execHcInvalidate (mb : BitVec 3) (s : State) : Host.Outcome State Fault Refusal := .next (s.maintOp mb 1)

/-- `CLEAN_AND_INVALIDATE` (R298). -/
def execHcCleanInvalidate (mb : BitVec 3) (s : State) : Host.Outcome State Fault Refusal := .next (s.maintOp mb 2)

/-- `UNLOCK` (R298). -/
def execHcUnlock (mb : BitVec 3) (s : State) : Host.Outcome State Fault Refusal := .next (s.maintOp mb 4)

/-- What stands against a fill-and-lock (R298): a disabled way, or one locked with another line. -/
def Hub.lockRefused (h : Hub) (l : Line) (w : BitVec 4) : Option Byte :=
  let s := h.slice (h.homeHs l)
  let t := s.hcAt l.hcSet w.toNat
  if s.wayShut w.toNat then some hcWayDisabled
  else if hcLocked t && hcValid t && hcWordTag t != l.hcTag then some hcWayLocked
  else none

/-- A fill-and-lock begins (R299): the line comes from the write buffer, from another way, or from memory; a line that is
buffered in part is waited for (R135). -/
def Hub.fillLock (h : Hub) (d : Desc) (l : Line) (w : BitVec 4) : Hub :=
  let hs := h.homeHs l
  let h := h.begin d (.fillLock l w 0)
  match (h.wbFind hs l).filter fun x => x.whole with
  | some x => h.lockArrive hs l w d.mb x.bytes x.poison
  | none =>
    match (h.slice hs).hcWay l with
    | some k => h.lockArrive hs l w d.mb ((h.slice hs).hcBytes l.hcSet k) (hcPoison ((h.slice hs).hcAt l.hcSet k))
    | none => if h.hasPlace hs l then h else h.issueRead hs l (.lockFill w d.mb) true false false none

/-- `FILL_AND_LOCK` (R298–R300): by address, in ways 0–3. -/
def execHcFillAndLock (mb : BitVec 3) (s : State) : Host.Outcome State Fault Refusal :=
  .next (s.takeMaint mb 3 fun d s =>
    let w : BitVec 4 := BitVec.ofNat 4 (d.field 1 32 4)
    match d.maintScope true with
    | .inr k => s.reject d ccBadArg k
    | .inl (.line l) =>
      if 3 < w.toNat then s.reject d ccBadArg 1
      else if !s.hub.isHome l then s.maintFails d hcNotHome
      else if s.hub.isLocked l then s.ok d
      else match s.hub.lockRefused l w with
        | some res => s.maintFails d res
        | none => s.withHubR fun h => h.fillLock d l w
    | .inl _ => s.reject d ccBadArg 1)

/-- The next set of a mailbox's range walk, in every slice at once. -/
def Hub.walkOne (h : Hub) (n : BitVec 3) : Hub :=
  match (h.mb n).busy with
  | some b =>
    match b.long with
    | .maint op first last set waitW pins =>
      if 1024 ≤ set then h
      else
        let slices := (upTo 64).map fun ls => h.hsOf (BitVec.ofNat 6 ls)
        let k := slices.foldl (Hub.walkSet op first last (BitVec.ofNat 10 set)) (h, pins)
        k.1.setLong n (.maint op first last (set + 1) waitW k.2)
    | _ => h
  | none => h

/-- `MAINT_RANGE_WALK` (R299): it waits while a reclaim walk runs. -/
def execMaintRangeWalk (s : State) : Host.Outcome State Fault Refusal :=
  .next (s.withHubR fun h =>
    if h.slices.any fun e => e.2.walk.isSome then h else ((upTo 8).map (BitVec.ofNat 3)).foldl (fun h n => h.walkOne n) h)

/-! ### Reads of array entries (R390) -/

/-- The entry that an open transaction which has looked up will write to a way that it pins. -/
def Hub.intendedSf (h : Hub) (hs : Nat) (set : BitVec 14) (way : Nat) : Option Word :=
  let s := h.slice hs
  let l := s.lineAt set way
  match s.txnOn l with
  | some t =>
    if t.phase = TPhase.looked ∧ s.wayOf l = some way then t.entry.map fun v => v.word l.sfTag else none
  | none => none

/-- `SF_READ_ENTRY` (R97, R390). -/
def execSfReadEntry (mb : BitVec 3) (e : EntryErr 32) (s : State) : Host.Outcome State Fault Refusal :=
  .next (s.takeOf mb 0x31 fun d s =>
    let hs := s.hub.hsOf (BitVec.ofNat 6 (d.field 1 0 6))
    let set : BitVec 14 := BitVec.ofNat 14 (d.field 1 16 14)
    let way := d.field 1 32 4
    let bad := e.err == Err.uncorrectable || ((s.hub.slice hs).viewAt set way).isNone
    let intended := if bad then s.hub.intendedSf hs set way else none
    let s := s.withHub fun h =>
      if bad then h.markDeg hs set way (sfWordTag ((h.slice hs).sfAt set way) ^^^ e.flip)
      else if e.err = Err.corrected then h.corrected hs .sf 1 else h
    s.answer d ccOk 0 (intended.getD ((s.hub.slice hs).sfAt set way)) 0 0)

/-- The same for the span directory. -/
def Hub.intendedSd (h : Hub) (hs : Nat) (set : BitVec 12) (way : Nat) : Option Word :=
  let s := h.slice hs
  let w := s.sdAt set way
  let l := sdLine (sdWordTag w) set
  match s.txnOn l with
  | some t => if t.phase = TPhase.looked ∧ s.hwayOf l = some way then t.hentry.map fun v => v.word (sdWordTag w) else none
  | none => none

/-- `SD_READ_ENTRY` (R225, R390). -/
def execSdReadEntry (mb : BitVec 3) (e : EntryErr 34) (s : State) : Host.Outcome State Fault Refusal :=
  .next (s.takeOf mb 0x32 fun d s =>
    let hs := s.hub.hsOf (BitVec.ofNat 6 (d.field 1 0 6))
    let set : BitVec 12 := BitVec.ofNat 12 (d.field 1 16 12)
    let way := d.field 1 32 3
    let bad := e.err == Err.uncorrectable || (HView.ofWord ((s.hub.slice hs).sdAt set way)).isNone
    let intended := if bad then s.hub.intendedSd hs set way else none
    let s := s.withHub fun h =>
      if bad then h.markHubDeg hs set way (sdWordTag ((h.slice hs).sdAt set way) ^^^ e.flip)
      else if e.err = Err.corrected then h.corrected hs .sd 1 else h
    s.answer d ccOk 0 (intended.getD ((s.hub.slice hs).sdAt set way)) 0 0)

/-- `HC_READ_TAG` (R288, R390). -/
def execHcReadTag (mb : BitVec 3) (e : Err) (s : State) : Host.Outcome State Fault Refusal :=
  .next (s.takeOf mb 0x33 fun d s =>
    let hs := s.hub.hsOf (BitVec.ofNat 6 (d.field 1 0 6))
    let set : BitVec 10 := BitVec.ofNat 10 (d.field 1 16 10)
    let way := d.field 1 32 4
    let s := s.withHub fun h =>
      if e == Err.uncorrectable || hcMalformed ((h.slice hs).hcAt set way) way then h.hcUncorrectable hs set way
      else if e = Err.corrected then (h.corrected hs .hc 1).wayCorrected hs way
      else h
    s.answer d ccOk 0 ((s.hub.slice hs).hcAt set way) 0 0)

end Sys2Proof.Machine
end

