-- ==== Sys2Proof/Machine/MbOther.lean ====
section
/-!
DEFINITION. The mailbox commands of the span (R390, R196, R197).
-/
namespace Sys2Proof.Machine

/-- The bytes 8–56 of a descriptor, the first of them lowest. -/
def Desc.keyBytes (d : Desc) : BitVec 392 :=
  (d.word 7).setWidth 8 ++ d.word 6 ++ d.word 5 ++ d.word 4 ++ d.word 3 ++ d.word 2 ++ d.word 1

/-- `SPAN_SET_AUTHORITY` (R196, R390). -/
def execSpanSetAuthority (mb : BitVec 3) (s : State) : Host.Outcome State Fault Refusal :=
  .next (s.takeOf mb 0x40 fun d s => (s.withHub fun h => { h with core := { h.core with authority := d.keyBytes } }).ok d)

/-- The 48 bytes of a chunk: bytes 16–63 of the descriptor. -/
def Desc.chunk (d : Desc) : List Byte := (upTo 6).flatMap fun k => wordBytes (d.word (k + 2))

/-- Stores bytes of the certificate, those within its length. -/
def putCert (total : Nat) : Nat → List Byte → Tbl Byte → Tbl Byte
  | _, [], t => t
  | i, b :: r, t => putCert total (i + 1) r (if i < total then t.put i b else t)

/-- `SPAN_SET_CERT` (R196, R390): a chunk outside the certificate is out of range, one outside the store of 2,048 bytes has no room. -/
def execSpanSetCert (mb : BitVec 3) (s : State) : Host.Outcome State Fault Refusal :=
  .next (s.takeOf mb 0x41 fun d s =>
    let off := d.field 1 0 16
    let total := d.field 1 16 16
    if 2048 < total ∨ off % 48 ≠ 0 then s.reject d ccBadArg 1
    else if 2048 ≤ off then s.reject d ccLimit 0
    else if total ≤ off then s.reject d ccBadArg 1
    else (s.withHub fun h => { h with core := { h.core with
        cert := putCert total off d.chunk h.core.cert
        certTotal := total
        certDone := h.core.certDone || d.field 1 32 1 == 1 } }).ok d)

/-- `SPAN_REKEY` (R197, R390): the exchange runs beside the traffic; a link that is not keyed has no keys to change. -/
def execSpanRekey (mb : BitVec 3) (s : State) : Host.Outcome State Fault Refusal :=
  .next (s.takeOf mb 0x42 fun d s =>
    let n := d.field 1 0 3
    let sp : BitVec 3 := BitVec.ofNat 3 n
    if 5 < n then s.reject d ccNotPresent 0
    else if !(s.hub.sp sp).keyed then s.reject d ccFailed 0
    else s.withHub fun h => ((h.begin d (.rekey sp)).onSp sp fun p => { p with rekey := true }).offerKeys sp)

end Sys2Proof.Machine
end

