-- ==== Sys2Proof/Machine/Mgmt.lean ====
section
/-!
DEFINITION. The management path (R400–R402): mailbox commands in MCTP messages, the endpoint's ID, and the SPDM requests that the hub
answers. Codes and message contents that R402 leaves to SPDM are PRESUMED from DSP0274 (assumption log 61).
-/
namespace Sys2Proof.Machine

/-! ### Mailbox commands (R401) -/

/-- Answers a message at once, without the ring. -/
def Hub.mctpRefuse (h : Hub) (b : MctpBody) (code : Byte) : Hub :=
  let w0 := List.nth b.words 0 0
  (h.emit (.mctp b.mailbox [rspWord (w0.extractLsb' 48 16) (w0.extractLsb' 32 16) code 0, 0, 0, 0])).emit (.ibi 0xFF)

/-- The endpoint places a command into a mailbox's ring and advances its tail. -/
def State.mctpPlace (s : State) (n : BitVec 3) (words : List Word) : State :=
  let a := cmdSlot n (s.hub.mb n).cmdTail
  { s with ring := (upTo 8).foldl (fun m k => m.writeWord (a + 8 * k) (List.nth words k 0)) s.ring }.withHub
    fun h => h.onMb n fun m => { m with cmdTail := m.cmdTail + 1 }

/-- The endpoint works: the hub is up and a start has passed the boot ROM's self-test. -/
def Hub.mgmtUp (h : Hub) : Bool := h.isUp && decide (7 < h.start.step.toNat)

/-- `MCTP_MESSAGE` (R401). A mailbox number above 7 names no mailbox with `PATH` 1. -/
def execMctpMessage (b : MctpBody) (s : State) : Host.Outcome State Fault Refusal :=
  .next (
    let n : BitVec 3 := b.mailbox.setWidth 3
    if !s.hub.mgmtUp then s
    else if b.vendor != s.otp.vendor || (b.kind != 1 && b.kind != 2) then s.withHub fun h => h.raise (rz evMbDenied b.mailbox.toNat)
    else if b.kind = 2 then s
    else if 7 < b.mailbox.toNat || !(s.hub.priv n).path then s.withHub fun h => h.mctpRefuse b ccDenied
    else if 64 ≤ ringCount (s.hub.mb n).cmdTail (s.hub.mb n).cmdHead then s.withHub fun h => h.mctpRefuse b ccLimit
    else s.mctpPlace n b.words)

/-- `MCTP_EID_ASSIGN` (R400). -/
def execMctpEidAssign (eid : Byte) (s : State) : Host.Outcome State Fault Refusal :=
  .next (s.withHub fun h =>
    if h.mgmtUp && !h.core.restart then
      { h with core := { h.core with eid := some eid } }.emit (.mctpControl (Config.standardBytes 0x01))
    else h)

/-! ### SPDM (R402) -/

/-- Response codes of SPDM 1.2. -/
def spdmVersionCode : Byte := 0x04
def spdmCapabilitiesCode : Byte := 0x61
def spdmAlgorithmsCode : Byte := 0x63
def spdmDigestsCode : Byte := 0x01
def spdmCertificateCode : Byte := 0x02
def spdmChallengeAuthCode : Byte := 0x03
def spdmMeasurementsCode : Byte := 0x60
def spdmErrorCode : Byte := 0x7F

/-- Error codes of SPDM 1.2: an invalid request, an unexpected one, an unspecified error. -/
def spdmInvalid : Byte := 0x01
def spdmUnexpected : Byte := 0x04
def spdmUnspecified : Byte := 0x05

/-- Requests are answered: on MB3's path, by the running image, outside a restart. -/
def Hub.spdmUp (h : Hub) : Bool := h.mgmtUp && h.core.image && !h.core.restart && (h.priv 3).path && (h.priv 3).enable

/-- An error response. -/
def Hub.spdmError (h : Hub) (code : Byte) : Hub := h.emit (.spdm spdmErrorCode [code])

/-- Answers a request where the exchange has come so far; else the request is unexpected. -/
def State.spdm (s : State) (ready : Bool) (f : Hub → Hub) : State :=
  s.withHub fun h => if !h.spdmUp then h else if ready then f h else h.spdmError spdmUnexpected

/-- The bytes of a SHA-384 digest. -/
def digestBytes (d : BitVec 384) : List Byte := (upTo 48).map fun i => d.extractLsb' (8 * i) 8
/-- The bytes of a signature. -/
def signBytes (d : BitVec 768) : List Byte := (upTo 96).map fun i => d.extractLsb' (8 * i) 8
/-- The words of a nonce. -/
def nonceWords (n : BitVec 256) : List Word := (upTo 4).map fun i => n.extractLsb' (64 * i) 64

/-- `GET_VERSION`: the exchange begins again. -/
def execSpdmGetVersion (s : State) : Host.Outcome State Fault Refusal :=
  .next (s.spdm true fun h =>
    { h with core := { h.core with
        spdmVersion := true
        spdmAlgo := false } }.emit (.spdm spdmVersionCode (Config.standardBytes spdmVersionCode.toNat)))

/-- `GET_CAPABILITIES`. -/
def execSpdmGetCapabilities (s : State) : Host.Outcome State Fault Refusal :=
  .next (s.spdm s.hub.core.spdmVersion fun h => h.emit (.spdm spdmCapabilitiesCode (Config.standardBytes spdmCapabilitiesCode.toNat)))

/-- `NEGOTIATE_ALGORITHMS`: ECDSA P-384 and SHA-384 are what the hub supports. -/
def execSpdmNegotiateAlgorithms (p384 sha384 : Bool) (s : State) : Host.Outcome State Fault Refusal :=
  .next (s.spdm s.hub.core.spdmVersion fun h =>
    if p384 && sha384 then
      { h with core := { h.core with spdmAlgo := true } }.emit
        (.spdm spdmAlgorithmsCode (Config.standardBytes spdmAlgorithmsCode.toNat))
    else h.spdmError spdmInvalid)

/-- `GET_DIGESTS`: of slot 0, the only one. -/
def execSpdmGetDigests (s : State) : Host.Outcome State Fault Refusal :=
  .next (s.spdm s.hub.core.spdmAlgo fun h => h.emit (.spdm spdmDigestsCode (digestBytes (Config.chainDigest h.core.codeDig))))

/-- `GET_CERTIFICATE`: a part of the chain of slot 0. -/
def execSpdmGetCertificate (slot : BitVec 4) (offset length : BitVec 16) (s : State) : Host.Outcome State Fault Refusal :=
  .next (s.spdm s.hub.core.spdmAlgo fun h =>
    if slot = 0 then h.emit (.spdm spdmCertificateCode (Config.chainBytes h.core.codeDig offset length)) else h.spdmError spdmInvalid)

/-- The words of the protection tables in force. -/
def Prot.allWords (p : Prot) : List Word :=
  let flat (x : Word × Word × Word) : List Word := [x.1, x.2.1, x.2.2]
  (upTo 8).flatMap (fun n => flat ((p.entry n).words n))
    ++ (upTo 128 ++ [0xFF]).flatMap (fun a => flat ((p.agents.getD a AgentAcc.start).words a))
    ++ p.masks.map fun m => fld 48 m.first.toNat ||| fld 32 m.last.toNat ||| fld 2 m.wr.toNat ||| fld 0 m.rd.toNat

/-- A measurement (R402). -/
def State.measurement (s : State) (i : Nat) : List Byte :=
  if i = 1 then digestBytes s.hub.core.codeDig
  else if i = 2 then digestBytes Config.bootRomDigest
  else if i = 3 then
    digestBytes (Config.sha384 (s.otp.genWords (if s.hub.start.genValid then some s.hub.start.gen.toNat else none)))
  else if i = 4 then digestBytes (Config.sha384 s.hub.prot.allWords)
  else wordBytes s.otp.dieId ++ (wordBytes s.hub.versionWord).drop 4

/-- The signature of the hub over an exchange: the requester's nonce, the hub's own (a free value) and what it answers. -/
def Hub.signature (h : Hub) (nonce : BitVec 256) (body : List Byte) : List Byte × Hub :=
  let r := Hub.freeWords 4 h
  let own := r.1.flatMap wordBytes
  (own ++ signBytes (Config.sign (Config.sha384 (nonceWords nonce ++ r.1 ++ body.map fun b => b.setWidth 64))), r.2)

/-- `CHALLENGE`: signed with the attestation key, while the path to it is open (R374). -/
def execSpdmChallenge (slot : BitVec 4) (nonce : BitVec 256) (s : State) : Host.Outcome State Fault Refusal :=
  .next (s.spdm s.hub.core.spdmAlgo fun h =>
    if slot != 0 then h.spdmError spdmInvalid
    else if !h.core.attestOpen then h.spdmError spdmUnspecified
    else
      let body := digestBytes (Config.chainDigest h.core.codeDig)
      let r := h.signature nonce body
      r.2.emit (.spdm spdmChallengeAuthCode (body ++ r.1)))

/-- The measurements that an index asks for: 0 for their number, 0xFF for all; none where there is none. -/
def State.measurements (s : State) (index : Byte) : Option (List Byte) :=
  if index = 0 then some [5]
  else if index = 0xFF then some ([1, 2, 3, 4, 5].flatMap fun i => BitVec.ofNat 8 i :: s.measurement i)
  else if index.toNat ≤ 5 then some (index :: s.measurement index.toNat)
  else none

/-- `GET_MEASUREMENTS`. -/
def execSpdmGetMeasurements (index : Byte) (nonce : BitVec 256) (signed : Bool) (s : State) : Host.Outcome State Fault Refusal :=
  .next (s.spdm s.hub.core.spdmAlgo fun h =>
    match s.measurements index with
    | none => h.spdmError spdmInvalid
    | some body =>
      if !signed then h.emit (.spdm spdmMeasurementsCode body)
      else if !h.core.attestOpen then h.spdmError spdmUnspecified
      else
        let r := h.signature nonce body
        r.2.emit (.spdm spdmMeasurementsCode (body ++ r.1)))

end Sys2Proof.Machine
end

