-- ==== Sys2Proof/Machine/Reserve.lean ====
section
/-!
DEFINITION. The notices of reservations at their slices (R175–R179): probes of watched lines, clears and releases.
-/
namespace Sys2Proof.Machine

/-- Takes one notice of a kind that has been sent: 0 a probe, 1 a clear, 2 a release. -/
def Hub.takeNote (h : Hub) (kind : BitVec 2) (n : RsvNotice) (k : Hub → Hub) : Hub :=
  if h.rsvNotes.contains (kind, n) then k { h with rsvNotes := List.dropFirst (fun x => x == (kind, n)) h.rsvNotes } else h

/-- An acknowledgement of a notice reaches the requester's gate, with what a probe found (R175, R177). -/
def Hub.ackNote (h : Hub) (line : Line) (g : Gaid) (t : Txid) (owner : Bool) : Hub :=
  let hs := h.homeHs line
  match h.findTxn g t line with
  | none => h
  | some x =>
    (h.onTxn hs x.tid fun y => { y with gate := { y.gate with
      acks := y.gate.acks - 1
      rsvOwner := y.gate.rsvOwner || owner } }).settle hs x.tid

/-- `RESERVATION_PROBE` (R175): the slice of a watched line reads its home view and says whether it names an owner, an agent or a
hub. From this round on a write to the line is later than the load (R180). -/
def execReservationProbe (n : RsvNotice) (s : State) : Host.Outcome State Fault Refusal :=
  .next (s.withHub fun h => h.takeNote 0 n fun h =>
    let mine (r : Rsv) : Bool := r.gaid == n.gaid && r.anchor == n.anchor
    let h := h.onSlice (h.homeHs n.anchor) fun s => { s with
      rsv := List.mapIf mine (fun r => { r with probes := r.probes ++ [(n.line, h.round)] }) s.rsv }
    let sl := h.slice (h.homeHs n.line)
    let owner : Bool := match sl.homeView n.line, sl.hubView n.line with
      | .own _, _ => true
      | _, .own _ => true
      | _, _ => false
    h.ackNote n.anchor n.gaid n.txid owner)

/-- A watched line's transaction comes before an entry's `RSV_LOAD`: it was accepted before the entry's probe was applied to the line (R180). -/
def Rsv.loadedAfter (r : Rsv) (l : Line) (acc : Nat) : Bool := !(r.probes.any fun p => p.1 == l && decide (p.2 ≤ acc))

/-- `RESERVATION_CLEAR` (R176, R177): the anchor slice ends the entries that cover the line, a writer's own and those whose load came later
excepted (R180), and acknowledges. -/
def execReservationClear (n : RsvNotice) (s : State) : Host.Outcome State Fault Refusal :=
  .next (s.withHub fun h => h.takeNote 1 n fun h =>
    let acc := ((h.findTxn n.gaid n.txid n.line).map fun t => t.acc).getD h.round
    let gone (r : Rsv) : Bool :=
      r.anchor == n.anchor && r.covers n.line && !(n.seq == 1 && r.gaid == n.gaid) && !r.loadedAfter n.line acc
    let h := h.onSlice (h.homeHs n.anchor) fun s => { s with rsv := s.rsv.filter fun r => !gone r }
    h.ackNote n.line n.gaid n.txid false)

/-- `RESERVATION_RELEASE` (R179): the anchor slice removes the entry whose `GAID` and sequence match; another release is discarded. -/
def execReservationRelease (n : RsvNotice) (s : State) : Host.Outcome State Fault Refusal :=
  .next (s.withHub fun h => h.takeNote 2 n fun h =>
    h.onSlice (h.homeHs n.anchor) fun s => { s with
      rsv := s.rsv.filter fun r => !(r.anchor == n.anchor && r.gaid == n.gaid && r.seq == n.seq) })

end Sys2Proof.Machine
end

