-- ==== Sys2Proof/Machine/Rounds.lean ====
section
/-!
DEFINITION. The round boundary (R6, R7): what takes effect with the round, the arbitration phase of every slice (R36–R55), and what runs
beside it.
-/
namespace Sys2Proof.Machine

/-- The frames of the round at every port in service (R236, R237, R259; assumption log 62): four at 32 GT/s and two at 16 GT/s, and at a span
port one at most. -/
def Hub.sendFrames (h : Hub) : Hub :=
  let ap (e : Nat × ApPort) : Nat × ApPort :=
    if e.2.online && h.domUp (.ap (BitVec.ofNat 4 e.1)) then
      (e.1, { e.2 with frame := e.2.frame.sendRound h.round (if e.2.rate16 then 2 else 4) })
    else e
  let mp (e : Nat × MpPort) : Nat × MpPort :=
    if e.2.online && h.domUp (.mp (BitVec.ofNat 3 e.1)) then (e.1, { e.2 with frame := e.2.frame.sendRound h.round 4 }) else e
  let sp (e : Nat × SpPort) : Nat × SpPort :=
    if e.2.keyed && h.domUp (.sp (BitVec.ofNat 3 e.1)) then (e.1, e.2.sendRound (h.arbs.getD (73 + e.1) Arbiter.init).grants h.round) else e
  { h with
    aps := List.map ap h.aps
    mps := List.map mp h.mps
    sps := List.map sp h.sps }

/-- A span port that a route change has taken out of every route sleeps once the messages of the old routes are delivered (R202, R411). -/
def Hub.sleepSpans (h : Hub) : Hub :=
  ((upTo 6).map (BitVec.ofNat 3)).foldl (fun h n =>
    let p := h.sp n
    if p.idle && !h.draining && p.waits.isEmpty && p.hopHeld.isEmpty && h.domUp (.sp n) then h.startDown (.sp n) else h) h

/-- The start of a round of service. -/
def Hub.tick (h : Hub) : Hub :=
  let n := h.round + 1
  let h := { h with round := n }
  let h := h.applyNotices.forceDue.reportStalls.markWays
  let h := if h.start.phase == .serving then (h.servingSlices.filter fun hs => h.mayArbitrate hs).foldl (fun h hs => h.arbitrate n hs) h else h
  let h := { h.offerSnoops with pointer := h.pointer + 1 }
  let h := (h.walkHubs.tryRoutes.runArbiters.pruneChanges.sleepSpans.placeWakes.runGrants.countPauses).flushHeld
  let h := ((upTo 8).map (BitVec.ofNat 3)).foldl (fun h k => h.unpinMaint k) h
  h.sendFrames.runCounters

/-- `ROUND_TICK` (R7): `ROUND_COUNT` rises once per round from the first round of service on. -/
def execRoundTick (s : State) : Host.Outcome State Fault Refusal :=
  .next (if s.hub.round = 0 then s else s.withHubR fun h => h.tick)

end Sys2Proof.Machine
end

