-- ==== Sys2Proof/Machine/Dispatch.lean ====
section
/-!
DEFINITION. The dispatch of a command to its meaning: one arm for each constructor of `Instr`.
-/
namespace Sys2Proof.Machine

def exec (i : Instr) (s : State) : Host.Outcome State Fault Refusal :=
  match i with
  | .roundTick => Sys2Proof.Machine.execRoundTick s
  | .sliceLookup ls tid e sent => Sys2Proof.Machine.execSliceLookup ls tid e sent s
  | .prefetchNotice line stream => Sys2Proof.Machine.execPrefetchNotice line stream s
  | .rdShared p f => Sys2Proof.Machine.execRdShared p f s
  | .rdAny p f => Sys2Proof.Machine.execRdAny p f s
  | .rdOwn p f => Sys2Proof.Machine.execRdOwn p f s
  | .upgrade p f => Sys2Proof.Machine.execUpgrade p f s
  | .rdOnce p f => Sys2Proof.Machine.execRdOnce p f s
  | .wrFull p f d => Sys2Proof.Machine.execWrFull p f d s
  | .wrPart p f d => Sys2Proof.Machine.execWrPart p f d s
  | .atom p f operand => Sys2Proof.Machine.execAtom p f operand s
  | .rsvLoad p f => Sys2Proof.Machine.execRsvLoad p f s
  | .rsvStore p f d => Sys2Proof.Machine.execRsvStore p f d s
  | .fenceSweep p f => Sys2Proof.Machine.execFenceSweep p f s
  | .devRd p f be => Sys2Proof.Machine.execDevRd p f be s
  | .devWr p f d => Sys2Proof.Machine.execDevWr p f d s
  | .wbDirty p f d e => Sys2Proof.Machine.execWbDirty p f d e s
  | .evictClean p f e => Sys2Proof.Machine.execEvictClean p f e s
  | .heldRepresentationPresent p gaid txid => Sys2Proof.Machine.execHeldRepresentationPresent p gaid txid s
  | .dataPull ls tid upsets => Sys2Proof.Machine.execDataPull ls tid upsets s
  | .rspI p f => Sys2Proof.Machine.execRspI p f s
  | .rspS p f => Sys2Proof.Machine.execRspS p f s
  | .rspFwdS p f => Sys2Proof.Machine.execRspFwdS p f s
  | .rspFwdI p f => Sys2Proof.Machine.execRspFwdI p f s
  | .rspWb p f d ue => Sys2Proof.Machine.execRspWb p f d ue s
  | .rspCross p f => Sys2Proof.Machine.execRspCross p f s
  | .datFwd p f d => Sys2Proof.Machine.execDatFwd p f d s
  | .cmpAck p f => Sys2Proof.Machine.execCmpAck p f s
  | .geckoHoldWorstClose ls tid => Sys2Proof.Machine.execGeckoHoldWorstClose ls tid s
  | .geckoHoldEnd ls line => Sys2Proof.Machine.execGeckoHoldEnd ls line s
  | .ticketLapse ls gaid txid line => Sys2Proof.Machine.execTicketLapse ls gaid txid line s
  | .heldPlaceExpiry ls gaid txid => Sys2Proof.Machine.execHeldPlaceExpiry ls gaid txid s
  | .refusalAgeClear gaid => Sys2Proof.Machine.execRefusalAgeClear gaid s
  | .agentSnoopDeadline la gaid txid line => Sys2Proof.Machine.execAgentSnoopDeadline la gaid txid line s
  | .agentGrace la gaid txid line => Sys2Proof.Machine.execAgentGrace la gaid txid line s
  | .deadAgentNotice la => Sys2Proof.Machine.execDeadAgentNotice la s
  | .deadRequesterClose ls tid => Sys2Proof.Machine.execDeadRequesterClose ls tid s
  | .reclaimWalkVisit hs e intervened => Sys2Proof.Machine.execReclaimWalkVisit hs e intervened s
  | .runaheadSelection ls => Sys2Proof.Machine.execRunaheadSelection ls s
  | .sweepStep ls span set way => Sys2Proof.Machine.execSweepStep ls span set way s
  | .scrubRead t e => Sys2Proof.Machine.execScrubRead t e s
  | .scrubPassLate stop => Sys2Proof.Machine.execScrubPassLate stop s
  | .memRd ch => Sys2Proof.Machine.execMemRd ch s
  | .memWr line => Sys2Proof.Machine.execMemWr line s
  | .memDat mp mtag d => Sys2Proof.Machine.execMemDat mp mtag d s
  | .memWcmp mp mtag => Sys2Proof.Machine.execMemWcmp mp mtag s
  | .memPause ch lead len => Sys2Proof.Machine.execMemPause ch lead len s
  | .memPauseStart ch => Sys2Proof.Machine.execMemPauseStart ch s
  | .memPauseEnd ch => Sys2Proof.Machine.execMemPauseEnd ch s
  | .memDown ch => Sys2Proof.Machine.execMemDown ch s
  | .memReplayed ch => Sys2Proof.Machine.execMemReplayed ch s
  | .failoverWindowEnd ch => Sys2Proof.Machine.execFailoverWindowEnd ch s
  | .readLate mp mtag => Sys2Proof.Machine.execReadLate mp mtag s
  | .readLost mp mtag => Sys2Proof.Machine.execReadLost mp mtag s
  | .spillMove ls => Sys2Proof.Machine.execSpillMove ls s
  | .recallComplete ls line => Sys2Proof.Machine.execRecallComplete ls line s
  | .fillInstall ls line => Sys2Proof.Machine.execFillInstall ls line s
  | .fillVictimWaitExpiry ls line => Sys2Proof.Machine.execFillVictimWaitExpiry ls line s
  | .reservationProbe n => Sys2Proof.Machine.execReservationProbe n s
  | .reservationClear n => Sys2Proof.Machine.execReservationClear n s
  | .reservationRelease n => Sys2Proof.Machine.execReservationRelease n s
  | .devTargetAnswer p la txid outcome d => Sys2Proof.Machine.execDevTargetAnswer p la txid outcome d s
  | .devTimeout txid => Sys2Proof.Machine.execDevTimeout txid s
  | .postedWriteEntry => Sys2Proof.Machine.execPostedWriteEntry s
  | .apFrame port h => Sys2Proof.Machine.execApFrame port h s
  | .apLinkDown p => Sys2Proof.Machine.execApLinkDown p s
  | .apDeclare p w => Sys2Proof.Machine.execApDeclare p w s
  | .apAgent p w => Sys2Proof.Machine.execApAgent p w s
  | .linkTraining port r => Sys2Proof.Machine.execLinkTraining port r s
  | .mpDeclare mp w => Sys2Proof.Machine.execMpDeclare mp w s
  | .mpChanGeom mp w => Sys2Proof.Machine.execMpChanGeom mp w s
  | .mpChanFlow mp w => Sys2Proof.Machine.execMpChanFlow mp w s
  | .pwrDeclare p w => Sys2Proof.Machine.execPwrDeclare p w s
  | .pwrReq p w => Sys2Proof.Machine.execPwrReq p w s
  | .pwrStepDone p w => Sys2Proof.Machine.execPwrStepDone p w s
  | .pwrTelem p w => Sys2Proof.Machine.execPwrTelem p w s
  | .pwrSleepReq p w => Sys2Proof.Machine.execPwrSleepReq p w s
  | .sleepWalkDone p => Sys2Proof.Machine.execSleepWalkDone p s
  | .pwrWakeReq p w => Sys2Proof.Machine.execPwrWakeReq p w s
  | .dieStepWindowExpiry p => Sys2Proof.Machine.execDieStepWindowExpiry p s
  | .capLoop => Sys2Proof.Machine.execCapLoop s
  | .sensorRead readings => Sys2Proof.Machine.execSensorRead readings s
  | .pmbusRailRead rail status pout => Sys2Proof.Machine.execPmbusRailRead rail status pout s
  | .avsStep up => Sys2Proof.Machine.execAvsStep up s
  | .memPortIdle mp => Sys2Proof.Machine.execMemPortIdle mp s
  | .pointOfNoReturn d => Sys2Proof.Machine.execPointOfNoReturn d s
  | .powerDownComplete d => Sys2Proof.Machine.execPowerDownComplete d s
  | .wakeRequest d k => Sys2Proof.Machine.execWakeRequest d k s
  | .domainServe d => Sys2Proof.Machine.execDomainServe d s
  | .epochFlip => Sys2Proof.Machine.execEpochFlip s
  | .epochDrained => Sys2Proof.Machine.execEpochDrained s
  | .lockExpired a => Sys2Proof.Machine.execLockExpired a s
  | .meshBudgetOverrun src dst cycles => Sys2Proof.Machine.execMeshBudgetOverrun src dst cycles s
  | .meshProbeRound bad => Sys2Proof.Machine.execMeshProbeRound bad s
  | .aesKnownAnswerTest engine ok => Sys2Proof.Machine.execAesKnownAnswerTest engine ok s
  | .roundCompare stop seen => Sys2Proof.Machine.execRoundCompare stop seen s
  | .spanFrame sp fr => Sys2Proof.Machine.execSpanFrame sp fr s
  | .spanLinkDown sp => Sys2Proof.Machine.execSpanLinkDown sp s
  | .spanKeying sp k => Sys2Proof.Machine.execSpanKeying sp k s
  | .spanRekeyCount sp => Sys2Proof.Machine.execSpanRekeyCount sp s
  | .rekeyDeadline sp => Sys2Proof.Machine.execRekeyDeadline sp s
  | .routeChangeAck hub => Sys2Proof.Machine.execRouteChangeAck hub s
  | .hopTicket sp gaid txid delay => Sys2Proof.Machine.execHopTicket sp gaid txid delay s
  | .hopTicketResend sp gaid txid => Sys2Proof.Machine.execHopTicketResend sp gaid txid s
  | .spanRdS m => Sys2Proof.Machine.execSpanRdS m s
  | .spanRdAny m => Sys2Proof.Machine.execSpanRdAny m s
  | .spanRdO m => Sys2Proof.Machine.execSpanRdO m s
  | .spanUpgrade m => Sys2Proof.Machine.execSpanUpgrade m s
  | .spanRdOnce m => Sys2Proof.Machine.execSpanRdOnce m s
  | .spanWr m d => Sys2Proof.Machine.execSpanWr m d s
  | .spanAtom m operand => Sys2Proof.Machine.execSpanAtom m operand s
  | .spanDevRd m be => Sys2Proof.Machine.execSpanDevRd m be s
  | .spanDevWr m d => Sys2Proof.Machine.execSpanDevWr m d s
  | .spanRepresent gaid txid => Sys2Proof.Machine.execSpanRepresent gaid txid s
  | .spanWb m d e => Sys2Proof.Machine.execSpanWb m d e s
  | .spanEvict m e => Sys2Proof.Machine.execSpanEvict m e s
  | .spanSnpS m => Sys2Proof.Machine.execSpanSnpS m s
  | .spanSnpO m => Sys2Proof.Machine.execSpanSnpO m s
  | .spanSnpInv m => Sys2Proof.Machine.execSpanSnpInv m s
  | .spanSnpData m => Sys2Proof.Machine.execSpanSnpData m s
  | .spanSnoopEntryFree ls => Sys2Proof.Machine.execSpanSnoopEntryFree ls s
  | .spanRspI m => Sys2Proof.Machine.execSpanRspI m s
  | .spanRspS m => Sys2Proof.Machine.execSpanRspS m s
  | .spanRspFwd m => Sys2Proof.Machine.execSpanRspFwd m s
  | .spanRspData m d => Sys2Proof.Machine.execSpanRspData m d s
  | .spanDat m d => Sys2Proof.Machine.execSpanDat m d s
  | .spanCmp m => Sys2Proof.Machine.execSpanCmp m s
  | .spanTicket m => Sys2Proof.Machine.execSpanTicket m s
  | .spanDefer m => Sys2Proof.Machine.execSpanDefer m s
  | .spanDeferResend gaid txid => Sys2Proof.Machine.execSpanDeferResend gaid txid s
  | .spanCmpWb m => Sys2Proof.Machine.execSpanCmpWb m s
  | .spanCmpAck m => Sys2Proof.Machine.execSpanCmpAck m s
  | .spanRsvRelease m => Sys2Proof.Machine.execSpanRsvRelease m s
  | .spanGrace ls tid hub => Sys2Proof.Machine.execSpanGrace ls tid hub s
  | .spanHubLostNotice hub => Sys2Proof.Machine.execSpanHubLostNotice hub s
  | .rotationStepStart => Sys2Proof.Machine.execRotationStepStart s
  | .migrationCopyGroup sf rest => Sys2Proof.Machine.execMigrationCopyGroup sf rest s
  | .drainRound => Sys2Proof.Machine.execDrainRound s
  | .drainEnd => Sys2Proof.Machine.execDrainEnd s
  | .handoverMarker => Sys2Proof.Machine.execHandoverMarker s
  | .sliceIsolation => Sys2Proof.Machine.execSliceIsolation s
  | .bistComplete r => Sys2Proof.Machine.execBistComplete r s
  | .fuseBurn hs mac element => Sys2Proof.Machine.execFuseBurn hs mac element s
  | .reinitialisationEnd => Sys2Proof.Machine.execReinitialisationEnd s
  | .testPassLate => Sys2Proof.Machine.execTestPassLate s
  | .testAccessMode t => Sys2Proof.Machine.execTestAccessMode t s
  | .otpProgram w => Sys2Proof.Machine.execOtpProgram w s
  | .fatalError src inst syndrome => Sys2Proof.Machine.execFatalError src inst syndrome s
  | .fatalPostedWriteDrop => Sys2Proof.Machine.execFatalPostedWriteDrop s
  | .lockstepMismatch => Sys2Proof.Machine.execLockstepMismatch s
  | .uluhivaRestartDone masterFound => Sys2Proof.Machine.execUluhivaRestartDone masterFound s
  | .watchdogExpiry => Sys2Proof.Machine.execWatchdogExpiry s
  | .pwrgoodRise => Sys2Proof.Machine.execPwrgoodRise s
  | .pwrgoodFall => Sys2Proof.Machine.execPwrgoodFall s
  | .resetNTakenLow => Sys2Proof.Machine.execResetNTakenLow s
  | .resetNRise => Sys2Proof.Machine.execResetNRise s
  | .warmResetDrainEnd => Sys2Proof.Machine.execWarmResetDrainEnd s
  | .startBegin env => Sys2Proof.Machine.execStartBegin env s
  | .startStepLimit port => Sys2Proof.Machine.execStartStepLimit port s
  | .thermtrip => Sys2Proof.Machine.execThermtrip s
  | .logQueueTake => Sys2Proof.Machine.execLogQueueTake s
  | .bwWindowEnd => Sys2Proof.Machine.execBwWindowEnd s
  | .mbCmdTailWrite gaid n v => Sys2Proof.Machine.execMbCmdTailWrite gaid n v s
  | .mbRspHeadWrite gaid n v => Sys2Proof.Machine.execMbRspHeadWrite gaid n v s
  | .evtStatusWrite gaid g v raised => Sys2Proof.Machine.execEvtStatusWrite gaid g v raised s
  | .evtMaskWrite gaid g v => Sys2Proof.Machine.execEvtMaskWrite gaid g v s
  | .pmcWinPreset gaid idx v => Sys2Proof.Machine.execPmcWinPreset gaid idx v s
  | .statClr gaid => Sys2Proof.Machine.execStatClr gaid s
  | .freeze gaid v => Sys2Proof.Machine.execFreeze gaid v s
  | .pmcReset gaid => Sys2Proof.Machine.execPmcReset gaid s
  | .registerWrite gaid off v => Sys2Proof.Machine.execRegisterWrite gaid off v s
  | .hubGetId mb => Sys2Proof.Machine.execHubGetId mb s
  | .mbNop mb => Sys2Proof.Machine.execMbNop mb s
  | .paramRead mb => Sys2Proof.Machine.execParamRead mb s
  | .paramStage mb => Sys2Proof.Machine.execParamStage mb s
  | .paramCommit mb ackRounds => Sys2Proof.Machine.execParamCommit mb ackRounds s
  | .paramDiscard mb => Sys2Proof.Machine.execParamDiscard mb s
  | .protStageMbx mb => Sys2Proof.Machine.execProtStageMbx mb s
  | .protStageAgent mb => Sys2Proof.Machine.execProtStageAgent mb s
  | .protStagePmask mb => Sys2Proof.Machine.execProtStagePmask mb s
  | .protCommit mb ackRounds => Sys2Proof.Machine.execProtCommit mb ackRounds s
  | .protDiscard mb => Sys2Proof.Machine.execProtDiscard mb s
  | .protRead mb => Sys2Proof.Machine.execProtRead mb s
  | .commitRound => Sys2Proof.Machine.execCommitRound s
  | .hcClean mb => Sys2Proof.Machine.execHcClean mb s
  | .hcInvalidate mb => Sys2Proof.Machine.execHcInvalidate mb s
  | .hcCleanInvalidate mb => Sys2Proof.Machine.execHcCleanInvalidate mb s
  | .hcFillAndLock mb => Sys2Proof.Machine.execHcFillAndLock mb s
  | .hcUnlock mb => Sys2Proof.Machine.execHcUnlock mb s
  | .maintRangeWalk => Sys2Proof.Machine.execMaintRangeWalk s
  | .sfReadEntry mb e => Sys2Proof.Machine.execSfReadEntry mb e s
  | .sdReadEntry mb e => Sys2Proof.Machine.execSdReadEntry mb e s
  | .hcReadTag mb e => Sys2Proof.Machine.execHcReadTag mb e s
  | .spanSetAuthority mb => Sys2Proof.Machine.execSpanSetAuthority mb s
  | .spanSetCert mb => Sys2Proof.Machine.execSpanSetCert mb s
  | .spanRekey mb => Sys2Proof.Machine.execSpanRekey mb s
  | .testArmAccess mb => Sys2Proof.Machine.execTestArmAccess mb s
  | .testFuseBurn mb => Sys2Proof.Machine.execTestFuseBurn mb s
  | .testRetest mb => Sys2Proof.Machine.execTestRetest mb s
  | .evtLogRead mb => Sys2Proof.Machine.execEvtLogRead mb s
  | .ledgerRead mb => Sys2Proof.Machine.execLedgerRead mb s
  | .fwSelect mb => Sys2Proof.Machine.execFwSelect mb s
  | .hubReset mb => Sys2Proof.Machine.execHubReset mb s
  | .mctpMessage b => Sys2Proof.Machine.execMctpMessage b s
  | .mctpEidAssign eid => Sys2Proof.Machine.execMctpEidAssign eid s
  | .spdmGetVersion => Sys2Proof.Machine.execSpdmGetVersion s
  | .spdmGetCapabilities => Sys2Proof.Machine.execSpdmGetCapabilities s
  | .spdmNegotiateAlgorithms p384 sha384 => Sys2Proof.Machine.execSpdmNegotiateAlgorithms p384 sha384 s
  | .spdmGetDigests => Sys2Proof.Machine.execSpdmGetDigests s
  | .spdmGetCertificate slot offset length => Sys2Proof.Machine.execSpdmGetCertificate slot offset length s
  | .spdmChallenge slot nonce => Sys2Proof.Machine.execSpdmChallenge slot nonce s
  | .spdmGetMeasurements index nonce signed => Sys2Proof.Machine.execSpdmGetMeasurements index nonce signed s
  | .mpLinkDown mp => Sys2Proof.Machine.execMpLinkDown mp s
  | .pllLockLoss => Sys2Proof.Machine.execPllLockLoss s
  | .pmbAlertN high => Sys2Proof.Machine.execPmbAlertN high s

end Sys2Proof.Machine
end

