-- ==== Sys2Proof/Safety.lean ====
section
/-!
DEFINITION. The terms in which the statements speak: what a command leaves as it was, when a message is one that the hub takes, and
what its taking leaves behind.
-/
namespace Sys2Proof.Safety
open Sys2Proof.Machine

/-! ### What a command leaves as it was -/

/-- The parts of the machine: one for each field of `State` and of `Hub`. -/
inductive Part where
  | pending | otp | ring | round | pins | start | mirror | aon | par | master | prot | mbx | core | map | slices
  | spill | agents | aps | mps | chans | reads | sps | spanReps | spanBacks | waitSnoops | lostHubs | routeAcks
  | routeNew | routeOld | spanEpoch | records | lapses | rsvRecs | rsvNotes | notices | chNotes | slots | pointer | dev
  | epoch | arbs | power | rot | events | pmc | prefetchNotes | freeCtr | out
  deriving DecidableEq, Repr

/-- A part is as before. -/
def Part.same (s t : State) : Part → Prop
  | .pending => t.pending = s.pending
  | .otp => t.otp = s.otp
  | .ring => t.ring = s.ring
  | .round => t.hub.round = s.hub.round
  | .pins => t.hub.pins = s.hub.pins
  | .start => t.hub.start = s.hub.start
  | .mirror => t.hub.mirror = s.hub.mirror
  | .aon => t.hub.aon = s.hub.aon
  | .par => t.hub.par = s.hub.par
  | .master => t.hub.master = s.hub.master
  | .prot => t.hub.prot = s.hub.prot
  | .mbx => t.hub.mbx = s.hub.mbx
  | .core => t.hub.core = s.hub.core
  | .map => t.hub.map = s.hub.map
  | .slices => t.hub.slices = s.hub.slices
  | .spill => t.hub.spill = s.hub.spill
  | .agents => t.hub.agents = s.hub.agents
  | .aps => t.hub.aps = s.hub.aps
  | .mps => t.hub.mps = s.hub.mps
  | .chans => t.hub.chans = s.hub.chans
  | .reads => t.hub.reads = s.hub.reads
  | .sps => t.hub.sps = s.hub.sps
  | .spanReps => t.hub.spanReps = s.hub.spanReps
  | .spanBacks => t.hub.spanBacks = s.hub.spanBacks
  | .waitSnoops => t.hub.waitSnoops = s.hub.waitSnoops
  | .lostHubs => t.hub.lostHubs = s.hub.lostHubs
  | .routeAcks => t.hub.routeAcks = s.hub.routeAcks
  | .routeNew => t.hub.routeNew = s.hub.routeNew
  | .routeOld => t.hub.routeOld = s.hub.routeOld
  | .spanEpoch => t.hub.spanEpoch = s.hub.spanEpoch
  | .records => t.hub.records = s.hub.records
  | .lapses => t.hub.lapses = s.hub.lapses
  | .rsvRecs => t.hub.rsvRecs = s.hub.rsvRecs
  | .rsvNotes => t.hub.rsvNotes = s.hub.rsvNotes
  | .notices => t.hub.notices = s.hub.notices
  | .chNotes => t.hub.chNotes = s.hub.chNotes
  | .slots => t.hub.slots = s.hub.slots
  | .pointer => t.hub.pointer = s.hub.pointer
  | .dev => t.hub.dev = s.hub.dev
  | .epoch => t.hub.epoch = s.hub.epoch
  | .arbs => t.hub.arbs = s.hub.arbs
  | .power => t.hub.power = s.hub.power
  | .rot => t.hub.rot = s.hub.rot
  | .events => t.hub.events = s.hub.events
  | .pmc => t.hub.pmc = s.hub.pmc
  | .prefetchNotes => t.hub.prefetchNotes = s.hub.prefetchNotes
  | .freeCtr => t.hub.freeCtr = s.hub.freeCtr
  | .out => t.hub.out = s.hub.out

/-- Every part but the named ones is as before. -/
def onlyIn (ps : List Part) (s t : State) : Prop := ∀ q, q ∉ ps → q.same s t

/-- The parts that the raise of an event may write: its status, its record after a fatal error, its delivery to the device-region unit and
to the ports, a power-down that its delivery aborts, its counters and the free value of its message's latency (R346, R450–R454, R320). -/
def eventParts : List Part := [.power, .notices, .aps, .agents, .dev, .out, .pmc, .freeCtr, .events, .aon]

/-- Every physical slice but one is as before. -/
def otherSlices (h k : Hub) (hs : Nat) : Prop := ∀ m, m ≠ hs → k.slice m = h.slice m

/-- Every physical slice but one, and the newt slice that its writes are mirrored to (R359), is as before. -/
def otherArrays (h k : Hub) (hs : Nat) : Prop :=
  ∀ m, m ≠ hs → h.rot.newt.map (fun n => n.toNat) ≠ some m → k.slice m = h.slice m

/-- Every agent port but one is as before. -/
def otherPorts (h k : Hub) (p : BitVec 4) : Prop := ∀ q, q ≠ p → k.ap q = h.ap q

/-- The status bit of an event source (R450). -/
def raised (h : Hub) (e : BitVec 10) : Prop := (h.evStatus (e.toNat / 32)).getLsbD (e.toNat % 32) = true

/-! ### Messages that an agent port takes -/

/-- The sender of a message is admitted at the port, online and not dead (R141, R256). -/
def fromOnline (h : Hub) (p : BitVec 4) (la : La) : Prop :=
  (h.agent la).valid = true ∧ (h.agent la).port = p ∧ (h.agent la).dead = false ∧ (h.agent la).online = true

/-- A coherent request that its edge router takes as new: the hub serves, its sender is admitted and caches where the request asks for
it, its `TXID` is not outstanding, its data and its form break no rule, and its line is at home here or at a hub that is not lost (R105,
R228, R253, R256). -/
structure NewRequest (h : Hub) (p : BitVec 4) (f : Flit) (op : ReqOp) (d : Option WrData) : Prop where
  serving : h.start.phase = .serving
  own : f.gaid.hub = h.num
  sender : fromOnline h p f.gaid.la
  fresh : (h.ap p).outOf f.gaid f.txid = none
  caches : op.cached = true → (h.agent f.gaid.la).caching = true
  sound : ∀ w, d = some w → w.sound = true ∧ (op = .wrPart → f.pair = true → pairBad w.mask = false)
  place : (∃ n, h.classify f.line = .home n) ∨ ∃ e, h.classify f.line = .remote e ∧ h.lostHubs.contains e = false
  form : h.badForm f op = false

/-- The parts that the presentation of a request writes: the slices and ports, the record of a lapsed ticket, the counters and the free
value of its message's latency. -/
def presentParts : List Part := [.slices, .aps, .lapses, .pmc, .freeCtr]

/-- What the presentation of a request leaves: it waits in its slice's input buffer for the next round's arbitration (R36), its
edge router records it as outstanding (R256) and keeps its data staged (R114), and no other slice or port has changed. -/
def Presented (s t : State) (p : BitVec 4) (r : Req) (d : Option WrData) : Prop :=
  let hs := s.hub.homeHs r.line
  t.hub.slice hs = { s.hub.slice hs with inbuf := (s.hub.slice hs).inbuf ++ [⟨r, none, s.hub.round + 1⟩] } ∧
  otherSlices s.hub t.hub hs ∧ otherPorts s.hub t.hub p ∧
  (⟨r.gaid.la, r.gaid, r.txid, r.line, false, none, false⟩ : Outst) ∈ (t.hub.ap p).outst ∧
  ∀ w, d = some w →
    (⟨r.gaid.la, r.gaid, r.txid, r.line, w.bytes, if w.poison then allBytes else 0, w.mask, false⟩ : Staged) ∈ (t.hub.ap p).staged

/-- A writeback or notice of a home line that its edge router takes: the hub takes answers, its sender is admitted and caches, and its
`TXID` is not outstanding (R253, R256). -/
structure NewNotice (h : Hub) (p : BitVec 4) (f : Flit) : Prop where
  taken : h.takesAnswers = true
  own : f.gaid.hub = h.num
  sender : fromOnline h p f.gaid.la
  caches : (h.agent f.gaid.la).caching = true
  fresh : (h.ap p).outOf f.gaid f.txid = none
  home : h.isHome f.line = true

/-- A read of a line's snoop-filter set in which no corrector finds anything and no word is malformed. -/
def cleanRead (h : Hub) (l : Line) (e : LookupErr) : Prop :=
  e.sfUe = 0 ∧ e.sfCe = 0 ∧ e.nruPar = false ∧ (h.slice (h.homeHs l)).badWays l.sfSet = 0

/-- An agent that a snoop is sent to, rather than answered for: online, caching, neither dead nor parked (R142, R253, R412). -/
def snoopable (h : Hub) (a : La) : Prop :=
  (h.agent a).online = true ∧ (h.agent a).dead = false ∧ (h.agent a).caching = true ∧ (h.agent a).parked = false

/-! ### What a state must have for an exact effect -/

/-- No mailbox has a command in progress, and no response is on its way to a ring (R386, R391). -/
def quietMailboxes (h : Hub) : Prop := (∀ n, (h.mb n).busy = none) ∧ h.core.resps = []

/-- No edge router holds read data that it could deliver. -/
def noHeldData (h : Hub) : Prop := ∀ r ∈ h.reads, r.deliverable = false

/-- A port's domain serves, and no power-down of it has begun (R319, R320). -/
def awake (h : Hub) (d : Domain) : Prop := h.domReady d = (h, true)

/-- A local agent's port passes it a message of each class at once: it is online, not dead, and no message waits there (R143, R249). -/
def hears (h : Hub) (a : La) : Prop :=
  (h.agent a).online = true ∧ (h.agent a).dead = false ∧ (h.ap (h.agent a).port).stalled = [] ∧
  1 ≤ (h.ap (h.agent a).port).snpCred ∧ 1 ≤ (h.ap (h.agent a).port).rspCred ∧ 1 ≤ (h.ap (h.agent a).port).datCred

/-- No raise sends an in-band message, which would use the credits of a port (R451, R462). -/
def noIrq (h : Hub) : Prop := h.dev.irqSuspended = true ∨ (h.pw 0xB80).setWidth 52 = (0 : Pa)

/-- The hub after a reclaim walk has read its next set and visited the set's ways (R146). -/
def walked (h : Hub) (n : Nat) (w : Walk) (e : LookupErr) : Hub :=
  (upTo 16).foldl (fun h k => h.visitWay n w.mask w.set k) (h.readSfSet n w.set e none)

/-- A home transaction of a local agent that still waits for answers of this hub's agents (R59). -/
structure AwaitsAnswers (x : Txn) : Prop where
  looked : x.phase = .looked
  local_ : x.req.span = false
  views : x.hentry = none
  unjudged : x.gate.judged = false
  waits : x.gate.expect ≠ []

/-- A home transaction of a live local agent that waits for its memory read's data only (R59, R61). -/
structure AwaitsData (x : Txn) : Prop where
  looked : x.phase = .looked
  local_ : x.req.span = false
  here : x.spanReq = false
  views : x.hentry = none
  live : x.deadReq = false
  kind : x.req.op ≠ .atom
  copies : x.req.op = .rsvLoad → x.copies = []
  base : x.baseDue = false
  judged : x.gate.judged = true
  held : x.gate.released = false
  need : x.gate.need = true
  empty : x.gate.choose = none
  acks : x.gate.acks = 0
  pull : x.gate.pullWait = false
  span : x.gate.spanFwd = false ∧ x.gate.spanAcks ≤ x.gate.spanGot

/-- Nothing of a transaction can be settled by its line's write buffer alone (R111): it needs no data, has some, or awaits a memory read. -/
def Sourced (x : Txn) : Prop := x.gate.need = false ∨ x.gate.prep.isSome = true ∨ x.memRead = true

/-- Every span snoop that this hub holds on a line still waits for an answer of its agents, or for data that one of them forwards (R226). -/
def heldsWait (h : Hub) (hs : Nat) (l : Line) : Prop := ∀ k ∈ (h.slice hs).helds, k.line = l → k.expect ≠ [] ∨ k.fwdWait ≠ []

/-- An answer of a live agent to the snoop of an open home transaction that waits for further answers, and for which no `CMP_WB` is held
(R107, R133, R256). -/
structure AnswerDue (h : Hub) (p : BitVec 4) (f : Flit) (sn : Snoop) (tid : Byte) (x : Txn) : Prop where
  sender : fromOnline h p f.src
  asked : h.snoopFor p f = some sn
  who : sn.who = .txn tid
  txn : h.txn (h.hsOf sn.ls) tid = some x
  awaits : AwaitsAnswers x
  more : ∃ a ∈ x.gate.expect, a ≠ f.src
  source : Sourced x
  helds : heldsWait h (h.hsOf sn.ls) sn.line
  alone : ∀ c ∈ (h.ap p).cmpWbHeld, ¬(c.1 = f.src ∧ c.2.1 = f.line)

/-- A lookup in which no corrector finds anything. -/
def cleanLookup (h : Hub) (l : Line) (e : LookupErr) : Prop :=
  cleanRead h l e ∧ e.sdUe = 0 ∧ e.sdCe = 0 ∧ (h.slice (h.homeHs l)).badHubWays l.sdSet = 0 ∧
  e.tagUe = 0 ∧ e.tagCe = 0 ∧ e.dataUe = false ∧ e.dataCe = false ∧ e.agePar = false ∧ (h.slice (h.homeHs l)).badHcWays l.hcSet = 0

/-- An accepted home request of a live local agent whose lookup is due (R109). -/
structure LookupDue (h : Hub) (ls : BitVec 6) (tid : Byte) (x : Txn) : Prop where
  txn : h.txn (h.hsOf ls) tid = some x
  phase : x.phase = .accepted
  due : x.acc + 1 ≤ h.round
  slot : x.req.line.ls = ls
  local_ : x.req.span = false
  here : x.spanReq = false
  live : x.deadReq = false
  fresh : x.gate = Gate.init ∧ x.view = .unc ∧ x.hentry = none ∧ x.copies = [] ∧ x.homeAns = false ∧ x.baseDue = false
  alone : ∀ q ∈ (h.slice (h.hsOf ls)).refused, q.req.line ≠ x.req.line

/-- A device request or a fence that its edge router takes as new (R168, R256). -/
structure NewDevice (h : Hub) (p : BitVec 4) (f : Flit) : Prop where
  serving : h.start.phase = .serving
  own : f.gaid.hub = h.num
  sender : fromOnline h p f.gaid.la
  free : (h.ap p).txidBusy f = false

/-- The parts that a device request may write: the unit, the ports and agents that it wakes, what is sent and its counters. -/
def deviceParts : List Part := [.aps, .dev, .power, .agents, .notices, .out, .pmc, .freeCtr, .records, .lapses]

/-- A device request for a region that the agent may use and whose target serves (R184, R394). -/
structure DeviceServed (h : Hub) (f : Flit) (n : Nat) : Prop where
  region : h.classify f.line = .device n
  number : n < 64
  allowed : (h.access f.gaid.la.toNat).dev.getLsbD n = true
  target : h.isOnline (h.drtTarget n) = true ∧ (h.agent (h.drtTarget n)).dead = false

/-- The final completion of a device request or a fence of a local agent. -/
def devCmp (h : Hub) (g : Gaid) (x : Txid) (l : Line) (outcome : BitVec 2) : OutMsg :=
  .agent (h.agent g.la).port { agentMsg opCmp g x l g.la with
    grant := gNone
    outcome := outcome }

/-- The data of a device read for a local agent (R168). -/
def devData (h : Hub) (g : Gaid) (x : Txid) (l : Line) (b : LineBits) (dirty poison : Bool) : OutMsg :=
  .agent (h.agent g.la).port { agentMsg opDevRd g x l g.la with data := some (b, dirty, poison) }

/-- No exception bit is due in the OTP, and no start waits for nothing more before its `ST_OPEN` (R426, R433). -/
def startQuiet (s : State) : Prop := s.dueBits = [] ∧ (s.hub.start.phase = .serving ∨ s.hub.start.waiting ≠ [])

/-- A frame that its receiver takes: it passes its check, its slots hold known kinds, it comes in sequence and resends nothing (R239). -/
structure GoodFrame (f : FrameState) (hd : FrameHdr) : Prop where
  crc : hd.crcOk = true
  kinds : badKind hd = false
  seq : hd.fseq = f.rx
  plain : hd.rpl = false

/-- A receiver of frames that is not about to fail: no frame has failed three sends, and replays are not frequent (R240). -/
def steadyFrames (f : FrameState) : Prop := (∀ e ∈ f.bads, e.2 < 3) ∧ f.replays.length < 15

/-- A frame that holds nothing but idle slots (R238). -/
def idleFrame (hd : FrameHdr) : Prop := hd.kinds = 0

/-- What a frame without messages leaves in its receiver: the sending side is as before. -/
def FrameTaken (f g : FrameState) (hd : FrameHdr) : Prop :=
  g.rx = f.rx + 1 ∧ g.ack = hd.fack ∧ g.rpl = false ∧ g.bads = f.bads.drop hd.fseq.toNat ∧ g.credits = hd.credits ∧
  g.replays = f.replays ∧ g.tx = f.tx ∧ g.part.msgs = [] ∧ g.part.hdrs = []

/-- What an `MP_CHAN_GEOM` word sets at its channel (R252). -/
def geomOf (w : Word) (c : Chan) : Chan :=
  { c with
    cap := w.extractLsb' 32 16
    bound := w.extractLsb' 16 8
    geom := true }

/-- What an `MP_CHAN_FLOW` word sets at its channel (R252). -/
def flowOf (w : Word) (c : Chan) : Chan :=
  { c with
    wmHigh := w.extractLsb' 30 10
    wmLow := w.extractLsb' 20 10
    rdCred := w.extractLsb' 10 10
    wrCred := w.extractLsb' 0 10
    flow := true }

/-- Both channels of a memory port are declared whole (R264). -/
def wholePort (h : Hub) (m : BitVec 3) : Prop :=
  ∀ c, c = 2 * m.toNat ∨ c = 2 * m.toNat + 1 → (h.chan c).geom = true ∧ (h.chan c).flow = true

/-- The words of a sideband message that admits an agent under a number, or refuses it for want of one (R26, R252). -/
def agentIdWord (h : Hub) (pos : Nat) (la : La) : Word := sbWord 0x03 (fld 48 pos ||| bitAt 40 true ||| fld 0 (Gaid.mk h.num la).toNat)

/-! ### Span -/

/-- Every span port but one is as before. -/
def otherSpans (h k : Hub) (n : BitVec 3) : Prop := ∀ q, q ≠ n → k.sp q = h.sp q

/-- A span message of this hub toward another one, on the port of its route (R201, R205). -/
def spanMsg (h : Hub) (dest : HubNo) (opc : BitVec 6) (f : Flit) (d : Option Payload) : OutMsg :=
  .span ⟨h.routePort dest, dest, h.num, svcOf opc, h.dsetOut (h.routePort dest) none, h.spanEpoch, 0, opc, f, d, none, 0, none⟩

/-- Messages of this hub toward another one go at once: no message waits at the port of its route, which has credits of every class and
dateline set (R203). -/
def spanGoes (h : Hub) (x : HubNo) : Prop :=
  (h.sp (h.routePort x)).waits = [] ∧ ∀ k, 2 ≤ k → k < 10 → 4 ≤ (h.sp (h.routePort x)).creds.getD k 0

/-- A span port whose frames are taken: trained and keyed, with no message waiting for credits, and not short of replays (R193, R196). -/
structure SpanUp (h : Hub) (n : BitVec 3) : Prop where
  number : n.toNat < 6
  trained : (h.sp n).trained = true
  keyed : (h.sp n).keyed = true
  idle : (h.sp n).waits = []
  replays : (h.sp n).frame.replays.length < 15

/-- A span frame that passes its checks, comes in sequence and resends nothing (R193). -/
structure GoodSpanFrame (p : SpPort) (fr : SpanFrameIn) : Prop where
  fec : fr.fecOk = true
  crc : fr.crcOk = true
  tag : p.tagGood fr = true
  seq : fr.fseq = p.frame.rx
  plain : fr.rpl = false

/-- What a span frame that is taken leaves in its port (R192, R193): the credits that it returns, and its number among those of no frame that has
failed its tag. What it frees for the opposite direction waits in `wire`. -/
def SpanFrameTaken (p q : SpPort) (fr : SpanFrameIn) : Prop :=
  q = { p with
    link := .online
    frames := p.frames + 1
    creds := p.giveCred fr
    tagBad := p.tagBad.filter fun x => x != fr.fseq
    wire := (fr.units.foldl SpPort.freeUnit p).wire
    frame := { p.frame with
      rx := p.frame.rx + 1
      ack := fr.fack
      rpl := false
      credits := fr.cred.setWidth 64 } }

/-- A coherent span request that its home takes: the hub serves, no reserved bit is set, its data is sound, its line is at home and its form is
good (R169, R199, R207, R214). -/
structure SpanArrives (h : Hub) (f : Flit) (op : ReqOp) (d : Option WrData) : Prop where
  serving : h.start.phase = .serving
  plain : f.spanBad op.spanOpc = false
  sound : ∀ w, d = some w → w.sound = true
  home : ∃ n, h.classify f.line = .home n
  form : h.badForm f op = false

/-- The parts that the presentation of a span request writes. -/
def spanPresentParts : List Part := [.slices, .lapses, .pmc, .freeCtr]

/-- A span request waits in its slice's input buffer for the next round, with the age of its GAID (R36, R214). -/
def SpanPresented (s t : State) (r : Req) (tkt : Option Nat) : Prop :=
  t.hub.slice (s.hub.homeHs r.line) = { s.hub.slice (s.hub.homeHs r.line) with
    inbuf := (s.hub.slice (s.hub.homeHs r.line)).inbuf ++ [⟨{ r with age := s.hub.ageOf r.gaid s.hub.round }, tkt, s.hub.round + 1⟩] } ∧
  otherSlices s.hub t.hub (s.hub.homeHs r.line)

/-- What a writeback or notice of a hub leaves in its line's directory way, which held a view (R223). -/
structure HubNoted (a b : Slice) (l : Line) (w : Nat) (v : HView) (x : HubNo) (keep : Bool) : Prop where
  rest : ∀ set way, ¬(set = l.sdSet ∧ way = w) → b.sdAt set way = a.sdAt set way
  owner : v = .own x → b.sdAt l.sdSet w = (if keep then HView.shr [x] else .none).word l.sdTag
  sharer : ∀ k, v = .shr k → x ∈ k → keep = false →
    b.sdAt l.sdSet w = (if (k.filter fun y => y != x).isEmpty then HView.none else .shr (k.filter fun y => y != x)).word l.sdTag
  unnamed : v = .brd ∨ (∃ y, v = .own y ∧ y ≠ x) ∨ (∃ k, v = .shr k ∧ (x ∉ k ∨ keep = true)) → b.sdAt l.sdSet w = a.sdAt l.sdSet w

/-- A home transaction for another hub that has sent everything due and still waits for the copy of a further holder's answer, or for the
requester hub's acknowledgement (R218). -/
structure AwaitsHubs (x : Txn) (y : HubNo) : Prop where
  looked : x.phase = .looked
  remote : x.req.span = true
  views : x.hentry = none
  base : x.baseDue = false
  judged : x.gate.judged = true
  sent : x.gate.released = true ∧ x.gate.spanCmp = true ∧ x.homeAns = false
  waits : (∃ k ∈ x.copies, k ≠ y) ∨ (x.gate.spanGrant ≠ 0 ∧ x.acked = none)

/-- The parts that the loss of a hub writes: what waited for it at the slices, the proxies and the device-region unit, and what follows. -/
def hubLossParts : List Part :=
  [.slices, .spill, .reads, .rot, .sps, .records, .lapses, .rsvRecs, .rsvNotes, .spanBacks, .lostHubs] ++ eventParts

/-! ### Mailboxes -/

/-- Lupin takes a mailbox's oldest command as that of a row: the mailbox is ready, the descriptor has the row's code, level and no bit that
the row does not use (R383, R387, R389, R390). -/
structure Takes (s : State) (n : BitVec 3) (cmd level : Nat) (d : Desc) : Prop where
  ready : s.hub.mbReady n = true
  served : s.hub.bootRom = false
  desc : d = s.desc n
  code : d.cmd.toNat = cmd
  allowed : level ≤ (s.hub.priv n).level.toNat
  used : ∃ masks, cmdRow cmd = some (level, masks) ∧ d.badWord masks = none
  ring : s.ring.wf = true
  flushed : s.hub.core.resps = []

/-- The command of a mailbox has been taken and answered (R382, R386, R387, R389): its response stands in the slot of the tail, both
indices have advanced, its event and its message have gone where they are due, and beyond the named parts nothing else has changed. -/
structure Answered (ps : List Part) (s t : State) (n : BitVec 3) (d : Desc) (code detail : Byte) (w1 w2 w3 : Word) : Prop where
  frame : onlyIn (ps ++ [.mbx, .ring] ++ (if d.notify || (s.hub.priv n).path then eventParts else [])) s t
  others : ∀ k, k ≠ n → t.hub.mb k = s.hub.mb k
  head : (t.hub.mb n).cmdHead = (s.hub.mb n).cmdHead + 1
  tail : (t.hub.mb n).rspTail = (s.hub.mb n).rspTail + 1
  idle : (t.hub.mb n).busy = none
  first : t.ring.word (rspSlot n (s.hub.mb n).rspTail) = rspWord d.cmd d.tag code detail
  second : t.ring.word (rspSlot n (s.hub.mb n).rspTail + 8) = w1
  third : t.ring.word (rspSlot n (s.hub.mb n).rspTail + 16) = w2
  fourth : t.ring.word (rspSlot n (s.hub.mb n).rspTail + 24) = w3
  bytes : ∀ a, (a < rspSlot n (s.hub.mb n).rspTail ∨ rspSlot n (s.hub.mb n).rspTail + 32 ≤ a) → t.ring.read a = s.ring.read a
  event : d.notify = true → raised t.hub (evMbResponse n.toNat)
  message : (s.hub.priv n).path = true → .mctp (n.setWidth 8) [rspWord d.cmd d.tag code detail, w1, w2, w3] ∈ t.hub.out

/-- The command of a mailbox has been taken and is in progress (R391): nothing is answered yet. -/
structure InProgress (ps : List Part) (s t : State) (n : BitVec 3) (d : Desc) (k : Long) : Prop where
  frame : onlyIn (.mbx :: ps) s t
  others : ∀ m, m ≠ n → t.hub.mb m = s.hub.mb m
  this : t.hub.mb n = { s.hub.mb n with
    cmdHead := (s.hub.mb n).cmdHead + 1
    busy := some ⟨d.cmd, d.tag, d.notify, k⟩ }

/-! ### Stops -/

/-- The parts that a fatal stop writes (R346). -/
def fatalParts : List Part := [.pins, .start, .slices, .aps, .spanReps, .spanBacks, .waitSnoops, .rot] ++ eventParts

/-- A fatal error of a source has stopped the hub (R346): service is stopped, or goes on draining; `FAULT_N` is low; every request that
waited is discarded; and the always-on domain holds the record of the error. -/
def FatallyStopped (s t : State) (src : BitVec 10) (inst : Byte) (synd : BitVec 16) : Prop :=
  onlyIn fatalParts s t ∧ t.hub.start.fatal = true ∧
  t.hub.start.phase = (if s.hub.start.phase = .draining then .draining else .stopped) ∧
  t.hub.pins = { s.hub.pins with faultN := false } ∧
  (∀ hs, (t.hub.slice hs).inbuf = [] ∧ (t.hub.slice hs).refused = []) ∧ (∀ p, (t.hub.ap p).holds = []) ∧
  t.hub.spanBacks = [] ∧ t.hub.waitSnoops = [] ∧
  t.hub.aon.fatal.valid = true ∧ t.hub.aon.fatal.src = src ∧ t.hub.aon.fatal.inst = inst ∧ t.hub.aon.fatal.synd = synd ∧
  t.hub.aon.fatal.round = s.hub.round

end Sys2Proof.Safety
end

