-- ==== Sys2Proof/Certificates/Slice0/Obligations.lean ====
section
/-!
DEFINITION. The statements for the provers, in the order of `OBLIGATIONS.json`. The predicates they are written with stand in
`Sys2Proof/Safety.lean`.
-/
open Sys2Proof Sys2Proof.Machine Sys2Proof.Safety

/-- A step takes the command at the front of the queue and executes it on the state with the rest of the queue; with no command waiting it leaves everything as it is, which is the model's choice (assumption log 1). -/
def Obligations.StepRunsTheFrontCommand : Prop :=
  (∀ (s : State) (c : Instr) (rest : List Instr), step { s with pending := c :: rest } = exec c { s with pending := rest }) ∧
  ∀ s : State, s.pending = [] → step s = .next s

/-- A command that names only units the hub has (R17, R22, R308) runs in every state and leaves the queue alone; any other is a fault. -/
def Obligations.WellFormedCommandsComplete : Prop :=
  ∀ (i : Instr) (s : State),
    (i.wf = true → ∃ t, exec i s = .next t ∧ t.pending = s.pending) ∧ (i.wf = false → exec i s = .fault .noSuchUnit)

/-- The byte memory of the mailbox rings (R380) keeps its canonical form over every step: equal rings are equal data. -/
def Obligations.RingMemoryFormIsKept : Prop :=
  ∀ s t : State, Memory.wf s.ring = true → step s = .next t → Memory.wf t.ring = true

/-- The invariant of `RingMemoryFormIsKept` holds at reset. -/
def Obligations.ResetRingMemoryForm : Prop :=
  Memory.wf State.reset.ring = true ∧ State.reset.pending = []

/-- One-time-programmable memory (R440, R442, R443): what is programmed stays programmed over every step. -/
def Obligations.OtpIsWrittenOnce : Prop :=
  ∀ s t : State, step s = .next t →
    t.otp.dieId = s.otp.dieId ∧ t.otp.lot = s.otp.lot ∧ t.otp.attest = s.otp.attest ∧ t.otp.vendor = s.otp.vendor ∧
    t.otp.sideband = s.otp.sideband ∧ (s.otp.keyHash ≠ 0 → t.otp.keyHash = s.otp.keyHash) ∧
    (s.otp.lifecycle = 1 → t.otp.lifecycle = 1) ∧ (∀ g w, s.otp.gens.look g = some w → t.otp.gens.look g = some w) ∧
    t.otp.except &&& s.otp.except = s.otp.except ∧ ∃ l, t.otp.fuses = s.otp.fuses ++ l

/-- Coherent requests at the edge router (R36, R105, R114, R179, R253, R256). -/
def Obligations.CoherentRequestsArePresented : Prop :=
  ∀ (s : State) (p : BitVec 4) (f : Flit) (d : WrData) (operand : BitVec 256),
    (NewRequest s.hub p f .rdShared none → ∃ t, exec (.rdShared p f) s = .next t ∧ onlyIn presentParts s t ∧
      Presented s t p (s.hub.reqOf .rdShared f 0) none) ∧
    (NewRequest s.hub p f .rdAny none → ∃ t, exec (.rdAny p f) s = .next t ∧ onlyIn presentParts s t ∧
      Presented s t p (s.hub.reqOf .rdAny f 0) none) ∧
    (NewRequest s.hub p f .rdOwn none → ∃ t, exec (.rdOwn p f) s = .next t ∧ onlyIn presentParts s t ∧
      Presented s t p (s.hub.reqOf .rdOwn f 0) none) ∧
    (NewRequest s.hub p f .upgrade none → ∃ t, exec (.upgrade p f) s = .next t ∧ onlyIn presentParts s t ∧
      Presented s t p (s.hub.reqOf .upgrade f 0) none) ∧
    (NewRequest s.hub p f .rdOnce none → ∃ t, exec (.rdOnce p f) s = .next t ∧ onlyIn presentParts s t ∧
      Presented s t p (s.hub.reqOf .rdOnce f 0) none) ∧
    (NewRequest s.hub p f .rsvLoad none → ∃ t, exec (.rsvLoad p f) s = .next t ∧
      onlyIn (presentParts ++ [.rsvRecs, .rsvNotes, .sps, .out]) s t ∧
      Presented s t p { s.hub.reqOf .rsvLoad f 0 with rsvSeq := (s.hub.rsvRec f.gaid.la).seq + 1 } none ∧
      t.hub.rsvRec f.gaid.la = { s.hub.rsvRec f.gaid.la with seq := (s.hub.rsvRec f.gaid.la).seq + 1 }) ∧
    (NewRequest s.hub p f .wrFull (some { d with beValid := false }) → ∃ t, exec (.wrFull p f d) s = .next t ∧
      onlyIn presentParts s t ∧ Presented s t p (s.hub.reqOf .wrFull f 0) (some { d with beValid := false })) ∧
    (NewRequest s.hub p f .wrPart (some d) → ∃ t, exec (.wrPart p f d) s = .next t ∧
      onlyIn presentParts s t ∧ Presented s t p (s.hub.reqOf .wrPart f 0) (some d)) ∧
    (NewRequest s.hub p f .rsvStore (some d) → ∃ t, exec (.rsvStore p f d) s = .next t ∧
      onlyIn presentParts s t ∧ Presented s t p (s.hub.reqOf .rsvStore f 0) (some d)) ∧
    (NewRequest s.hub p f .atom none → ∃ t, exec (.atom p f ⟨operand, true⟩) s = .next t ∧
      onlyIn presentParts s t ∧ Presented s t p (s.hub.reqOf .atom f operand) none)

/-- R164: the byte enables of a `WR_PART` with `PAIR` = 1. -/
def Obligations.PairWritesEnableOneAlignedPair : Prop :=
  ∀ (s : State) (p : BitVec 4) (f : Flit) (d : WrData),
    f.pair = true → d.sound = true → s.hub.start.phase = .serving → f.gaid.hub = s.hub.num → fromOnline s.hub p f.gaid.la →
    ((∃ k, k < 4 ∧ d.mask = 0xFFFF#64 <<< (16 * k)) → NewRequest s.hub p f .wrPart none →
      ∃ t, exec (.wrPart p f d) s = .next t ∧ onlyIn presentParts s t ∧ Presented s t p (s.hub.reqOf .wrPart f 0) (some d)) ∧
    ((∀ k, k < 4 → d.mask ≠ 0xFFFF#64 <<< (16 * k)) →
      ∃ t, exec (.wrPart p f d) s = .next t ∧ onlyIn eventParts s t ∧ raised t.hub evApMalformed ∧
        (hears s.hub f.gaid.la → devCmp s.hub f.gaid f.txid f.line oMalformed ∈ t.hub.out))

/-- R469: offsets of the register window that the directory does not list. -/
def Obligations.UnlistedWindowOffsetsReadZeroAndTakeNoWrite : Prop :=
  ∀ (s : State) (p : BitVec 4) (f : Flit) (d : WrData) (k : Nat),
    NewDevice s.hub p f → s.hub.classify f.line = .window s.hub.num → k < 8 → regAt (windowOffset f.line + 8 * k) = none →
    hears s.hub f.gaid.la →
    (∃ t b, exec (.devRd p f (wordMask k)) s = .next t ∧ onlyIn deviceParts s t ∧ b.extractLsb' (64 * k) 64 = 0 ∧
      t.hub.out = s.hub.out ++ [devData s.hub f.gaid f.txid f.line b false false, devCmp s.hub f.gaid f.txid f.line oDone]) ∧
    (d.sound = true → d.mask = wordMask k →
      (s.hub.mayWrite f.gaid (windowOffset f.line + 8 * k) = false →
        ∃ t, exec (.devWr p f d) s = .next t ∧ onlyIn (deviceParts ++ eventParts) s t ∧ raised t.hub evMbDenied ∧
          devCmp s.hub f.gaid f.txid f.line oMalformed ∈ t.hub.out) ∧
      (s.hub.mayWrite f.gaid (windowOffset f.line + 8 * k) = true →
        ∃ t, exec (.devWr p f d) s = .next t ∧ onlyIn (deviceParts ++ eventParts) s t ∧ raised t.hub evRegRsvd ∧
          devCmp s.hub f.gaid f.txid f.line oDone ∈ t.hub.out))

/-- Writebacks and clean notices at the line's slice (R41, R84, R132). -/
def Obligations.WritebacksEnterTheWriteBuffer : Prop :=
  ∀ (s : State) (p : BitVec 4) (f : Flit) (d : MeshData) (e : LookupErr) (w : Nat) (ws : List Nat) (v : SView),
    NewNotice s.hub p f → cleanLookup s.hub f.line e →
    (d.line.sound = true → (s.hub.slice (s.hub.homeHs f.line)).wbCase f.line f.gaid.la = .taken → s.hub.lineDown f.line = false →
      ∃ t, exec (.wbDirty p f d e) s = .next t ∧ onlyIn ([Part.slices, .spill, .reads, .rot] ++ eventParts) s t ∧
        otherArrays s.hub t.hub (s.hub.homeHs f.line) ∧ (d.ue ≠ 0 → raised t.hub evHubDataUe) ∧
        ∃ x, t.hub.wbFind (s.hub.homeHs f.line) f.line = some x ∧ x.whole = true ∧ x.dirty = true ∧ x.lastWb = some f.gaid ∧
          (∀ y, s.hub.wbFind (s.hub.homeHs f.line) f.line = some y → x.bytes = mergeBytes y.wmask y.bytes d.line.bytes ∧
            x.pois = (y.pois &&& y.wmask) ||| (enterPoison d.line.poison d.ue &&& ~~~y.wmask)) ∧
          (s.hub.wbFind (s.hub.homeHs f.line) f.line = none → x.bytes = d.line.bytes ∧ x.pois = enterPoison d.line.poison d.ue) ∧
          ((s.hub.slice (s.hub.homeHs f.line)).lookupDue f.line = true →
            (⟨p, f.gaid.la, f.line, f.txid, true, none⟩ : WbWait) ∈ (t.hub.slice (s.hub.homeHs f.line)).wbWait ∧
            ∀ set way, (t.hub.slice (s.hub.homeHs f.line)).sfAt set way = (s.hub.slice (s.hub.homeHs f.line)).sfAt set way)) ∧
    (d.line.sound = true → (s.hub.slice (s.hub.homeHs f.line)).wbCase f.line f.gaid.la = .unnamed →
      ∃ t, exec (.wbDirty p f d e) s = .next t ∧ onlyIn ([Part.slices] ++ eventParts) s t ∧
        otherSlices s.hub t.hub (s.hub.homeHs f.line) ∧ raised t.hub evSfStrayWb ∧
        t.hub.wbFind (s.hub.homeHs f.line) f.line = s.hub.wbFind (s.hub.homeHs f.line) f.line) ∧
    ((s.hub.slice (s.hub.homeHs f.line)).lookupDue f.line = true →
      ∃ t, exec (.evictClean p f e) s = .next t ∧ onlyIn ([Part.slices] ++ eventParts) s t ∧
        otherSlices s.hub t.hub (s.hub.homeHs f.line) ∧
        (⟨p, f.gaid.la, f.line, f.txid, false, none⟩ : WbWait) ∈ (t.hub.slice (s.hub.homeHs f.line)).wbWait ∧
        ∀ set way, (t.hub.slice (s.hub.homeHs f.line)).sfAt set way = (s.hub.slice (s.hub.homeHs f.line)).sfAt set way) ∧
    ((s.hub.slice (s.hub.homeHs f.line)).lookupDue f.line = false →
      (s.hub.slice (s.hub.homeHs f.line)).lookedOn f.line = none → (s.hub.slice (s.hub.homeHs f.line)).healthyWays f.line = w :: ws →
      (s.hub.slice (s.hub.homeHs f.line)).viewAt f.line.sfSet w = some v → v.without (fun a => a == f.gaid.la) ≠ v →
      ∃ t, exec (.evictClean p f e) s = .next t ∧ onlyIn ([Part.slices] ++ eventParts) s t ∧
        otherArrays s.hub t.hub (s.hub.homeHs f.line) ∧
        (t.hub.slice (s.hub.homeHs f.line)).sfAt f.line.sfSet w = (v.without (fun a => a == f.gaid.la)).word f.line.sfTag)

/-- The ends of what a refused request leaves behind (R49, R50, R53, R55, R254). -/
def Obligations.HeldRequestsAndTheirRecordsEnd : Prop :=
  ∀ (s : State) (p : BitVec 4) (ls : BitVec 6) (gaid : Gaid) (txid : Txid) (line : Line) (x : HeldRep) (k : Ticket),
    ((s.hub.ap p).holds.find? (fun x => x.req.gaid == gaid && x.req.txid == txid) = some x → x.at_ ≤ s.hub.round + 1 →
      ∃ t, exec (.heldRepresentationPresent p gaid txid) s = .next t ∧ onlyIn (presentParts ++ [.rsvNotes, .sps, .out]) s t ∧
        t.hub.slice (s.hub.homeHs x.req.line) = { s.hub.slice (s.hub.homeHs x.req.line) with
          inbuf := (s.hub.slice (s.hub.homeHs x.req.line)).inbuf ++
            [⟨{ x.req with
              rsvSeq := s.hub.seqOf x.req.op x.req.gaid.la
              age := s.hub.ageOf x.req.gaid s.hub.round }, x.req.tkt, s.hub.round + 1⟩] } ∧
        otherSlices s.hub t.hub (s.hub.homeHs x.req.line) ∧ otherPorts s.hub t.hub p ∧
        ∀ y ∈ (t.hub.ap p).holds, ¬(y.req.gaid = gaid ∧ y.req.txid = txid)) ∧
    (k ∈ (s.hub.slice (s.hub.hsOf ls)).tickets → k.req.gaid = gaid → k.req.txid = txid → k.req.line = line →
      k.round + 1 ≤ s.hub.round →
      ∃ t, exec (.ticketLapse ls gaid txid line) s = .next t ∧ onlyIn ([Part.slices, .lapses, .rot] ++ eventParts) s t ∧
        otherArrays s.hub t.hub (s.hub.hsOf ls) ∧
        (∀ y ∈ (t.hub.slice (s.hub.hsOf ls)).tickets, ¬(y.req.gaid = gaid ∧ y.req.txid = txid ∧ y.req.line = line)) ∧
        ((∃ r ∈ s.hub.records.getD gaid.toNat [], r.isOf txid line = true) →
          (⟨txid, line, s.hub.round⟩ : Refused) ∈ t.hub.lapses.getD gaid.toNat [])) ∧
    (∃ t, exec (.heldPlaceExpiry ls gaid txid) s = .next t ∧ onlyIn [.slices] s t ∧ otherSlices s.hub t.hub (s.hub.hsOf ls) ∧
      (∀ y ∈ (t.hub.slice (s.hub.hsOf ls)).places, y.gaid = gaid → y.txid = txid → s.hub.round < y.d + 80) ∧
      ∀ y ∈ (s.hub.slice (s.hub.hsOf ls)).places, (y.gaid ≠ gaid ∨ y.txid ≠ txid ∨ s.hub.round < y.d + 80) →
        y ∈ (t.hub.slice (s.hub.hsOf ls)).places) ∧
    (∃ t, exec (.refusalAgeClear gaid) s = .next t ∧ onlyIn [.records, .lapses] s t ∧
      (∀ r ∈ s.hub.lapses.getD gaid.toNat [], r.round + 64 ≤ s.hub.round →
        ∀ q ∈ t.hub.records.getD gaid.toNat [], q.isOf r.txid r.line = false) ∧
      (∀ q ∈ s.hub.records.getD gaid.toNat [],
        (∀ r ∈ s.hub.lapses.getD gaid.toNat [], r.round + 64 ≤ s.hub.round → q.isOf r.txid r.line = false) →
          q ∈ t.hub.records.getD gaid.toNat []) ∧
      ((∀ q ∈ s.hub.records.getD gaid.toNat [], ∃ r ∈ s.hub.lapses.getD gaid.toNat [],
          r.round + 64 ≤ s.hub.round ∧ q.isOf r.txid r.line = true) → ∀ m, t.hub.ageOf gaid m = 0) ∧
      ∀ g, g ≠ gaid → t.hub.records.getD g.toNat [] = s.hub.records.getD g.toNat [])

/-- The close of a granted transaction and its gecko hold (R63, R66, R124). -/
def Obligations.GrantedTransactionsCloseIntoAHold : Prop :=
  ∀ (s : State) (p : BitVec 4) (f : Flit) (ls : BitVec 6) (x : Txn) (y : Hold) (line : Line),
    (f.gaid.hub = s.hub.num → fromOnline s.hub p f.gaid.la →
      (s.hub.slice (s.hub.homeHs f.line)).acksDue.contains (f.gaid, f.txid, f.line) = false →
      s.hub.findTxn f.gaid f.txid f.line = some x → s.hub.txn (s.hub.homeHs f.line) x.tid = some x → x.closable = true →
      x.gate.grant ≠ 0 → x.acked = none → x.req.span = false → x.deadReq = false → s.hub.isHome f.line = true →
      ∃ t, exec (.cmpAck p f) s = .next t ∧ onlyIn ([Part.slices, .spill, .reads, .rot] ++ eventParts) s t ∧
        otherArrays s.hub t.hub (s.hub.homeHs f.line) ∧ t.hub.txn (s.hub.homeHs f.line) x.tid = none ∧
        (⟨f.line, some x.req.gaid.la, s.hub.round + (s.hub.slice (s.hub.homeHs f.line)).lineG (s.hub.p 0x40) f.line - 1, x.way⟩ : Hold)
          ∈ (t.hub.slice (s.hub.homeHs f.line)).holds ∧
        (t.hub.slice (s.hub.homeHs f.line)).lastC0.look f.line.toNat = some x.worst) ∧
    (f.gaid.hub = s.hub.num → fromOnline s.hub p f.gaid.la →
      (s.hub.slice (s.hub.homeHs f.line)).acksDue.contains (f.gaid, f.txid, f.line) = true →
      ∃ t, exec (.cmpAck p f) s = .next t ∧ onlyIn [.slices] s t ∧ otherSlices s.hub t.hub (s.hub.homeHs f.line) ∧
        t.hub.slice (s.hub.homeHs f.line) = { s.hub.slice (s.hub.homeHs f.line) with
          acksDue := (s.hub.slice (s.hub.homeHs f.line)).acksDue.filter fun a => a != (f.gaid, f.txid, f.line) }) ∧
    (f.gaid.hub = s.hub.num → fromOnline s.hub p f.gaid.la →
      (s.hub.slice (s.hub.homeHs f.line)).acksDue.contains (f.gaid, f.txid, f.line) = false →
      s.hub.findTxn f.gaid f.txid f.line = none →
      ∃ t, exec (.cmpAck p f) s = .next t ∧ onlyIn eventParts s t ∧ raised t.hub evApStrayAck) ∧
    (s.hub.txn (s.hub.hsOf ls) x.tid = some x → x.closable = true → x.gate.grant ≠ 0 → x.acked = none → x.req.span = false →
      x.deadReq = false → x.worst ≤ s.hub.round → s.hub.isHome x.req.line = true →
      ∃ t, exec (.geckoHoldWorstClose ls x.tid) s = .next t ∧ onlyIn ([Part.slices, .spill, .reads, .rot] ++ eventParts) s t ∧
        otherArrays s.hub t.hub (s.hub.hsOf ls) ∧ t.hub.txn (s.hub.hsOf ls) x.tid = none ∧
        (⟨x.req.line, some x.req.gaid.la, s.hub.round + (s.hub.slice (s.hub.hsOf ls)).lineG (s.hub.p 0x40) x.req.line - 1, x.way⟩ : Hold)
          ∈ (t.hub.slice (s.hub.hsOf ls)).holds ∧
        (x.req.gaid, x.req.txid, x.req.line) ∈ (t.hub.slice (s.hub.hsOf ls)).acksDue) ∧
    (y ∈ (s.hub.slice (s.hub.hsOf ls)).holds → y.line = line → y.last < s.hub.round →
      ∃ t, exec (.geckoHoldEnd ls line) s = .next t ∧ onlyIn ([Part.slices] ++ eventParts) s t ∧
        otherSlices s.hub t.hub (s.hub.hsOf ls) ∧
        (t.hub.slice (s.hub.hsOf ls)).holds =
          (s.hub.slice (s.hub.hsOf ls)).holds.filter fun z => !(z.line == line && decide (z.last < s.hub.round)))

/-- Agents that answer late and agents that are dead (R139, R140, R142, R143). -/
def Obligations.LateAgentsAreReportedThenDead : Prop :=
  ∀ (s : State) (la : La) (gaid : Gaid) (txid : Txid) (line : Line) (sn : Snoop) (ls : BitVec 6) (x : Txn),
    (s.hub.snoopOf la gaid txid line = some sn → sn.late = false → sn.offered + 4 ≤ s.hub.round →
      ∃ t, exec (.agentSnoopDeadline la gaid txid line) s = .next t ∧ onlyIn eventParts s t ∧ raised t.hub evApSnoopLate ∧
        t.hub.snoopOf la gaid txid line = some { sn with late := true } ∧
        (t.hub.agent la).dead = (s.hub.agent la).dead ∧ (t.hub.agent la).online = (s.hub.agent la).online) ∧
    (s.hub.snoopOf la gaid txid line = some sn → sn.late = true → sn.offered + 68 ≤ s.hub.round → (s.hub.agent la).valid = true →
      ∃ t, exec (.agentGrace la gaid txid line) s = .next t ∧
        onlyIn ([Part.slices, .spill, .reads, .sps, .records, .lapses, .rsvRecs, .rsvNotes, .rot] ++ eventParts) s t ∧
        (t.hub.agent la).dead = true ∧ ∀ a, a ≠ la → (t.hub.agent a).dead = (s.hub.agent a).dead) ∧
    ((s.hub.agent la).dead = true → (s.hub.agent la).online = true →
      ∃ t, exec (.deadAgentNotice la) s = .next t ∧
        onlyIn ([Part.slices, .sps, .records, .lapses, .rsvRecs, .rsvNotes, .rot] ++ eventParts) s t ∧
        (t.hub.agent la).online = false ∧ (t.hub.agent la).walking = true ∧ raised t.hub evApAgentDead ∧
        (∀ a, a ≠ la → (t.hub.agent a).online = (s.hub.agent a).online) ∧
        ∀ hs ∈ s.hub.servingSlices,
          (∃ w, (t.hub.slice hs).walk = some w ∧ w.mask.getLsbD la.toNat = true ∧ w.left = 16384) ∧
          (∀ r ∈ (t.hub.slice hs).rsv, r.gaid ≠ Gaid.mk s.hub.num la) ∧ (∀ r ∈ (t.hub.slice hs).places, r.gaid ≠ Gaid.mk s.hub.num la) ∧
          ∀ r ∈ (t.hub.slice hs).tickets, r.req.gaid ≠ Gaid.mk s.hub.num la) ∧
    (s.hub.txn (s.hub.hsOf ls) x.tid = some x → x.deadReq = true → x.closableDead = true → x.worst ≤ s.hub.round →
      s.hub.isHome x.req.line = true →
      ∃ t, exec (.deadRequesterClose ls x.tid) s = .next t ∧ onlyIn ([Part.slices, .spill, .reads, .rot] ++ eventParts) s t ∧
        otherArrays s.hub t.hub (s.hub.hsOf ls) ∧ t.hub.txn (s.hub.hsOf ls) x.tid = none ∧
        (t.hub.slice (s.hub.hsOf ls)).holds = (s.hub.slice (s.hub.hsOf ls)).holds)

/-- The walks that run beside service (R93, R94, R102, R146, R147). -/
def Obligations.BackgroundWalksAdvance : Prop :=
  ∀ (s : State) (hs : BitVec 7) (e : LookupErr) (w : Walk) (ls : BitVec 6) (idx : BitVec 2) (set : BitVec 14) (sets : List (BitVec 14))
    (sets' : List (BitVec 12)) (k : Nat) (la : La) (way : BitVec 4) (x : Sweep) (l : Line),
    (hsExists hs = true → (s.hub.slice hs.toNat).walk = some w → 1 < w.left →
      ∃ t, exec (.reclaimWalkVisit hs e false) s = .next t ∧ onlyIn ([Part.slices, .spill, .reads, .sps, .rot] ++ eventParts) s t ∧
        ∃ v, (t.hub.slice hs.toNat).walk = some v ∧ v.mask = w.mask ∧
          ((∀ k, k < 16 → (walked s.hub hs.toNat w e).walkWaits hs.toNat w.mask w.set k = false) →
            v.set = w.set + 1 ∧ v.left = w.left - 1) ∧
          ∀ k, k < 16 → (walked s.hub hs.toNat w e).walkWaits hs.toNat w.mask w.set k = true → v.set = w.set ∧ v.left = w.left) ∧
    (hsExists hs = true → (s.hub.slice hs.toNat).walk = some w → 0 < w.left →
      ∃ t, exec (.reclaimWalkVisit hs e true) s = .next t ∧ onlyIn ([Part.slices, .spill, .reads, .sps, .rot] ++ eventParts) s t ∧
        ∃ v, (t.hub.slice hs.toNat).walk = some v ∧ v.set = w.set ∧ v.left = w.left ∧ v.mask = w.mask) ∧
    (hsExists hs = true → (s.hub.slice hs.toNat).walk = some w → w.left = 0 → w.revisit = [] →
      ∃ t, exec (.reclaimWalkVisit hs e false) s = .next t ∧ onlyIn ([Part.slices] ++ eventParts) s t ∧
        otherSlices s.hub t.hub hs.toNat ∧ (t.hub.slice hs.toNat).walk = none ∧ raised t.hub evSfReclaimDone) ∧
    ((s.hub.slice (s.hub.hsOf ls)).walk = none → s.hub.drains (s.hub.hsOf ls) s.hub.round = false →
      s.hub.freeBack (s.hub.hsOf ls) = some idx →
      (s.hub.trimQueues (s.hub.hsOf ls)).aheadSets (s.hub.hsOf ls) = (set :: sets, sets') →
      ((s.hub.slice (s.hub.hsOf ls)).victim set s.hub.round).1 = some k →
      (s.hub.slice (s.hub.hsOf ls)).viewAt set k = some (.own la) → snoopable s.hub la →
      l = sfLine (sfWordTag ((s.hub.slice (s.hub.hsOf ls)).sfAt set k)) set →
      ∃ t, exec (.runaheadSelection ls) s = .next t ∧ onlyIn [.slices, .aps, .pmc, .freeCtr, .out] s t ∧
        otherSlices s.hub t.hub (s.hub.hsOf ls) ∧
        (∃ b ∈ (t.hub.slice (s.hub.hsOf ls)).backs, b.line = l ∧ b.idx = idx ∧ b.kind = .runAhead ∧ b.expect = [la]) ∧
        ∃ n ∈ (t.hub.ap (s.hub.agent la).port).snoops, n.la = la ∧ n.line = l ∧ n.op = .data ∧ n.offered = s.hub.round + 1) ∧
    ((s.hub.slice (s.hub.hsOf ls)).walk = none → s.hub.drains (s.hub.hsOf ls) s.hub.round = false →
      (s.hub.slice (s.hub.hsOf ls)).sweepOf false set way.toNat = some x →
      (s.hub.sweepMove (s.hub.hsOf ls) ls x = .wait → exec (.sweepStep ls false set way) s = .next s) ∧
      (s.hub.sweepMove (s.hub.hsOf ls) ls x = .list →
        ∃ t, exec (.sweepStep ls false set way) s = .next t ∧ onlyIn [.slices] s t ∧ otherSlices s.hub t.hub (s.hub.hsOf ls) ∧
          (t.hub.slice (s.hub.hsOf ls)).sweepOf false set way.toNat = some { x with ptr := x.ptr + 1, skip := x.skip ++ [x.ptr] }) ∧
      (s.hub.sweepMove (s.hub.hsOf ls) ls x = .start l → s.hub.freeBack (s.hub.hsOf ls) = some idx →
        s.hub.aheadSets (s.hub.hsOf ls) = ([], []) → la ∈ s.hub.domain l → snoopable s.hub la →
        (s.hub.slice (s.hub.hsOf ls)).backOn l = none →
        ∃ t, exec (.sweepStep ls false set way) s = .next t ∧ onlyIn [.slices, .aps, .pmc, .freeCtr, .out] s t ∧
          otherSlices s.hub t.hub (s.hub.hsOf ls) ∧
          (∃ b ∈ (t.hub.slice (s.hub.hsOf ls)).backs, b.line = l ∧ b.kind = .sweep set way ∧ la ∈ b.expect) ∧
          ∃ n ∈ (t.hub.ap (s.hub.agent la).port).snoops, n.la = la ∧ n.line = l ∧ n.op = .data))

/-- The scrub (R339, R340) and what its reads find (R97, R333). -/
def Obligations.ScrubReadsRepairOrReport : Prop :=
  ∀ (s : State) (hs stop : BitVec 7) (set : BitVec 14) (way : BitVec 4) (flip : BitVec 32) (e : Err) (pid : BitVec 16) (found : Word),
    (hsExists hs = true → (s.hub.slice hs.toNat).walk = none →
      (s.hub.slice hs.toNat).pinned ((s.hub.slice hs.toNat).lineAt set way.toNat) s.hub.round = false →
      ∃ t, exec (.scrubRead (.sf hs set way flip) .uncorrectable) s = .next t ∧ onlyIn ([Part.slices] ++ eventParts) s t ∧
        otherArrays s.hub t.hub hs.toNat ∧ raised t.hub evSfDeg ∧
        (t.hub.slice hs.toNat).sfAt set way.toNat =
          (SView.deg false).word (sfWordTag ((s.hub.slice hs.toNat).sfAt set way.toNat) ^^^ flip)) ∧
    (stopExists stop = true → found ≠ s.hub.pw pid.toNat →
      ∃ t, exec (.scrubRead (.configWord stop pid found) e) s = .next t ∧ onlyIn eventParts s t ∧ raised t.hub evHubCfgRefresh) ∧
    (hsExists hs = true → (s.hub.slice hs.toNat).walk = none → s.hub.start.phase = .serving → s.hub.start.fatal = false →
      ∃ t, exec (.scrubRead (.control hs) .uncorrectable) s = .next t ∧
        onlyIn ([Part.pins, .rot, .slices, .spanReps, .spanBacks, .waitSnoops, .start] ++ eventParts) s t ∧
        t.hub.start.phase = .stopped ∧ t.hub.start.fatal = true ∧ t.hub.pins.faultN = false ∧ raised t.hub evHubFatal) ∧
    (hsExists hs = true → (s.hub.slice hs.toNat).scrub.sdPos = 4096 →
      ∃ t, exec (.scrubRead (.passEnd hs) e) s = .next t ∧ onlyIn [.slices] s t ∧ otherSlices s.hub t.hub hs.toNat ∧
        (t.hub.slice hs.toNat).scrub = ⟨s.hub.round + 250000 * s.hub.p 0x901, 0, [], false⟩) ∧
    (hsExists hs = true → (s.hub.slice hs.toNat).scrub.late = false → (s.hub.slice hs.toNat).scrub.due ≤ s.hub.round →
      ∃ t, exec (.scrubPassLate hs) s = .next t ∧ onlyIn ([Part.slices] ++ eventParts) s t ∧ otherSlices s.hub t.hub hs.toNat ∧
        raised t.hub evHubScrubLate ∧ (t.hub.slice hs.toNat).scrub = { (s.hub.slice hs.toNat).scrub with late := true }) ∧
    (stopExists stop = true → hsExists stop = false →
      ∃ t, exec (.scrubPassLate stop) s = .next t ∧ onlyIn eventParts s t ∧ raised t.hub evHubScrubLate)

/-- Three outcomes of SLICE_LOOKUP (R109, R111, R122). -/
def Obligations.LookupsServeReadsAndFailStores : Prop :=
  ∀ (s : State) (ls : BitVec 6) (tid : Byte) (e : LookupErr) (sent : Bool) (x : Txn) (w : WbLine) (c : Nat),
    LookupDue s.hub ls tid x → cleanLookup s.hub x.req.line e →
    (x.req.op = .rdShared → (s.hub.slice (s.hub.hsOf ls)).homeView x.req.line = .unc →
      (s.hub.slice (s.hub.hsOf ls)).hubView x.req.line = .none → s.hub.wbFind (s.hub.hsOf ls) x.req.line = some w → w.whole = true →
      hears s.hub x.req.gaid.la → noIrq s.hub →
      ∃ t, exec (.sliceLookup ls tid e sent) s = .next t ∧ onlyIn ([Part.slices, .spill, .reads, .chans, .mps, .arbs, .sps, .rot, .records, .lapses, .rsvRecs, .rsvNotes, .prefetchNotes, .spanReps] ++ eventParts) s t ∧
        ∃ pre rest, t.hub.out = s.hub.out ++ pre ++
          [OutMsg.agent (s.hub.agent x.req.gaid.la).port (x.datMsg (payload w.bytes false w.poison) false),
           .agent (s.hub.agent x.req.gaid.la).port { agentMsg opCmp x.req.gaid x.req.txid x.req.line x.req.gaid.la with
             grant := gF
             outcome := oDone }] ++ rest) ∧
    (x.req.op = .rdShared → (s.hub.slice (s.hub.hsOf ls)).homeView x.req.line = .unc →
      (s.hub.slice (s.hub.hsOf ls)).hubView x.req.line = .none → s.hub.wbFind (s.hub.hsOf ls) x.req.line = none →
      (s.hub.slice (s.hub.hsOf ls)).hcValue x.req.line = none → s.hub.readOut x.req.line = false → noHeldData s.hub →
      s.hub.readChan x.req.line = some c → (s.hub.chan c).down = false →
      ∃ t, exec (.sliceLookup ls tid e sent) s = .next t ∧ onlyIn ([Part.slices, .spill, .reads, .chans, .mps, .arbs, .sps, .rot, .records, .lapses, .rsvRecs, .rsvNotes, .prefetchNotes, .spanReps] ++ eventParts) s t ∧
        (∃ y, t.hub.txn (s.hub.hsOf ls) tid = some y ∧ y.phase = .looked ∧ y.memRead = true ∧ y.gate.need = true ∧
          y.gate.released = false ∧ y.worst = x.acc + 6 + s.hub.boundOf x.req.line) ∧
        ∃ r ∈ t.hub.reads, r.line = x.req.line ∧ r.who = .txn tid ∧ r.spec = false) ∧
    (x.req.op = .rsvStore → s.hub.rsvHeld (s.hub.hsOf ls) x.req = false → hears s.hub x.req.gaid.la →
      ∃ t, exec (.sliceLookup ls tid e sent) s = .next t ∧ onlyIn ([Part.slices, .spill, .reads, .chans, .mps, .arbs, .sps, .rot, .records, .lapses, .rsvRecs, .rsvNotes, .prefetchNotes, .spanReps] ++ eventParts) s t ∧
        t.hub.txn (s.hub.hsOf ls) tid = none ∧
        (∀ d ∈ (t.hub.ap (s.hub.agent x.req.gaid.la).port).staged, ¬(d.gaid = x.req.gaid ∧ d.txid = x.req.txid ∧ d.wb = false)) ∧
        ∃ pre rest, t.hub.out = s.hub.out ++ pre ++ [OutMsg.agent (s.hub.agent x.req.gaid.la).port { agentMsg opCmp x.req.gaid x.req.txid x.req.line x.req.gaid.la with
          grant := 0
          outcome := oNoRsv }] ++ rest)

/-- The answers of snooped agents (R60, R107, R112, R113, R127). -/
def Obligations.AnswersAreCollected : Prop :=
  ∀ (s : State) (p : BitVec 4) (f : Flit) (sn : Snoop) (tid : Byte) (x : Txn) (d : Payload) (y : MeshData) (ue : BitVec 8) (b : LineBits) (po : ByteMask),
    (AnswerDue s.hub p f sn tid x →
      (∀ r c, (r = RspOp.i ∧ c = Instr.rspI p f ∨ r = .s ∧ c = .rspS p f) →
        ∃ t, exec c s = .next t ∧ onlyIn [.slices, .aps, .pmc] s t ∧ otherSlices s.hub t.hub (s.hub.hsOf sn.ls) ∧
          otherPorts s.hub t.hub p ∧ t.hub.ap p = (s.hub.ap p).dropSnoop sn ∧
          ∃ y, t.hub.txn (s.hub.hsOf sn.ls) tid = some y ∧ y.gate = { x.gate with
            expect := x.gate.expect.filter fun a => a != f.src
            answers := (x.gate.answers.filter fun a => a.la != f.src) ++ [⟨f.src, r, f.kept, false⟩]
            fwdWait := x.gate.fwdWait.filter fun a => a != f.src }) ∧
      (∀ r c, (r = RspOp.fwdS ∧ c = Instr.rspFwdS p f ∨ r = .fwdI ∧ c = .rspFwdI p f) →
        ∃ t, exec c s = .next t ∧ onlyIn [.slices, .aps, .pmc] s t ∧ otherSlices s.hub t.hub (s.hub.hsOf sn.ls) ∧
          otherPorts s.hub t.hub p ∧
          t.hub.ap p = (if sn.dataIn then (s.hub.ap p).dropSnoop sn
            else (s.hub.ap p).onSnoop sn fun k => { k with got := some ⟨f.src, r, f.kept, false⟩ }) ∧
          ∃ y, t.hub.txn (s.hub.hsOf sn.ls) tid = some y ∧ y.gate = { x.gate with
            expect := x.gate.expect.filter fun a => a != f.src
            answers := (x.gate.answers.filter fun a => a.la != f.src) ++ [⟨f.src, r, f.kept, false⟩]
            fwdWait := if sn.dataIn then x.gate.fwdWait.filter (fun a => a != f.src) else x.gate.fwdWait ++ [f.src] }) ∧
      (s.hub.wbCopy p f.src f.line = some (b, po) →
        ∃ t, exec (.rspCross p f) s = .next t ∧ onlyIn [.slices, .aps, .pmc] s t ∧ otherSlices s.hub t.hub (s.hub.hsOf sn.ls) ∧
          otherPorts s.hub t.hub p ∧ t.hub.ap p = (s.hub.ap p).dropSnoop sn ∧
          ∃ y, t.hub.txn (s.hub.hsOf sn.ls) tid = some y ∧ y.gate = { x.gate with
            expect := x.gate.expect.filter fun a => a != f.src
            answers := (x.gate.answers.filter fun a => a.la != f.src) ++ [⟨f.src, .cross, f.kept, false⟩]
            fwdWait := x.gate.fwdWait.filter fun a => a != f.src
            wbData := true
            dup := x.gate.dup || (x.gate.fwdFrom.isSome || x.gate.cross.isSome)
            cross := if x.gate.shut then x.gate.cross else x.gate.cross.or (some (payload b false (po != 0))) }) ∧
      (d.sound = true → s.hub.isHome sn.line = true → s.hub.lineDown sn.line = false →
        ∃ t, exec (.rspWb p f d ue) s = .next t ∧ onlyIn ([Part.slices, .spill, .reads, .rot, .aps] ++ eventParts) s t ∧ otherArrays s.hub t.hub (s.hub.hsOf sn.ls) ∧
          (ue ≠ 0 → raised t.hub evHubDataUe) ∧
          (∃ y, t.hub.txn (s.hub.hsOf sn.ls) tid = some y ∧ y.gate.wbData = true ∧
            y.gate.expect = (x.gate.expect.filter fun a => a != f.src) ∧
            y.gate.answers = (x.gate.answers.filter fun a => a.la != f.src) ++ [⟨f.src, .wb, f.kept, false⟩]) ∧
          (x.gate.fwdFrom = none →
            ∃ w, t.hub.wbFind (s.hub.hsOf sn.ls) sn.line = some w ∧ w.whole = true ∧ w.lastWb = some (Gaid.mk s.hub.num f.src) ∧
              (s.hub.wbFind (s.hub.hsOf sn.ls) sn.line = none → w.bytes = d.bytes ∧ w.pois = enterPoison d.poison ue)) ∧
          (x.gate.fwdFrom ≠ none → t.hub.wbFind (s.hub.hsOf sn.ls) sn.line = s.hub.wbFind (s.hub.hsOf sn.ls) sn.line ∧
            ∃ y, t.hub.txn (s.hub.hsOf sn.ls) tid = some y ∧ y.gate.dup = true))) ∧
    (fromOnline s.hub p f.src → y.line.sound = true →
      (s.hub.ap p).snoops.find? (fun k => k.la == f.src && k.gaid == f.gaid && k.txid == f.txid && k.line == f.line && !k.dataIn) =
        some sn → sn.who = .txn tid → s.hub.txn (s.hub.hsOf sn.ls) tid = some x → AwaitsAnswers x → Sourced x → sn.homeCopy = false →
      x.gate.shut = false → heldsWait s.hub (s.hub.hsOf sn.ls) sn.line →
      ∃ t, exec (.datFwd p f y) s = .next t ∧ onlyIn ([Part.slices, .aps] ++ (if y.ue = 0 then [] else eventParts)) s t ∧ otherSlices s.hub t.hub (s.hub.hsOf sn.ls) ∧
        otherPorts s.hub t.hub p ∧
        t.hub.ap p = (if sn.got.isSome then (s.hub.ap p).dropSnoop sn else (s.hub.ap p).onSnoop sn fun k => { k with dataIn := true }) ∧
        (y.ue ≠ 0 → raised t.hub evHubDataUe) ∧
        ∃ z, t.hub.txn (s.hub.hsOf sn.ls) tid = some z ∧ z.gate = { x.gate with
          fwdWait := x.gate.fwdWait.filter fun a => a != sn.la
          fwd := if x.gate.fwdFrom = none then some (meshLine y) else x.gate.fwd
          fwdFrom := x.gate.fwdFrom.or (some sn.la)
          dup := x.gate.dup || x.gate.fwdFrom.isSome || x.gate.cross.isSome })

/-- The release of a gate by its last answer (R59, R106, R108). -/
def Obligations.UpgradeCompletesWithItsLastAnswer : Prop :=
  ∀ (s : State) (p : BitVec 4) (f : Flit) (sn : Snoop) (tid : Byte) (x : Txn) (l : List La) (fw : Option La),
    fromOnline s.hub p f.src → s.hub.snoopFor p f = some sn → sn.who = .txn tid → s.hub.txn (s.hub.hsOf sn.ls) tid = some x →
    (∀ c ∈ (s.hub.ap p).cmpWbHeld, ¬(c.1 = f.src ∧ c.2.1 = f.line)) → heldsWait s.hub (s.hub.hsOf sn.ls) sn.line →
    x.phase = .looked → x.req.op = .upgrade → x.req.span = false → x.spanReq = false → x.hentry = none → x.deadReq = false →
    x.view = .shr l fw → x.baseDue = false → x.acked = none →
    x.gate = { Gate.init with
      expect := [f.src]
      answers := x.gate.answers
      grant := gE } →
    hears s.hub x.req.gaid.la →
    ∃ t, exec (.rspI p f) s = .next t ∧ onlyIn [.slices, .aps, .pmc, .out, .records, .lapses, .freeCtr] s t ∧
      otherSlices s.hub t.hub (s.hub.hsOf sn.ls) ∧
      t.hub.out = s.hub.out ++ [OutMsg.agent (s.hub.agent x.req.gaid.la).port { agentMsg opCmp x.req.gaid x.req.txid x.req.line x.req.gaid.la with
        grant := gE
        outcome := oDone }] ∧
      ∃ y, t.hub.txn (s.hub.hsOf sn.ls) tid = some y ∧ y.gate.released = true ∧ y.acked = none

/-- The pull of staged write data (R114, R117). -/
def Obligations.WriteDataIsPulledIntoTheWriteBuffer : Prop :=
  ∀ (s : State) (ls : BitVec 6) (tid : Byte) (upsets : List ByteUpset) (x : Txn) (b : LineBits) (po be : ByteMask),
    s.hub.txn (s.hub.hsOf ls) tid = some x → x.gate.pullWait = true → AwaitsAnswers x → Sourced x → x.spanReq = false →
    s.hub.stagedFor x.req = some (b, po, be) → s.hub.isHome x.req.line = true → s.hub.lineDown x.req.line = false →
    ∃ t, exec (.dataPull ls tid upsets) s = .next t ∧ onlyIn ([Part.slices, .spill, .reads, .rot, .aps] ++ eventParts) s t ∧ otherArrays s.hub t.hub (s.hub.hsOf ls) ∧
      ((applyUpsets b po upsets).2.2.2 ≠ 0 → raised t.hub evHubDataUe) ∧
      t.hub.stagedFor x.req = none ∧
      (∃ y, t.hub.txn (s.hub.hsOf ls) tid = some y ∧ y.wrote = true ∧ y.gate = { x.gate with pullWait := false }) ∧
      ∃ w, t.hub.wbFind (s.hub.hsOf ls) x.req.line = some w ∧ w.wmask &&& be = be ∧ w.pois &&& be = (applyUpsets b po upsets).2.1 &&& be ∧
        (∀ y, s.hub.wbFind (s.hub.hsOf ls) x.req.line = some y →
          w.bytes = mergeBytes be (applyUpsets b po upsets).1 y.bytes ∧ w.wmask = y.wmask ||| be) ∧
        (s.hub.wbFind (s.hub.hsOf ls) x.req.line = none → w.bytes = mergeBytes be (applyUpsets b po upsets).1 0 ∧ w.wmask = be)

/-- The notices of reservations (R175–R179). -/
def Obligations.ReservationNoticesReachTheirSlices : Prop :=
  ∀ (s : State) (n : RsvNotice) (x : Txn),
    ((0, n) ∈ s.hub.rsvNotes → s.hub.findTxn n.gaid n.txid n.anchor = some x → s.hub.txn (s.hub.homeHs n.anchor) x.tid = some x →
      AwaitsAnswers x → Sourced x →
      ∃ t, exec (.reservationProbe n) s = .next t ∧ onlyIn [.slices, .rsvNotes] s t ∧ otherSlices s.hub t.hub (s.hub.homeHs n.anchor) ∧
        t.hub.rsvNotes = s.hub.rsvNotes.erase (0, n) ∧
        (t.hub.slice (s.hub.homeHs n.anchor)).rsv = (s.hub.slice (s.hub.homeHs n.anchor)).rsv.map (fun r =>
          if r.gaid == n.gaid && r.anchor == n.anchor then { r with probes := r.probes ++ [(n.line, s.hub.round)] } else r) ∧
        ∃ y, t.hub.txn (s.hub.homeHs n.anchor) x.tid = some y ∧ y.gate.acks = x.gate.acks - 1 ∧
          (y.gate.rsvOwner = true ↔ x.gate.rsvOwner = true ∨
            (∃ a, (s.hub.slice (s.hub.homeHs n.line)).homeView n.line = .own a) ∨
            ∃ a, (s.hub.slice (s.hub.homeHs n.line)).hubView n.line = .own a)) ∧
    ((1, n) ∈ s.hub.rsvNotes → s.hub.findTxn n.gaid n.txid n.line = some x → s.hub.txn (s.hub.homeHs n.line) x.tid = some x →
      AwaitsAnswers x → Sourced x →
      ∃ t, exec (.reservationClear n) s = .next t ∧ onlyIn [.slices, .rsvNotes] s t ∧ t.hub.rsvNotes = s.hub.rsvNotes.erase (1, n) ∧
        (t.hub.slice (s.hub.homeHs n.anchor)).rsv = (s.hub.slice (s.hub.homeHs n.anchor)).rsv.filter (fun r =>
          !(r.anchor == n.anchor && r.covers n.line && !(n.seq == 1 && r.gaid == n.gaid) && !r.loadedAfter n.line x.acc)) ∧
        (∀ m, m ≠ s.hub.homeHs n.anchor → (t.hub.slice m).rsv = (s.hub.slice m).rsv) ∧
        ∃ y, t.hub.txn (s.hub.homeHs n.line) x.tid = some y ∧ y.gate = { x.gate with acks := x.gate.acks - 1 }) ∧
    ((2, n) ∈ s.hub.rsvNotes →
      ∃ t, exec (.reservationRelease n) s = .next t ∧ onlyIn [.slices, .rsvNotes] s t ∧ otherSlices s.hub t.hub (s.hub.homeHs n.anchor) ∧
        t.hub.rsvNotes = s.hub.rsvNotes.erase (2, n) ∧
        t.hub.slice (s.hub.homeHs n.anchor) = { s.hub.slice (s.hub.homeHs n.anchor) with
          rsv := (s.hub.slice (s.hub.homeHs n.anchor)).rsv.filter fun r =>
            !(r.anchor == n.anchor && r.gaid == n.gaid && r.seq == n.seq) })

/-- The sending of memory commands (R117, R261, R262, R270, R274, R277). -/
def Obligations.MemoryCommandsAreSent : Prop :=
  ∀ (s : State) (ch : BitVec 4) (r : MemRead) (line : Line) (c : Nat) (x : WbLine),
    (s.hub.chanOnline ch.toNat = true → (s.hub.chan ch.toNat).down = false →
      ((s.hub.takePaused ch.toNat).refuseLock ch.toNat).nextRead ch.toNat = some r →
      awake ((s.hub.takePaused ch.toNat).refuseLock ch.toNat) (.mp (BitVec.ofNat 3 (portOfChan ch.toNat))) →
      ∃ t, exec (.memRd ch) s = .next t ∧ onlyIn ([Part.reads, .chans, .mps, .arbs] ++ eventParts) s t ∧
        t.hub.out = ((s.hub.takePaused ch.toNat).refuseLock ch.toNat).out ++ [OutMsg.memory ch (if r.lk then 0x01 else 0x00) r.mtag (s.hub.caddr r.line) r.crit none] ∧
        (∀ y ∈ t.hub.reads, portOfChan y.ch.toNat = portOfChan r.ch.toNat → y.mtag = r.mtag → y.sent = true) ∧
        (r.lk = true → (t.hub.chan ch.toNat).lock = some r.mtag) ∧
        (t.hub.chan ch.toNat).rdUsed = (s.hub.chan ch.toNat).rdUsed + 1 ∧
        ∀ d, d ≠ ch.toNat → t.hub.chan d = s.hub.chan d) ∧
    (s.hub.chanOnline ch.toNat = true → (s.hub.chan ch.toNat).down = false →
      (∃ q ∈ (s.hub.takePaused ch.toNat).reads,
        (s.hub.takePaused ch.toNat).readFree ch.toNat q = true ∧ (s.hub.takePaused ch.toNat).lockHeld q = true) →
      ∃ t, exec (.memRd ch) s = .next t ∧ onlyIn ([Part.reads, .chans, .mps, .arbs] ++ eventParts) s t ∧
        raised t.hub evMeshLockRefused) ∧
    ((s.hub.lineMap line).1 = [c] → s.hub.wbFind (s.hub.homeHs line) line = some x → s.hub.writeSendable c x = true →
      (x.front = true ∨ ∀ y ∈ s.hub.allWb, y.front = true → y.line = line) → awake s.hub (.mp (BitVec.ofNat 3 (portOfChan c))) →
      s.hub.grantedAll (s.hub.writeGrants x c) = true →
      ∃ t, exec (.memWr line) s = .next t ∧ onlyIn [.chans, .mps, .arbs, .slices, .spill, .out, .pmc, .freeCtr] s t ∧
        otherSlices s.hub t.hub (s.hub.homeHs line) ∧ (t.hub.chan c).wrUsed = (s.hub.chan c).wrUsed + 1 ∧
        ∃ tag, t.hub.out = s.hub.out ++ [OutMsg.memory (BitVec.ofNat 4 c) 0x08 tag (s.hub.caddr line) false (some (x.bytes, x.poison))] ∧
          t.hub.wbFind (s.hub.homeHs line) line = some { x with
            out := x.out ++ [⟨BitVec.ofNat 4 c, tag, false⟩]
            wrote := x.wrote ++ [BitVec.ofNat 4 c]
            front := false })

/-- The data of a memory read at its transaction (R59, R61, R112), and reads whose data does not come (R273). -/
def Obligations.ReadDataReachesItsTransaction : Prop :=
  ∀ (s : State) (mp : BitVec 3) (mtag : Txid) (d : MeshData) (r : MemRead) (tid : Byte) (x : Txn) (n : Nat),
    s.hub.readOf mp.toNat mtag = some r →
    (quietMailboxes s.hub → d.line.sound = true → (∀ c, portOfChan c = mp.toNat → (s.hub.chan c).lost.contains mtag = false) →
      r.sent = true → r.held = none → r.who = .txn tid → r.spec = false → r.dec ≠ .cancelled → r.lk = false →
      (d.line.poison = false ∨ (s.hub.chan r.ch.toNat).down = false) → s.hub.readTxn (s.hub.hsOf r.ls) r tid = some x →
      (AwaitsAnswers x →
        ∃ t, exec (.memDat mp mtag d) s = .next t ∧ onlyIn ([Part.slices, .reads, .chans] ++ eventParts) s t ∧
          otherArrays s.hub t.hub (s.hub.hsOf r.ls) ∧ t.hub.readOf mp.toNat mtag = none ∧ (d.ue ≠ 0 → raised t.hub evHubDataUe) ∧
          ∃ y, t.hub.txn (s.hub.hsOf r.ls) tid = some y ∧ y.gate = { x.gate with
            prep := x.gate.prep.or (some { meshLine d with dirty := false }) }) ∧
      (AwaitsData x → hears s.hub x.req.gaid.la →
        ∃ t, exec (.memDat mp mtag d) s = .next t ∧ onlyIn ([Part.slices, .spill, .reads, .chans, .sps, .rot, .records, .lapses, .rsvRecs, .rsvNotes] ++ eventParts) s t ∧
          t.hub.readOf mp.toNat mtag = none ∧ (d.ue ≠ 0 → raised t.hub evHubDataUe) ∧
          ∃ rest, t.hub.out = s.hub.out ++
            [OutMsg.agent (s.hub.agent x.req.gaid.la).port (x.datMsg { meshLine d with dirty := false } false),
             .agent (s.hub.agent x.req.gaid.la).port { agentMsg opCmp x.req.gaid x.req.txid x.req.line x.req.gaid.la with
               grant := if x.req.op.isOwn then gE else x.gate.grant
               outcome := x.gate.finalOutcome x.req.op }] ++ rest)) ∧
    (r.pres = some n → n + s.hub.bound mp.toNat ≤ s.hub.round → r.late = false → r.who ≠ .mirror true →
      ∃ t, exec (.readLate mp mtag) s = .next t ∧ onlyIn ([Part.reads] ++ eventParts) s t ∧ raised t.hub evMpReadLate ∧
        t.hub.readOf mp.toNat mtag = some { r with late := true }) ∧
    (quietMailboxes s.hub → r.pres = some n → n + 2 * s.hub.bound mp.toNat ≤ s.hub.round → (∃ tid, r.who = .txn tid) →
      r.dec ≠ .cancelled → r.lk = false →
      ∃ t, exec (.readLost mp mtag) s = .next t ∧ onlyIn ([Part.slices, .spill, .reads, .chans, .sps, .rot, .records, .lapses, .rsvRecs, .rsvNotes] ++ eventParts) s t ∧ raised t.hub evMpReadLost ∧
        t.hub.readOf mp.toNat mtag = none ∧
        (r.sent = true → (t.hub.chan r.ch.toNat).lost = (s.hub.chan r.ch.toNat).lost ++ [mtag]))

/-- The completion of memory writes (R274), the spill store (R275) and its places (R276). -/
def Obligations.MemoryWritesCompleteAndSpill : Prop :=
  ∀ (s : State) (mp : BitVec 3) (mtag : Txid) (x : WbLine) (ls : BitVec 6) (line : Line),
    (quietMailboxes s.hub →
      s.hub.allWb.find? (fun y => y.out.any fun o => portOfChan o.ch.toNat == mp.toNat && o.mtag == mtag) = some x →
      s.hub.wbFind (s.hub.homeHs x.line) x.line = some x →
      (∀ o ∈ x.out, portOfChan o.ch.toNat = mp.toNat ∧ o.mtag = mtag) → x.wrote ≠ [] →
      (∀ c ∈ (s.hub.lineMap x.line).1, (s.hub.chan c).down = false → BitVec.ofNat 4 c ∈ x.wrote) →
      ∃ t, exec (.memWcmp mp mtag) s = .next t ∧ onlyIn [.slices, .spill, .mbx] s t ∧
        otherSlices s.hub t.hub (s.hub.homeHs x.line) ∧
        (x.again = false → t.hub.wbFind (s.hub.homeHs x.line) x.line = none) ∧
        (x.again = true → t.hub.wbFind (s.hub.homeHs x.line) x.line = some { x with out := [], wrote := [], again := false })) ∧
    (224 ≤ (s.hub.slice (s.hub.hsOf ls)).wb.length →
      (s.hub.spill.filter fun y => y.place == .guaranteed && s.hub.hsOf y.ls == s.hub.hsOf ls).length < 24 →
      (s.hub.slice (s.hub.hsOf ls)).wb.find? (fun y => y.place == .general && s.hub.writeStuck y) = some x →
      s.hub.granted (s.hub.hsOf ls) 1 = true →
      ∃ t, exec (.spillMove ls) s = .next t ∧ onlyIn [.slices, .spill, .arbs, .pmc, .freeCtr] s t ∧
        otherSlices s.hub t.hub (s.hub.hsOf ls) ∧ t.hub.spill = s.hub.spill ++ [{ x with place := .guaranteed }] ∧
        t.hub.slice (s.hub.hsOf ls) = { s.hub.slice (s.hub.hsOf ls) with
          wb := (s.hub.slice (s.hub.hsOf ls)).wb.filter fun y => y.line != x.line }) ∧
    (s.hub.spill.find? (fun y => y.line == line && y.recallAt.isSome && s.hub.hsOf y.ls == s.hub.hsOf ls) = some x →
      s.hub.granted (s.hub.hsOf ls) 1 = true →
      ∃ t, exec (.recallComplete ls line) s = .next t ∧ onlyIn [.slices, .spill, .arbs, .pmc, .freeCtr] s t ∧
        otherSlices s.hub t.hub (s.hub.hsOf ls) ∧ t.hub.spill = s.hub.spill.filter (fun y => y.line != line) ∧
        t.hub.slice (s.hub.hsOf ls) = { s.hub.slice (s.hub.hsOf ls) with
          wb := (s.hub.slice (s.hub.hsOf ls)).wb ++ [{ x with place := .recall, recallAt := none }] })

/-- Pauses and failures of memory channels (R259, R262, R278–R282). -/
def Obligations.ChannelsPauseAndFail : Prop :=
  ∀ (s : State) (ch : BitVec 4) (lead : BitVec 12) (len : BitVec 7) (n : Nat) (mp : BitVec 3),
    (s.hub.chanOnline ch.toNat = true → len ≠ 0 →
      ∃ t, exec (.memPause ch lead len) s = .next t ∧ onlyIn ([Part.chans] ++ eventParts) s t ∧
        t.hub.chan ch.toNat = { s.hub.chan ch.toNat with announced := (s.hub.chan ch.toNat).announced ++
          [(s.hub.round + lead.toNat, s.hub.round + lead.toNat + len.toNat - 1)] } ∧
        (∀ c, c ≠ ch.toNat → t.hub.chan c = s.hub.chan c) ∧
        (lead.toNat < 500 ∨ 125 < len.toNat → raised t.hub evMpPauseBreach)) ∧
    ((∃ p ∈ (s.hub.chan ch.toNat).announced, p.1 ≤ s.hub.round ∧ s.hub.round ≤ p.2) →
      ∃ t, exec (.memPauseStart ch) s = .next t ∧ onlyIn [.chans] s t ∧
        t.hub.chan ch.toNat = { s.hub.chan ch.toNat with paused := true } ∧
        ∀ c, c ≠ ch.toNat → t.hub.chan c = s.hub.chan c) ∧
    ((s.hub.chan ch.toNat).paused = true → (∀ p ∈ (s.hub.chan ch.toNat).announced, ¬(p.1 ≤ s.hub.round ∧ s.hub.round ≤ p.2)) →
      quietMailboxes s.hub → (s.hub.chan ch.toNat).down = false →
      ∃ t, exec (.memPauseEnd ch) s = .next t ∧ onlyIn [.chans] s t ∧
        t.hub.chan ch.toNat = { s.hub.chan ch.toNat with
          paused := false
          announced := (s.hub.chan ch.toNat).announced.filter fun p => decide (s.hub.round ≤ p.2) } ∧
        ∀ c, c ≠ ch.toNat → t.hub.chan c = s.hub.chan c) ∧
    (s.hub.chanOnline ch.toNat = true → (s.hub.chan ch.toNat).down = false →
      ∃ t, exec (.memDown ch) s = .next t ∧ onlyIn ([Part.core, .mbx, .ring, .mps, .arbs] ++ [Part.slices, .spill, .reads, .chans, .sps, .rot, .records, .lapses, .rsvRecs, .rsvNotes] ++ eventParts) s t ∧
        raised t.hub evMpChannelDown ∧ (t.hub.chan ch.toNat).down = true ∧ (t.hub.chan ch.toNat).lock = none ∧
        (t.hub.chan ch.toNat).failEnd =
          (if s.hub.downOnTime ch.toNat && (s.hub.chan ch.toNat).paused then none else some (s.hub.round + 64))) ∧
    (∃ t, exec (.memReplayed ch) s = .next t ∧ onlyIn [.chans] s t ∧
      t.hub.chan ch.toNat = { s.hub.chan ch.toNat with replayed := (s.hub.chan ch.toNat).replayed + 1 } ∧
      ∀ c, c ≠ ch.toNat → t.hub.chan c = s.hub.chan c) ∧
    ((s.hub.chan ch.toNat).failEnd = some n → n ≤ s.hub.round →
      ∃ t, exec (.failoverWindowEnd ch) s = .next t ∧ onlyIn [.chans] s t ∧
        t.hub.chan ch.toNat = { s.hub.chan ch.toNat with failEnd := none } ∧
        ∀ c, c ≠ ch.toNat → t.hub.chan c = s.hub.chan c) ∧
    ((s.hub.mps.getD mp.toNat MpPort.init).online = true →
      ∃ t, exec (.mpLinkDown mp) s = .next t ∧ onlyIn ([Part.core, .mbx, .ring, .mps, .arbs] ++ [Part.slices, .spill, .reads, .chans, .sps, .rot, .records, .lapses, .rsvRecs, .rsvNotes] ++ eventParts) s t ∧
        raised t.hub evApLinkDown ∧
        (t.hub.mps.getD mp.toNat MpPort.init).online = false ∧ (t.hub.mps.getD mp.toNat MpPort.init).link = .down ∧
        ∀ c, c = 2 * mp.toNat ∨ c = 2 * mp.toNat + 1 → (s.hub.chan c).cap ≠ 0 → (t.hub.chan c).down = true)

/-- Fills that wait for their victims (R291, R293) and prefetch notices (R296). -/
def Obligations.FillsThatWaitedAreInstalledOrDropped : Prop :=
  ∀ (s : State) (ls : BitVec 6) (line v : Line) (f : Fill) (w : BitVec 4) (d : LineBits) (k c n : Nat) (stream : Bool),
    (quietMailboxes s.hub → (s.hub.slice (s.hub.hsOf ls)).fillOf line = some f → f.victim = some v → f.data = some d →
      s.hub.mirrorOf (s.hub.hsOf ls) (4 * line.hcSet.toNat + 3) ≠ some (s.hub.hsOf ls) →
      (f.way = some w → f.kind = .demand stream → (s.hub.slice (s.hub.hsOf ls)).writeWaits v = false →
        ∃ t, exec (.fillInstall ls line) s = .next t ∧ onlyIn [.slices] s t ∧ otherArrays s.hub t.hub (s.hub.hsOf ls) ∧
          (t.hub.slice (s.hub.hsOf ls)).fillOf line = none ∧
          (t.hub.slice (s.hub.hsOf ls)).hcAt line.hcSet w.toNat =
            hcWord line.hcTag true false false f.poison ((s.hub.slice (s.hub.hsOf ls)).chained line) false ∧
          (t.hub.slice (s.hub.hsOf ls)).hcBytes line.hcSet w.toNat = d ∧
          (t.hub.slice (s.hub.hsOf ls)).ageAt line.hcSet w.toNat = if stream then 3 else 0) ∧
      (f.since + 16 ≤ s.hub.round → f.kind = .demand stream →
        ((s.hub.slice (s.hub.hsOf ls)).hcEligible line.hcSet).find?
          (fun x => !hcValid ((s.hub.slice (s.hub.hsOf ls)).hcAt line.hcSet x)) = some k →
        ∃ t, exec (.fillVictimWaitExpiry ls line) s = .next t ∧ onlyIn [.slices] s t ∧ otherArrays s.hub t.hub (s.hub.hsOf ls) ∧
          (t.hub.slice (s.hub.hsOf ls)).fillOf line = none ∧
          (t.hub.slice (s.hub.hsOf ls)).hcAt line.hcSet k =
            hcWord line.hcTag true false false f.poison ((s.hub.slice (s.hub.hsOf ls)).chained line) false ∧
          (t.hub.slice (s.hub.hsOf ls)).hcBytes line.hcSet k = d) ∧
      (f.since + 16 ≤ s.hub.round → (f.kind = .chain ∧ (s.hub.slice (s.hub.hsOf ls)).hcEligible line.hcSet = [] ∨
          ∃ x mb, f.kind = .lock x mb) → exec (.fillVictimWaitExpiry ls line) s = .next s) ∧
      (f.since + 16 ≤ s.hub.round → f.kind ≠ .chain → (∀ x mb, f.kind ≠ .lock x mb) →
        (s.hub.slice (s.hub.hsOf ls)).hcEligible line.hcSet = [] →
        ∃ t, exec (.fillVictimWaitExpiry ls line) s = .next t ∧ onlyIn ([Part.slices] ++ eventParts) s t ∧
          otherSlices s.hub t.hub (s.hub.hsOf ls) ∧ raised t.hub evHcFillDrop ∧
          (t.hub.slice (s.hub.hsOf ls)).fillOf line = none)) ∧
    ((line, stream, n) ∈ s.hub.prefetchNotes → n < s.hub.round → s.hub.isHome line = true → s.hub.winOf line = s.hub.winOf (line - 1) →
      s.hub.readChan line = some c → s.hub.chanQuiet c = true → (s.hub.chan c).down = false → noHeldData s.hub →
      (s.hub.slice (s.hub.homeHs line)).hcValue line = none → (s.hub.slice (s.hub.homeHs line)).fillOf line = none →
      s.hub.wbFind (s.hub.homeHs line) line = none → (s.hub.slice (s.hub.homeHs line)).isOpen line = false →
      (s.hub.slice (s.hub.homeHs line)).chained line = false → (s.hub.slice (s.hub.homeHs line)).prefetches.length < 16 →
      (∀ x ∈ (s.hub.slice (s.hub.homeHs line)).prefetches, x.line ≠ line) → (s.hub.slice (s.hub.homeHs line)).walk = none →
      ∃ t, exec (.prefetchNotice line stream) s = .next t ∧ onlyIn [.slices, .reads, .prefetchNotes, .pmc, .freeCtr] s t ∧
        otherSlices s.hub t.hub (s.hub.homeHs line) ∧
        t.hub.slice (s.hub.homeHs line) = { s.hub.slice (s.hub.homeHs line) with
          prefetches := (s.hub.slice (s.hub.homeHs line)).prefetches ++ [⟨line, stream⟩] } ∧
        ∃ r, t.hub.reads = s.hub.reads ++ [r] ∧ r.line = line ∧ r.who = .prefetch stream ∧ r.spec = true ∧ r.ch = BitVec.ofNat 4 c)

/-- Device requests (R168, R182–R184, R467) and fences (R185) as they arrive. -/
def Obligations.DeviceRequestsAndFencesAreTaken : Prop :=
  ∀ (s : State) (p : BitVec 4) (f : Flit) (be : ByteMask) (d : WrData) (n : Nat) (words : List Nat),
    NewDevice s.hub p f →
    (DeviceServed s.hub f n →
      (∃ t, exec (.devRd p f be) s = .next t ∧ onlyIn deviceParts s t ∧
        ∃ r ∈ t.hub.dev.reqs, r.dtx = s.hub.dev.nextTx ∧ r.gaid = f.gaid ∧ r.txid = f.txid ∧ r.line = f.line ∧ r.write = false ∧
          r.be = be ∧ r.region = n ∧ r.target = s.hub.drtTarget n) ∧
      (d.sound = true → s.hub.postNext = none → (s.hub.dev.reqs.filter fun x => x.posted && !x.irq).length < 512 →
        ∃ t, exec (.devWr p f d) s = .next t ∧ onlyIn (deviceParts ++ eventParts) s t ∧
          (∃ r ∈ t.hub.dev.reqs, r.dtx = s.hub.dev.nextTx ∧ r.gaid = f.gaid ∧ r.txid = f.txid ∧ r.line = f.line ∧ r.write = true ∧
            r.bytes = d.bytes ∧ r.be = d.mask ∧ r.region = n ∧ r.target = s.hub.drtTarget n ∧ r.posted = true ∧
            r.acked = s.hub.drtEarly n) ∧
          (s.hub.drtEarly n = true → hears s.hub f.gaid.la → devCmp s.hub f.gaid f.txid f.line oDone ∈ t.hub.out))) ∧
    (s.hub.classify f.line = .window s.hub.num → wholeWords be = some words → hears s.hub f.gaid.la →
      ∃ t, exec (.devRd p f be) s = .next t ∧ onlyIn deviceParts s t ∧
        t.hub.out = s.hub.out ++
          [devData s.hub f.gaid f.txid f.line
            ((s.withHub fun h => (h.onAp p fun x => x.noteDev f).moved (epAp p.toNat) epDev false 16).windowRead f.gaid f.line be words)
            false false,
           devCmp s.hub f.gaid f.txid f.line oDone]) ∧
    ((∀ x ∈ s.hub.dev.fences, x.wait ≠ []) →
      ((∃ r ∈ s.hub.dev.reqs, r.gaid = f.gaid ∧ r.acked = true ∧ r.irq = false) →
        ∃ t, exec (.fenceSweep p f) s = .next t ∧ onlyIn [.aps, .dev, .pmc, .freeCtr] s t ∧ otherPorts s.hub t.hub p ∧
          t.hub.dev = { s.hub.dev with
            fences := s.hub.dev.fences ++ [⟨f.gaid, f.txid, f.line,
              (s.hub.dev.reqs.filter fun r => r.gaid == f.gaid && r.acked && !r.irq).map fun r => r.dtx, s.hub.dev.dropped.contains f.gaid⟩]
            dropped := s.hub.dev.dropped.filter fun g => g != f.gaid }) ∧
      ((∀ r ∈ s.hub.dev.reqs, r.gaid = f.gaid → r.acked = true → r.irq = true) → hears s.hub f.gaid.la →
        ∃ t, exec (.fenceSweep p f) s = .next t ∧ onlyIn [.aps, .dev, .out, .pmc, .freeCtr, .records, .lapses] s t ∧
          otherPorts s.hub t.hub p ∧
          t.hub.out = s.hub.out ++
            [devCmp s.hub f.gaid f.txid f.line (if s.hub.dev.dropped.contains f.gaid then oLost else oDone)] ∧
          (∀ x ∈ t.hub.dev.fences, ¬(x.gaid = f.gaid ∧ x.txid = f.txid)) ∧ t.hub.dev.dropped.contains f.gaid = false))

/-- The ends of device requests (R168, R186, R253) and the posted-write buffer (R183). -/
def Obligations.DeviceAnswersAndTimeoutsComplete : Prop :=
  ∀ (s : State) (p : BitVec 4) (la : La) (txid : Txid) (outcome : BitVec 2) (d : Payload) (r : DevReq),
    (fromOnline s.hub p la →
      s.hub.dev.reqs.find? (fun x => x.dtx == txid && x.target == la && x.sent.isSome && x.region != 64) = some r →
      (r.write = false → d.sound = true) → r.irq = false → r.acked = false → r.span = none → hears s.hub r.gaid.la →
      ∃ t, exec (.devTargetAnswer p la txid outcome d) s = .next t ∧ onlyIn deviceParts s t ∧
        (∀ x ∈ t.hub.dev.reqs, x.dtx ≠ txid) ∧
        ∃ rest, t.hub.out = s.hub.out ++
          (if r.write then [] else [devData s.hub r.gaid r.txid r.line d.bytes d.dirty d.poison]) ++
          [devCmp s.hub r.gaid r.txid r.line outcome] ++ rest) ∧
    (s.hub.dev.reqs.find? (fun x => x.dtx == txid && x.region != 64 && match x.sent with
        | some k => decide (k ≤ s.hub.round)
        | none => false) = some r →
      r.irq = false → r.acked = false → r.span = none → hears s.hub r.gaid.la → (r.write = true ∨ noIrq s.hub) →
      ∃ t, exec (.devTimeout txid) s = .next t ∧ onlyIn ([Part.records, .lapses] ++ eventParts) s t ∧ raised t.hub evDevTimeout ∧
        (∀ x ∈ t.hub.dev.reqs, x.dtx ≠ txid) ∧
        ∃ pre b rest, t.hub.out = s.hub.out ++ pre ++
          (if r.write then [] else [devData s.hub r.gaid r.txid r.line b false true]) ++
          [devCmp s.hub r.gaid r.txid r.line oLost] ++ rest) ∧
    (s.hub.postNext = some r → (s.hub.dev.reqs.filter fun x => x.posted && !x.irq).length < 512 →
      ∃ t, exec .postedWriteEntry s = .next t ∧ onlyIn (deviceParts ++ eventParts) s t ∧
        (∃ x ∈ t.hub.dev.reqs, x.dtx = r.dtx ∧ x.gaid = r.gaid ∧ x.posted = true ∧ x.acked = r.early) ∧
        (r.early = true → hears s.hub r.gaid.la → devCmp s.hub r.gaid r.txid r.line oDone ∈ t.hub.out))

/-- Links (R194, R236, R258, R259) and their frames (R239, R240, R249, R260). -/
def Obligations.LinksTrainAndReceiveFrames : Prop :=
  ∀ (s : State) (p : BitVec 4) (m n : BitVec 3) (hd : FrameHdr),
    (startQuiet s → s.hub.bringsUp = true →
      ((s.hub.domUsed (.ap p) = true ∨ (s.hub.ap p).link = .training) → s.hub.domUp (.ap p) = true →
        (s.hub.ap p).online = false → (s.hub.ap p).trained = false →
        s.otp.except.getLsbD (bitAp p.toNat) = false → ((s.hub.ap p).rate16 = false ∨ (s.hub.ap p).link ≠ .training) →
        ∃ t, exec (.linkTraining (.ap p) .full) s = .next t ∧ onlyIn [.aps, .aon, .mirror] s t ∧ otherPorts s.hub t.hub p ∧
          t.hub.ap p = { s.hub.ap p with
            link := .training
            trained := true
            rate16 := false
            decl := none
            fallback := if (s.hub.ap p).link = .training then (s.hub.ap p).fallback else (s.hub.pw (0x680 + p.toNat)).getLsbD 6 }) ∧
      ((s.hub.domUsed (.mp m) = true ∨ (s.hub.mp m.toNat).link = .training) → s.hub.domUp (.mp m) = true →
        (s.hub.mp m.toNat).online = false → (s.hub.mp m.toNat).trained = false →
        ∃ t, exec (.linkTraining (.mp m) .full) s = .next t ∧ onlyIn [.mps, .par, .chans] s t ∧
          t.hub.mp m.toNat = { s.hub.mp m.toNat with
            link := .training
            trained := true
            declared := false } ∧
          t.hub.pw (0x7A0 + m.toNat) = s.hub.pm (0x7A0 + m.toNat)) ∧
      (n.toNat < 6 → s.hub.domUsed (.sp n) = true → s.hub.domUp (.sp n) = true → (s.hub.sp n).trained = false →
        s.otp.except.getLsbD (bitSp n.toNat) = false → ((s.hub.sp n).half = false ∨ (s.hub.sp n).link ≠ .training) →
        ∃ t, exec (.linkTraining (.sp n) .full) s = .next t ∧ onlyIn [.sps, .aon, .mirror, .out, .freeCtr] s t ∧
          otherSpans s.hub t.hub n ∧
          t.hub.sp n = { s.hub.sp n with
            link := .training
            trained := true
            half := false
            keyed := false
            frame := FrameState.init } ∧
          ∃ pub sig, t.hub.out = s.hub.out ++ [OutMsg.keying n s.hub.num 1 2 pub sig s.hub.core.cert])) ∧
    (quietMailboxes s.hub → (s.hub.ap p).online = true → GoodFrame (s.hub.ap p).frame hd → idleFrame hd → steadyFrames (s.hub.ap p).frame →
      (s.hub.ap p).frame.part.msgs = [] → (s.hub.ap p).frame.part.hdrs = [] → (s.hub.ap p).stalled = [] →
      ∃ t, exec (.apFrame (.ap p) hd) s = .next t ∧ onlyIn [.aps] s t ∧ otherPorts s.hub t.hub p ∧
        FrameTaken (s.hub.ap p).frame (t.hub.ap p).frame hd ∧ (t.hub.ap p).link = .online ∧ (t.hub.ap p).outst = (s.hub.ap p).outst ∧
        (t.hub.ap p).reqCred = (s.hub.ap p).reqCred + (hd.credits.extractLsb' 32 8).toNat ∧
        (t.hub.ap p).snpCred = (s.hub.ap p).snpCred + (hd.credits.extractLsb' 16 8).toNat ∧
        (t.hub.ap p).rspCred = (s.hub.ap p).rspCred + (hd.credits.extractLsb' 8 8).toNat ∧
        (t.hub.ap p).datCred = (s.hub.ap p).datCred + (hd.credits.extractLsb' 0 8).toNat) ∧
    (quietMailboxes s.hub → (s.hub.mp m.toNat).online = true → GoodFrame (s.hub.mp m.toNat).frame hd → idleFrame hd →
      steadyFrames (s.hub.mp m.toNat).frame → (s.hub.mp m.toNat).frame.part.msgs = [] → (s.hub.mp m.toNat).frame.part.hdrs = [] →
      ∃ t, exec (.apFrame (.mp m) hd) s = .next t ∧ onlyIn [.mps, .chans] s t ∧
        FrameTaken (s.hub.mp m.toNat).frame (t.hub.mp m.toNat).frame hd ∧ (t.hub.mp m.toNat).link = .online ∧
        (t.hub.chan (2 * m.toNat)).rdUsed = (s.hub.chan (2 * m.toNat)).rdUsed - (hd.credits.extractLsb' 56 8).toNat ∧
        (t.hub.chan (2 * m.toNat + 1)).rdUsed = (s.hub.chan (2 * m.toNat + 1)).rdUsed - (hd.credits.extractLsb' 48 8).toNat ∧
        (t.hub.chan (2 * m.toNat)).wrUsed = (s.hub.chan (2 * m.toNat)).wrUsed - (hd.credits.extractLsb' 40 8).toNat ∧
        (t.hub.chan (2 * m.toNat + 1)).wrUsed = (s.hub.chan (2 * m.toNat + 1)).wrUsed - (hd.credits.extractLsb' 32 8).toNat ∧
        ∀ c, c ≠ 2 * m.toNat → c ≠ 2 * m.toNat + 1 → t.hub.chan c = s.hub.chan c) ∧
    (quietMailboxes s.hub → (s.hub.ap p).online = true → hd.crcOk = false → steadyFrames (s.hub.ap p).frame →
      (s.hub.ap p).frame.bads.getD hd.fseq.toNat 0 < 2 →
      ∃ t, exec (.apFrame (.ap p) hd) s = .next t ∧ onlyIn eventParts s t ∧ raised t.hub evApReplay ∧
        (t.hub.ap p).frame.rx = (s.hub.ap p).frame.rx ∧ (t.hub.ap p).link = .replaying ∧ (t.hub.ap p).online = true ∧
        (t.hub.ap p).frame.rpl = true ∧ (t.hub.ap p).frame.tx.ask = true ∧
        (t.hub.ap p).frame.bads.getD hd.fseq.toNat 0 = (s.hub.ap p).frame.bads.getD hd.fseq.toNat 0 + 1) ∧
    ((s.hub.ap p).online = true →
      ∃ t, exec (.apLinkDown p) s = .next t ∧ onlyIn ([Part.slices, .spill, .reads, .chans, .sps, .records, .lapses, .rsvRecs, .rsvNotes, .rot, .core, .mbx, .ring] ++ eventParts) s t ∧ raised t.hub evApLinkDown ∧
        (t.hub.ap p).online = false ∧ (t.hub.ap p).link = .down ∧ (t.hub.ap p).trained = false ∧
        ∀ la, (s.hub.agent la).valid = true → (s.hub.agent la).port = p → (t.hub.agent la).dead = true)

/-- The bring-up of agent ports (R3, R26, R27, R248, R251, R252) and memory ports (R252, R259, R264). Every message completes in every state
that its rule names; `u` is the state after its own effect, which is all of `t` but where it lets a start go on (R426, R433). -/
def Obligations.PortsAreDeclaredAndComeOnline : Prop :=
  ∀ (s : State) (p : BitVec 4) (m : BitVec 3) (w : Word) (d : ApDecl),
    (s.hub.bringsUp = true → (s.hub.ap p).online = false → (s.hub.ap p).trained = true → (s.hub.ap p).decl = none →
      sbOk 0x01 w = true → (apDeclOf w).cause = 0 →
      ∃ t u, exec (.apDeclare p w) s = .next t ∧ t = u.settlePorts ∧ (startQuiet s → t = u) ∧ onlyIn [.aps] s u ∧ otherPorts s.hub u.hub p ∧
        u.hub.ap p = { s.hub.ap p with decl := some (apDeclOf w) }) ∧
    ((s.hub.ap p).decl = some d → sbOk 0x02 w = true → (w.extractLsb' 48 5).toNat = d.next →
      (d.next + 1 ≠ d.count.toNat →
        ∃ t u, exec (.apAgent p w) s = .next t ∧ t = u.settlePorts ∧ (startQuiet s → t = u) ∧ otherPorts s.hub u.hub p ∧
          u.hub.ap p = { s.hub.ap p with decl := some { d with next := d.next + 1 } } ∧
          (s.hub.freeNumbers = [] → onlyIn [.aps, .aon, .out, .freeCtr] s u ∧ u.hub.out = s.hub.out ++
            [OutMsg.sideband (.ap p) (sbWord 0x03 (fld 48 (w.extractLsb' 48 5).toNat ||| fld 32 2))]) ∧
          (s.hub.freeNumbers ≠ [] → onlyIn [.aps, .agents, .out, .freeCtr] s u ∧
            ∃ la ∈ s.hub.freeNumbers,
              u.hub.agent la = ⟨true, false, w.getLsbD 0, w.getLsbD 1, p, w.extractLsb' 48 5, false, false, false⟩ ∧
              (∀ a, a ≠ la → u.hub.agent a = s.hub.agent a) ∧
              u.hub.out = s.hub.out ++ [OutMsg.sideband (.ap p) (agentIdWord s.hub (w.extractLsb' 48 5).toNat la)])) ∧
      (d.next + 1 = d.count.toNat → s.hub.freeNumbers ≠ [] →
        ∃ t u, exec (.apAgent p w) s = .next t ∧ t = u.settlePorts ∧ (startQuiet s → s.hub.start.phase = .serving → t = u) ∧
          onlyIn [.aps, .agents, .out, .freeCtr, .start] s u ∧ otherPorts s.hub u.hub p ∧
          (u.hub.ap p).online = true ∧ (u.hub.ap p).link = .online ∧ (u.hub.ap p).decl = none ∧ (u.hub.ap p).frame = FrameState.init ∧
          (u.hub.ap p).reqCred = d.reqC.toNat ∧ (u.hub.ap p).snpCred = d.snpC.toNat ∧ (u.hub.ap p).rspCred = d.rspC.toNat ∧
          (u.hub.ap p).datCred = d.datC.toNat ∧
          (∃ la ∈ s.hub.freeNumbers, u.hub.out = s.hub.out ++
            [OutMsg.sideband (.ap p) (agentIdWord s.hub (w.extractLsb' 48 5).toNat la),
             .sideband (.ap p) (sbWord 0x04 (fld 24 128 ||| fld 16 64 ||| fld 8 128 ||| fld 0 128)), .sideband (.ap p) (sbWord 0x06 0)]) ∧
          ∀ a, (u.hub.agent a).valid = true → (u.hub.agent a).port = p → (u.hub.agent a).dead = false → (u.hub.agent a).online = true)) ∧
    (s.hub.bringsUp = true → (s.hub.mp m.toNat).online = false → (s.hub.mp m.toNat).trained = true → (s.hub.mp m.toNat).declared = false →
      sbOk 0x20 w = true → (w.extractLsb' 48 8).toNat = 1 →
      ∃ t u, exec (.mpDeclare m w) s = .next t ∧ t = u.settlePorts ∧ (startQuiet s → t = u) ∧ onlyIn [.mps] s u ∧
        u.hub.mp m.toNat = { s.hub.mp m.toNat with declared := true } ∧ ∀ k, k ≠ m.toNat → u.hub.mp k = s.hub.mp k) ∧
    (∀ (c : Nat) (i : Instr) (id : Byte) (f : Chan → Chan) (h : Hub), c = 2 * m.toNat + (if w.getLsbD 55 then 1 else 0) →
      ((i = .mpChanGeom m w ∧ id = 0x21 ∧ f = geomOf w ∧ (s.hub.chan c).geom = false) ∨
        (i = .mpChanFlow m w ∧ id = 0x22 ∧ f = flowOf w ∧ (s.hub.chan c).flow = false)) →
      h = s.hub.onChan c f → s.hub.mpBringing m = true → (s.hub.mp m.toNat).declared = true → sbOk id w = true →
      ∃ t u, exec i s = .next t ∧ t = u.settlePorts ∧
        (¬wholePort h m → (startQuiet s → t = u) ∧ onlyIn [.chans] s u ∧ u.hub.chan c = f (s.hub.chan c) ∧
          ∀ k, k ≠ c → u.hub.chan k = s.hub.chan k) ∧
        (wholePort h m → h.chanOk (2 * m.toNat) = true → h.chanOk (2 * m.toNat + 1) = true →
          (startQuiet s → s.hub.start.phase = .serving → t = u) ∧ onlyIn [.chans, .mps, .out, .notices, .start] s u ∧
          u.hub.out = s.hub.out ++ [OutMsg.sideband (.mp m) (sbWord 0x23 0)] ∧
          (u.hub.mp m.toNat).online = true ∧ (u.hub.mp m.toNat).link = .online) ∧
        (wholePort h m → (h.chanOk (2 * m.toNat) = false ∨ h.chanOk (2 * m.toNat + 1) = false) →
          (startQuiet s → s.hub.start.phase = .serving → t = u) ∧ onlyIn [.chans, .mps, .out, .aon, .power, .start, .freeCtr] s u ∧
          u.hub.out = s.hub.out ++ [OutMsg.sideband (.mp m) (sbWord 0x24 (fld 0 3))] ∧
          (u.hub.mp m.toNat).online = false ∧ (u.hub.mp m.toNat).trained = false ∧ (u.hub.mp m.toNat).unused = true))

/-- Span frames (R192, R193, R204) and the forwarding of their messages (R201, R203, R205). -/
def Obligations.SpanFramesAreTakenAndForwarded : Prop :=
  ∀ (s : State) (n : BitVec 3) (fr : SpanFrameIn),
    (6 ≤ n.toNat → exec (.spanFrame n fr) s = .fault .noSuchUnit) ∧
    (SpanUp s.hub n → quietMailboxes s.hub → startQuiet s → GoodSpanFrame (s.hub.sp n) fr →
      (fr.units = [] →
        ∃ t, exec (.spanFrame n fr) s = .next t ∧ onlyIn [.sps] s t ∧ otherSpans s.hub t.hub n ∧
          SpanFrameTaken (s.hub.sp n) (t.hub.sp n) fr) ∧
      ∀ u, fr.units = [u] → hdrSvc u.header ≠ 4 → badUnit u = false → answersReq u = false →
        (hdrDest u.header = s.hub.num →
          ∃ t, exec (.spanFrame n fr) s = .next t ∧ onlyIn [.sps] s t ∧ otherSpans s.hub t.hub n ∧
            SpanFrameTaken (s.hub.sp n) (t.hub.sp n) fr) ∧
        (hdrDest u.header ≠ s.hub.num → hdrHops u.header = 12 →
          ∃ t, exec (.spanFrame n fr) s = .next t ∧ onlyIn (.sps :: eventParts) s t ∧ otherSpans s.hub t.hub n ∧
            SpanFrameTaken (s.hub.sp n) (t.hub.sp n) fr ∧ raised t.hub evSpanHops) ∧
        ∀ w e k, w = s.hub.routeFor (hdrDest u.header) (hdrEpoch u.header) → e = w.extractLsb' 2 3 →
          k = (⟨e, hdrDest u.header, hdrSrc u.header, hdrSvc u.header, s.hub.dsetOut e (some (n, hdrDset u.header)), hdrEpoch u.header,
            hdrHops u.header + 1, u.opc, u.flit, u.data, u.operand, u.be, none⟩ : SpanOut) →
          hdrDest u.header ≠ s.hub.num → hdrHops u.header ≠ 12 → w.getLsbD 0 = true → e.toNat ≤ 5 →
          ((hdrSvc u.header = 0 → (s.hub.sp e).hopHeld.length < 64) → (s.hub.sp e).mayGo k = true →
            ∃ t, exec (.spanFrame n fr) s = .next t ∧ onlyIn [.sps, .pmc, .out] s t ∧ t.hub.out = s.hub.out ++ [OutMsg.span k] ∧
              (∃ l, (t.hub.sp e).wire.msgs = l ++ [k]) ∧
              (t.hub.sp n).frame.rx = (s.hub.sp n).frame.rx + 1 ∧ ∀ q, q ≠ n → q ≠ e → t.hub.sp q = s.hub.sp q) ∧
          (hdrSvc u.header ≠ 0 → e ≠ n → (s.hub.sp e).mayGo k = false →
            ∃ t, exec (.spanFrame n fr) s = .next t ∧ onlyIn [.sps] s t ∧ SpanFrameTaken (s.hub.sp n) (t.hub.sp n) fr ∧
              t.hub.sp e = { s.hub.sp e with waits := (s.hub.sp e).waits ++ [k] } ∧ ∀ q, q ≠ n → q ≠ e → t.hub.sp q = s.hub.sp q) ∧
          (hdrSvc u.header = 0 → 64 ≤ (s.hub.sp e).hopHeld.length →
            ∃ t delay, exec (.spanFrame n fr) s = .next t ∧ onlyIn [.sps, .out, .freeCtr] s t ∧ otherSpans s.hub t.hub n ∧
              SpanFrameTaken (s.hub.sp n) (t.hub.sp n) fr ∧ delay < 65536 ∧
              t.hub.out = s.hub.out ++ [OutMsg.hopTicket n u.flit.gaid u.flit.txid delay])) ∧
    (SpanUp s.hub n → quietMailboxes s.hub → startQuiet s → (fr.fecOk = false ∨ fr.crcOk = false ∨ (s.hub.sp n).tagGood fr = false) →
      ((fr.fecOk = false ∨ fr.crcOk = false ∨ (s.hub.sp n).tagBad.contains fr.fseq = false) →
        ∃ t, exec (.spanFrame n fr) s = .next t ∧ onlyIn (.sps :: eventParts) s t ∧ otherSpans s.hub t.hub n ∧
          raised t.hub evSpanReplay ∧ (t.hub.sp n).wire.ask = true ∧ (t.hub.sp n).frame.rx = (s.hub.sp n).frame.rx ∧
          (t.hub.sp n).frame.rpl = true ∧ (t.hub.sp n).link = .replaying ∧ (t.hub.sp n).keyed = true ∧
          (t.hub.sp n).tagBad = (s.hub.sp n).tagBad ++ (if fr.fecOk && fr.crcOk then [fr.fseq] else [])) ∧
      (fr.fecOk = true → fr.crcOk = true → (s.hub.sp n).tagBad.contains fr.fseq = true → s.hub.start.phase = .serving →
        (∀ x, s.hub.routeValid x = true → s.hub.routePort x ≠ n) →
        ∃ t, exec (.spanFrame n fr) s = .next t ∧ onlyIn ([Part.sps, .start] ++ eventParts) s t ∧ otherSpans s.hub t.hub n ∧
          raised t.hub evSpanLinkDown ∧ (t.hub.sp n).link = .down ∧ (t.hub.sp n).trained = false ∧ (t.hub.sp n).keyed = false))

/-- Keying and rekeying (R195, R196, R197, R199), links that go down (R193), and the route change that follows (R202, R228). That a lost hub comes
back over the route of one hop through its keyed port is the model's choice (assumption log 93). -/
def Obligations.SpanLinksKeyRekeyAndFail : Prop :=
  ∀ (s : State) (n : BitVec 3) (k : KeyingPeer),
    (6 ≤ n.toNat → ∀ c ∈ [Instr.spanKeying n k, .spanRekeyCount n, .rekeyDeadline n, .spanLinkDown n], exec c s = .fault .noSuchUnit) ∧
    (n.toNat < 6 →
      ((s.hub.sp n).keyed = true → (s.hub.sp n).rekey = false →
        ∃ t, exec (.spanRekeyCount n) s = .next t ∧ onlyIn [.sps, .out, .freeCtr] s t ∧ otherSpans s.hub t.hub n ∧
          t.hub.sp n = { s.hub.sp n with
            rekey := true
            sent := 2 ^ (s.hub.sp n).rekeyLog2 } ∧
          ∃ pub sig, t.hub.out = s.hub.out ++ [OutMsg.keying n s.hub.num 1 2 pub sig s.hub.core.cert]) ∧
      (quietMailboxes s.hub → s.dueBits = [] → s.hub.start.phase = .serving → (s.hub.sp n).trained = true →
        (s.hub.peerOk n k = true → ((s.hub.sp n).keyed = true → (s.hub.sp n).rekey = true) → (s.hub.sp n).waits = [] →
          ∃ t, exec (.spanKeying n k) s = .next t ∧ otherSpans s.hub t.hub n ∧
            (t.hub.sp n).link = .online ∧ (t.hub.sp n).keyed = true ∧ (t.hub.sp n).rekey = false ∧ (t.hub.sp n).frames = 0 ∧
            (t.hub.sp n).sent = 0 ∧ (t.hub.sp n).peer = k.hub ∧ (t.hub.sp n).peerKey = k.attest ∧
            (t.hub.sp n).rekeyLog2 = s.hub.p 0x184 ∧ (t.hub.sp n).kep = ((s.hub.sp n).keyed && !(s.hub.sp n).kep) ∧
            (t.hub.sp n).tx.look (if (t.hub.sp n).kep then 1 else 0) =
              some (linkKey k.secret (if s.hub.num.toNat < k.hub.toNat then 0 else 1)) ∧
            (t.hub.sp n).rx.look (if (t.hub.sp n).kep then 1 else 0) =
              some (linkKey k.secret (1 - if s.hub.num.toNat < k.hub.toNat then 0 else 1)) ∧
            ((s.hub.sp n).keyed = false → (t.hub.sp n).frame = FrameState.init ∧ (t.hub.sp n).creds = startCredits) ∧
            (s.hub.lostHubs.contains k.hub = false → onlyIn [.sps, .start] s t) ∧
            (s.hub.lostHubs.contains k.hub = true → s.hub.routeAcks.contains k.hub = false →
              onlyIn [.sps, .start, .out, .routeNew, .routeAcks] s t ∧ .smgt k.hub smgtRouteAck 0 ∈ t.hub.out ∧
              ∃ words, t.hub.routeNew = some words ∧
                words.look (0x400 + k.hub.toNat) = some (fld 8 1 ||| fld 2 n.toNat ||| 1))) ∧
        ∀ c, c = .spanLinkDown n ∨ (c = .rekeyDeadline n ∧ (s.hub.sp n).rekey = true) ∨
            (c = .spanKeying n k ∧ s.hub.peerOk n k = false ∧ ((s.hub.sp n).keyed = true → (s.hub.sp n).rekey = true)) →
          ((∀ x, s.hub.routeValid x = true → s.hub.routePort x ≠ n) →
            ∃ t, exec c s = .next t ∧ onlyIn ([Part.sps, .start] ++ eventParts) s t ∧ otherSpans s.hub t.hub n ∧
              raised t.hub evSpanLinkDown ∧ (t.hub.sp n).link = .down ∧ (t.hub.sp n).trained = false ∧ (t.hub.sp n).keyed = false ∧
              (t.hub.sp n).keys = 0 ∧ (t.hub.sp n).tx = [] ∧ (t.hub.sp n).rx = []) ∧
          (∀ x, s.hub.routeValid x = true → s.hub.routePort x = n → x ≠ s.hub.num → s.hub.lostHubs.contains x = false →
            s.hub.routeAcks.contains x = false →
            ∃ t, exec c s = .next t ∧ onlyIn ([Part.sps, .start, .routeNew, .routeAcks] ++ eventParts) s t ∧ otherSpans s.hub t.hub n ∧
              raised t.hub evSpanLinkDown ∧ (t.hub.sp n).link = .down ∧ (t.hub.sp n).trained = false ∧ (t.hub.sp n).keyed = false ∧
              .smgt x smgtRouteAck 0 ∈ t.hub.out ∧ ∃ words, t.hub.routeNew = some words ∧
                words.look (0x400 + x.toNat) = some (t.hub.newRoute x))))

/-- Route changes (R202) and hop tickets (R204). -/
def Obligations.RouteChangesAndHopTicketsTakeEffect : Prop :=
  ∀ (s : State) (x : HubNo) (words : Tbl Word) (n : BitVec 3) (g : Gaid) (tx : Txid) (delay : BitVec 16) (m : SpanOut),
    (quietMailboxes s.hub → x ≠ s.hub.num → s.hub.routeAcks.contains x = false →
      ((s.hub.routeNew = none ∨ s.hub.core.restart = true ∨ s.hub.draining = true ∨ (∃ y ∈ s.hub.routeHubs, y ≠ x ∧ y ∉ s.hub.routeAcks) ∨
          ∃ y ∈ s.hub.routeHubs, s.hub.readmits y = true ∧ s.hub.walkedFor y = false) →
        ∃ t, exec (.routeChangeAck x) s = .next t ∧ onlyIn [.routeAcks] s t ∧ t.hub.routeAcks = s.hub.routeAcks ++ [x]) ∧
      (∀ h, h = { s.hub with par := putAll words s.hub.par } → s.hub.routeNew = some words → s.hub.core.restart = false → s.hub.draining = false →
        (∀ y ∈ s.hub.routeHubs, (y = x ∨ y ∈ s.hub.routeAcks) ∧ (s.hub.readmits y = true → s.hub.walkedFor y = true)) →
        (∀ q : BitVec 3, q.toNat < 6 → (h.pw (0x188 + q.toNat)).getLsbD 0 = true ∨ (h.sp q).trained = false) →
        (∀ q : BitVec 3, q.toNat < 6 → (h.sp q).keyed = true ∨ (h.sp q).waits = []) →
        (∀ y, s.hub.reachable y = true → h.reachable y = true) →
        ∃ t, exec (.routeChangeAck x) s = .next t ∧ onlyIn [.par, .routeNew, .routeOld, .routeAcks, .spanEpoch, .lostHubs, .sps, .power] s t ∧
          t.hub.par = h.par ∧ t.hub.routeNew = none ∧ t.hub.routeAcks = [] ∧ t.hub.spanEpoch = !s.hub.spanEpoch ∧
          t.hub.routeOld.flip = s.hub.round ∧
          (∀ q : BitVec 3, q.toNat < 6 → t.hub.sp q = { s.hub.sp q with
            idle := !h.routed q && s.hub.routed q && (s.hub.sp q).keyed }) ∧
          (∀ y, t.hub.lostHubs.contains y =
            (s.hub.lostHubs.contains y && !((y = x ∨ y ∈ s.hub.routeAcks) && h.routeValid y && s.hub.walkedFor y))) ∧
          ∀ y e, t.hub.routeFor y e = if e = s.hub.spanEpoch then s.hub.pw (0x400 + y.toNat) else h.pw (0x400 + y.toNat))) ∧
    (n.toNat < 6 → (s.hub.sp n).queue.find? (fun y => y.isReq g tx) = some m →
      ∃ t, exec (.hopTicket n g tx delay) s = .next t ∧ onlyIn [.sps, .pmc, .slices] s t ∧ otherSpans s.hub t.hub n ∧
        (t.hub.sp n).queue = List.dropFirst (fun y => y.isReq g tx) (s.hub.sp n).queue ∧
        (t.hub.sp n).hopHeld = (s.hub.sp n).hopHeld ++ [{ m with until_ := some (s.hub.round + delay.toNat) }] ∧
        (s.hub.findTxn g tx m.flit.line = none → t.hub.slices = s.hub.slices) ∧
        ∀ y, s.hub.findTxn g tx m.flit.line = some y → s.hub.txn (s.hub.homeHs m.flit.line) y.tid = some y → y.spanReq = true →
          y.req.span = false →
          t.hub.txn (s.hub.homeHs m.flit.line) y.tid = some { y with
            worst := y.worst + delay.toNat
            added := y.added + delay.toNat }) ∧
    (∀ r e, n.toNat < 6 → m ∈ (s.hub.sp n).hopHeld → m.isReq g tx = true → m.until_ = some r → r ≤ s.hub.round →
      (∀ y ∈ (s.hub.sp n).hopHeld, y.isReq g tx = true → y = m) → ((s.hub.sp n).keyed = true ∨ s.hub.reachable m.dest = true) →
      e = (if (s.hub.sp n).keyed = true then n else s.hub.routePort m.dest) → m.svc = 0 →
      ∃ t, exec (.hopTicketResend n g tx) s = .next t ∧ onlyIn [.sps, .pmc, .out] s t ∧
        t.hub.out = s.hub.out ++ [OutMsg.span { m with
          sp := e
          until_ := none }] ∧
        (∃ a b, (s.hub.sp n).hopHeld = a ++ m :: b ∧ (t.hub.sp n).hopHeld = a ++ b) ∧
        ∀ q, q ≠ n → q ≠ e → t.hub.sp q = s.hub.sp q)

/-- Span requests at the home (R206, R207, R214) and their re-presentation (R215). -/
def Obligations.SpanRequestsArePresentedAtTheHome : Prop :=
  ∀ (s : State) (m : SpanMsg) (d : WrData) (operand : BitVec 256) (gaid : Gaid) (txid : Txid) (x : SpanRep),
    (SpanArrives s.hub m.flit .rdShared none →
        ∃ t, exec (.spanRdS m) s = .next t ∧ onlyIn (spanPresentParts) s t ∧
          SpanPresented s t (spanReq .rdShared m.flit 0) none) ∧
    (SpanArrives s.hub m.flit .rdAny none →
        ∃ t, exec (.spanRdAny m) s = .next t ∧ onlyIn (spanPresentParts) s t ∧
          SpanPresented s t (spanReq .rdAny m.flit 0) none) ∧
    (SpanArrives s.hub m.flit .rdOwn none →
        ∃ t, exec (.spanRdO m) s = .next t ∧ onlyIn (spanPresentParts) s t ∧
          SpanPresented s t (spanReq .rdOwn m.flit 0) none) ∧
    (SpanArrives s.hub m.flit .upgrade none →
        ∃ t, exec (.spanUpgrade m) s = .next t ∧ onlyIn (spanPresentParts) s t ∧
          SpanPresented s t (spanReq .upgrade m.flit 0) none) ∧
    (m.flit.b28 = false → SpanArrives s.hub m.flit .rdOnce none →
        ∃ t, exec (.spanRdOnce m) s = .next t ∧ onlyIn (spanPresentParts) s t ∧
          SpanPresented s t (spanReq .rdOnce m.flit 0) none) ∧
    (m.flit.b28 = true → SpanArrives s.hub m.flit .rsvLoad none →
        ∃ t, exec (.spanRdOnce m) s = .next t ∧ onlyIn (spanPresentParts) s t ∧
          SpanPresented s t (spanReq .rsvLoad m.flit 0) none) ∧
    (m.flit.b28 = false → d.beValid = false → SpanArrives s.hub m.flit .wrFull (some d) →
        ∃ t, exec (.spanWr m d) s = .next t ∧ onlyIn (.spanReps :: spanPresentParts) s t ∧
          SpanPresented s t (spanReq .wrFull m.flit 0) none ∧ t.hub.spanReps = s.hub.spanReps ++ [⟨spanReq .wrFull m.flit 0, (some d), 0⟩]) ∧
    (m.flit.b28 = false → d.beValid = true → SpanArrives s.hub m.flit .wrPart (some d) →
        ∃ t, exec (.spanWr m d) s = .next t ∧ onlyIn (.spanReps :: spanPresentParts) s t ∧
          SpanPresented s t (spanReq .wrPart m.flit 0) none ∧ t.hub.spanReps = s.hub.spanReps ++ [⟨spanReq .wrPart m.flit 0, (some d), 0⟩]) ∧
    (m.flit.b28 = true → SpanArrives s.hub m.flit .rsvStore (some d) →
        ∃ t, exec (.spanWr m d) s = .next t ∧ onlyIn (.spanReps :: spanPresentParts) s t ∧
          SpanPresented s t (spanReq .rsvStore m.flit 0) none ∧ t.hub.spanReps = s.hub.spanReps ++ [⟨spanReq .rsvStore m.flit 0, (some d), 0⟩]) ∧
    (SpanArrives s.hub m.flit .atom none →
        ∃ t, exec (.spanAtom m operand) s = .next t ∧ onlyIn (spanPresentParts) s t ∧
          SpanPresented s t (spanReq .atom m.flit operand) none) ∧
    (s.hub.start.phase = .serving → s.hub.classify m.flit.line = .unmapped → s.hub.reachable m.flit.gaid.hub = true → spanGoes s.hub m.flit.gaid.hub →
      ∀ c o, (c, o) ∈ [(Instr.spanRdS m, ReqOp.rdShared), (.spanRdAny m, .rdAny), (.spanRdO m, .rdOwn), (.spanUpgrade m, .upgrade),
          (.spanRdOnce m, if m.flit.b28 then .rsvLoad else .rdOnce), (.spanAtom m operand, .atom)] → m.flit.spanBad o.spanOpc = false →
        ∃ t, exec c s = .next t ∧ onlyIn (.sps :: eventParts) s t ∧ raised t.hub evApUnmapped ∧
          spanMsg s.hub m.flit.gaid.hub 0x28 (spanCmpFlit m.flit.gaid m.flit.txid m.flit.line oMalformed 0 0) none ∈ t.hub.out) ∧
    (s.hub.spanReps.find? (fun y => y.req.gaid == gaid && y.req.txid == txid && y.at_ != 0) = some x →
      s.hub.start.phase = .serving → x.at_ ≤ s.hub.round + 1 →
      ∃ t, exec (.spanRepresent gaid txid) s = .next t ∧ onlyIn (.spanReps :: spanPresentParts) s t ∧
        SpanPresented s t x.req (some x.at_) ∧
        (∀ y ∈ t.hub.spanReps, y.req.gaid = gaid → y.req.txid = txid → y.at_ = 0 ∧ y.data ≠ none) ∧
        (x.data ≠ none → { x with at_ := 0 } ∈ t.hub.spanReps) ∧
        ∀ y ∈ s.hub.spanReps, ¬(y.req.gaid = gaid ∧ y.req.txid = txid) → y ∈ t.hub.spanReps)

/-- Device requests of other hubs (R182, R206, R394, R467). -/
def Obligations.SpanDeviceRequestsAreServed : Prop :=
  ∀ (s : State) (m : SpanMsg) (be : ByteMask) (d : WrData) (n : Nat) (words : List Nat),
    s.hub.start.phase = .serving →
    (s.hub.classify m.flit.line = .device n → n < 64 → (s.hub.access 0xFF).dev.getLsbD n = true → s.hub.isOnline (s.hub.drtTarget n) = true →
      (s.hub.agent (s.hub.drtTarget n)).dead = false →
      (m.flit.spanBad 0x0C = false → ∃ t, exec (.spanDevRd m be) s = .next t ∧ onlyIn deviceParts s t ∧
        ∃ r ∈ t.hub.dev.reqs, r.dtx = s.hub.dev.nextTx ∧ r.gaid = m.flit.gaid ∧ r.txid = m.flit.txid ∧ r.line = m.flit.line ∧
          r.write = false ∧ r.be = be ∧ r.region = n ∧ r.target = s.hub.drtTarget n ∧ r.span = some m.flit.gaid.hub) ∧
      (m.flit.spanBad 0x0D = false → d.sound = true → s.hub.postNext = none → (s.hub.dev.reqs.filter fun x => x.posted && !x.irq).length < 512 →
        ∃ t, exec (.spanDevWr m d) s = .next t ∧ onlyIn (deviceParts ++ eventParts) s t ∧
          ∃ r ∈ t.hub.dev.reqs, r.dtx = s.hub.dev.nextTx ∧ r.gaid = m.flit.gaid ∧ r.txid = m.flit.txid ∧ r.line = m.flit.line ∧
            r.write = true ∧ r.bytes = d.bytes ∧ r.be = d.mask ∧ r.region = n ∧ r.target = s.hub.drtTarget n ∧ r.posted = true ∧
            r.acked = false ∧ r.span = some m.flit.gaid.hub)) ∧
    (s.hub.classify m.flit.line = .window s.hub.num → wholeWords be = some words → s.hub.reachable m.flit.gaid.hub = true →
      spanGoes s.hub m.flit.gaid.hub → m.flit.spanBad 0x0C = false →
      ∃ t, exec (.spanDevRd m be) s = .next t ∧ onlyIn [.dev, .sps, .out, .pmc, .freeCtr] s t ∧
        t.hub.out = s.hub.out ++
          [spanMsg s.hub m.flit.gaid.hub 0x30 (Flit.plain m.flit.gaid m.flit.txid m.flit.line 0)
            (some (payload (s.windowRead m.flit.gaid m.flit.line be words) false false)),
           spanMsg s.hub m.flit.gaid.hub 0x28 (spanCmpFlit m.flit.gaid m.flit.txid m.flit.line oDone 0 0) none])

/-- Writebacks and notices between hubs (R211, R223). -/
def Obligations.SpanWritebacksReachTheDirectory : Prop :=
  ∀ (s : State) (m : SpanMsg) (d : MeshData) (e : LookupErr) (w : Nat) (ws : List Nat) (v : HView) (hs : Nat) (x : WbLine),
    hs = s.hub.homeHs m.flit.line → s.hub.takesAnswers = true →
    (s.hub.isHome m.flit.line = true → s.hub.reachable m.src = true → spanGoes s.hub m.src → cleanLookup s.hub m.flit.line e →
      (s.hub.slice hs).lookupDue m.flit.line = true → (s.hub.slice hs).lookedOn m.flit.line = none →
      (m.flit.spanBad 0x10 = false → d.line.sound = true → s.hub.lineDown m.flit.line = false →
        ∃ t, exec (.spanWb m d e) s = .next t ∧ onlyIn ([Part.slices, .spill, .reads, .rot, .sps] ++ eventParts) s t ∧
          (⟨0, 0, m.flit.line, 0, false, some (m.src, m.flit.b28)⟩ : WbWait) ∈ (t.hub.slice hs).wbWait ∧
          (∀ set way, (t.hub.slice hs).sdAt set way = (s.hub.slice hs).sdAt set way) ∧
          ∃ y, t.hub.wbFind hs m.flit.line = some y ∧ y.whole = true ∧ y.lastWb = some m.flit.gaid) ∧
      (m.flit.spanBad 0x11 = false → ∃ t, exec (.spanEvict m e) s = .next t ∧ onlyIn [.slices, .sps, .pmc, .freeCtr, .out] s t ∧
          (⟨0, 0, m.flit.line, 0, false, some (m.src, false)⟩ : WbWait) ∈ (t.hub.slice hs).wbWait ∧
          (∀ set way, (t.hub.slice hs).sdAt set way = (s.hub.slice hs).sdAt set way) ∧
          t.hub.out = s.hub.out ++ [spanMsg s.hub m.src 0x2B (Flit.plain m.flit.gaid m.flit.txid m.flit.line 0) none])) ∧
    (s.hub.isHome m.flit.line = true → s.hub.reachable m.src = true → spanGoes s.hub m.src → cleanLookup s.hub m.flit.line e →
      (s.hub.slice hs).lookupDue m.flit.line = false → (s.hub.slice hs).lookedOn m.flit.line = none →
      (s.hub.slice hs).healthySd m.flit.line = w :: ws → HView.ofWord ((s.hub.slice hs).sdAt m.flit.line.sdSet w) = some v →
      (m.flit.spanBad 0x10 = false → d.line.sound = true → s.hub.lineDown m.flit.line = false →
        ∃ t, exec (.spanWb m d e) s = .next t ∧ onlyIn ([Part.slices, .spill, .reads, .rot, .sps] ++ eventParts) s t ∧
          otherArrays s.hub t.hub hs ∧ HubNoted (s.hub.slice hs) (t.hub.slice hs) m.flit.line w v m.src m.flit.b28 ∧
          (d.ue ≠ 0 → raised t.hub evHubDataUe) ∧
          spanMsg s.hub m.src 0x2B (Flit.plain m.flit.gaid m.flit.txid m.flit.line 0) none ∈ t.hub.out ∧
          ∃ y, t.hub.wbFind hs m.flit.line = some y ∧ y.whole = true ∧ y.dirty = true ∧ y.lastWb = some m.flit.gaid ∧
            (∀ k, s.hub.wbFind hs m.flit.line = some k → y.bytes = mergeBytes k.wmask k.bytes d.line.bytes) ∧
            (s.hub.wbFind hs m.flit.line = none → y.bytes = d.line.bytes ∧ y.pois = enterPoison d.line.poison d.ue)) ∧
      (m.flit.spanBad 0x11 = false → ∃ t, exec (.spanEvict m e) s = .next t ∧ onlyIn [.slices, .sps, .pmc, .freeCtr, .out] s t ∧
          otherArrays s.hub t.hub hs ∧ HubNoted (s.hub.slice hs) (t.hub.slice hs) m.flit.line w v m.src false ∧
          (t.hub.slice hs).wb = (s.hub.slice hs).wb ∧
          t.hub.out = s.hub.out ++ [spanMsg s.hub m.src 0x2B (Flit.plain m.flit.gaid m.flit.txid m.flit.line 0) none])) ∧
    (m.flit.spanBad 0x2B = false → m.flit.txid ≠ evictTx m.flit.line → s.hub.wbFind hs m.flit.line = some x → x.home = false → x.sent = true → x.again = false →
      ∃ t, exec (.spanCmpWb m) s = .next t ∧ onlyIn [.slices, .spill] s t ∧ otherSlices s.hub t.hub hs ∧
        t.hub.wbFind hs m.flit.line = none ∧ (t.hub.slice hs).sf = (s.hub.slice hs).sf ∧ (t.hub.slice hs).txns = (s.hub.slice hs).txns)

/-- Span snoops at a holder (R226, R227). -/
def Obligations.SpanSnoopsAreServedAtTheHolder : Prop :=
  ∀ (s : State) (m : SpanMsg) (la : La) (hs : Nat) (idx : BitVec 4) (sn : SnpOp) (c : Instr) (x : WaitSnoop) (e : LookupErr) (y : Txn),
    hs = s.hub.homeHs m.flit.line → (s.hub.start.phase = .serving ∨ s.hub.start.phase = .draining) →
    (c, sn) ∈ [(Instr.spanSnpS ⟨m, e⟩, SnpOp.fwdS), (.spanSnpO ⟨m, e⟩, .fwdO), (.spanSnpInv ⟨m, e⟩, .inv), (.spanSnpData ⟨m, e⟩, .data)] →
    m.flit.spanBad sn.spanOpc = false → cleanRead s.hub m.flit.line e → s.hub.reachable m.flit.gaid.hub = true → s.hub.reachable m.src = true → s.hub.wbFind hs m.flit.line = none →
    (s.hub.freeHeld hs = some idx → (∀ y ∈ s.hub.waitSnoops, y.ls ≠ m.flit.line.ls) →
      ((s.hub.slice hs).homeView m.flit.line = .unc → (s.hub.slice hs).unreleased m.flit.line = none →
        spanGoes s.hub m.flit.gaid.hub → spanGoes s.hub m.src →
        ∃ t, exec c s = .next t ∧ onlyIn [.slices, .sps, .pmc, .freeCtr, .out] s t ∧ otherSlices s.hub t.hub hs ∧
          t.hub.slice hs = s.hub.slice hs ∧
          t.hub.out = s.hub.out ++
            [spanMsg s.hub m.flit.gaid.hub 0x20 (spanRspFlit m.flit.gaid m.flit.txid m.flit.line 0 false) none,
             spanMsg s.hub m.src 0x20 (spanRspFlit m.flit.gaid m.flit.txid m.flit.line 0 true) none]) ∧
      ((s.hub.slice hs).homeView m.flit.line = .own la → (s.hub.slice hs).txnOn m.flit.line = none → snoopable s.hub la →
        hears s.hub la →
        ∃ t, exec c s = .next t ∧ onlyIn [.slices, .aps, .pmc, .freeCtr, .out] s t ∧ otherSlices s.hub t.hub hs ∧
          otherPorts s.hub t.hub (s.hub.agent la).port ∧
          (∃ k, (t.hub.slice hs).helds = (s.hub.slice hs).helds ++ [k] ∧ k.idx = idx ∧ k.op = sn ∧ k.line = m.flit.line ∧ k.home = m.src ∧
            k.gaid = m.flit.gaid ∧ k.txid = m.flit.txid ∧ k.expect = [la] ∧ k.view = .own la) ∧
          (∃ k, (t.hub.ap (s.hub.agent la).port).snoops = (s.hub.ap (s.hub.agent la).port).snoops ++ [k] ∧ k.la = la ∧ k.op = sn ∧
            k.line = m.flit.line ∧ k.who = .held idx) ∧
          t.hub.out = s.hub.out ++ [OutMsg.agent (s.hub.agent la).port { agentMsg sn.opc m.flit.gaid m.flit.txid m.flit.line la with
            once := sn == .fwdS && m.flit.b28
            crit := m.flit.crit }]) ∧
      ((s.hub.slice hs).unreleased m.flit.line = some y → s.hub.txn hs y.tid = some y →
        ∃ t, exec c s = .next t ∧ onlyIn ([Part.slices, .spill, .reads, .rot, .sps] ++ eventParts) s t ∧
          ∃ z, t.hub.txn hs y.tid = some z ∧ z.gate.shut = true ∧ z.gate.fwd = none ∧ z.gate.wbGate = none ∧ z.gate.cross = none ∧
            z.gate.need = (y.gate.need || (y.req.op == .upgrade && sn != .fwdS)))) ∧
    ((s.hub.freeHeld hs = none ∨ (∃ y ∈ s.hub.waitSnoops, y.ls = m.flit.line.ls)) →
      ∃ t, exec c s = .next t ∧ onlyIn [.waitSnoops, .pmc, .freeCtr] s t ∧
        t.hub.waitSnoops = s.hub.waitSnoops ++ [⟨m.flit.line.ls, sn, m, s.hub.round⟩]) ∧
    (s.hub.waitSnoops.find? (fun y => y.ls == m.flit.line.ls) = some x → x.op = sn → x.msg = m → s.hub.freeHeld hs = some idx →
      (s.hub.slice hs).homeView m.flit.line = .unc → (s.hub.slice hs).unreleased m.flit.line = none →
      spanGoes s.hub m.flit.gaid.hub → spanGoes s.hub m.src →
      ∃ t, exec (.spanSnoopEntryFree ⟨m.flit.line.ls, e⟩) s = .next t ∧ onlyIn [.slices, .waitSnoops, .sps, .pmc, .freeCtr, .out] s t ∧
        otherSlices s.hub t.hub hs ∧ t.hub.slice hs = s.hub.slice hs ∧ t.hub.waitSnoops = List.dropFirst (fun y => y.ls == m.flit.line.ls) s.hub.waitSnoops ∧
        t.hub.out = s.hub.out ++
          [spanMsg s.hub m.flit.gaid.hub 0x20 (spanRspFlit m.flit.gaid m.flit.txid m.flit.line 0 false) none,
           spanMsg s.hub m.src 0x20 (spanRspFlit m.flit.gaid m.flit.txid m.flit.line 0 true) none])

/-- Answers of holder hubs (R206, R209, R218, R224–R226). -/
def Obligations.HolderAnswersCountAtHomeAndRequester : Prop :=
  ∀ (s : State) (m : SpanMsg) (d : MeshData) (x : Txn) (hs : Nat) (c : Instr) (opc : BitVec 6),
    hs = s.hub.homeHs m.flit.line → s.hub.takesAnswers = true →
    s.hub.findTxn m.flit.gaid m.flit.txid m.flit.line = some x → s.hub.txn hs x.tid = some x →
    (c, opc) ∈ [(Instr.spanRspI m, (0x20 : BitVec 6)), (.spanRspS m, 0x21), (.spanRspFwd m, 0x22)] →
    (m.flit.spanBad opc = false → m.flit.b26 = true → x.copies.contains m.src = true → AwaitsHubs x m.src →
      ∃ t, exec c s = .next t ∧ onlyIn [.slices] s t ∧ otherSlices s.hub t.hub hs ∧
        t.hub.txn hs x.tid = some { x with
          copies := x.copies.filter fun k => k != m.src
          hubAns := x.hubAns ++ [(m.src, m.flit.kept, false)]
          gate := { x.gate with rsvOwner := x.gate.rsvOwner || (x.req.op == .rsvLoad && m.flit.kept == 3) } }) ∧
    (m.flit.spanBad opc = false → m.flit.b26 = false → AwaitsAnswers x → Sourced x →
      ∃ t, exec c s = .next t ∧ onlyIn [.slices] s t ∧ otherSlices s.hub t.hub hs ∧
        t.hub.txn hs x.tid = some { x with gate := { x.gate with
          spanGot := x.gate.spanGot + 1
          spanFwd := x.gate.spanFwd || (opc == 0x22 && s.hub.remoteHome m.flit.line != some m.src) } }) ∧
    (m.flit.spanBad 0x24 = false → d.line.sound = true → x.copies.contains m.src = true → AwaitsHubs x m.src → s.hub.isHome m.flit.line = true →
      s.hub.lineDown m.flit.line = false → s.hub.reachable x.req.gaid.hub = true → spanGoes s.hub x.req.gaid.hub →
      ∃ t, exec (.spanRspData m d) s = .next t ∧ onlyIn ([Part.slices, .spill, .reads, .rot, .sps] ++ eventParts) s t ∧
        otherArrays s.hub t.hub hs ∧ (d.ue ≠ 0 → raised t.hub evHubDataUe) ∧
        spanMsg s.hub x.req.gaid.hub 0x20 (spanRspFlit x.req.gaid x.req.txid x.req.line 0 false) none ∈ t.hub.out ∧
        (∃ y, t.hub.txn hs x.tid = some y ∧ y.copies = (x.copies.filter fun k => k != m.src) ∧ y.gate.wbData = true ∧
          y.hubAns = x.hubAns ++ [(m.src, m.flit.kept, true)]) ∧
        ∃ y, t.hub.wbFind hs m.flit.line = some y ∧ y.whole = true ∧ y.dirty = true ∧ (d.ue ≠ 0 → s.hub.wbFind hs m.flit.line = none → y.pois = allBytes) ∧
          (∀ k, s.hub.wbFind hs m.flit.line = some k → y.bytes = mergeBytes k.wmask k.bytes d.line.bytes) ∧
          (s.hub.wbFind hs m.flit.line = none → y.bytes = d.line.bytes)) ∧
    (m.flit.spanBad 0x30 = false → d.line.sound = true → AwaitsAnswers x → x.spanReq = true →
      ∃ t, exec (.spanDat m d) s = .next t ∧ onlyIn ([Part.slices, .pmc, .freeCtr] ++ (if d.ue = 0 then [] else eventParts)) s t ∧
        otherSlices s.hub t.hub hs ∧ (d.ue ≠ 0 → raised t.hub evHubDataUe) ∧
        t.hub.txn hs x.tid = some { x with gate := { x.gate with
          need := x.gate.need || x.req.op == .upgrade
          homeData := if s.hub.remoteHome m.flit.line = some m.src then x.gate.homeData.or (some (meshLine d)) else x.gate.homeData
          spanData := if s.hub.remoteHome m.flit.line = some m.src then x.gate.spanData else x.gate.spanData.or (some (meshLine d)) } })

/-- SPAN_CMP and SPAN_DAT at the requester's hub (R182, R209, R210). -/
def Obligations.SpanCompletionsReachTheirRequests : Prop :=
  ∀ (s : State) (m : SpanMsg) (d : Payload) (y : MeshData) (x : Txn) (hs : Nat) (r : DevReq),
    hs = s.hub.homeHs m.flit.line → s.hub.takesAnswers = true →
    (s.hub.findTxn m.flit.gaid m.flit.txid m.flit.line = some x → s.hub.txn hs x.tid = some x → x.spanReq = true →
      x.gate.spanCmp = false → x.acked = none → m.flit.kept ≠ oMalformed → m.flit.spanBad 0x28 = false →
      (AwaitsAnswers x → x.gate.released = false → ¬(x.req.op = .rdAny ∧ m.flit.sgrant = 2 ∧ x.view = .unc) →
        ∃ t, exec (.spanCmp m) s = .next t ∧ onlyIn [.slices, .pmc] s t ∧ otherSlices s.hub t.hub hs ∧
          t.hub.txn hs x.tid = some { x with gate := { x.gate with
            spanCmp := true
            spanAcks := m.flit.ackCnt.toNat
            spanGrant := m.flit.sgrant
            outcome := m.flit.kept } }) ∧
      (x.phase = .looked → x.req.span = false → x.hentry = none → x.baseDue = false → x.deadReq = false → x.req.op = .upgrade →
        x.gate.judged = true → x.gate.released = false → x.gate.need = false → x.gate.acks = 0 → x.gate.pullWait = false →
        x.gate.spanFwd = false → m.flit.ackCnt.toNat ≤ x.gate.spanGot → x.gate.grant = gE → m.flit.kept = oDone →
        hears s.hub x.req.gaid.la →
        ∃ t, exec (.spanCmp m) s = .next t ∧ onlyIn [.slices, .aps, .pmc, .out, .records, .lapses, .freeCtr] s t ∧
          otherSlices s.hub t.hub hs ∧
          t.hub.out = s.hub.out ++ [OutMsg.agent (s.hub.agent x.req.gaid.la).port
            { agentMsg opCmp x.req.gaid x.req.txid x.req.line x.req.gaid.la with
              grant := gE
              outcome := oDone }] ∧
          ∃ y, t.hub.txn hs x.tid = some y ∧ y.gate.released = true ∧ y.gate.spanGrant = m.flit.sgrant ∧ y.acked = none)) ∧
    (s.hub.findTxn m.flit.gaid m.flit.txid m.flit.line = none → s.hub.remoteDev m.flit = some r →
      (m.flit.spanBad 0x30 = false → y.line.sound = true → r.rsp = none →
        ∃ t, exec (.spanDat m y) s = .next t ∧ onlyIn ([Part.dev] ++ (if y.ue = 0 then [] else eventParts)) s t ∧
          (y.ue ≠ 0 → raised t.hub evHubDataUe) ∧
          t.hub.remoteDev m.flit = some { r with got := some (meshLine y) }) ∧
      (r.got = some d → r.write = false → r.irq = false → r.acked = false → r.span = none →
        m.flit.kept ≠ oMalformed → m.flit.kept ≠ oNoRsv → m.flit.spanBad 0x28 = false → hears s.hub r.gaid.la →
        ∃ t, exec (.spanCmp m) s = .next t ∧ onlyIn deviceParts s t ∧ (∀ y ∈ t.hub.dev.reqs, y.dtx ≠ r.dtx) ∧
          t.hub.out = s.hub.out ++ [devData s.hub r.gaid r.txid r.line d.bytes d.dirty d.poison,
            devCmp s.hub r.gaid r.txid r.line m.flit.kept]))

/-- Delays (R212, R215), SPAN_CMP_ACK (R218), releases (R179) and lost hubs (R228). -/
def Obligations.SpanDelaysAcknowledgementsAndLosses : Prop :=
  ∀ (s : State) (m : SpanMsg) (x : Txn) (hs : Nat) (e y : HubNo) (b : SpanBack) (ls : BitVec 6) (tid : Byte),
    hs = s.hub.homeHs m.flit.line →
    (s.hub.takesAnswers = true → s.hub.findTxn m.flit.gaid m.flit.txid m.flit.line = some x → s.hub.txn hs x.tid = some x →
      (x.spanReq = true → x.req.span = false →
        (m.flit.spanBad 0x29 = false → ∃ t, exec (.spanTicket m) s = .next t ∧ onlyIn [.slices] s t ∧ otherSlices s.hub t.hub hs ∧
          t.hub.txn hs x.tid = some { x with
            worst := x.worst + m.flit.delay.toNat
            added := x.added + m.flit.delay.toNat }) ∧
        (x.gate.spanCmp = false → m.flit.spanBad 0x2A = false →
          ∃ t, exec (.spanDefer m) s = .next t ∧ onlyIn [.slices, .spanBacks] s t ∧ otherSlices s.hub t.hub hs ∧
            t.hub.spanBacks = s.hub.spanBacks ++
              (if m.flit.b28 then [⟨m.flit.gaid, m.flit.txid, m.flit.line, s.hub.round + 64⟩] else []) ∧
            t.hub.txn hs x.tid = some { x with
              worst := x.worst + m.flit.delay.toNat
              added := x.added + m.flit.delay.toNat })) ∧
      (m.flit.spanBad 0x2C = false → x.req.span = true → x.gate.spanGrant ≠ 0 → x.acked = none → x.deadReq = false → s.hub.isHome m.flit.line = true →
        (s.hub.slice hs).acksDue.contains (m.flit.gaid, m.flit.txid, m.flit.line) = false →
        (x.closable = true →
          ∃ t, exec (.spanCmpAck m) s = .next t ∧ onlyIn ([Part.slices, .spill, .reads, .rot] ++ eventParts) s t ∧ otherArrays s.hub t.hub hs ∧
            t.hub.txn hs x.tid = none ∧
            (⟨m.flit.line, none, s.hub.round + (s.hub.slice hs).lineG (s.hub.p 0x40) m.flit.line - 1, x.way⟩ : Hold)
              ∈ (t.hub.slice hs).holds) ∧
        (x.closable = false →
          ∃ t, exec (.spanCmpAck m) s = .next t ∧ onlyIn [.slices] s t ∧ otherSlices s.hub t.hub hs ∧
            t.hub.txn hs x.tid = some { x with acked := some s.hub.round }))) ∧
    (s.hub.takesAnswers = true → m.flit.spanBad 0x2C = false →
      (s.hub.slice hs).acksDue.contains (m.flit.gaid, m.flit.txid, m.flit.line) = true →
      ∃ t, exec (.spanCmpAck m) s = .next t ∧ onlyIn [.slices] s t ∧ otherSlices s.hub t.hub hs ∧
        t.hub.slice hs = { s.hub.slice hs with
          acksDue := (s.hub.slice hs).acksDue.filter fun k => k != (m.flit.gaid, m.flit.txid, m.flit.line) }) ∧
    (b ∈ s.hub.spanBacks → (∀ k ∈ s.hub.spanBacks, k.gaid = b.gaid → k.txid = b.txid → k = b) → b.at_ ≤ s.hub.round →
      s.hub.findTxn b.gaid b.txid b.line = some x → x.spanReq = true → x.gate.spanCmp = false → x.wdata = none →
      x.req.op.staged = false → s.hub.remoteHome b.line = some e → s.hub.reachable e = true →
      ∃ t, exec (.spanDeferResend b.gaid b.txid) s = .next t ∧ onlyIn [.spanBacks, .sps, .pmc, .freeCtr, .out] s t ∧
        (∃ p q, s.hub.spanBacks = p ++ b :: q ∧ t.hub.spanBacks = p ++ q) ∧
        ∃ o : SpanOut, t.hub.out = s.hub.out ++ [OutMsg.span o] ∧ o.dest = e ∧ o.svc = 0 ∧ o.opc = x.req.op.spanOpc ∧
          o.flit.gaid = x.req.gaid ∧ o.flit.txid = x.req.txid ∧ o.flit.line = x.req.line) ∧
    (s.hub.takesAnswers = true → m.flit.spanBad 0x2D = false → s.hub.isHome m.flit.line = true →
      ∃ t, exec (.spanRsvRelease m) s = .next t ∧ onlyIn [.rsvNotes] s t ∧
        t.hub.rsvNotes = s.hub.rsvNotes ++ [(2, ⟨m.flit.line, m.flit.line, m.flit.gaid, m.flit.txid, m.flit.rsvSeq⟩)]) ∧
    (y ≠ s.hub.num → s.hub.lostHubs.contains y = false →
      (((s.hub.txn (s.hub.hsOf ls) tid = some x ∧ x.copies.contains y = true ∧ x.copyDue ≤ s.hub.round) ∨
          ∃ k ∈ (s.hub.slice (s.hub.hsOf ls)).backs, k.hubs.contains y = true ∧ k.due ≤ s.hub.round) →
        ∃ t, exec (.spanGrace ls tid y) s = .next t ∧ onlyIn hubLossParts s t ∧ raised t.hub evSpanHubLost ∧
          t.hub.lostHubs = s.hub.lostHubs ++ [y] ∧
          ∀ z, z ∈ s.hub.otherHubs → z ≠ y → .smgt z smgtHubLost (y.setWidth 64) ∈ t.hub.out) ∧
      ∃ t, exec (.spanHubLostNotice y) s = .next t ∧ onlyIn hubLossParts s t ∧ t.hub.lostHubs = s.hub.lostHubs ++ [y])

/-- The rotation (R354–R362) and retests (R367). -/
def Obligations.RotationStepsCopyDrainAndHandOver : Prop :=
  ∀ (s : State) (n k out : BitVec 7) (ks : List (BitVec 7)) (d g : Nat),
    (s.hub.start.phase = .serving → s.hub.rot.phase = 0 → s.hub.core.restart = false → s.hub.p 0x980 = 1 → s.hub.rot.noNewt = false →
      s.hub.rot.slotDue s.hub.round = true →
      (s.hub.rot.newt = some n → s.hub.rot.retests = [] → s.hub.rot.front = [] →
        (s.hub.rot.passOpen = false → n.toNat < 65 →
          ∃ t, exec .rotationStepStart s = .next t ∧ onlyIn [.rot] s t ∧ t.hub.rot.passOpen = true ∧
            t.hub.rot.passNo = s.hub.rot.passNo + 1 ∧ t.hub.rot.passStart = s.hub.round ∧ t.hub.rot.interval = s.hub.p 0x900 ∧
            t.hub.rot.tested = 0 ∧ t.hub.rot.slotsUsed = 1 ∧ t.hub.rot.phase = 1 ∧
            t.hub.rot.outHs = BitVec.ofNat 7 ((n.toNat + 64) % 65) ∧ t.hub.rot.pointer = 0 ∧ t.hub.rot.lastStart = s.hub.round ∧
            t.hub.rot.newt = some n) ∧
        (s.hub.rot.passOpen = true → s.hub.rot.nextOut n.toNat = some d →
          ∃ t, exec .rotationStepStart s = .next t ∧ onlyIn [.rot] s t ∧ t.hub.rot.phase = 1 ∧ t.hub.rot.outHs = BitVec.ofNat 7 d ∧
            t.hub.rot.ls = BitVec.ofNat 6 ((s.hub.lsOf d).getD 0) ∧ t.hub.rot.pointer = 0 ∧ t.hub.rot.lastStart = s.hub.round ∧
            t.hub.rot.slotsUsed = s.hub.rot.slotsUsed + 1 ∧ t.hub.rot.tested = s.hub.rot.tested ∧ t.hub.rot.passNo = s.hub.rot.passNo)) ∧
      (s.hub.rot.retests = k :: ks → (s.hub.rot.newt = none ∨ s.hub.rot.newt = some k) →
        ∃ t, exec .rotationStepStart s = .next t ∧ onlyIn [.rot, .slices] s t ∧ otherSlices s.hub t.hub k.toNat ∧
          t.hub.slice k.toNat = { s.hub.slice k.toNat with role := .underTest } ∧ t.hub.rot.phase = 6 ∧ t.hub.rot.newt = none ∧
          t.hub.rot.testing = some k ∧ t.hub.rot.lastStart = s.hub.round)) ∧
    (s.hub.rot.newt = some n → s.hub.rot.outHs = out → n ≠ out →
      (s.hub.start.phase = .serving → s.hub.rot.phase = 1 → s.hub.rot.pointer = g → g < 4096 → (s.hub.slice out.toNat).walk = none →
        (s.hub.slice n.toNat).walk = none →
        (∀ i < 4, (s.hub.slice out.toNat).badWays (BitVec.ofNat 14 (4 * g + i)) = 0) →
        (∀ w < 8, (HView.ofWord ((s.hub.slice out.toNat).sdAt (BitVec.ofNat 12 g) w)).isSome = true) →
        (g % 4 = 3 → (s.hub.slice n.toNat).wayDis = 0 ∧ (s.hub.slice n.toNat).wayMark = 0 ∧
          (s.hub.slice out.toNat).badHcWays (BitVec.ofNat 10 (g / 4)) = 0) →
        ∃ t, exec (.migrationCopyGroup [] LookupErr.none) s = .next t ∧ onlyIn [.rot, .slices] s t ∧ otherSlices s.hub t.hub n.toNat ∧
          t.hub.rot = { s.hub.rot with
            pointer := g + 1
            drainAt := if g + 1 = 4096 then some (s.hub.round + 256) else s.hub.rot.drainAt } ∧
          (∀ i < 4, ∀ w < 16, (t.hub.slice n.toNat).sfAt (BitVec.ofNat 14 (4 * g + i)) w =
            (s.hub.slice out.toNat).sfAt (BitVec.ofNat 14 (4 * g + i)) w) ∧
          (∀ w < 8, (t.hub.slice n.toNat).sdAt (BitVec.ofNat 12 g) w = (s.hub.slice out.toNat).sdAt (BitVec.ofNat 12 g) w) ∧
          (g % 4 = 3 → ∀ w < 16, hcCarried ((s.hub.slice out.toNat).hcAt (BitVec.ofNat 10 (g / 4)) w) = true →
            (t.hub.slice n.toNat).hcAt (BitVec.ofNat 10 (g / 4)) w = (s.hub.slice out.toNat).hcAt (BitVec.ofNat 10 (g / 4)) w ∧
            (t.hub.slice n.toNat).hcBytes (BitVec.ofNat 10 (g / 4)) w = (s.hub.slice out.toNat).hcBytes (BitVec.ofNat 10 (g / 4)) w)) ∧
      (s.hub.rot.phase = 2 → (s.hub.slice out.toNat).drained = true →
        ∃ t, exec .drainEnd s = .next t ∧ onlyIn ([Part.slices, .spill, .reads, .rot] ++ eventParts) s t ∧
          ((∃ f ∈ (s.hub.slice out.toNat).fills, f.kind ≠ .chain) → raised t.hub evHcFillDrop) ∧
          ((∀ f ∈ (s.hub.slice out.toNat).fills, f.kind = .chain) → onlyIn [.slices, .spill, .reads, .rot] s t) ∧
          (∀ m, m ≠ n.toNat → m ≠ out.toNat → t.hub.slice m = s.hub.slice m) ∧ t.hub.rot.phase = 3 ∧ t.hub.rot.ended = true ∧
          (t.hub.slice n.toNat).inbuf = (s.hub.slice out.toNat).inbuf ∧ (t.hub.slice n.toNat).holds = (s.hub.slice out.toNat).holds ∧
          (t.hub.slice n.toNat).rsv = (s.hub.slice out.toNat).rsv ∧ (t.hub.slice n.toNat).lastC0 = (s.hub.slice out.toNat).lastC0 ∧
          (t.hub.slice n.toNat).sf = (s.hub.slice n.toNat).sf ∧ (t.hub.slice n.toNat).sd = (s.hub.slice n.toNat).sd ∧
          (t.hub.slice out.toNat).wb = [] ∧ t.hub.spill.length = s.hub.spill.length + (s.hub.slice out.toNat).wb.length ∧
          (∀ x ∈ (s.hub.slice out.toNat).wb, ∃ y ∈ t.hub.spill, y.line = x.line ∧ y.bytes = x.bytes ∧ y.wmask = x.wmask ∧
            y.pois = x.pois ∧ y.dirty = x.dirty ∧ y.home = x.home)) ∧
      (s.hub.rot.phase = 3 → s.hub.rot.markerIn = false → s.hub.epoch.loaded = none → s.hub.epoch.draining = false →
        ∃ t, exec .handoverMarker s = .next t ∧ onlyIn [.slices, .rot, .epoch] s t ∧ otherSlices s.hub t.hub n.toNat ∧
          (t.hub.slice n.toNat).role = .inService ∧ (t.hub.slice n.toNat).places = s.hub.rot.marker ++ (s.hub.slice n.toNat).places ∧
          t.hub.rot.markerIn = true ∧ t.hub.epoch.loaded = some (s.hub.map.put s.hub.rot.ls.toNat n.toNat) ∧
          t.hub.epoch.flipAt = some (s.hub.round + 2)) ∧
      (s.hub.rot.phase = 3 → s.hub.rot.markerIn = true → s.hub.map.getD s.hub.rot.ls.toNat s.hub.rot.ls.toNat = n.toNat →
        s.hub.epoch.loaded = none → s.hub.epoch.draining = false →
        ∃ t, exec .sliceIsolation s = .next t ∧ onlyIn [.slices, .rot] s t ∧ otherSlices s.hub t.hub out.toNat ∧
          t.hub.slice out.toNat = { s.hub.slice out.toNat with role := .underTest } ∧
          t.hub.rot = { s.hub.rot with
            phase := 4
            newt := none
            ended := false
            testing := some out })) ∧
    (s.hub.rot.phase = 1 → s.hub.rot.drainAt = some d → d ≤ s.hub.round →
      ∃ t, exec .drainRound s = .next t ∧ onlyIn [.rot] s t ∧ t.hub.rot = { s.hub.rot with phase := 2 })

/-- The results of the rotation's tests (R356, R357, R366–R371) and the fuses (R370, R440). -/
def Obligations.TestsEndInResultsRepairsAndRetirement : Prop :=
  ∀ (s : State) (k : BitVec 7) (r : BistOutcome) (mac : BitVec 16) (el : BitVec 8) (n : Nat) (x : Repair),
    (k.toNat < 65 → s.hub.rot.testing = some k → (s.hub.rot.phase = 4 ∨ s.hub.rot.phase = 6) → r.recurred = [] → r.repairs = [] →
      (r.done = true → r.patterns = 32768 → r.sigOk = true → r.memClean = true →
        ∃ t, exec (.bistComplete r) s = .next t ∧ onlyIn (.rot :: eventParts) s t ∧ raised t.hub evTestPass ∧ t.hub.rot.phase = 5 ∧
          t.hub.rot.outHs = k ∧ t.hub.rot.testing = none ∧ t.hub.rot.tested.getLsbD k.toNat = true ∧
          (t.hub.rot.results.getD k.toNat 0).extractLsb' 0 3 = 1 ∧ k ∉ t.hub.rot.retests) ∧
      (r.done = true → r.patterns = 32768 → r.sigOk = false → (r.memClean = true ∨ r.repairsOk = true) →
        (s.hub.rot.failedOnce.contains k = false →
          ∃ t, exec (.bistComplete r) s = .next t ∧ onlyIn (.rot :: eventParts) s t ∧ raised t.hub evTestFail ∧ t.hub.rot.phase = 0 ∧
            t.hub.rot.retests.head? = some k ∧ k ∈ t.hub.rot.failedOnce ∧ (t.hub.rot.results.getD k.toNat 0).extractLsb' 0 3 = 4) ∧
        (s.hub.rot.failedOnce.contains k = true →
          ∃ t, exec (.bistComplete r) s = .next t ∧ onlyIn ([Part.rot, .slices, .otp, .mirror] ++ eventParts) s t ∧
            otherSlices s.hub t.hub k.toNat ∧ (t.hub.slice k.toNat).role = .substituted ∧ raised t.hub evTestFail ∧
            raised t.hub evTestNoNewt ∧ t.otp.except.getLsbD k.toNat = true ∧ t.hub.rot.noNewt = true ∧ t.hub.rot.newt = none ∧
            k ∈ t.hub.aon.subst)) ∧
      (r.done = false →
        ∃ t, exec (.bistComplete r) s = .next t ∧ onlyIn (.rot :: eventParts) s t ∧ raised t.hub evTestIncomplete ∧ t.hub.rot.phase = 0 ∧
          t.hub.rot.retests.head? = some k ∧ t.hub.rot.failedOnce = s.hub.rot.failedOnce)) ∧
    (k.toNat < 65 → quietMailboxes s.hub → s.hub.rot.fuseReq.contains (k, mac, el) = true → (s.hub.slice k.toNat).role = .underTest →
      s.hub.core.restart = false → s.hub.aon.repairAt k mac el = some (n, x) → s.otp.fusesOf k < 32 →
      ∃ t, exec (.fuseBurn k mac el) s = .next t ∧ onlyIn ([Part.otp, .rot, .mirror] ++ eventParts) s t ∧ raised t.hub evTestFuseBurned ∧
        t.otp = { s.otp with fuses := s.otp.fuses ++ [(k, mac, el, x.spare)] } ∧ t.hub.aon.repairAt k mac el = none ∧
        t.hub.rot = { s.hub.rot with fuseReq := s.hub.rot.fuseReq.filter fun f => f != (k, mac, el) }) ∧
    (65 ≤ k.toNat → exec (.fuseBurn k mac el) s = .fault .noSuchUnit) ∧
    (s.hub.rot.phase = 5 → s.hub.rot.outHs = k →
      ∃ t, exec .reinitialisationEnd s = .next t ∧ onlyIn [.rot, .slices] s t ∧ otherSlices s.hub t.hub k.toNat ∧
        (t.hub.slice k.toNat).role = .newt ∧ (t.hub.slice k.toNat).sf = [] ∧ (t.hub.slice k.toNat).sd = [] ∧
        (t.hub.slice k.toNat).hcTag = [] ∧ (t.hub.slice k.toNat).errs = (s.hub.slice k.toNat).errs ∧
        t.hub.rot = { s.hub.rot with
          phase := 0
          newt := some k }) ∧
    (s.hub.rot.passOpen = true → s.hub.rot.late = false → s.hub.rot.passStart + s.hub.rot.span < s.hub.round →
      ∃ t, exec .testPassLate s = .next t ∧ onlyIn (.rot :: eventParts) s t ∧ raised t.hub evTestPassLate ∧
        t.hub.rot = { s.hub.rot with late := true })

/-- Test access (R373, R374, R442), OTP programming (R441), the event log (R453, R454) and bandwidth windows (R460, R464). -/
def Obligations.TestAccessOtpLogAndWindows : Prop :=
  ∀ (s : State) (c : TapLoad) (g : BitVec 2) (words : List Word) (ok : Bool) (key : BitVec 384) (r : Raise) (rs : List Raise),
    (c ≠ .accessMode ∨ (s.hub.core.armed = false ∧ s.otp.lifecycle ≠ 0) → exec (.testAccessMode c) s = .next s) ∧
    ((s.hub.core.armed = true ∨ s.otp.lifecycle = 0) → s.hub.start.fatal = false →
      ∃ t, exec (.testAccessMode .accessMode) s = .next t ∧ onlyIn ([Part.sps, .mbx, .master, .core] ++ fatalParts) s t ∧
        raised t.hub evTestAccess ∧ t.hub.start.access = true ∧ t.hub.start.fatal = true ∧
        (t.hub.start.phase = .stopped ∨ t.hub.start.phase = .draining) ∧ t.hub.pins.faultN = false ∧ t.hub.master = [] ∧
        t.hub.core.image = false ∧ t.hub.core.sramZero = true ∧ t.hub.core.attestOpen = false ∧
        (∀ n, (t.hub.sp n).keyed = false ∧ (t.hub.sp n).keys = 0) ∧ ∀ n, (t.hub.mb n).stage = [] ∧ (t.hub.mb n).busy = none) ∧
    (s.hub.start.access = false → ∀ w, exec (.otpProgram w) s = .next s) ∧
    (s.hub.start.access = true →
      (s.otp.gens.look g.toNat = none →
        ∃ t, exec (.otpProgram (.generation g words ok)) s = .next t ∧ onlyIn [.otp] s t ∧
          t.otp = { s.otp with gens := s.otp.gens.put g.toNat ⟨words, ok⟩ }) ∧
      (s.otp.gens.look g.toNat ≠ none → exec (.otpProgram (.generation g words ok)) s = .next s) ∧
      (∃ t, exec (.otpProgram .lifecycle) s = .next t ∧ onlyIn [.otp] s t ∧ t.otp = { s.otp with lifecycle := 1 }) ∧
      (s.otp.keyHash = 0 →
        ∃ t, exec (.otpProgram (.keyHash key)) s = .next t ∧ onlyIn [.otp] s t ∧ t.otp = { s.otp with keyHash := key })) ∧
    (s.hub.core.image = true → s.hub.core.restart = false → s.hub.events.queue = r :: rs → (rs ≠ [] ∨ s.hub.events.lost = 0) →
      (mergeNewest r s.hub.events.log.reverse = none → s.hub.events.log.length < 512 →
        ∃ t, exec .logQueueTake s = .next t ∧ onlyIn [.events] s t ∧ t.hub.events = { s.hub.events with
          queue := rs
          log := s.hub.events.log ++ [⟨nextSeq s.hub.events.lastSeq, r, 0, r.round⟩]
          lastSeq := nextSeq s.hub.events.lastSeq }) ∧
      ∀ l, mergeNewest r s.hub.events.log.reverse = some l →
        ∃ t, exec .logQueueTake s = .next t ∧ onlyIn [.events] s t ∧ t.hub.events = { s.hub.events with
          queue := rs
          log := l.reverse }) ∧
    (s.hub.pmc.winStart + 2 ^ s.hub.pmc.winLog ≤ s.hub.round →
      ∃ t, exec .bwWindowEnd s = .next t ∧ onlyIn [.pmc] s t ∧ t.hub.pmc = { s.hub.pmc with
        winLast := s.hub.pmc.bytes.map fun e => (e.1, windowCounts e.2 (s.hub.pmc.winBase.getD e.1 []))
        winBase := s.hub.pmc.bytes
        winRound := s.hub.pmc.winStart + 2 ^ s.hub.pmc.winLog - 1
        winStart := s.hub.pmc.winStart + 2 ^ s.hub.pmc.winLog
        winLog := s.hub.p 0xB84 })

/-- The arbitration phase (R36, R40, R48); the operation is the one that ROUND_TICK runs for each serving slice. -/
def Obligations.RequestsAreArbitrated : Prop :=
  ∀ (h : Hub) (hs n at_ r0 : Nat) (r : Req) (k : Ticket) (x : Txn),
    (h.allowed r = true → (∀ y ∈ (h.slice hs).tickets, y.isFor r = false) → h.drains hs n = false → h.deferCheck hs r n = none →
      h.passes hs r n (h.worstSpan hs r.line) = true →
      (∃ y ∈ ((h.arbitrateOne hs n ⟨r, none, at_⟩).slice hs).txns, y.req = r ∧ y.acc = n ∧ y.worst = n + h.worstSpan hs r.line ∧
        (y.phase = .accepted ∨ y.phase = .waitWay)) ∧
      ((h.arbitrateOne hs n ⟨r, none, at_⟩).slice hs).used = (h.slice hs).used + 1 ∧
      ∀ m, m ≠ hs → ((h.arbitrateOne hs n ⟨r, none, at_⟩).slice m).txns = (h.slice m).txns) ∧
    (h.allowed r = true → (h.slice hs).validTicket ⟨r, some r0, at_⟩ n = some k →
      (∃ y ∈ ((h.arbitrateOne hs n ⟨r, some r0, at_⟩).slice hs).txns, y.req = r ∧ y.acc = n ∧ y.worst = n + (k.worst - k.round)) ∧
      (∀ y ∈ ((h.arbitrateOne hs n ⟨r, some r0, at_⟩).slice hs).tickets, y.isFor r = false) ∧
      ∀ m, m ≠ hs → ((h.arbitrateOne hs n ⟨r, some r0, at_⟩).slice m).txns = (h.slice m).txns) ∧
    (h.allowed r = false → r.span = false → (∀ y ∈ (h.slice hs).tickets, y.isFor r = false) → hears h r.gaid.la →
      raised (h.arbitrateOne hs n ⟨r, none, at_⟩) evAccessDenied ∧
      (∀ m, ((h.arbitrateOne hs n ⟨r, none, at_⟩).slice m).txns = (h.slice m).txns) ∧
      devCmp h r.gaid r.txid r.line oMalformed ∈ (h.arbitrateOne hs n ⟨r, none, at_⟩).out) ∧
    (h.allowed r = true → (∀ y ∈ (h.slice hs).tickets, y.isFor r = false) → h.drains hs n = false → h.deferCheck hs r n = none →
      (h.slice hs).txnOn r.line = some x → x.phase = .accepted →
      h.arbitrateOne hs n ⟨r, none, at_⟩ = h.onSlice hs fun s => { s with refused := s.refused ++ [⟨r, none, n⟩] })

/-- The round boundary (R7, R38, R43), and the round C of a commit, from whose arbitration the new tables are used (R397). -/
def Obligations.RoundsAdvanceByTicksAlone : Prop :=
  ∀ (s : State) (n : BitVec 3) (acks k p : Nat) (tabs : List ProtItem) (y : StageItem),
    (s.hub.round ≠ 0 →
      ∃ t, exec .roundTick s = .next t ∧
        onlyIn ([Part.round, .pointer, .chNotes, .slots, .slices, .spill, .reads, .chans, .mps, .sps, .spanReps, .spanBacks, .records,
          .lapses, .rsvRecs, .rsvNotes, .rot, .arbs, .core, .mbx, .ring, .par, .prot, .routeNew, .routeOld, .routeAcks, .spanEpoch,
          .lostHubs] ++ eventParts) s t ∧
        t.hub.round = s.hub.round + 1 ∧ t.hub.pointer = s.hub.pointer + 1 ∧ (∀ hs, (t.hub.slice hs).snpBack = []) ∧
        (s.hub.routeNew = none → t.hub.routeNew = none ∧ t.hub.routeOld = s.hub.routeOld ∧ t.hub.spanEpoch = s.hub.spanEpoch ∧
          t.hub.lostHubs = s.hub.lostHubs) ∧
        (s.hub.core.commits = [] → t.hub.prot = s.hub.prot ∧ (s.hub.routeNew = none → t.hub.par = s.hub.par)) ∧
        (s.hub.core.commits = [⟨n, true, acks, [], tabs, some k⟩] →
          (k ≤ s.hub.round + 1 → t.hub.prot = tabs.foldl (fun p x => p.set x) s.hub.prot) ∧
          (s.hub.round + 1 < k → t.hub.prot = s.hub.prot)) ∧
        (s.hub.core.commits = [⟨n, false, acks, [y], [], some k⟩] → k ≤ s.hub.round + 1 → y.hi = false → y.pid.toNat = p →
          s.hub.inForce p y.val = some y.val → Param.acts p = false → s.hub.routeNew = none → t.hub.pw p = y.val)) ∧
    (s.hub.round = 0 → exec .roundTick s = .next s)

/-- The change of the slice map (R317), locks (R324) and budgets (R315); that the flip takes the earliest round is the model's reading. -/
def Obligations.MeshTablesLocksAndBudgets : Prop :=
  ∀ (s : State) (m : Tbl Nat) (f : Nat) (rest : List (Tbl Nat)) (a : ArbiterId) (src dst : BitVec 7) (cycles : BitVec 16),
    (s.hub.epoch.loaded = some m → s.hub.epoch.flipAt = some f → f ≤ s.hub.round →
      ∃ t, exec .epochFlip s = .next t ∧ onlyIn [.map, .epoch] s t ∧ t.hub.map = m ∧
        t.hub.epoch = { s.hub.epoch with
          loaded := none
          draining := true }) ∧
    (s.hub.epoch.flipAt = some f → s.hub.round ≤ f → exec .epochDrained s = .next s) ∧
    (s.hub.epoch.draining = true → s.hub.epoch.loaded = none → (∀ f, s.hub.epoch.flipAt = some f → f < s.hub.round) →
      ∃ t, exec .epochDrained s = .next t ∧ onlyIn [.epoch] s t ∧
        (s.hub.epoch.waiting = [] → t.hub.epoch = { s.hub.epoch with
          draining := false
          flipAt := none
          epoch := !s.hub.epoch.epoch }) ∧
        (s.hub.epoch.waiting = m :: rest → t.hub.epoch = { s.hub.epoch with
          draining := false
          epoch := !s.hub.epoch.epoch
          loaded := some m
          flipAt := some (s.hub.round + 2)
          waiting := rest })) ∧
    (a.wf = true → (s.hub.arbs.getD (arbKey a) Arbiter.init).lockBy ≠ none → 4 ≤ (s.hub.arbs.getD (arbKey a) Arbiter.init).lockAge →
      ∃ t, exec (.lockExpired a) s = .next t ∧ onlyIn ([Part.arbs] ++ eventParts) s t ∧ raised t.hub evMeshLockExpired ∧
        t.hub.arbs.getD (arbKey a) Arbiter.init = { s.hub.arbs.getD (arbKey a) Arbiter.init with lockBy := none } ∧
        ∀ k, k ≠ arbKey a → t.hub.arbs.getD k Arbiter.init = s.hub.arbs.getD k Arbiter.init) ∧
    (stopExists src = true → stopExists dst = true →
      ∃ t, exec (.meshBudgetOverrun src dst cycles) s = .next t ∧ onlyIn eventParts s t ∧ raised t.hub evMeshBudget) ∧
    (stopExists src = false ∨ stopExists dst = false → exec (.meshBudgetOverrun src dst cycles) s = .fault .noSuchUnit) ∧
    (a.wf = false → exec (.lockExpired a) s = .fault .noSuchUnit)

/-- Fatal errors (R344, R346, R349) and the thermal trip (R417). -/
def Obligations.FatalErrorsStopTheHub : Prop :=
  ∀ (s : State) (src : BitVec 10) (inst : Byte) (synd : BitVec 16) (engine : BitVec 1) (stop : BitVec 7) (seen : Byte),
    (s.hub.start.fatal = false → s.hub.isUp = true →
      (∃ t, exec (.fatalError src inst synd) s = .next t ∧ FatallyStopped s t src inst synd ∧ raised t.hub evHubFatal) ∧
      (∃ t, exec .pllLockLoss s = .next t ∧ FatallyStopped s t evHubFatal noInst 0 ∧ raised t.hub evHubFatal) ∧
      (∃ t, exec (.meshProbeRound true) s = .next t ∧ FatallyStopped s t evHubFatal noInst 0 ∧ raised t.hub evHubFatal) ∧
      (∃ t, exec (.aesKnownAnswerTest engine false) s = .next t ∧
        FatallyStopped s t evHubFatal (BitVec.ofNat 8 (66 + engine.toNat)) 0 ∧ raised t.hub evHubFatal) ∧
      (stopExists stop = true → s.hub.round % 256 = 0 → s.hub.round ≠ 0 → seen ≠ BitVec.ofNat 8 s.hub.round →
        ∃ t, exec (.roundCompare stop seen) s = .next t ∧ FatallyStopped s t evHubFatal (stop.setWidth 8) 0 ∧
          raised t.hub evHubFatal)) ∧
    exec (.meshProbeRound false) s = .next s ∧ exec (.aesKnownAnswerTest engine true) s = .next s ∧
    (stopExists stop = true → seen = BitVec.ofNat 8 s.hub.round → exec (.roundCompare stop seen) s = .next s) ∧
    (s.hub.start.fatal = false → s.hub.start.phase = .serving →
      ∃ t, exec .thermtrip s = .next t ∧ t.hub.pins = { s.hub.pins with
          thermtripN := false
          faultN := false } ∧
        onlyIn fatalParts s t ∧ t.hub.start.fatal = true ∧ t.hub.start.phase = .stopped ∧ t.hub.aon.fatal.valid = true) ∧
    (s.hub.start.phase = .starting →
      ∃ t, exec .thermtrip s = .next t ∧ t.hub.pins = { s.hub.pins with
          thermtripN := false
          faultN := false } ∧
        onlyIn [.pins, .start, .aon, .freeCtr] s t ∧ t.hub.start.phase = .stopped ∧ t.hub.start.waiting = [])

/-- The control core's mismatches and restart (R347, R378, R379, R389), and posted writes after a fatal error (R187). -/
def Obligations.CoresMismatchAndRestart : Prop :=
  ∀ (s : State) (m : Nat) (found : BitVec 384),
    (s.hub.coresRun = true → (∀ k, s.hub.core.lastMismatch = some k → 2 ^ 28 < s.hub.round - k) →
      (∃ t, exec .lockstepMismatch s = .next t ∧ onlyIn ([Part.core, .mbx, .rot, .ring] ++ eventParts) s t ∧ raised t.hub evHubLockstep ∧
        t.hub.core.restart = true ∧ t.hub.core.lastMismatch = some s.hub.round ∧ ∀ n, (t.hub.mb n).held = true ∧ (t.hub.mb n).stage = []) ∧
      (∃ t, exec .watchdogExpiry s = .next t ∧ onlyIn ([Part.core, .mbx, .rot, .ring] ++ eventParts) s t ∧ raised t.hub evHubLockstep ∧
        raised t.hub evHubWatchdog ∧ t.hub.core.restart = true ∧ ∀ n, (t.hub.mb n).held = true ∧ (t.hub.mb n).stage = [])) ∧
    (s.hub.coresRun = true → s.hub.start.fatal = false → s.hub.core.lastMismatch = some m → s.hub.round - m ≤ 2 ^ 28 →
      ∃ t, exec .lockstepMismatch s = .next t ∧ onlyIn ([Part.core, .mbx, .ring] ++ fatalParts) s t ∧ raised t.hub evHubFatal ∧
        t.hub.start.fatal = true ∧ t.hub.pins.faultN = false ∧ t.hub.aon.fatal.src = evHubLockstep) ∧
    (s.hub.core.restart = true → s.hub.start.phase = .serving → s.hub.core.digest = found → s.hub.routeNew = none → s.dueBits = [] →
      ∃ t, exec (.uluhivaRestartDone found) s = .next t ∧ onlyIn ([Part.core, .mbx, .ring, .reads, .chans] ++ eventParts) s t ∧
        t.hub.core.restart = false ∧
        ∀ n, (t.hub.mb n).held = false ∧
          ∀ b c d w1 w2, (s.hub.mb n).busy = some b → b.long = .ended c d w1 w2 → (t.hub.mb n).busy = none) ∧
    (s.hub.core.restart = true → s.hub.isUp = true → s.hub.core.digest ≠ found → s.hub.start.fatal = false →
      ∃ t, exec (.uluhivaRestartDone found) s = .next t ∧ FatallyStopped s t evHubFatal noInst 0) ∧
    (s.hub.start.fatal = true → s.hub.takesAnswers = true → s.hub.start.fatalAt + 500 ≤ s.hub.round →
      (∃ r ∈ s.hub.dev.reqs, r.posted = true ∧ r.irq = false ∧ r.sent = none) → quietMailboxes s.hub →
      ∃ t, exec .fatalPostedWriteDrop s = .next t ∧ onlyIn ([Part.records, .lapses, .sps] ++ eventParts) s t ∧ raised t.hub evDevTimeout ∧
        ∀ r ∈ t.hub.dev.reqs, ¬(r.posted = true ∧ r.irq = false ∧ r.sent = none))

/-- Resets (R421–R425, R486). -/
def Obligations.ResetsKeepWhatTheySay : Prop :=
  ∀ (s : State) (high : Bool),
    (s.hub.pins.pwrgood = false →
      exec .pwrgoodRise s = .next { s with
        ring := []
        hub := { Hub.cold with
          mirror := s.hub.mirror
          out := s.hub.out
          freeCtr := s.hub.freeCtr
          pins := { s.hub.pins with
            pwrgood := true
            thermtripN := true }
          start := { Start.init with phase := .reset } } }) ∧
    exec .pwrgoodFall s = .next { s with
      ring := []
      hub := { Hub.cold with
        mirror := s.hub.mirror
        out := s.hub.out
        freeCtr := s.hub.freeCtr
        pins := { s.hub.pins with pwrgood := false } } } ∧
    (s.hub.pins.resetN = true → s.hub.start.phase = .serving →
      ∃ t, exec .resetNTakenLow s = .next t ∧ onlyIn [.pins, .start, .slices, .aps, .spanReps, .spanBacks, .waitSnoops] s t ∧
        t.hub.pins = { s.hub.pins with resetN := false } ∧
        t.hub.start = { s.hub.start with
          phase := .draining
          drainEnd := s.hub.round + 500
          pendKind := 1 } ∧
        (∀ hs, (t.hub.slice hs).inbuf = []) ∧ ∀ p, (t.hub.ap p).holds = []) ∧
    (s.hub.pins.resetN = true → s.hub.start.phase = .stopped →
      ∃ t, exec .resetNTakenLow s = .next t ∧ t.hub.start.phase = .reset ∧ t.hub.start.kind = 1 ∧ t.ring = [] ∧ t.otp = s.otp ∧
        t.hub.master = s.hub.master ∧ t.hub.par = [] ∧ t.hub.pins = { s.hub.pins with
          resetN := false
          faultN := true }) ∧
    (s.hub.start.phase = .draining → (s.hub.undrained = [] ∨ s.hub.start.drainEnd ≤ s.hub.round) →
      s.hub.rot.phase ≠ 4 → s.hub.rot.phase ≠ 6 →
      ∃ t, exec .warmResetDrainEnd s = .next t ∧ t.pending = s.pending ∧ t.otp = s.otp ∧ t.ring = [] ∧ t.hub.mirror = s.hub.mirror ∧
        t.hub.master = s.hub.master ∧ t.hub.par = [] ∧ t.hub.prot = Prot.start ∧ t.hub.agents = [] ∧ t.hub.aps = [] ∧ t.hub.mps = [] ∧
        t.hub.chans = [] ∧ t.hub.reads = [] ∧ t.hub.sps = [] ∧ t.hub.events = Events.init ∧ t.hub.pmc = Pmc.init ∧ t.hub.mbx = [] ∧
        t.hub.round = 0 ∧ t.hub.start.phase = .reset ∧ t.hub.start.kind = s.hub.start.pendKind ∧
        t.hub.start.undrained = s.hub.undrained.length ∧ t.hub.pins = { s.hub.pins with faultN := true } ∧
        t.hub.rot.results = s.hub.rot.results ∧ t.hub.power.vcore = s.hub.power.vcore ∧ t.hub.core.digest = s.hub.core.digest ∧
        (∀ hs, (t.hub.slice hs).txns = [] ∧ (t.hub.slice hs).wb = [] ∧
          (t.hub.slice hs).wayDis = (s.hub.slice hs).wayDis ||| (s.hub.slice hs).wayMark) ∧
        t.hub.aon.repairs = s.hub.aon.repairs ∧ t.hub.aon.counts = s.hub.aon.counts ∧ t.hub.aon.fatal = s.hub.aon.fatal ∧
        t.hub.aon.startNo = s.hub.aon.startNo ∧ t.hub.aon.carried = s.hub.rot.retests.head?) ∧
    (∃ t, exec .resetNRise s = .next t ∧ onlyIn [.pins] s t ∧ t.hub.pins = { s.hub.pins with resetN := true }) ∧
    (∃ t, exec (.pmbAlertN high) s = .next t ∧ onlyIn [.pins] s t ∧ t.hub.pins = { s.hub.pins with pmbAlertN := high })

/-- Starts (R421, R426–R428, R438, R486) and the opening of service (R19, R24, R427). -/
def Obligations.StartsBringThePortsUpAndOpen : Prop :=
  ∀ (s : State) (env : StartEnv) (m : BitVec 3),
    (s.hub.pins.pwrgood = true → s.hub.pins.resetN = true → s.hub.pins.thermtripN = true → s.hub.start.phase = .reset →
      (s.hub.start.kind = 0 → s.hub.aon.subst = [] → s.otp.except = 0 → env.pllLocks = true → env.otpReadable = true → env.railsOk = true →
        env.checkSlices = [] → env.checkPorts = [] → env.checkOther = none → env.stopBist = true → env.bistPorts = [] →
        env.bistSlices = [] → env.flashOk = true → env.mirrorOk = false → s.otp.verifies env.imageA = true → s.otp.verifies env.imageB = true →
        ∃ t, exec (.startBegin env) s = .next t ∧ t.pending = s.pending ∧ t.ring = s.ring ∧
          (t.hub.start.phase = .starting ∨ t.hub.start.phase = .serving ∧ t.hub.round = 1) ∧
          t.hub.core.image = true ∧ t.hub.start.image = s.hub.aon.pref ∧
          t.hub.core.fw = (if s.hub.aon.pref then env.imageB else env.imageA).release ∧ t.hub.pins = { s.hub.pins with faultN := true }) ∧
      (env.pllLocks = false → env.ledgerUe = [] →
        ∃ t, exec (.startBegin env) s = .next t ∧ t.hub.start.phase = .stopped ∧ t.hub.pins = { s.hub.pins with faultN := false } ∧
          t.hub.par = s.hub.par ∧ t.hub.master = s.hub.master)) ∧
    (startQuiet s → s.hub.start.phase = .starting → .mp m ∈ s.hub.start.waiting → (s.hub.mp m.toNat).trained = false →
      ((∃ q ∈ s.hub.start.waiting, q ≠ .mp m) →
        ∃ t, exec (.startStepLimit (.mp m)) s = .next t ∧ onlyIn [.start, .mps, .power, .aon, .freeCtr] s t ∧
          (∀ q, q ∈ t.hub.start.waiting ↔ q ∈ s.hub.start.waiting ∧ q ≠ .mp m) ∧ (t.hub.mp m.toNat).link = .down) ∧
      ((∀ q ∈ s.hub.start.waiting, q = .mp m) → s.hub.aon.subst = [] → s.hub.aon.carried = none → s.hub.core.restart = false →
        0x0C ≤ s.hub.start.step.toNat →
        ∃ t, exec (.startStepLimit (.mp m)) s = .next t ∧ t.hub.start.phase = .serving ∧ t.hub.round = 1 ∧
          (∀ ls, t.hub.hsOf ls = ls.toNat) ∧ t.hub.rot.newt = some 64 ∧ t.hub.par = s.hub.par ∧ t.hub.master = s.hub.master ∧
          t.hub.agents = s.hub.agents ∧ t.otp = s.otp))

/-- Declarations and telemetry of core dies (R252, R406, R407); a power message that breaks its layout is discarded outside a bring-up. -/
def Obligations.CoreDiesDeclareAndReport : Prop :=
  ∀ (s : State) (p : BitVec 4) (w : Word),
    (∀ c id, (c, id) ∈ [(Instr.pwrDeclare p w, (0x10 : Byte)), (.pwrReq p w, 0x11), (.pwrStepDone p w, 0x13), (.pwrTelem p w, 0x14),
        (.pwrSleepReq p w, 0x15), (.pwrWakeReq p w, 0x17)] →
      sbOk id w = false → s.hub.apBringing p = false → startQuiet s → exec c s = .next s) ∧
    (sbOk 0x10 w = true → (s.hub.die p).closed = false → (w.extractLsb' 48 4).toNat = (s.hub.die p).points.length →
      ∃ t, exec (.pwrDeclare p w) s = .next t ∧ onlyIn [.power] s t ∧ (∀ q, q ≠ p → t.hub.die q = s.hub.die q) ∧
        t.hub.die p = { s.hub.die p with
          points := (s.hub.die p).points ++ [((w.extractLsb' 16 16).toNat, (w.extractLsb' 0 16).toNat)]
          closed := w.getLsbD 52
          budget := if (s.hub.die p).points = [] then (w.extractLsb' 16 16).toNat else (s.hub.die p).budget
          share := if (s.hub.die p).points = [] then (w.extractLsb' 16 16).toNat else (s.hub.die p).share }) ∧
    (sbOk 0x14 w = true → ((s.hub.die p).budget < (w.extractLsb' 32 16).toNat → (s.hub.die p).overs = 0) →
      ∃ t, exec (.pwrTelem p w) s = .next t ∧ onlyIn [.power] s t ∧ (∀ q, q ≠ p → t.hub.die q = s.hub.die q) ∧
        t.hub.die p = { s.hub.die p with
          power := (w.extractLsb' 32 16).toNat
          current := (w.extractLsb' 16 16).toNat
          temp := w.extractLsb' 8 8
          overs := if (s.hub.die p).budget < (w.extractLsb' 32 16).toNat then 1 else 0 }) ∧
    (sbOk 0x14 w = true → (s.hub.die p).budget < (w.extractLsb' 32 16).toNat → 1 ≤ (s.hub.die p).overs →
      ∃ t, exec (.pwrTelem p w) s = .next t ∧ onlyIn eventParts s t ∧ raised t.hub evPwrDieBreach ∧
        (t.hub.die p).budget = (s.hub.die p).pmax 0 ∧ (t.hub.die p).power = (w.extractLsb' 32 16).toNat)

/-- Grants of operating points and their end (R406, R407, R410), the cap loop (R408) and its throttle (R417). -/
def Obligations.OperatingPointsAndTheCapLoop : Prop :=
  ∀ (s : State) (p : BitVec 4) (w : Word) (op n : Nat),
    (sbOk 0x11 w = true → op = (w.extractLsb' 0 4).toNat → op < (s.hub.die p).points.length →
      ∃ t, exec (.pwrReq p w) s = .next t ∧ onlyIn [.power, .out] s t ∧ (t.hub.die p).wanted = some op ∧
        (s.hub.power.waiting = [] → s.hub.power.changes = [] → (s.hub.die p).grant = none → s.hub.core.restart = false →
          op ≠ (s.hub.die p).op → ((s.hub.die p).op < op → s.hub.raiseOk (s.hub.die p) op = true) →
          ((s.hub.die p).imax op - (s.hub.die p).imax (s.hub.die p).op) + ((s.hub.die p).imax (s.hub.die p).op - (s.hub.die p).imax op)
            ≤ s.hub.stepLimit →
          t.hub.power.waiting = [] ∧ ∀ di, di = ((s.hub.die p).imax op - (s.hub.die p).imax (s.hub.die p).op) +
            ((s.hub.die p).imax (s.hub.die p).op - (s.hub.die p).imax op) →
            t.hub.power.changes = if di = 0 then [] else [⟨di, s.hub.round + 8, s.hub.round + 57, false⟩])) ∧
    (sbOk 0x13 w = true → (s.hub.die p).grant = some (op, n) → (w.extractLsb' 48 4).toNat = op →
      n ≤ roundOf s.hub.round (w.extractLsb' 0 16) → roundOf s.hub.round (w.extractLsb' 0 16) ≤ n + 50 →
      ∃ t, exec (.pwrStepDone p w) s = .next t ∧ onlyIn [.power, .out] s t ∧ (t.hub.die p).op = op ∧
        (s.hub.power.waiting = [] → (t.hub.die p).grant = none)) ∧
    (sbOk 0x13 w = true → (s.hub.die p).grant = some (op, n) → (w.extractLsb' 48 4).toNat = op →
      (roundOf s.hub.round (w.extractLsb' 0 16) < n ∨ n + 50 < roundOf s.hub.round (w.extractLsb' 0 16)) →
      ∃ t, exec (.pwrStepDone p w) s = .next t ∧ onlyIn eventParts s t ∧ raised t.hub evPwrDieBreach ∧
        (t.hub.die p).budget = (s.hub.die p).pmax 0) ∧
    ((s.hub.die p).grant = some (op, n) → n + 50 < s.hub.round →
      ∃ t, exec (.dieStepWindowExpiry p) s = .next t ∧ onlyIn eventParts s t ∧ raised t.hub evPwrDieBreach ∧
        (t.hub.die p).budget = (s.hub.die p).pmax 0) ∧
    (∃ t, exec .capLoop s = .next t ∧ onlyIn [.power, .out] s t ∧
      t.hub.power.cut = (if s.hub.power.hotOn then s.hub.power.cut + 1 else 0) ∧
      (∀ q, (t.hub.die q).op = (s.hub.die q).op ∧ (t.hub.die q).power = (s.hub.die q).power) ∧
      (s.hub.pkgCap < s.hub.pkgPower → ∀ x ∈ t.hub.power.waiting, x.2.2 = true))

/-- Temperature, rails and `VDD_CORE` (R415–R417). -/
def Obligations.SensorsRailsAndCoreVoltage : Prop :=
  ∀ (s : State) (readings : List (BitVec 16)) (rail : BitVec 4) (status pout : BitVec 16) (up : Bool) (v : Nat),
    (readings ≠ [] → readings.length ≤ 32 →
      ∃ t, exec (.sensorRead readings) s = .next t ∧ onlyIn (.rot :: eventParts) s t ∧ t.hub.power.tj ∈ readings ∧
        (∀ r ∈ readings, signed16 r ≤ signed16 t.hub.power.tj) ∧
        (32768 + 8 * s.hub.p 0xA84 ≤ signed16 t.hub.power.tj → s.hub.power.hotOn = false →
          t.hub.power.hotOn = true ∧ raised t.hub evPwrHot) ∧
        (signed16 t.hub.power.tj + 16 ≤ 32768 + 8 * s.hub.p 0xA84 → t.hub.power.hotOn = false)) ∧
    ((s.hub.pw (0xAA0 + rail.toNat)).getLsbD 0 = true → s.hub.start.phase = .serving → s.hub.start.fatal = false →
      ∃ t, exec (.pmbusRailRead rail status pout) s = .next t ∧
        onlyIn ([Part.pins, .rot, .slices, .spanReps, .spanBacks, .waitSnoops, .start] ++ eventParts) s t ∧
        t.hub.power.rails.look rail.toNat = some (status, pout.toNat) ∧
        (status &&& 0xFF7F = 0 → onlyIn [.power, .out] s t) ∧
        (status &&& 0xFF7F ≠ 0 → raised t.hub evPwrRailFault ∧
          (((s.hub.pw (0xAA0 + rail.toNat)).extractLsb' 1 3).toNat ≤ 3 → t.hub.start.phase = .stopped ∧ t.hub.pins.faultN = false) ∧
          (3 < ((s.hub.pw (0xAA0 + rail.toNat)).extractLsb' 1 3).toNat → onlyIn eventParts s t))) ∧
    (v = (if up then s.hub.power.vcore + 5 else s.hub.power.vcore - 5) → 650 ≤ v → v ≤ 850 → (up = false → s.hub.power.minCold = false) →
      (s.hub.power.lastAvs = 0 ∨ s.hub.power.lastAvs + 2500 ≤ s.hub.round) →
      ∃ t, exec (.avsStep up) s = .next t ∧ onlyIn [.power, .out] s t ∧ t.hub.power.vcore = v ∧ t.hub.power.lastAvs = s.hub.round ∧
        t.hub.out = s.hub.out ++ [OutMsg.avs v])

/-- The stages of a port domain (R319, R320, R411, R413, R414). -/
def Obligations.DomainsPowerDownAndWake : Prop :=
  ∀ (s : State) (d : Domain) (mp : BitVec 3) (k : WakePacket) (n m : Nat), d.wf = true → stopExists k.src = true →
    ((s.hub.mp mp.toNat).online = true → s.hub.dom (.mp mp) = .awake → s.hub.mpQuiet mp = true →
      placeRound s.hub.power.changes true s.hub.wakeLimit 8 512 (s.hub.round + 1) = some n →
      ∃ t, exec (.memPortIdle mp) s = .next t ∧ onlyIn [.power, .notices] s t ∧ t.hub.dom (.mp mp) = .closing n ∧
        t.hub.notices = s.hub.notices ++ [.asleep mp]) ∧
    (s.hub.dom d = .closing n → n ≤ s.hub.round →
      ∃ t, exec (.pointOfNoReturn d) s = .next t ∧ t.hub.dom d = .opening (n + 511) ∧
        ((∀ sp, d ≠ .sp sp) → onlyIn [.power] s t ∧ ∀ e, domKey e ≠ domKey d → t.hub.dom e = s.hub.dom e) ∧
        ∀ sp, d = .sp sp → onlyIn ([Part.sps, .core, .mbx] ++ eventParts) s t ∧ otherSpans s.hub t.hub sp ∧
          (t.hub.sp sp).link = .down ∧ (t.hub.sp sp).keyed = false ∧ (t.hub.sp sp).waits = (s.hub.sp sp).waits) ∧
    (s.hub.dom d = .opening n → n < s.hub.round → (s.hub.power.wakeBufs.getD (domKey d) ⟨[], false⟩).asked = false →
      ∃ t, exec (.powerDownComplete d) s = .next t ∧ onlyIn [.power] s t ∧ t.hub.dom d = .asleep ∧
        ∀ e, domKey e ≠ domKey d → t.hub.dom e = s.hub.dom e) ∧
    (s.hub.domUsed d = true → s.hub.dom d = .awake → exec (.wakeRequest d k) s = .next s) ∧
    (s.hub.domUsed d = true → s.hub.dom d = .closing n →
      ∃ t, exec (.wakeRequest d k) s = .next t ∧ onlyIn [.power, .notices, .aps, .agents] s t ∧ t.hub.dom d = .awake) ∧
    (s.hub.domUsed d = true → s.hub.dom d = .asleep →
      ((s.hub.power.wakeBufs.getD (domKey d) ⟨[], false⟩).pkts.filter fun x => x.data == k.data).length < (if k.data then 8 else 32) →
      ∃ t, exec (.wakeRequest d k) s = .next t ∧ onlyIn [.power, .notices] s t ∧
        (t.hub.power.wakeBufs.getD (domKey d) ⟨[], false⟩).pkts = (s.hub.power.wakeBufs.getD (domKey d) ⟨[], false⟩).pkts ++ [k] ∧
        ((t.hub.power.wakeBufs.getD (domKey d) ⟨[], false⟩).asked = true ∨ ∃ first serve, t.hub.dom d = .waking first serve)) ∧
    (s.hub.dom d = .waking n m → m ≤ s.hub.round →
      ∃ t, exec (.domainServe d) s = .next t ∧ onlyIn eventParts s t ∧ t.hub.dom d = .awake ∧
        t.hub.power.wakeBufs.look (domKey d) = none)

/-- The sleep of an agent port (R412, R418). -/
def Obligations.AgentPortsSleepAndWake : Prop :=
  ∀ (s : State) (p : BitVec 4) (w : Word) (n : Nat) (x : Nat × Bool),
    (sbOk 0x15 w = true → s.hub.dom (.ap p) = .awake → (s.hub.ap p).sleepWalk = none →
      ∃ t, exec (.pwrSleepReq p w) s = .next t ∧ onlyIn [.aps] s t ∧ otherPorts s.hub t.hub p ∧
        t.hub.ap p = { s.hub.ap p with sleepWalk := some (s.hub.round, false) }) ∧
    ((s.hub.ap p).sleepWalk = some x → (∀ hs ∈ s.hub.servingSlices, (s.hub.slice hs).walk = none) →
      (s.hub.ackedBehind p = true → exec (.sleepWalkDone p) s = .next s) ∧
      (s.hub.ackedBehind p = false → s.hub.portNamed p = true →
        ∃ t, exec (.sleepWalkDone p) s = .next t ∧ onlyIn eventParts s t ∧ (t.hub.ap p).sleepWalk = none ∧
          raised t.hub evPwrSleepRefused ∧ .sideband (.ap p) (sbWord 0x16 0) ∈ t.hub.out) ∧
      (s.hub.ackedBehind p = false → s.hub.portNamed p = false → placeRound s.hub.power.changes true s.hub.wakeLimit 8 512 (s.hub.round + 1) = some n →
        ∃ t, exec (.sleepWalkDone p) s = .next t ∧ onlyIn [.aps, .agents, .power, .out] s t ∧ (t.hub.ap p).sleepWalk = none ∧
          (t.hub.ap p).parked = true ∧ (∀ a, (s.hub.agent a).port = p → s.hub.agents.look a.toNat ≠ none → (t.hub.agent a).parked = true) ∧
          t.hub.dom (.ap p) = .closing n ∧ t.hub.out = s.hub.out ++ [OutMsg.sideband (.ap p) (sbWord 0x16 1)])) ∧
    (sbOk 0x17 w = true →
      ((s.hub.ap p).sleepWalk = some x → ∃ t, exec (.pwrWakeReq p w) s = .next t ∧ onlyIn [.aps, .out] s t ∧
        t.hub.ap p = { s.hub.ap p with sleepWalk := none } ∧ t.hub.out = s.hub.out ++ [OutMsg.sideband (.ap p) (sbWord 0x16 0)]) ∧
      ((s.hub.ap p).sleepWalk = none → s.hub.domUsed (.ap p) = false → exec (.pwrWakeReq p w) s = .next s) ∧
      ((s.hub.ap p).sleepWalk = none → s.hub.domUsed (.ap p) = true → s.hub.dom (.ap p) = .closing n → ∃ t, exec (.pwrWakeReq p w) s = .next t ∧
        onlyIn [.power, .aps, .agents] s t ∧ t.hub.dom (.ap p) = .awake) ∧
      ((s.hub.ap p).sleepWalk = none → s.hub.domUsed (.ap p) = true → s.hub.dom (.ap p) = .asleep → ∃ t, exec (.pwrWakeReq p w) s = .next t ∧ onlyIn [.power] s t ∧
        ((t.hub.power.wakeBufs.getD (domKey (.ap p)) ⟨[], false⟩).asked = true ∨
          ∃ first serve, t.hub.dom (.ap p) = .waking first serve)) ∧
      ((s.hub.ap p).sleepWalk = none → s.hub.domUsed (.ap p) = true → s.hub.dom (.ap p) = .awake → ∃ t, exec (.pwrWakeReq p w) s = .next t ∧
        onlyIn [.aps, .agents] s t ∧ (t.hub.ap p).parked = false))

/-- Writes of the register window (R12–R14, R382, R385, R449, R451, R455, R457, R462, R468, R469). -/
def Obligations.WindowWritesReachTheirRegisters : Prop :=
  ∀ (s : State) (a : Gaid) (n : BitVec 3) (g i : BitVec 5) (v : Word) (b : Bool) (off : BitVec 16) (o : Nat),
    o = off.toNat / 8 * 8 →
    (∀ c k, (c, k) ∈ [(Instr.mbCmdTailWrite a n v, 0x400 + 0x20 * n.toNat), (.mbRspHeadWrite a n v, 0x418 + 0x20 * n.toNat),
        (.evtStatusWrite a g v 0, 0x1000 + 8 * g.toNat), (.evtMaskWrite a g v, 0x1100 + 8 * g.toNat),
        (.pmcWinPreset a i v, 0x2100 + 8 * i.toNat), (.statClr a, 0x2000), (.freeze a b, 0x2000), (.pmcReset a, 0x2000),
        (.registerWrite a off v, o)] → s.hub.mayWrite a k = false →
      ∃ t, exec c s = .next t ∧ onlyIn eventParts s t ∧ raised t.hub evMbDenied) ∧
    (s.hub.mayWrite a (0x400 + 0x20 * n.toNat) = true → v &&& 0xFFFFFFFFFFFFFF80 = 0 →
      (ringCount (v.setWidth 7) (s.hub.mb n).cmdHead ≤ 64 →
        ∃ t, exec (.mbCmdTailWrite a n v) s = .next t ∧ onlyIn [.mbx] s t ∧ t.hub.mb n = { s.hub.mb n with cmdTail := v.setWidth 7 } ∧
          ∀ k, k ≠ n → t.hub.mb k = s.hub.mb k) ∧
      (64 < ringCount (v.setWidth 7) (s.hub.mb n).cmdHead →
        ∃ t, exec (.mbCmdTailWrite a n v) s = .next t ∧ onlyIn eventParts s t ∧ raised t.hub evMbRingError)) ∧
    (s.hub.mayWrite a (0x418 + 0x20 * n.toNat) = true → v &&& 0xFFFFFFFFFFFFFF80 = 0 →
      (ringCount (v.setWidth 7) (s.hub.mb n).rspHead ≤ ringCount (s.hub.mb n).rspTail (s.hub.mb n).rspHead →
        ∃ t, exec (.mbRspHeadWrite a n v) s = .next t ∧ onlyIn [.mbx] s t ∧ t.hub.mb n = { s.hub.mb n with rspHead := v.setWidth 7 } ∧
          ∀ k, k ≠ n → t.hub.mb k = s.hub.mb k) ∧
      (ringCount (s.hub.mb n).rspTail (s.hub.mb n).rspHead < ringCount (v.setWidth 7) (s.hub.mb n).rspHead →
        ∃ t, exec (.mbRspHeadWrite a n v) s = .next t ∧ onlyIn eventParts s t ∧ raised t.hub evMbRingError)) ∧
    (s.hub.mayWrite a (0x1000 + 8 * g.toNat) = true → v &&& 0xFFFFFFFE00000000 = 0 →
      (∃ t, exec (.evtStatusWrite a g v 0) s = .next t ∧ onlyIn eventParts s t ∧
        t.hub.evStatus g.toNat = s.hub.evStatus g.toNat &&& ~~~(v.setWidth 32) ∧
        ∀ k, k ≠ g.toNat → t.hub.evStatus k = s.hub.evStatus k) ∧
      ∀ k : BitVec 5, ∃ t, exec (.evtStatusWrite a g v (1#32 <<< k.toNat)) s = .next t ∧ onlyIn eventParts s t ∧
        (t.hub.evStatus g.toNat).getLsbD k.toNat = true ∧
        (v.getLsbD k.toNat = true → (t.hub.events.again).getLsbD g.toNat = true)) ∧
    (s.hub.mayWrite a (0x1100 + 8 * g.toNat) = true → v &&& 0xFFFFFFFF00000000 = 0 →
      ∃ t, exec (.evtMaskWrite a g v) s = .next t ∧ onlyIn eventParts s t ∧ t.hub.evMask g.toNat = v.setWidth 32 ∧
        ∀ k, t.hub.evStatus k = s.hub.evStatus k) ∧
    (s.hub.mayWrite a (0x2100 + 8 * i.toNat) = true → v &&& 0xFFFF000000000000 = 0 → s.hub.pmc.bank.toNat < 12 →
      ∃ t, exec (.pmcWinPreset a i v) s = .next t ∧ onlyIn [.pmc] s t ∧ t.hub.pmc = { s.hub.pmc with
        ctrs := s.hub.pmc.ctrs.set (s.hub.pmc.bank.toNat * 32 + i.toNat) 0 (v.setWidth 48) }) ∧
    (s.hub.mayWrite a 0x2000 = true →
      (∃ t, exec (.statClr a) s = .next t ∧ onlyIn [.pmc] s t ∧ t.hub.pmc = { s.hub.pmc with
        latCtl := []
        latDat := []
        bytes := []
        winBase := []
        winLast := []
        spanHist := []
        resHist := [] }) ∧
      (∃ t, exec (.freeze a b) s = .next t ∧ onlyIn [.pmc] s t ∧ t.hub.pmc = { s.hub.pmc with freeze := b }) ∧
      ∃ t, exec (.pmcReset a) s = .next t ∧ onlyIn [.pmc] s t ∧ t.hub.pmc = { s.hub.pmc with ctrs := [] }) ∧
    (s.hub.mayWrite a o = true →
      (0x4000 ≤ o → o ≤ 0xBFF8 →
        ∃ t, exec (.registerWrite a off v) s = .next t ∧ onlyIn [.ring] s t ∧ (s.ring.wf = true → t.ring.word o = v) ∧
          ∀ x, (x < o ∨ o + 8 ≤ x) → t.ring.read x = s.ring.read x) ∧
      (o = 0x2008 → v &&& 0xFFFFFFFFFFFFFFF0 = 0 →
        ∃ t, exec (.registerWrite a off v) s = .next t ∧ onlyIn [.pmc] s t ∧ t.hub.pmc = { s.hub.pmc with bank := v.setWidth 4 }) ∧
      ((o = 0x500 ∨ o = 0x1200 ∨ o = 0x1208) → v = 0 → exec (.registerWrite a off v) s = .next s) ∧
      ((o = 0x2018 ∨ (o = 0x2010 ∧ v &&& 0xFFFFFFFFFFFF0000 ≠ 0)) →
        ∃ t, exec (.registerWrite a off v) s = .next t ∧ onlyIn eventParts s t ∧ raised t.hub evRegRsvd))

/-- Mailbox commands (R382, R386–R390) on identity, log, ledger, image, test and reset. -/
def Obligations.MailboxCommandsAreCheckedAndAnswered : Prop :=
  ∀ (s : State) (n : BitVec 3) (d : Desc) (x : LogRec) (r : Repair) (k : Nat),
    (s.hub.mbReady n = false → exec (.hubGetId n) s = .next s ∧ exec (.mbNop n) s = .next s) ∧
    (s.hub.mbReady n = true → d = s.desc n → s.ring.wf = true → s.hub.core.resps = [] →
      (cmdRow d.cmd.toNat = none →
        ∃ t, exec (.mbNop n) s = .next t ∧ Answered [] s t n d 1 0 0 0 0) ∧
      (cmdRow d.cmd.toNat ≠ none → d.cmd ≠ 2 → exec (.mbNop n) s = .next s) ∧
      (d.cmd = 0x71 → (s.hub.priv n).level ≠ 3 → ∃ t, exec (.hubReset n) s = .next t ∧ Answered [] s t n d 3 0 0 0 0) ∧
      (d.cmd = 0x02 → s.hub.bootRom = false → d.badWord [] = some k →
        ∃ t, exec (.mbNop n) s = .next t ∧ Answered [] s t n d 2 (BitVec.ofNat 8 k) 0 0 0)) ∧
    (Takes s n 0x01 0 d → ∃ t, exec (.hubGetId n) s = .next t ∧
      Answered [] s t n d 0 0 s.otp.dieId s.hub.versionWord ((s.otp.vendor.setWidth 64 <<< 32) ||| s.otp.sideband.setWidth 64)) ∧
    (Takes s n 0x02 0 d → ∃ t, exec (.mbNop n) s = .next t ∧ Answered [] s t n d 0 0 (BitVec.ofNat 64 s.hub.round) 0 0) ∧
    (Takes s n 0x60 0 d →
      (3 ≤ d.field 1 32 4 → ∃ t, exec (.evtLogRead n) s = .next t ∧ Answered [] s t n d 2 1 0 0 0) ∧
      (d.field 1 32 4 ≤ 2 → (s.hub.events.log.find? fun y => y.seq.toNat == d.field 1 0 32) = none →
        ∃ t, exec (.evtLogRead n) s = .next t ∧ Answered [] s t n d 5 0 0 0 0) ∧
      (d.field 1 32 4 ≤ 2 → (s.hub.events.log.find? fun y => y.seq.toNat == d.field 1 0 32) = some x →
        ∃ t, exec (.evtLogRead n) s = .next t ∧ Answered [] s t n d 0 0 (List.nth x.words (3 * d.field 1 32 4) 0)
          (List.nth x.words (3 * d.field 1 32 4 + 1) 0) (List.nth x.words (3 * d.field 1 32 4 + 2) 0))) ∧
    (Takes s n 0x61 0 d → d.field 1 32 4 ≤ 2 →
      ∃ t, exec (.ledgerRead n) s = .next t ∧ Answered [] s t n d 0 0
        (List.nth (s.hub.aon.ledgerWords (d.field 1 0 6)) (3 * d.field 1 32 4) 0)
        (List.nth (s.hub.aon.ledgerWords (d.field 1 0 6)) (3 * d.field 1 32 4 + 1) 0)
        (List.nth (s.hub.aon.ledgerWords (d.field 1 0 6)) (3 * d.field 1 32 4 + 2) 0)) ∧
    (Takes s n 0x70 3 d → ∃ t, exec (.fwSelect n) s = .next t ∧ Answered [.aon, .mirror] s t n d 0 0 0 0 0 ∧
      t.hub.aon.pref = (d.word 1).getLsbD 0) ∧
    (Takes s n 0x50 3 d → ∃ t, exec (.testArmAccess n) s = .next t ∧ Answered [.core] s t n d 0 0 0 0 0 ∧
      t.hub.core = { s.hub.core with armed := (d.word 1).getLsbD 0 }) ∧
    (Takes s n 0x52 1 d → k = d.field 1 0 7 →
      (65 ≤ k → ∃ t, exec (.testRetest n) s = .next t ∧ Answered [] s t n d 5 0 0 0 0) ∧
      (k < 65 → (s.hub.slice k).role = .substituted →
        ∃ t, exec (.testRetest n) s = .next t ∧ Answered [] s t n d 4 0 (BitVec.ofNat 64 k) 0 0) ∧
      (k < 65 → (s.hub.slice k).role ≠ .substituted →
        ∃ t, exec (.testRetest n) s = .next t ∧ Answered [.rot] s t n d 0 0 0 0 0 ∧ BitVec.ofNat 7 k ∈ t.hub.rot.front ∧
          t.hub.rot.tested = s.hub.rot.tested &&& ~~~(1#65 <<< k))) ∧
    (Takes s n 0x71 3 d → s.hub.start.phase = .serving →
      ∃ t, exec (.hubReset n) s = .next t ∧
        Answered [.start, .slices, .aps, .spanReps, .spanBacks, .waitSnoops] s t n d 0 0 0 0 0 ∧
        t.hub.start.phase = .draining ∧ t.hub.start.pendKind = 2) ∧
    (Takes s n 0x51 3 d → ∀ hs mac el, hs = BitVec.ofNat 7 (d.field 1 0 7) → mac = BitVec.ofNat 16 (d.field 1 16 16) →
      el = BitVec.ofNat 8 (d.field 1 32 8) →
      (s.hub.aon.repairAt hs mac el = none → ∃ t, exec (.testFuseBurn n) s = .next t ∧ Answered [] s t n d 5 0 0 0 0) ∧
      (s.hub.aon.repairAt hs mac el = some (k, r) → 32 ≤ s.otp.fusesOf hs →
        ∃ t, exec (.testFuseBurn n) s = .next t ∧ Answered [] s t n d 6 0 0 0 0) ∧
      (s.hub.aon.repairAt hs mac el = some (k, r) → s.otp.fusesOf hs < 32 →
        ∃ t, exec (.testFuseBurn n) s = .next t ∧ InProgress [.rot] s t n d (.fuse hs mac el) ∧
          t.hub.rot.fuseReq.contains (hs, mac, el) = true))

/-- Parameters through the mailboxes (R12, R390, R395–R397, R405, R477, R478). -/
def Obligations.ParameterCommandsReadStageAndCommit : Prop :=
  ∀ (s : State) (n : BitVec 3) (d : Desc) (p acks k : Nat) (v : Word) (c : Byte) (y : StageItem) (b : Busy) (i : Nat) (w1 : Word),
    (Takes s n 0x10 0 d →
      (d.field 2 0 2 = 1 → d.pids 32 3 = [p, 0, 0] →
        (s.hub.readBad n p = some c → ∃ t, exec (.paramRead n) s = .next t ∧ Answered [] s t n d c 0 0 0 0) ∧
        (s.hub.readBad n p = none → Param.wide p = false →
          (d.field 2 8 1 = 0 → Param.access p ≠ .rc →
            ∃ t, exec (.paramRead n) s = .next t ∧ Answered [] s t n d 0 0 (s.hub.paramValue s.otp p) 0 0) ∧
          (d.field 2 8 1 = 0 → Param.access p = .rc →
            ∃ t, exec (.paramRead n) s = .next t ∧ Answered [.slices] s t n d 0 0 (s.hub.paramValue s.otp p) 0 0 ∧
              otherSlices s.hub t.hub (p - 0x910) ∧
              t.hub.slice (p - 0x910) = { s.hub.slice (p - 0x910) with errs := ⟨0, 0, 0, 0, 0, 0, 0, 0⟩ }) ∧
          (d.field 2 8 1 = 1 → ((s.hub.mb n).stage.find? fun x => x.pid.toNat == p && x.hi == false) = some y →
            ∃ t, exec (.paramRead n) s = .next t ∧ Answered [] s t n d 0 0 y.val 0 0))) ∧
      (d.field 2 0 2 = 2 → d.pids 32 3 = [p, p, 0] → Param.wide p = true → s.hub.readBad n p = none → d.field 2 8 1 = 0 →
        ∃ t, exec (.paramRead n) s = .next t ∧ Answered [] s t n d 0 0 (s.hub.pw p) (s.hub.pw (hiKey p)) 0)) ∧
    (Takes s n 0x11 1 d → d.field 6 0 3 = 1 → d.pids 48 4 = [p, 0, 0, 0] → d.word 2 = v → d.word 3 = 0 → d.word 4 = 0 → d.word 5 = 0 →
      (s.hub.stageBad n p v = some c → ∃ t, exec (.paramStage n) s = .next t ∧ Answered [] s t n d c 0 0 0 0) ∧
      (s.hub.stageBad n p v = none → Param.wide p = false →
        ((∀ x ∈ (s.hub.mb n).stage, ¬(x.pid = BitVec.ofNat 16 p ∧ x.hi = false)) →
          ((s.hub.mb n).stage.length < 256 →
            ∃ t, exec (.paramStage n) s = .next t ∧ Answered [] s t n d 0 0 0 0 0 ∧
              (t.hub.mb n).stage = (s.hub.mb n).stage ++ [⟨BitVec.ofNat 16 p, false, v &&& ~~~(Param.roBits p)⟩]) ∧
          (256 ≤ (s.hub.mb n).stage.length →
            ∃ t, exec (.paramStage n) s = .next t ∧ Answered [] s t n d 6 0 0 0 0 ∧ (t.hub.mb n).stage = (s.hub.mb n).stage)) ∧
        (∀ f g, (s.hub.mb n).stage = f ++ y :: g → y.pid = BitVec.ofNat 16 p → y.hi = false →
          (∀ x ∈ f, ¬(x.pid = BitVec.ofNat 16 p ∧ x.hi = false)) → (s.hub.mb n).stage.length ≤ 256 →
          ∃ t, exec (.paramStage n) s = .next t ∧ Answered [] s t n d 0 0 0 0 0 ∧
            (t.hub.mb n).stage = f ++ ⟨BitVec.ofNat 16 p, false, v &&& ~~~(Param.roBits p)⟩ :: g))) ∧
    (Takes s n 0x13 1 d → ∃ t, exec (.paramDiscard n) s = .next t ∧ Answered [] s t n d 0 0 0 0 0 ∧ (t.hub.mb n).stage = []) ∧
    (Takes s n 0x12 1 d → quietMailboxes s.hub →
      ((s.hub.mb n).discarded = true →
        ∃ t, exec (.paramCommit n acks) s = .next t ∧ Answered [] s t n d 8 0 0 0 0 ∧ (t.hub.mb n).discarded = false) ∧
      ((s.hub.mb n).discarded = false → s.hub.core.commits = [] →
        (s.hub.commitBad ⟨n, false, acks, [], [], none⟩ = none →
          ∃ t, exec (.paramCommit n acks) s = .next t ∧ InProgress [.core] s t n d .commit ∧
            t.hub.core = { s.hub.core with
              commits := [⟨n, false, acks, (s.hub.mb n).stage, [], some (s.hub.round + acks + 4)⟩] }) ∧
        (s.hub.commitBad ⟨n, false, acks, [], [], none⟩ = some (c, i, w1) →
          ∃ t, exec (.paramCommit n acks) s = .next t ∧ Answered [] s t n d c (BitVec.ofNat 8 i) w1 0 0 ∧
            (t.hub.mb n).stage = (s.hub.mb n).stage))) ∧
    (s.hub.core.commits = [⟨n, false, acks, [y], [], some k⟩] → k ≤ s.hub.round → s.hub.core.restart = false → s.hub.core.resps = [] →
      s.ring.wf = true → (s.hub.mb n).busy = some b → b.long = .commit → (∀ m, m ≠ n → (s.hub.mb m).busy = none) → y.hi = false →
      y.pid.toNat = p → s.hub.inForce p y.val = some y.val → Param.routed p = false →
      within p 0x680 0x68F = false → within p 0x7A0 0x7A7 = false → p ≠ 0xB80 → p ≠ 0xB85 → p ≠ 0x982 →
      ∃ t, exec .commitRound s = .next t ∧ onlyIn ([Part.par, .master, .core, .mbx, .ring] ++ eventParts) s t ∧
        t.hub.par = s.hub.par.put p y.val ∧ t.hub.master = s.hub.master.put p y.val ∧ t.hub.pw p = y.val ∧
        (∀ q, q ≠ p → t.hub.pw q = s.hub.pw q) ∧
        t.hub.core = { s.hub.core with
          commits := []
          digest := masterDigest (s.hub.master.put p y.val)
          commitCount := s.hub.core.commitCount + 1 } ∧
        (t.hub.mb n).busy = none ∧ (t.hub.mb n).stage = ((s.hub.mb n).stage.filter fun x => !([y] : List StageItem).contains x) ∧
        (t.hub.mb n).rspTail = (s.hub.mb n).rspTail + 1 ∧
        t.ring.word (rspSlot n (s.hub.mb n).rspTail) = rspWord b.cmd b.tag 0 0 ∧
        t.ring.word (rspSlot n (s.hub.mb n).rspTail + 8) = BitVec.ofNat 64 k ∧
        t.ring.word (rspSlot n (s.hub.mb n).rspTail + 16) = 1)

/-- Protection tables through the mailboxes (R390, R392, R393, R395–R398). -/
def Obligations.ProtectionCommandsStageReadAndCommit : Prop :=
  ∀ (s : State) (n : BitVec 3) (d : Desc) (a acks k : Nat) (b : Busy) (tabs : List ProtItem) (w : Word × Word × Word) (m : PMask),
    (Takes s n 0x20 3 d →
      ∀ x, x = ProtItem.mbx (BitVec.ofNat 3 (d.field 1 0 3)) ⟨BitVec.ofNat 2 (d.field 1 8 2), d.field 1 16 1 == 1, d.field 1 24 1 == 1,
          d.word 3 ++ d.word 2⟩ →
        ∃ t, exec (.protStageMbx n) s = .next t ∧ Answered [.core] s t n d 0 0 0 0 0 ∧ x ∈ t.hub.core.protStage ∧
          ((∀ y ∈ s.hub.core.protStage, y.sameEntry x = false) → t.hub.core = { s.hub.core with
            protStage := s.hub.core.protStage ++ [x] })) ∧
    (Takes s n 0x21 3 d → a = d.field 1 0 8 →
      (127 < a → a ≠ 0xFF → ∃ t, exec (.protStageAgent n) s = .next t ∧ Answered [] s t n d 2 1 0 0 0) ∧
      ((a ≤ 127 ∨ a = 0xFF) →
        ∀ x, x = ProtItem.agent (BitVec.ofNat 8 a) ⟨(d.word 2).setWidth 32, BitVec.ofNat 2 (d.field 2 32 2), d.word 3⟩ →
          ∃ t, exec (.protStageAgent n) s = .next t ∧ Answered [.core] s t n d 0 0 0 0 0 ∧ x ∈ t.hub.core.protStage ∧
            ((∀ y ∈ s.hub.core.protStage, y.sameEntry x = false) → t.hub.core = { s.hub.core with
              protStage := s.hub.core.protStage ++ [x] }))) ∧
    (Takes s n 0x22 3 d →
      m = ⟨BitVec.ofNat 16 (d.field 1 48 16), BitVec.ofNat 16 (d.field 1 32 16), BitVec.ofNat 2 (d.field 1 2 2),
        BitVec.ofNat 2 (d.field 1 0 2)⟩ →
      (m.last.toNat < m.first.toNat → ∃ t, exec (.protStagePmask n) s = .next t ∧ Answered [] s t n d 2 1 0 0 0) ∧
      (m.first.toNat ≤ m.last.toNat →
        ∃ t, exec (.protStagePmask n) s = .next t ∧ Answered [.core] s t n d 0 0 0 0 0 ∧
          t.hub.core = { s.hub.core with protStage := s.hub.core.protStage ++ [.pmask m] })) ∧
    (Takes s n 0x24 3 d → ∃ t, exec (.protDiscard n) s = .next t ∧ Answered [.core] s t n d 0 0 0 0 0 ∧
      t.hub.core = { s.hub.core with protStage := [] }) ∧
    (Takes s n 0x25 0 d → d.field 1 0 2 ≠ 3 →
      (s.hub.prot.readEntry (d.field 1 0 2) (d.field 1 16 16) = some w →
        ∃ t, exec (.protRead n) s = .next t ∧ Answered [] s t n d 0 0 w.1 w.2.1 w.2.2) ∧
      (s.hub.prot.readEntry (d.field 1 0 2) (d.field 1 16 16) = none →
        ∃ t, exec (.protRead n) s = .next t ∧ Answered [] s t n d 5 0 0 0 0)) ∧
    (Takes s n 0x23 3 d → quietMailboxes s.hub → s.hub.core.protLost = false → s.hub.core.commits = [] →
      (s.hub.refusesProt s.hub.core.protStage = none →
        ∃ t, exec (.protCommit n acks) s = .next t ∧ InProgress [.core] s t n d .commit ∧
          t.hub.core = { s.hub.core with
            commits := [⟨n, true, acks, [], s.hub.core.protStage, some (s.hub.round + acks + 4)⟩] }) ∧
      (s.hub.refusesProt s.hub.core.protStage = some k →
        ∃ t, exec (.protCommit n acks) s = .next t ∧ Answered [] s t n d 4 0 (BitVec.ofNat 64 k) 0 0)) ∧
    (s.hub.core.commits = [⟨n, true, acks, [], tabs, some k⟩] → k ≤ s.hub.round → s.hub.core.restart = false → s.hub.core.resps = [] →
      s.ring.wf = true → (s.hub.mb n).busy = some b → b.long = .commit → (∀ q, q ≠ n → (s.hub.mb q).busy = none) →
      ∃ t, exec .commitRound s = .next t ∧ onlyIn ([Part.prot, .core, .mbx, .ring] ++ eventParts) s t ∧
        t.hub.prot = tabs.foldl (fun p x => p.set x) s.hub.prot ∧
        t.hub.core = { s.hub.core with
          commits := []
          protStage := s.hub.core.protStage.filter fun x => !tabs.contains x
          commitCount := s.hub.core.commitCount + 1 } ∧
        (t.hub.mb n).busy = none ∧ (t.hub.mb n).rspTail = (s.hub.mb n).rspTail + 1 ∧
        t.ring.word (rspSlot n (s.hub.mb n).rspTail) = rspWord b.cmd b.tag 0 0 ∧
        t.ring.word (rspSlot n (s.hub.mb n).rspTail + 8) = BitVec.ofNat 64 k)

/-- Hub-cache maintenance (R298–R301) and the reads of array entries (R97, R225, R288, R390). -/
def Obligations.MaintenanceCommandsActOnTheHubCache : Prop :=
  ∀ (s : State) (n : BitVec 3) (d : Desc) (l a z : Line) (op : BitVec 3) (c : Instr) (w k set : Nat) (b : Busy) (res : Byte)
      (pins : List Line) (hs : Nat),
    (Takes s n 0x30 2 d → quietMailboxes s.hub → d.field 1 0 3 = op.toNat → (op ≠ 0 → ∀ x ∈ s.hub.slices, x.2.walk = none) →
      (c, op) ∈ [(Instr.hcClean n, (0 : BitVec 3)), (.hcInvalidate n, 1), (.hcCleanInvalidate n, 2), (.hcFillAndLock n, 3), (.hcUnlock n, 4)] →
      (d.maintScope (op == 3) = .inr k → ∃ t, exec c s = .next t ∧ Answered [] s t n d 2 (BitVec.ofNat 8 k) 0 0 0) ∧
      (d.maintScope (op == 3) = .inl (.line l) → s.hub.isHome l = false → (op = 3 → d.field 1 32 4 ≤ 3) →
        ∃ t, exec c s = .next t ∧ Answered [] s t n d 7 1 0 0 0) ∧
      (d.maintScope (op == 3) = .inl (.line l) → s.hub.isHome l = true → hs = s.hub.homeHs l →
        ((op = 0 ∨ op = 2) → s.hub.cleanWaits (.line l) = [l] → s.hub.writePending l = true → s.hub.chainPins l = true →
          ∃ t, exec c s = .next t ∧ InProgress [] s t n d (.maint op l l 1024 [l] (if op = 2 then [l] else []))) ∧
        (op = 0 → s.hub.cleanWaits (.line l) = [] → ∃ t, exec c s = .next t ∧ Answered [] s t n d 0 0 0 0 0) ∧
        ((op = 1 ∨ op = 2) → s.hub.cleanWaits (.line l) = [] → s.hub.chainPins l = false →
          (s.hub.slice hs).fillOf l = none → (s.hub.slice hs).hcWay l = some w → hcLocked ((s.hub.slice hs).hcAt l.hcSet w) = false →
          (s.hub.slice hs).wayMark.getLsbD w = false →
          ∃ t, exec c s = .next t ∧ Answered [.slices, .reads] s t n d 0 0 0 0 0 ∧ otherArrays s.hub t.hub hs ∧
            (t.hub.slice hs).hcAt l.hcSet w = 0 ∧ (t.hub.slice hs).wb = (s.hub.slice hs).wb ∧ (t.hub.slice hs).sf = (s.hub.slice hs).sf) ∧
        (op = 1 → s.hub.chainPins l = true → ∃ t, exec c s = .next t ∧ InProgress [] s t n d (.maint 1 l l 1024 [] [l])) ∧
        (op = 4 → (s.hub.slice hs).hcWay l = some w → hcLocked ((s.hub.slice hs).hcAt l.hcSet w) = true →
          ∃ t, exec c s = .next t ∧ Answered [.slices] s t n d 0 0 0 0 0 ∧ otherArrays s.hub t.hub hs ∧
            (t.hub.slice hs).hcAt l.hcSet w = setBit (setBit ((s.hub.slice hs).hcAt l.hcSet w) 26 false) 25 false ∧
            (t.hub.slice hs).hcBytes l.hcSet w = (s.hub.slice hs).hcBytes l.hcSet w) ∧
        (op = 3 → w = d.field 1 32 4 → w ≤ 3 →
          (s.hub.isLocked l = true → ∃ t, exec c s = .next t ∧ Answered [] s t n d 0 0 0 0 0) ∧
          (s.hub.isLocked l = false → s.hub.lockRefused l (BitVec.ofNat 4 w) = some res →
            ∃ t, exec c s = .next t ∧ Answered [] s t n d 7 res 0 0 0) ∧
          (s.hub.isLocked l = false → s.hub.lockRefused l (BitVec.ofNat 4 w) = none → s.hub.wbFind hs l = none →
            (s.hub.slice hs).hcWay l = none → s.hub.readChan l = some k →
            ∃ t, exec c s = .next t ∧ InProgress [.reads, .chans, .notices, .pmc, .freeCtr] s t n d (.fillLock l (BitVec.ofNat 4 w) 0) ∧
              ∃ r, t.hub.reads = s.hub.reads ++ [r] ∧ r.line = l ∧ r.ch = BitVec.ofNat 4 k ∧ r.who = .lockFill (BitVec.ofNat 4 w) n))) ∧
      (d.maintScope (op == 3) = .inl (.range a z) → op = 1 →
        ∃ t, exec c s = .next t ∧ InProgress [] s t n d (.maint 1 a z 0 [] []))) ∧
    ((∀ x ∈ s.hub.slices, x.2.walk = none) → (∀ m, m ≠ n → (s.hub.mb m).busy = none) → s.hub.core.resps = [] → s.ring.wf = true →
      (s.hub.mb n).busy = some b → b.long = .maint op a z set [] pins → op ≠ 4 →
      (∀ ls : BitVec 6, ∀ x ∈ s.hub.linesOfSet (s.hub.hsOf ls) (BitVec.ofNat 10 set), within x.toNat a.toNat z.toNat = false) →
      (set < 1023 → ∃ t, exec .maintRangeWalk s = .next t ∧ onlyIn [.mbx] s t ∧ (∀ m, m ≠ n → t.hub.mb m = s.hub.mb m) ∧
        t.hub.mb n = { s.hub.mb n with busy := some { b with long := .maint op a z (set + 1) [] pins } }) ∧
      (set = 1023 → pins = [] → s.hub.core.restart = false →
        ∃ t, exec .maintRangeWalk s = .next t ∧ onlyIn ([Part.mbx, .ring] ++ eventParts) s t ∧ (t.hub.mb n).busy = none ∧
          (t.hub.mb n).rspTail = (s.hub.mb n).rspTail + 1 ∧
          t.ring.word (rspSlot n (s.hub.mb n).rspTail) = rspWord b.cmd b.tag 0 0)) ∧
    (Takes s n 0x31 1 d → hs = s.hub.hsOf (BitVec.ofNat 6 (d.field 1 0 6)) → w = d.field 1 32 4 → set = d.field 1 16 14 →
      ((s.hub.slice hs).viewAt (BitVec.ofNat 14 set) w ≠ none →
        ∃ t, exec (.sfReadEntry n ⟨.clean, 0⟩) s = .next t ∧ Answered [] s t n d 0 0 ((s.hub.slice hs).sfAt (BitVec.ofNat 14 set) w) 0 0) ∧
      ((s.hub.slice hs).txnOn ((s.hub.slice hs).lineAt (BitVec.ofNat 14 set) w) = none →
        (s.hub.slice hs).backOn ((s.hub.slice hs).lineAt (BitVec.ofNat 14 set) w) = none →
        (s.hub.slice hs).chained ((s.hub.slice hs).lineAt (BitVec.ofNat 14 set) w) = false →
        (s.hub.slice hs).held ((s.hub.slice hs).lineAt (BitVec.ofNat 14 set) w) s.hub.round = false →
        ∀ flip x, x = (SView.deg false).word (sfWordTag ((s.hub.slice hs).sfAt (BitVec.ofNat 14 set) w) ^^^ flip) →
          ∃ t, exec (.sfReadEntry n ⟨.uncorrectable, flip⟩) s = .next t ∧ Answered (.slices :: eventParts) s t n d 0 0 x 0 0 ∧
            otherArrays s.hub t.hub hs ∧ raised t.hub evSfDeg ∧ (t.hub.slice hs).sfAt (BitVec.ofNat 14 set) w = x)) ∧
    (Takes s n 0x32 1 d → hs = s.hub.hsOf (BitVec.ofNat 6 (d.field 1 0 6)) → w = d.field 1 32 3 → set = d.field 1 16 12 →
      (HView.ofWord ((s.hub.slice hs).sdAt (BitVec.ofNat 12 set) w) ≠ none →
        ∃ t, exec (.sdReadEntry n ⟨.clean, 0⟩) s = .next t ∧ Answered [] s t n d 0 0 ((s.hub.slice hs).sdAt (BitVec.ofNat 12 set) w) 0 0) ∧
      ((s.hub.slice hs).txnOn ((s.hub.slice hs).hlineAt (BitVec.ofNat 12 set) w) = none →
        (s.hub.slice hs).backOn ((s.hub.slice hs).hlineAt (BitVec.ofNat 12 set) w) = none →
        (s.hub.slice hs).chained ((s.hub.slice hs).hlineAt (BitVec.ofNat 12 set) w) = false →
        (s.hub.slice hs).held ((s.hub.slice hs).hlineAt (BitVec.ofNat 12 set) w) s.hub.round = false →
        ∀ flip x, x = HView.deg.word (sdWordTag ((s.hub.slice hs).sdAt (BitVec.ofNat 12 set) w) ^^^ flip) →
          ∃ t, exec (.sdReadEntry n ⟨.uncorrectable, flip⟩) s = .next t ∧ Answered (.slices :: eventParts) s t n d 0 0 x 0 0 ∧
            otherArrays s.hub t.hub hs ∧ raised t.hub evSdDeg ∧ (t.hub.slice hs).sdAt (BitVec.ofNat 12 set) w = x)) ∧
    (Takes s n 0x33 1 d → hs = s.hub.hsOf (BitVec.ofNat 6 (d.field 1 0 6)) → w = d.field 1 32 4 → set = d.field 1 16 10 →
      (hcMalformed ((s.hub.slice hs).hcAt (BitVec.ofNat 10 set) w) w = false →
        ∃ t, exec (.hcReadTag n .clean) s = .next t ∧ Answered [] s t n d 0 0 ((s.hub.slice hs).hcAt (BitVec.ofNat 10 set) w) 0 0) ∧
      (hcLocked ((s.hub.slice hs).hcAt (BitVec.ofNat 10 set) w) = false → (s.hub.slice hs).wayMark.getLsbD w = false →
        ∃ t, exec (.hcReadTag n .uncorrectable) s = .next t ∧ Answered (.slices :: eventParts) s t n d 0 0 0 0 0 ∧
          otherArrays s.hub t.hub hs ∧ raised t.hub evHcUe ∧ (t.hub.slice hs).hcAt (BitVec.ofNat 10 set) w = 0))

/-- The mailbox commands of the span (R196, R197, R390) and the messages of the management path (R400, R401). -/
def Obligations.SpanKeysCertificatesAndMctpCommands : Prop :=
  ∀ (s : State) (n : BitVec 3) (d : Desc) (sp : BitVec 3) (off total : Nat) (b : MctpBody) (eid : Byte),
    (Takes s n 0x40 3 d → ∃ t, exec (.spanSetAuthority n) s = .next t ∧ Answered [.core] s t n d 0 0 0 0 0 ∧
      t.hub.core = { s.hub.core with authority := d.keyBytes }) ∧
    (Takes s n 0x41 3 d → off = d.field 1 0 16 → total = d.field 1 16 16 →
      ((2048 < total ∨ off % 48 ≠ 0) → ∃ t, exec (.spanSetCert n) s = .next t ∧ Answered [] s t n d 2 1 0 0 0) ∧
      (total ≤ 2048 → off % 48 = 0 → 2048 ≤ off → ∃ t, exec (.spanSetCert n) s = .next t ∧ Answered [] s t n d 6 0 0 0 0) ∧
      (total ≤ 2048 → off % 48 = 0 → off < 2048 → total ≤ off → ∃ t, exec (.spanSetCert n) s = .next t ∧ Answered [] s t n d 2 1 0 0 0) ∧
      (total ≤ 2048 → off % 48 = 0 → off < total →
        ∃ t, exec (.spanSetCert n) s = .next t ∧ Answered [.core] s t n d 0 0 0 0 0 ∧
          t.hub.core = { s.hub.core with
            cert := t.hub.core.cert
            certTotal := total
            certDone := s.hub.core.certDone || d.field 1 32 1 == 1 } ∧
          ∀ k, t.hub.core.cert.look k =
            if off ≤ k ∧ k < off + 48 ∧ k < total then some ((d.word (2 + (k - off) / 8)).extractLsb' (8 * ((k - off) % 8)) 8)
            else s.hub.core.cert.look k)) ∧
    (Takes s n 0x42 3 d →
      (5 < d.field 1 0 3 → ∃ t, exec (.spanRekey n) s = .next t ∧ Answered [] s t n d 5 0 0 0 0) ∧
      (d.field 1 0 3 = sp.toNat → sp.toNat ≤ 5 →
        ((s.hub.sp sp).keyed = false → ∃ t, exec (.spanRekey n) s = .next t ∧ Answered [] s t n d 7 0 0 0 0) ∧
        ((s.hub.sp sp).keyed = true → ∃ t, exec (.spanRekey n) s = .next t ∧ InProgress [.sps, .out, .freeCtr] s t n d (.rekey sp) ∧
          (∀ q, q ≠ sp → t.hub.sp q = s.hub.sp q) ∧ t.hub.sp sp = { s.hub.sp sp with rekey := true } ∧
          ∃ pub sig, t.hub.out = s.hub.out ++ [OutMsg.keying sp s.hub.num 1 2 pub sig s.hub.core.cert]))) ∧
    (b.words.length = 8 →
      (s.hub.mgmtUp = false → exec (.mctpMessage b) s = .next s) ∧
      (s.hub.mgmtUp = true →
        ((b.vendor ≠ s.otp.vendor ∨ (b.kind ≠ 1 ∧ b.kind ≠ 2)) →
          ∃ t, exec (.mctpMessage b) s = .next t ∧ onlyIn eventParts s t ∧ raised t.hub evMbDenied) ∧
        (b.vendor = s.otp.vendor → b.kind = 1 →
          ((7 < b.mailbox.toNat ∨ (s.hub.priv (b.mailbox.setWidth 3)).path = false) →
            ∃ t, exec (.mctpMessage b) s = .next t ∧ onlyIn [.out] s t ∧
              t.hub.out = s.hub.out ++ [.mctp b.mailbox [rspWord ((List.nth b.words 0 0).extractLsb' 48 16)
                ((List.nth b.words 0 0).extractLsb' 32 16) 3 0, 0, 0, 0], .ibi 0xFF]) ∧
          (b.mailbox = n.setWidth 8 → (s.hub.priv n).path = true →
            (64 ≤ ringCount (s.hub.mb n).cmdTail (s.hub.mb n).cmdHead →
              ∃ t, exec (.mctpMessage b) s = .next t ∧ onlyIn [.out] s t ∧
                t.hub.out = s.hub.out ++ [.mctp b.mailbox [rspWord ((List.nth b.words 0 0).extractLsb' 48 16)
                  ((List.nth b.words 0 0).extractLsb' 32 16) 6 0, 0, 0, 0], .ibi 0xFF]) ∧
            (ringCount (s.hub.mb n).cmdTail (s.hub.mb n).cmdHead < 64 → s.ring.wf = true →
              ∃ t, exec (.mctpMessage b) s = .next t ∧ onlyIn [.mbx, .ring] s t ∧ (∀ m, m ≠ n → t.hub.mb m = s.hub.mb m) ∧
                t.hub.mb n = { s.hub.mb n with cmdTail := (s.hub.mb n).cmdTail + 1 } ∧
                (∀ k, k < 8 → t.ring.word (cmdSlot n (s.hub.mb n).cmdTail + 8 * k) = List.nth b.words k 0) ∧
                ∀ a, (a < cmdSlot n (s.hub.mb n).cmdTail ∨ cmdSlot n (s.hub.mb n).cmdTail + 64 ≤ a) →
                  t.ring.read a = s.ring.read a))))) ∧
    (s.hub.mgmtUp = true → s.hub.core.restart = false →
      ∃ t, exec (.mctpEidAssign eid) s = .next t ∧ onlyIn [.core, .out] s t ∧ t.hub.core = { s.hub.core with eid := some eid } ∧
        ∃ w, t.hub.out = s.hub.out ++ [OutMsg.mctpControl w])

/-- The SPDM requests of R402. Their codes and their order come from SPDM 1.2 and are the model's presumption (assumption log 61). -/
def Obligations.SpdmRequestsAreAnsweredInTheirOrder : Prop :=
  ∀ (s : State) (p384 sha384 : Bool) (slot : BitVec 4) (off len : BitVec 16) (nonce : BitVec 256) (index : Byte) (signed : Bool)
      (c : Instr) (body : List Byte),
    (s.hub.spdmUp = false →
      c ∈ [Instr.spdmGetVersion, .spdmGetCapabilities, .spdmNegotiateAlgorithms p384 sha384, .spdmGetDigests,
        .spdmGetCertificate slot off len, .spdmChallenge slot nonce, .spdmGetMeasurements index nonce signed] →
      exec c s = .next s) ∧
    (s.hub.spdmUp = true →
      ((∃ t, exec .spdmGetVersion s = .next t ∧ onlyIn [.core, .out] s t ∧
          t.hub.core = { s.hub.core with
            spdmVersion := true
            spdmAlgo := false } ∧
          ∃ w, t.hub.out = s.hub.out ++ [OutMsg.spdm 0x04 w])) ∧
      (s.hub.core.spdmVersion = true →
        (∃ t, exec .spdmGetCapabilities s = .next t ∧ onlyIn [.out] s t ∧ ∃ w, t.hub.out = s.hub.out ++ [OutMsg.spdm 0x61 w]) ∧
        (∃ t, exec (.spdmNegotiateAlgorithms true true) s = .next t ∧ onlyIn [.core, .out] s t ∧
          t.hub.core = { s.hub.core with spdmAlgo := true } ∧ ∃ w, t.hub.out = s.hub.out ++ [OutMsg.spdm 0x63 w]) ∧
        ((p384 = false ∨ sha384 = false) → ∃ t, exec (.spdmNegotiateAlgorithms p384 sha384) s = .next t ∧ onlyIn [.out] s t ∧
          t.hub.out = s.hub.out ++ [OutMsg.spdm 0x7F [0x01]])) ∧
      (s.hub.core.spdmVersion = false →
        c ∈ [Instr.spdmGetCapabilities, .spdmNegotiateAlgorithms p384 sha384] →
        ∃ t, exec c s = .next t ∧ onlyIn [.out] s t ∧ t.hub.out = s.hub.out ++ [OutMsg.spdm 0x7F [0x04]]) ∧
      (s.hub.core.spdmAlgo = false →
        c ∈ [Instr.spdmGetDigests, .spdmGetCertificate slot off len, .spdmChallenge slot nonce, .spdmGetMeasurements index nonce signed] →
        ∃ t, exec c s = .next t ∧ onlyIn [.out] s t ∧ t.hub.out = s.hub.out ++ [OutMsg.spdm 0x7F [0x04]]) ∧
      (s.hub.core.spdmAlgo = true →
        (∃ t, exec .spdmGetDigests s = .next t ∧ onlyIn [.out] s t ∧
          t.hub.out = s.hub.out ++ [OutMsg.spdm 0x01 (digestBytes (Config.chainDigest s.hub.core.codeDig))]) ∧
        (∃ t, exec (.spdmGetCertificate 0 off len) s = .next t ∧ onlyIn [.out] s t ∧
          t.hub.out = s.hub.out ++ [OutMsg.spdm 0x02 (Config.chainBytes s.hub.core.codeDig off len)]) ∧
        (slot ≠ 0 → c ∈ [Instr.spdmGetCertificate slot off len, .spdmChallenge slot nonce] →
          ∃ t, exec c s = .next t ∧ onlyIn [.out] s t ∧ t.hub.out = s.hub.out ++ [OutMsg.spdm 0x7F [0x01]]) ∧
        (s.hub.core.attestOpen = true → body = digestBytes (Config.chainDigest s.hub.core.codeDig) →
          ∃ t, exec (.spdmChallenge 0 nonce) s = .next t ∧ onlyIn [.out, .freeCtr] s t ∧
            ∃ own : List Word, own.length = 4 ∧ t.hub.out = s.hub.out ++ [OutMsg.spdm 0x03 (body ++ (own.flatMap wordBytes ++
              signBytes (Config.sign (Config.sha384 (nonceWords nonce ++ own ++ body.map fun x => x.setWidth 64)))))]) ∧
        (s.hub.core.attestOpen = false → c ∈ [Instr.spdmChallenge 0 nonce, .spdmGetMeasurements index nonce true] →
          (s.measurements index).isSome = true →
          ∃ t, exec c s = .next t ∧ onlyIn [.out] s t ∧ t.hub.out = s.hub.out ++ [OutMsg.spdm 0x7F [0x05]]) ∧
        (5 < index.toNat → index ≠ 0xFF →
          ∃ t, exec (.spdmGetMeasurements index nonce signed) s = .next t ∧ onlyIn [.out] s t ∧
            t.hub.out = s.hub.out ++ [OutMsg.spdm 0x7F [0x01]]) ∧
        (((index = 0 ∧ body = [5]) ∨ (1 ≤ index.toNat ∧ index.toNat ≤ 5 ∧ body = index :: s.measurement index.toNat) ∨
            (index = 0xFF ∧ body = (1 :: s.measurement 1) ++ (2 :: s.measurement 2) ++ (3 :: s.measurement 3) ++
              (4 :: s.measurement 4) ++ (5 :: s.measurement 5))) →
          (∃ t, exec (.spdmGetMeasurements index nonce false) s = .next t ∧ onlyIn [.out] s t ∧
            t.hub.out = s.hub.out ++ [OutMsg.spdm 0x60 body]) ∧
          (s.hub.core.attestOpen = true →
            ∃ t, exec (.spdmGetMeasurements index nonce true) s = .next t ∧ onlyIn [.out, .freeCtr] s t ∧
              ∃ own : List Word, own.length = 4 ∧ t.hub.out = s.hub.out ++ [OutMsg.spdm 0x60 (body ++ (own.flatMap wordBytes ++
                signBytes (Config.sign (Config.sha384 (nonceWords nonce ++ own ++ body.map fun x => x.setWidth 64)))))]))))
end

