-- ==== Sys2Proof/Laws/State.lean ====
section
/-!
SUPPORT. What the named updates of the state leave as it was: one lemma for each update and each field of the hub.
-/
set_option Elab.async false
namespace Sys2Proof.Machine

/-! ### The parts of the state beside the hub -/

@[simp] theorem State.withHub_pending (s : State) (f : Hub → Hub) : (s.withHub f).pending = s.pending := rfl
@[simp] theorem State.withHub_otp (s : State) (f : Hub → Hub) : (s.withHub f).otp = s.otp := rfl
@[simp] theorem State.withHub_ring (s : State) (f : Hub → Hub) : (s.withHub f).ring = s.ring := rfl
@[simp] theorem State.withHub_hub (s : State) (f : Hub → Hub) : (s.withHub f).hub = f s.hub := rfl

/-! ### `onSlice` -/

@[simp] theorem Hub.onSlice_round (h : Hub) (n : Nat) (f : Slice → Slice) : (h.onSlice n f).round = h.round := rfl
@[simp] theorem Hub.onSlice_pins (h : Hub) (n : Nat) (f : Slice → Slice) : (h.onSlice n f).pins = h.pins := rfl
@[simp] theorem Hub.onSlice_start (h : Hub) (n : Nat) (f : Slice → Slice) : (h.onSlice n f).start = h.start := rfl
@[simp] theorem Hub.onSlice_mirror (h : Hub) (n : Nat) (f : Slice → Slice) : (h.onSlice n f).mirror = h.mirror := rfl
@[simp] theorem Hub.onSlice_aon (h : Hub) (n : Nat) (f : Slice → Slice) : (h.onSlice n f).aon = h.aon := rfl
@[simp] theorem Hub.onSlice_par (h : Hub) (n : Nat) (f : Slice → Slice) : (h.onSlice n f).par = h.par := rfl
@[simp] theorem Hub.onSlice_master (h : Hub) (n : Nat) (f : Slice → Slice) : (h.onSlice n f).master = h.master := rfl
@[simp] theorem Hub.onSlice_prot (h : Hub) (n : Nat) (f : Slice → Slice) : (h.onSlice n f).prot = h.prot := rfl
@[simp] theorem Hub.onSlice_mbx (h : Hub) (n : Nat) (f : Slice → Slice) : (h.onSlice n f).mbx = h.mbx := rfl
@[simp] theorem Hub.onSlice_core (h : Hub) (n : Nat) (f : Slice → Slice) : (h.onSlice n f).core = h.core := rfl
@[simp] theorem Hub.onSlice_map (h : Hub) (n : Nat) (f : Slice → Slice) : (h.onSlice n f).map = h.map := rfl
@[simp] theorem Hub.onSlice_spill (h : Hub) (n : Nat) (f : Slice → Slice) : (h.onSlice n f).spill = h.spill := rfl
@[simp] theorem Hub.onSlice_agents (h : Hub) (n : Nat) (f : Slice → Slice) : (h.onSlice n f).agents = h.agents := rfl
@[simp] theorem Hub.onSlice_aps (h : Hub) (n : Nat) (f : Slice → Slice) : (h.onSlice n f).aps = h.aps := rfl
@[simp] theorem Hub.onSlice_mps (h : Hub) (n : Nat) (f : Slice → Slice) : (h.onSlice n f).mps = h.mps := rfl
@[simp] theorem Hub.onSlice_chans (h : Hub) (n : Nat) (f : Slice → Slice) : (h.onSlice n f).chans = h.chans := rfl
@[simp] theorem Hub.onSlice_reads (h : Hub) (n : Nat) (f : Slice → Slice) : (h.onSlice n f).reads = h.reads := rfl
@[simp] theorem Hub.onSlice_sps (h : Hub) (n : Nat) (f : Slice → Slice) : (h.onSlice n f).sps = h.sps := rfl
@[simp] theorem Hub.onSlice_spanReps (h : Hub) (n : Nat) (f : Slice → Slice) : (h.onSlice n f).spanReps = h.spanReps := rfl
@[simp] theorem Hub.onSlice_spanBacks (h : Hub) (n : Nat) (f : Slice → Slice) : (h.onSlice n f).spanBacks = h.spanBacks := rfl
@[simp] theorem Hub.onSlice_waitSnoops (h : Hub) (n : Nat) (f : Slice → Slice) : (h.onSlice n f).waitSnoops = h.waitSnoops := rfl
@[simp] theorem Hub.onSlice_lostHubs (h : Hub) (n : Nat) (f : Slice → Slice) : (h.onSlice n f).lostHubs = h.lostHubs := rfl
@[simp] theorem Hub.onSlice_routeAcks (h : Hub) (n : Nat) (f : Slice → Slice) : (h.onSlice n f).routeAcks = h.routeAcks := rfl
@[simp] theorem Hub.onSlice_routeNew (h : Hub) (n : Nat) (f : Slice → Slice) : (h.onSlice n f).routeNew = h.routeNew := rfl
@[simp] theorem Hub.onSlice_routeOld (h : Hub) (n : Nat) (f : Slice → Slice) : (h.onSlice n f).routeOld = h.routeOld := rfl
@[simp] theorem Hub.onSlice_spanEpoch (h : Hub) (n : Nat) (f : Slice → Slice) : (h.onSlice n f).spanEpoch = h.spanEpoch := rfl
@[simp] theorem Hub.onSlice_records (h : Hub) (n : Nat) (f : Slice → Slice) : (h.onSlice n f).records = h.records := rfl
@[simp] theorem Hub.onSlice_lapses (h : Hub) (n : Nat) (f : Slice → Slice) : (h.onSlice n f).lapses = h.lapses := rfl
@[simp] theorem Hub.onSlice_rsvRecs (h : Hub) (n : Nat) (f : Slice → Slice) : (h.onSlice n f).rsvRecs = h.rsvRecs := rfl
@[simp] theorem Hub.onSlice_rsvNotes (h : Hub) (n : Nat) (f : Slice → Slice) : (h.onSlice n f).rsvNotes = h.rsvNotes := rfl
@[simp] theorem Hub.onSlice_notices (h : Hub) (n : Nat) (f : Slice → Slice) : (h.onSlice n f).notices = h.notices := rfl
@[simp] theorem Hub.onSlice_chNotes (h : Hub) (n : Nat) (f : Slice → Slice) : (h.onSlice n f).chNotes = h.chNotes := rfl
@[simp] theorem Hub.onSlice_slots (h : Hub) (n : Nat) (f : Slice → Slice) : (h.onSlice n f).slots = h.slots := rfl
@[simp] theorem Hub.onSlice_pointer (h : Hub) (n : Nat) (f : Slice → Slice) : (h.onSlice n f).pointer = h.pointer := rfl
@[simp] theorem Hub.onSlice_dev (h : Hub) (n : Nat) (f : Slice → Slice) : (h.onSlice n f).dev = h.dev := rfl
@[simp] theorem Hub.onSlice_epoch (h : Hub) (n : Nat) (f : Slice → Slice) : (h.onSlice n f).epoch = h.epoch := rfl
@[simp] theorem Hub.onSlice_arbs (h : Hub) (n : Nat) (f : Slice → Slice) : (h.onSlice n f).arbs = h.arbs := rfl
@[simp] theorem Hub.onSlice_power (h : Hub) (n : Nat) (f : Slice → Slice) : (h.onSlice n f).power = h.power := rfl
@[simp] theorem Hub.onSlice_rot (h : Hub) (n : Nat) (f : Slice → Slice) : (h.onSlice n f).rot = h.rot := rfl
@[simp] theorem Hub.onSlice_events (h : Hub) (n : Nat) (f : Slice → Slice) : (h.onSlice n f).events = h.events := rfl
@[simp] theorem Hub.onSlice_pmc (h : Hub) (n : Nat) (f : Slice → Slice) : (h.onSlice n f).pmc = h.pmc := rfl
@[simp] theorem Hub.onSlice_prefetchNotes (h : Hub) (n : Nat) (f : Slice → Slice) : (h.onSlice n f).prefetchNotes = h.prefetchNotes := rfl
@[simp] theorem Hub.onSlice_freeCtr (h : Hub) (n : Nat) (f : Slice → Slice) : (h.onSlice n f).freeCtr = h.freeCtr := rfl
@[simp] theorem Hub.onSlice_out (h : Hub) (n : Nat) (f : Slice → Slice) : (h.onSlice n f).out = h.out := rfl

/-! ### `onTxn` -/

@[simp] theorem Hub.onTxn_round (h : Hub) (n : Nat) (tid : Byte) (f : Txn → Txn) : (h.onTxn n tid f).round = h.round := rfl
@[simp] theorem Hub.onTxn_pins (h : Hub) (n : Nat) (tid : Byte) (f : Txn → Txn) : (h.onTxn n tid f).pins = h.pins := rfl
@[simp] theorem Hub.onTxn_start (h : Hub) (n : Nat) (tid : Byte) (f : Txn → Txn) : (h.onTxn n tid f).start = h.start := rfl
@[simp] theorem Hub.onTxn_mirror (h : Hub) (n : Nat) (tid : Byte) (f : Txn → Txn) : (h.onTxn n tid f).mirror = h.mirror := rfl
@[simp] theorem Hub.onTxn_aon (h : Hub) (n : Nat) (tid : Byte) (f : Txn → Txn) : (h.onTxn n tid f).aon = h.aon := rfl
@[simp] theorem Hub.onTxn_par (h : Hub) (n : Nat) (tid : Byte) (f : Txn → Txn) : (h.onTxn n tid f).par = h.par := rfl
@[simp] theorem Hub.onTxn_master (h : Hub) (n : Nat) (tid : Byte) (f : Txn → Txn) : (h.onTxn n tid f).master = h.master := rfl
@[simp] theorem Hub.onTxn_prot (h : Hub) (n : Nat) (tid : Byte) (f : Txn → Txn) : (h.onTxn n tid f).prot = h.prot := rfl
@[simp] theorem Hub.onTxn_mbx (h : Hub) (n : Nat) (tid : Byte) (f : Txn → Txn) : (h.onTxn n tid f).mbx = h.mbx := rfl
@[simp] theorem Hub.onTxn_core (h : Hub) (n : Nat) (tid : Byte) (f : Txn → Txn) : (h.onTxn n tid f).core = h.core := rfl
@[simp] theorem Hub.onTxn_map (h : Hub) (n : Nat) (tid : Byte) (f : Txn → Txn) : (h.onTxn n tid f).map = h.map := rfl
@[simp] theorem Hub.onTxn_spill (h : Hub) (n : Nat) (tid : Byte) (f : Txn → Txn) : (h.onTxn n tid f).spill = h.spill := rfl
@[simp] theorem Hub.onTxn_agents (h : Hub) (n : Nat) (tid : Byte) (f : Txn → Txn) : (h.onTxn n tid f).agents = h.agents := rfl
@[simp] theorem Hub.onTxn_aps (h : Hub) (n : Nat) (tid : Byte) (f : Txn → Txn) : (h.onTxn n tid f).aps = h.aps := rfl
@[simp] theorem Hub.onTxn_mps (h : Hub) (n : Nat) (tid : Byte) (f : Txn → Txn) : (h.onTxn n tid f).mps = h.mps := rfl
@[simp] theorem Hub.onTxn_chans (h : Hub) (n : Nat) (tid : Byte) (f : Txn → Txn) : (h.onTxn n tid f).chans = h.chans := rfl
@[simp] theorem Hub.onTxn_reads (h : Hub) (n : Nat) (tid : Byte) (f : Txn → Txn) : (h.onTxn n tid f).reads = h.reads := rfl
@[simp] theorem Hub.onTxn_sps (h : Hub) (n : Nat) (tid : Byte) (f : Txn → Txn) : (h.onTxn n tid f).sps = h.sps := rfl
@[simp] theorem Hub.onTxn_spanReps (h : Hub) (n : Nat) (tid : Byte) (f : Txn → Txn) : (h.onTxn n tid f).spanReps = h.spanReps := rfl
@[simp] theorem Hub.onTxn_spanBacks (h : Hub) (n : Nat) (tid : Byte) (f : Txn → Txn) : (h.onTxn n tid f).spanBacks = h.spanBacks := rfl
@[simp] theorem Hub.onTxn_waitSnoops (h : Hub) (n : Nat) (tid : Byte) (f : Txn → Txn) : (h.onTxn n tid f).waitSnoops = h.waitSnoops := rfl
@[simp] theorem Hub.onTxn_lostHubs (h : Hub) (n : Nat) (tid : Byte) (f : Txn → Txn) : (h.onTxn n tid f).lostHubs = h.lostHubs := rfl
@[simp] theorem Hub.onTxn_routeAcks (h : Hub) (n : Nat) (tid : Byte) (f : Txn → Txn) : (h.onTxn n tid f).routeAcks = h.routeAcks := rfl
@[simp] theorem Hub.onTxn_routeNew (h : Hub) (n : Nat) (tid : Byte) (f : Txn → Txn) : (h.onTxn n tid f).routeNew = h.routeNew := rfl
@[simp] theorem Hub.onTxn_routeOld (h : Hub) (n : Nat) (tid : Byte) (f : Txn → Txn) : (h.onTxn n tid f).routeOld = h.routeOld := rfl
@[simp] theorem Hub.onTxn_spanEpoch (h : Hub) (n : Nat) (tid : Byte) (f : Txn → Txn) : (h.onTxn n tid f).spanEpoch = h.spanEpoch := rfl
@[simp] theorem Hub.onTxn_records (h : Hub) (n : Nat) (tid : Byte) (f : Txn → Txn) : (h.onTxn n tid f).records = h.records := rfl
@[simp] theorem Hub.onTxn_lapses (h : Hub) (n : Nat) (tid : Byte) (f : Txn → Txn) : (h.onTxn n tid f).lapses = h.lapses := rfl
@[simp] theorem Hub.onTxn_rsvRecs (h : Hub) (n : Nat) (tid : Byte) (f : Txn → Txn) : (h.onTxn n tid f).rsvRecs = h.rsvRecs := rfl
@[simp] theorem Hub.onTxn_rsvNotes (h : Hub) (n : Nat) (tid : Byte) (f : Txn → Txn) : (h.onTxn n tid f).rsvNotes = h.rsvNotes := rfl
@[simp] theorem Hub.onTxn_notices (h : Hub) (n : Nat) (tid : Byte) (f : Txn → Txn) : (h.onTxn n tid f).notices = h.notices := rfl
@[simp] theorem Hub.onTxn_chNotes (h : Hub) (n : Nat) (tid : Byte) (f : Txn → Txn) : (h.onTxn n tid f).chNotes = h.chNotes := rfl
@[simp] theorem Hub.onTxn_slots (h : Hub) (n : Nat) (tid : Byte) (f : Txn → Txn) : (h.onTxn n tid f).slots = h.slots := rfl
@[simp] theorem Hub.onTxn_pointer (h : Hub) (n : Nat) (tid : Byte) (f : Txn → Txn) : (h.onTxn n tid f).pointer = h.pointer := rfl
@[simp] theorem Hub.onTxn_dev (h : Hub) (n : Nat) (tid : Byte) (f : Txn → Txn) : (h.onTxn n tid f).dev = h.dev := rfl
@[simp] theorem Hub.onTxn_epoch (h : Hub) (n : Nat) (tid : Byte) (f : Txn → Txn) : (h.onTxn n tid f).epoch = h.epoch := rfl
@[simp] theorem Hub.onTxn_arbs (h : Hub) (n : Nat) (tid : Byte) (f : Txn → Txn) : (h.onTxn n tid f).arbs = h.arbs := rfl
@[simp] theorem Hub.onTxn_power (h : Hub) (n : Nat) (tid : Byte) (f : Txn → Txn) : (h.onTxn n tid f).power = h.power := rfl
@[simp] theorem Hub.onTxn_rot (h : Hub) (n : Nat) (tid : Byte) (f : Txn → Txn) : (h.onTxn n tid f).rot = h.rot := rfl
@[simp] theorem Hub.onTxn_events (h : Hub) (n : Nat) (tid : Byte) (f : Txn → Txn) : (h.onTxn n tid f).events = h.events := rfl
@[simp] theorem Hub.onTxn_pmc (h : Hub) (n : Nat) (tid : Byte) (f : Txn → Txn) : (h.onTxn n tid f).pmc = h.pmc := rfl
@[simp] theorem Hub.onTxn_prefetchNotes (h : Hub) (n : Nat) (tid : Byte) (f : Txn → Txn) : (h.onTxn n tid f).prefetchNotes = h.prefetchNotes := rfl
@[simp] theorem Hub.onTxn_freeCtr (h : Hub) (n : Nat) (tid : Byte) (f : Txn → Txn) : (h.onTxn n tid f).freeCtr = h.freeCtr := rfl
@[simp] theorem Hub.onTxn_out (h : Hub) (n : Nat) (tid : Byte) (f : Txn → Txn) : (h.onTxn n tid f).out = h.out := rfl

/-! ### `onAp` -/

@[simp] theorem Hub.onAp_round (h : Hub) (p : BitVec 4) (f : ApPort → ApPort) : (h.onAp p f).round = h.round := rfl
@[simp] theorem Hub.onAp_pins (h : Hub) (p : BitVec 4) (f : ApPort → ApPort) : (h.onAp p f).pins = h.pins := rfl
@[simp] theorem Hub.onAp_start (h : Hub) (p : BitVec 4) (f : ApPort → ApPort) : (h.onAp p f).start = h.start := rfl
@[simp] theorem Hub.onAp_mirror (h : Hub) (p : BitVec 4) (f : ApPort → ApPort) : (h.onAp p f).mirror = h.mirror := rfl
@[simp] theorem Hub.onAp_aon (h : Hub) (p : BitVec 4) (f : ApPort → ApPort) : (h.onAp p f).aon = h.aon := rfl
@[simp] theorem Hub.onAp_par (h : Hub) (p : BitVec 4) (f : ApPort → ApPort) : (h.onAp p f).par = h.par := rfl
@[simp] theorem Hub.onAp_master (h : Hub) (p : BitVec 4) (f : ApPort → ApPort) : (h.onAp p f).master = h.master := rfl
@[simp] theorem Hub.onAp_prot (h : Hub) (p : BitVec 4) (f : ApPort → ApPort) : (h.onAp p f).prot = h.prot := rfl
@[simp] theorem Hub.onAp_mbx (h : Hub) (p : BitVec 4) (f : ApPort → ApPort) : (h.onAp p f).mbx = h.mbx := rfl
@[simp] theorem Hub.onAp_core (h : Hub) (p : BitVec 4) (f : ApPort → ApPort) : (h.onAp p f).core = h.core := rfl
@[simp] theorem Hub.onAp_map (h : Hub) (p : BitVec 4) (f : ApPort → ApPort) : (h.onAp p f).map = h.map := rfl
@[simp] theorem Hub.onAp_slices (h : Hub) (p : BitVec 4) (f : ApPort → ApPort) : (h.onAp p f).slices = h.slices := rfl
@[simp] theorem Hub.onAp_spill (h : Hub) (p : BitVec 4) (f : ApPort → ApPort) : (h.onAp p f).spill = h.spill := rfl
@[simp] theorem Hub.onAp_agents (h : Hub) (p : BitVec 4) (f : ApPort → ApPort) : (h.onAp p f).agents = h.agents := rfl
@[simp] theorem Hub.onAp_mps (h : Hub) (p : BitVec 4) (f : ApPort → ApPort) : (h.onAp p f).mps = h.mps := rfl
@[simp] theorem Hub.onAp_chans (h : Hub) (p : BitVec 4) (f : ApPort → ApPort) : (h.onAp p f).chans = h.chans := rfl
@[simp] theorem Hub.onAp_reads (h : Hub) (p : BitVec 4) (f : ApPort → ApPort) : (h.onAp p f).reads = h.reads := rfl
@[simp] theorem Hub.onAp_sps (h : Hub) (p : BitVec 4) (f : ApPort → ApPort) : (h.onAp p f).sps = h.sps := rfl
@[simp] theorem Hub.onAp_spanReps (h : Hub) (p : BitVec 4) (f : ApPort → ApPort) : (h.onAp p f).spanReps = h.spanReps := rfl
@[simp] theorem Hub.onAp_spanBacks (h : Hub) (p : BitVec 4) (f : ApPort → ApPort) : (h.onAp p f).spanBacks = h.spanBacks := rfl
@[simp] theorem Hub.onAp_waitSnoops (h : Hub) (p : BitVec 4) (f : ApPort → ApPort) : (h.onAp p f).waitSnoops = h.waitSnoops := rfl
@[simp] theorem Hub.onAp_lostHubs (h : Hub) (p : BitVec 4) (f : ApPort → ApPort) : (h.onAp p f).lostHubs = h.lostHubs := rfl
@[simp] theorem Hub.onAp_routeAcks (h : Hub) (p : BitVec 4) (f : ApPort → ApPort) : (h.onAp p f).routeAcks = h.routeAcks := rfl
@[simp] theorem Hub.onAp_routeNew (h : Hub) (p : BitVec 4) (f : ApPort → ApPort) : (h.onAp p f).routeNew = h.routeNew := rfl
@[simp] theorem Hub.onAp_routeOld (h : Hub) (p : BitVec 4) (f : ApPort → ApPort) : (h.onAp p f).routeOld = h.routeOld := rfl
@[simp] theorem Hub.onAp_spanEpoch (h : Hub) (p : BitVec 4) (f : ApPort → ApPort) : (h.onAp p f).spanEpoch = h.spanEpoch := rfl
@[simp] theorem Hub.onAp_records (h : Hub) (p : BitVec 4) (f : ApPort → ApPort) : (h.onAp p f).records = h.records := rfl
@[simp] theorem Hub.onAp_lapses (h : Hub) (p : BitVec 4) (f : ApPort → ApPort) : (h.onAp p f).lapses = h.lapses := rfl
@[simp] theorem Hub.onAp_rsvRecs (h : Hub) (p : BitVec 4) (f : ApPort → ApPort) : (h.onAp p f).rsvRecs = h.rsvRecs := rfl
@[simp] theorem Hub.onAp_rsvNotes (h : Hub) (p : BitVec 4) (f : ApPort → ApPort) : (h.onAp p f).rsvNotes = h.rsvNotes := rfl
@[simp] theorem Hub.onAp_notices (h : Hub) (p : BitVec 4) (f : ApPort → ApPort) : (h.onAp p f).notices = h.notices := rfl
@[simp] theorem Hub.onAp_chNotes (h : Hub) (p : BitVec 4) (f : ApPort → ApPort) : (h.onAp p f).chNotes = h.chNotes := rfl
@[simp] theorem Hub.onAp_slots (h : Hub) (p : BitVec 4) (f : ApPort → ApPort) : (h.onAp p f).slots = h.slots := rfl
@[simp] theorem Hub.onAp_pointer (h : Hub) (p : BitVec 4) (f : ApPort → ApPort) : (h.onAp p f).pointer = h.pointer := rfl
@[simp] theorem Hub.onAp_dev (h : Hub) (p : BitVec 4) (f : ApPort → ApPort) : (h.onAp p f).dev = h.dev := rfl
@[simp] theorem Hub.onAp_epoch (h : Hub) (p : BitVec 4) (f : ApPort → ApPort) : (h.onAp p f).epoch = h.epoch := rfl
@[simp] theorem Hub.onAp_arbs (h : Hub) (p : BitVec 4) (f : ApPort → ApPort) : (h.onAp p f).arbs = h.arbs := rfl
@[simp] theorem Hub.onAp_power (h : Hub) (p : BitVec 4) (f : ApPort → ApPort) : (h.onAp p f).power = h.power := rfl
@[simp] theorem Hub.onAp_rot (h : Hub) (p : BitVec 4) (f : ApPort → ApPort) : (h.onAp p f).rot = h.rot := rfl
@[simp] theorem Hub.onAp_events (h : Hub) (p : BitVec 4) (f : ApPort → ApPort) : (h.onAp p f).events = h.events := rfl
@[simp] theorem Hub.onAp_pmc (h : Hub) (p : BitVec 4) (f : ApPort → ApPort) : (h.onAp p f).pmc = h.pmc := rfl
@[simp] theorem Hub.onAp_prefetchNotes (h : Hub) (p : BitVec 4) (f : ApPort → ApPort) : (h.onAp p f).prefetchNotes = h.prefetchNotes := rfl
@[simp] theorem Hub.onAp_freeCtr (h : Hub) (p : BitVec 4) (f : ApPort → ApPort) : (h.onAp p f).freeCtr = h.freeCtr := rfl
@[simp] theorem Hub.onAp_out (h : Hub) (p : BitVec 4) (f : ApPort → ApPort) : (h.onAp p f).out = h.out := rfl

/-! ### `onAgent` -/

@[simp] theorem Hub.onAgent_round (h : Hub) (a : La) (f : Agent → Agent) : (h.onAgent a f).round = h.round := rfl
@[simp] theorem Hub.onAgent_pins (h : Hub) (a : La) (f : Agent → Agent) : (h.onAgent a f).pins = h.pins := rfl
@[simp] theorem Hub.onAgent_start (h : Hub) (a : La) (f : Agent → Agent) : (h.onAgent a f).start = h.start := rfl
@[simp] theorem Hub.onAgent_mirror (h : Hub) (a : La) (f : Agent → Agent) : (h.onAgent a f).mirror = h.mirror := rfl
@[simp] theorem Hub.onAgent_aon (h : Hub) (a : La) (f : Agent → Agent) : (h.onAgent a f).aon = h.aon := rfl
@[simp] theorem Hub.onAgent_par (h : Hub) (a : La) (f : Agent → Agent) : (h.onAgent a f).par = h.par := rfl
@[simp] theorem Hub.onAgent_master (h : Hub) (a : La) (f : Agent → Agent) : (h.onAgent a f).master = h.master := rfl
@[simp] theorem Hub.onAgent_prot (h : Hub) (a : La) (f : Agent → Agent) : (h.onAgent a f).prot = h.prot := rfl
@[simp] theorem Hub.onAgent_mbx (h : Hub) (a : La) (f : Agent → Agent) : (h.onAgent a f).mbx = h.mbx := rfl
@[simp] theorem Hub.onAgent_core (h : Hub) (a : La) (f : Agent → Agent) : (h.onAgent a f).core = h.core := rfl
@[simp] theorem Hub.onAgent_map (h : Hub) (a : La) (f : Agent → Agent) : (h.onAgent a f).map = h.map := rfl
@[simp] theorem Hub.onAgent_slices (h : Hub) (a : La) (f : Agent → Agent) : (h.onAgent a f).slices = h.slices := rfl
@[simp] theorem Hub.onAgent_spill (h : Hub) (a : La) (f : Agent → Agent) : (h.onAgent a f).spill = h.spill := rfl
@[simp] theorem Hub.onAgent_aps (h : Hub) (a : La) (f : Agent → Agent) : (h.onAgent a f).aps = h.aps := rfl
@[simp] theorem Hub.onAgent_mps (h : Hub) (a : La) (f : Agent → Agent) : (h.onAgent a f).mps = h.mps := rfl
@[simp] theorem Hub.onAgent_chans (h : Hub) (a : La) (f : Agent → Agent) : (h.onAgent a f).chans = h.chans := rfl
@[simp] theorem Hub.onAgent_reads (h : Hub) (a : La) (f : Agent → Agent) : (h.onAgent a f).reads = h.reads := rfl
@[simp] theorem Hub.onAgent_sps (h : Hub) (a : La) (f : Agent → Agent) : (h.onAgent a f).sps = h.sps := rfl
@[simp] theorem Hub.onAgent_spanReps (h : Hub) (a : La) (f : Agent → Agent) : (h.onAgent a f).spanReps = h.spanReps := rfl
@[simp] theorem Hub.onAgent_spanBacks (h : Hub) (a : La) (f : Agent → Agent) : (h.onAgent a f).spanBacks = h.spanBacks := rfl
@[simp] theorem Hub.onAgent_waitSnoops (h : Hub) (a : La) (f : Agent → Agent) : (h.onAgent a f).waitSnoops = h.waitSnoops := rfl
@[simp] theorem Hub.onAgent_lostHubs (h : Hub) (a : La) (f : Agent → Agent) : (h.onAgent a f).lostHubs = h.lostHubs := rfl
@[simp] theorem Hub.onAgent_routeAcks (h : Hub) (a : La) (f : Agent → Agent) : (h.onAgent a f).routeAcks = h.routeAcks := rfl
@[simp] theorem Hub.onAgent_routeNew (h : Hub) (a : La) (f : Agent → Agent) : (h.onAgent a f).routeNew = h.routeNew := rfl
@[simp] theorem Hub.onAgent_routeOld (h : Hub) (a : La) (f : Agent → Agent) : (h.onAgent a f).routeOld = h.routeOld := rfl
@[simp] theorem Hub.onAgent_spanEpoch (h : Hub) (a : La) (f : Agent → Agent) : (h.onAgent a f).spanEpoch = h.spanEpoch := rfl
@[simp] theorem Hub.onAgent_records (h : Hub) (a : La) (f : Agent → Agent) : (h.onAgent a f).records = h.records := rfl
@[simp] theorem Hub.onAgent_lapses (h : Hub) (a : La) (f : Agent → Agent) : (h.onAgent a f).lapses = h.lapses := rfl
@[simp] theorem Hub.onAgent_rsvRecs (h : Hub) (a : La) (f : Agent → Agent) : (h.onAgent a f).rsvRecs = h.rsvRecs := rfl
@[simp] theorem Hub.onAgent_rsvNotes (h : Hub) (a : La) (f : Agent → Agent) : (h.onAgent a f).rsvNotes = h.rsvNotes := rfl
@[simp] theorem Hub.onAgent_notices (h : Hub) (a : La) (f : Agent → Agent) : (h.onAgent a f).notices = h.notices := rfl
@[simp] theorem Hub.onAgent_chNotes (h : Hub) (a : La) (f : Agent → Agent) : (h.onAgent a f).chNotes = h.chNotes := rfl
@[simp] theorem Hub.onAgent_slots (h : Hub) (a : La) (f : Agent → Agent) : (h.onAgent a f).slots = h.slots := rfl
@[simp] theorem Hub.onAgent_pointer (h : Hub) (a : La) (f : Agent → Agent) : (h.onAgent a f).pointer = h.pointer := rfl
@[simp] theorem Hub.onAgent_dev (h : Hub) (a : La) (f : Agent → Agent) : (h.onAgent a f).dev = h.dev := rfl
@[simp] theorem Hub.onAgent_epoch (h : Hub) (a : La) (f : Agent → Agent) : (h.onAgent a f).epoch = h.epoch := rfl
@[simp] theorem Hub.onAgent_arbs (h : Hub) (a : La) (f : Agent → Agent) : (h.onAgent a f).arbs = h.arbs := rfl
@[simp] theorem Hub.onAgent_power (h : Hub) (a : La) (f : Agent → Agent) : (h.onAgent a f).power = h.power := rfl
@[simp] theorem Hub.onAgent_rot (h : Hub) (a : La) (f : Agent → Agent) : (h.onAgent a f).rot = h.rot := rfl
@[simp] theorem Hub.onAgent_events (h : Hub) (a : La) (f : Agent → Agent) : (h.onAgent a f).events = h.events := rfl
@[simp] theorem Hub.onAgent_pmc (h : Hub) (a : La) (f : Agent → Agent) : (h.onAgent a f).pmc = h.pmc := rfl
@[simp] theorem Hub.onAgent_prefetchNotes (h : Hub) (a : La) (f : Agent → Agent) : (h.onAgent a f).prefetchNotes = h.prefetchNotes := rfl
@[simp] theorem Hub.onAgent_freeCtr (h : Hub) (a : La) (f : Agent → Agent) : (h.onAgent a f).freeCtr = h.freeCtr := rfl
@[simp] theorem Hub.onAgent_out (h : Hub) (a : La) (f : Agent → Agent) : (h.onAgent a f).out = h.out := rfl

/-! ### `onSp` -/

@[simp] theorem Hub.onSp_round (h : Hub) (n : BitVec 3) (f : SpPort → SpPort) : (h.onSp n f).round = h.round := rfl
@[simp] theorem Hub.onSp_pins (h : Hub) (n : BitVec 3) (f : SpPort → SpPort) : (h.onSp n f).pins = h.pins := rfl
@[simp] theorem Hub.onSp_start (h : Hub) (n : BitVec 3) (f : SpPort → SpPort) : (h.onSp n f).start = h.start := rfl
@[simp] theorem Hub.onSp_mirror (h : Hub) (n : BitVec 3) (f : SpPort → SpPort) : (h.onSp n f).mirror = h.mirror := rfl
@[simp] theorem Hub.onSp_aon (h : Hub) (n : BitVec 3) (f : SpPort → SpPort) : (h.onSp n f).aon = h.aon := rfl
@[simp] theorem Hub.onSp_par (h : Hub) (n : BitVec 3) (f : SpPort → SpPort) : (h.onSp n f).par = h.par := rfl
@[simp] theorem Hub.onSp_master (h : Hub) (n : BitVec 3) (f : SpPort → SpPort) : (h.onSp n f).master = h.master := rfl
@[simp] theorem Hub.onSp_prot (h : Hub) (n : BitVec 3) (f : SpPort → SpPort) : (h.onSp n f).prot = h.prot := rfl
@[simp] theorem Hub.onSp_mbx (h : Hub) (n : BitVec 3) (f : SpPort → SpPort) : (h.onSp n f).mbx = h.mbx := rfl
@[simp] theorem Hub.onSp_core (h : Hub) (n : BitVec 3) (f : SpPort → SpPort) : (h.onSp n f).core = h.core := rfl
@[simp] theorem Hub.onSp_map (h : Hub) (n : BitVec 3) (f : SpPort → SpPort) : (h.onSp n f).map = h.map := rfl
@[simp] theorem Hub.onSp_slices (h : Hub) (n : BitVec 3) (f : SpPort → SpPort) : (h.onSp n f).slices = h.slices := rfl
@[simp] theorem Hub.onSp_spill (h : Hub) (n : BitVec 3) (f : SpPort → SpPort) : (h.onSp n f).spill = h.spill := rfl
@[simp] theorem Hub.onSp_agents (h : Hub) (n : BitVec 3) (f : SpPort → SpPort) : (h.onSp n f).agents = h.agents := rfl
@[simp] theorem Hub.onSp_aps (h : Hub) (n : BitVec 3) (f : SpPort → SpPort) : (h.onSp n f).aps = h.aps := rfl
@[simp] theorem Hub.onSp_mps (h : Hub) (n : BitVec 3) (f : SpPort → SpPort) : (h.onSp n f).mps = h.mps := rfl
@[simp] theorem Hub.onSp_chans (h : Hub) (n : BitVec 3) (f : SpPort → SpPort) : (h.onSp n f).chans = h.chans := rfl
@[simp] theorem Hub.onSp_reads (h : Hub) (n : BitVec 3) (f : SpPort → SpPort) : (h.onSp n f).reads = h.reads := rfl
@[simp] theorem Hub.onSp_spanReps (h : Hub) (n : BitVec 3) (f : SpPort → SpPort) : (h.onSp n f).spanReps = h.spanReps := rfl
@[simp] theorem Hub.onSp_spanBacks (h : Hub) (n : BitVec 3) (f : SpPort → SpPort) : (h.onSp n f).spanBacks = h.spanBacks := rfl
@[simp] theorem Hub.onSp_waitSnoops (h : Hub) (n : BitVec 3) (f : SpPort → SpPort) : (h.onSp n f).waitSnoops = h.waitSnoops := rfl
@[simp] theorem Hub.onSp_lostHubs (h : Hub) (n : BitVec 3) (f : SpPort → SpPort) : (h.onSp n f).lostHubs = h.lostHubs := rfl
@[simp] theorem Hub.onSp_routeAcks (h : Hub) (n : BitVec 3) (f : SpPort → SpPort) : (h.onSp n f).routeAcks = h.routeAcks := rfl
@[simp] theorem Hub.onSp_routeNew (h : Hub) (n : BitVec 3) (f : SpPort → SpPort) : (h.onSp n f).routeNew = h.routeNew := rfl
@[simp] theorem Hub.onSp_routeOld (h : Hub) (n : BitVec 3) (f : SpPort → SpPort) : (h.onSp n f).routeOld = h.routeOld := rfl
@[simp] theorem Hub.onSp_spanEpoch (h : Hub) (n : BitVec 3) (f : SpPort → SpPort) : (h.onSp n f).spanEpoch = h.spanEpoch := rfl
@[simp] theorem Hub.onSp_records (h : Hub) (n : BitVec 3) (f : SpPort → SpPort) : (h.onSp n f).records = h.records := rfl
@[simp] theorem Hub.onSp_lapses (h : Hub) (n : BitVec 3) (f : SpPort → SpPort) : (h.onSp n f).lapses = h.lapses := rfl
@[simp] theorem Hub.onSp_rsvRecs (h : Hub) (n : BitVec 3) (f : SpPort → SpPort) : (h.onSp n f).rsvRecs = h.rsvRecs := rfl
@[simp] theorem Hub.onSp_rsvNotes (h : Hub) (n : BitVec 3) (f : SpPort → SpPort) : (h.onSp n f).rsvNotes = h.rsvNotes := rfl
@[simp] theorem Hub.onSp_notices (h : Hub) (n : BitVec 3) (f : SpPort → SpPort) : (h.onSp n f).notices = h.notices := rfl
@[simp] theorem Hub.onSp_chNotes (h : Hub) (n : BitVec 3) (f : SpPort → SpPort) : (h.onSp n f).chNotes = h.chNotes := rfl
@[simp] theorem Hub.onSp_slots (h : Hub) (n : BitVec 3) (f : SpPort → SpPort) : (h.onSp n f).slots = h.slots := rfl
@[simp] theorem Hub.onSp_pointer (h : Hub) (n : BitVec 3) (f : SpPort → SpPort) : (h.onSp n f).pointer = h.pointer := rfl
@[simp] theorem Hub.onSp_dev (h : Hub) (n : BitVec 3) (f : SpPort → SpPort) : (h.onSp n f).dev = h.dev := rfl
@[simp] theorem Hub.onSp_epoch (h : Hub) (n : BitVec 3) (f : SpPort → SpPort) : (h.onSp n f).epoch = h.epoch := rfl
@[simp] theorem Hub.onSp_arbs (h : Hub) (n : BitVec 3) (f : SpPort → SpPort) : (h.onSp n f).arbs = h.arbs := rfl
@[simp] theorem Hub.onSp_power (h : Hub) (n : BitVec 3) (f : SpPort → SpPort) : (h.onSp n f).power = h.power := rfl
@[simp] theorem Hub.onSp_rot (h : Hub) (n : BitVec 3) (f : SpPort → SpPort) : (h.onSp n f).rot = h.rot := rfl
@[simp] theorem Hub.onSp_events (h : Hub) (n : BitVec 3) (f : SpPort → SpPort) : (h.onSp n f).events = h.events := rfl
@[simp] theorem Hub.onSp_pmc (h : Hub) (n : BitVec 3) (f : SpPort → SpPort) : (h.onSp n f).pmc = h.pmc := rfl
@[simp] theorem Hub.onSp_prefetchNotes (h : Hub) (n : BitVec 3) (f : SpPort → SpPort) : (h.onSp n f).prefetchNotes = h.prefetchNotes := rfl
@[simp] theorem Hub.onSp_freeCtr (h : Hub) (n : BitVec 3) (f : SpPort → SpPort) : (h.onSp n f).freeCtr = h.freeCtr := rfl
@[simp] theorem Hub.onSp_out (h : Hub) (n : BitVec 3) (f : SpPort → SpPort) : (h.onSp n f).out = h.out := rfl

/-! ### `onMb` -/

@[simp] theorem Hub.onMb_round (h : Hub) (n : BitVec 3) (f : Mbx → Mbx) : (h.onMb n f).round = h.round := rfl
@[simp] theorem Hub.onMb_pins (h : Hub) (n : BitVec 3) (f : Mbx → Mbx) : (h.onMb n f).pins = h.pins := rfl
@[simp] theorem Hub.onMb_start (h : Hub) (n : BitVec 3) (f : Mbx → Mbx) : (h.onMb n f).start = h.start := rfl
@[simp] theorem Hub.onMb_mirror (h : Hub) (n : BitVec 3) (f : Mbx → Mbx) : (h.onMb n f).mirror = h.mirror := rfl
@[simp] theorem Hub.onMb_aon (h : Hub) (n : BitVec 3) (f : Mbx → Mbx) : (h.onMb n f).aon = h.aon := rfl
@[simp] theorem Hub.onMb_par (h : Hub) (n : BitVec 3) (f : Mbx → Mbx) : (h.onMb n f).par = h.par := rfl
@[simp] theorem Hub.onMb_master (h : Hub) (n : BitVec 3) (f : Mbx → Mbx) : (h.onMb n f).master = h.master := rfl
@[simp] theorem Hub.onMb_prot (h : Hub) (n : BitVec 3) (f : Mbx → Mbx) : (h.onMb n f).prot = h.prot := rfl
@[simp] theorem Hub.onMb_core (h : Hub) (n : BitVec 3) (f : Mbx → Mbx) : (h.onMb n f).core = h.core := rfl
@[simp] theorem Hub.onMb_map (h : Hub) (n : BitVec 3) (f : Mbx → Mbx) : (h.onMb n f).map = h.map := rfl
@[simp] theorem Hub.onMb_slices (h : Hub) (n : BitVec 3) (f : Mbx → Mbx) : (h.onMb n f).slices = h.slices := rfl
@[simp] theorem Hub.onMb_spill (h : Hub) (n : BitVec 3) (f : Mbx → Mbx) : (h.onMb n f).spill = h.spill := rfl
@[simp] theorem Hub.onMb_agents (h : Hub) (n : BitVec 3) (f : Mbx → Mbx) : (h.onMb n f).agents = h.agents := rfl
@[simp] theorem Hub.onMb_aps (h : Hub) (n : BitVec 3) (f : Mbx → Mbx) : (h.onMb n f).aps = h.aps := rfl
@[simp] theorem Hub.onMb_mps (h : Hub) (n : BitVec 3) (f : Mbx → Mbx) : (h.onMb n f).mps = h.mps := rfl
@[simp] theorem Hub.onMb_chans (h : Hub) (n : BitVec 3) (f : Mbx → Mbx) : (h.onMb n f).chans = h.chans := rfl
@[simp] theorem Hub.onMb_reads (h : Hub) (n : BitVec 3) (f : Mbx → Mbx) : (h.onMb n f).reads = h.reads := rfl
@[simp] theorem Hub.onMb_sps (h : Hub) (n : BitVec 3) (f : Mbx → Mbx) : (h.onMb n f).sps = h.sps := rfl
@[simp] theorem Hub.onMb_spanReps (h : Hub) (n : BitVec 3) (f : Mbx → Mbx) : (h.onMb n f).spanReps = h.spanReps := rfl
@[simp] theorem Hub.onMb_spanBacks (h : Hub) (n : BitVec 3) (f : Mbx → Mbx) : (h.onMb n f).spanBacks = h.spanBacks := rfl
@[simp] theorem Hub.onMb_waitSnoops (h : Hub) (n : BitVec 3) (f : Mbx → Mbx) : (h.onMb n f).waitSnoops = h.waitSnoops := rfl
@[simp] theorem Hub.onMb_lostHubs (h : Hub) (n : BitVec 3) (f : Mbx → Mbx) : (h.onMb n f).lostHubs = h.lostHubs := rfl
@[simp] theorem Hub.onMb_routeAcks (h : Hub) (n : BitVec 3) (f : Mbx → Mbx) : (h.onMb n f).routeAcks = h.routeAcks := rfl
@[simp] theorem Hub.onMb_routeNew (h : Hub) (n : BitVec 3) (f : Mbx → Mbx) : (h.onMb n f).routeNew = h.routeNew := rfl
@[simp] theorem Hub.onMb_routeOld (h : Hub) (n : BitVec 3) (f : Mbx → Mbx) : (h.onMb n f).routeOld = h.routeOld := rfl
@[simp] theorem Hub.onMb_spanEpoch (h : Hub) (n : BitVec 3) (f : Mbx → Mbx) : (h.onMb n f).spanEpoch = h.spanEpoch := rfl
@[simp] theorem Hub.onMb_records (h : Hub) (n : BitVec 3) (f : Mbx → Mbx) : (h.onMb n f).records = h.records := rfl
@[simp] theorem Hub.onMb_lapses (h : Hub) (n : BitVec 3) (f : Mbx → Mbx) : (h.onMb n f).lapses = h.lapses := rfl
@[simp] theorem Hub.onMb_rsvRecs (h : Hub) (n : BitVec 3) (f : Mbx → Mbx) : (h.onMb n f).rsvRecs = h.rsvRecs := rfl
@[simp] theorem Hub.onMb_rsvNotes (h : Hub) (n : BitVec 3) (f : Mbx → Mbx) : (h.onMb n f).rsvNotes = h.rsvNotes := rfl
@[simp] theorem Hub.onMb_notices (h : Hub) (n : BitVec 3) (f : Mbx → Mbx) : (h.onMb n f).notices = h.notices := rfl
@[simp] theorem Hub.onMb_chNotes (h : Hub) (n : BitVec 3) (f : Mbx → Mbx) : (h.onMb n f).chNotes = h.chNotes := rfl
@[simp] theorem Hub.onMb_slots (h : Hub) (n : BitVec 3) (f : Mbx → Mbx) : (h.onMb n f).slots = h.slots := rfl
@[simp] theorem Hub.onMb_pointer (h : Hub) (n : BitVec 3) (f : Mbx → Mbx) : (h.onMb n f).pointer = h.pointer := rfl
@[simp] theorem Hub.onMb_dev (h : Hub) (n : BitVec 3) (f : Mbx → Mbx) : (h.onMb n f).dev = h.dev := rfl
@[simp] theorem Hub.onMb_epoch (h : Hub) (n : BitVec 3) (f : Mbx → Mbx) : (h.onMb n f).epoch = h.epoch := rfl
@[simp] theorem Hub.onMb_arbs (h : Hub) (n : BitVec 3) (f : Mbx → Mbx) : (h.onMb n f).arbs = h.arbs := rfl
@[simp] theorem Hub.onMb_power (h : Hub) (n : BitVec 3) (f : Mbx → Mbx) : (h.onMb n f).power = h.power := rfl
@[simp] theorem Hub.onMb_rot (h : Hub) (n : BitVec 3) (f : Mbx → Mbx) : (h.onMb n f).rot = h.rot := rfl
@[simp] theorem Hub.onMb_events (h : Hub) (n : BitVec 3) (f : Mbx → Mbx) : (h.onMb n f).events = h.events := rfl
@[simp] theorem Hub.onMb_pmc (h : Hub) (n : BitVec 3) (f : Mbx → Mbx) : (h.onMb n f).pmc = h.pmc := rfl
@[simp] theorem Hub.onMb_prefetchNotes (h : Hub) (n : BitVec 3) (f : Mbx → Mbx) : (h.onMb n f).prefetchNotes = h.prefetchNotes := rfl
@[simp] theorem Hub.onMb_freeCtr (h : Hub) (n : BitVec 3) (f : Mbx → Mbx) : (h.onMb n f).freeCtr = h.freeCtr := rfl
@[simp] theorem Hub.onMb_out (h : Hub) (n : BitVec 3) (f : Mbx → Mbx) : (h.onMb n f).out = h.out := rfl

/-! ### `onChan` -/

@[simp] theorem Hub.onChan_round (h : Hub) (c : Nat) (f : Chan → Chan) : (h.onChan c f).round = h.round := rfl
@[simp] theorem Hub.onChan_pins (h : Hub) (c : Nat) (f : Chan → Chan) : (h.onChan c f).pins = h.pins := rfl
@[simp] theorem Hub.onChan_start (h : Hub) (c : Nat) (f : Chan → Chan) : (h.onChan c f).start = h.start := rfl
@[simp] theorem Hub.onChan_mirror (h : Hub) (c : Nat) (f : Chan → Chan) : (h.onChan c f).mirror = h.mirror := rfl
@[simp] theorem Hub.onChan_aon (h : Hub) (c : Nat) (f : Chan → Chan) : (h.onChan c f).aon = h.aon := rfl
@[simp] theorem Hub.onChan_par (h : Hub) (c : Nat) (f : Chan → Chan) : (h.onChan c f).par = h.par := rfl
@[simp] theorem Hub.onChan_master (h : Hub) (c : Nat) (f : Chan → Chan) : (h.onChan c f).master = h.master := rfl
@[simp] theorem Hub.onChan_prot (h : Hub) (c : Nat) (f : Chan → Chan) : (h.onChan c f).prot = h.prot := rfl
@[simp] theorem Hub.onChan_mbx (h : Hub) (c : Nat) (f : Chan → Chan) : (h.onChan c f).mbx = h.mbx := rfl
@[simp] theorem Hub.onChan_core (h : Hub) (c : Nat) (f : Chan → Chan) : (h.onChan c f).core = h.core := rfl
@[simp] theorem Hub.onChan_map (h : Hub) (c : Nat) (f : Chan → Chan) : (h.onChan c f).map = h.map := rfl
@[simp] theorem Hub.onChan_slices (h : Hub) (c : Nat) (f : Chan → Chan) : (h.onChan c f).slices = h.slices := rfl
@[simp] theorem Hub.onChan_spill (h : Hub) (c : Nat) (f : Chan → Chan) : (h.onChan c f).spill = h.spill := rfl
@[simp] theorem Hub.onChan_agents (h : Hub) (c : Nat) (f : Chan → Chan) : (h.onChan c f).agents = h.agents := rfl
@[simp] theorem Hub.onChan_aps (h : Hub) (c : Nat) (f : Chan → Chan) : (h.onChan c f).aps = h.aps := rfl
@[simp] theorem Hub.onChan_mps (h : Hub) (c : Nat) (f : Chan → Chan) : (h.onChan c f).mps = h.mps := rfl
@[simp] theorem Hub.onChan_reads (h : Hub) (c : Nat) (f : Chan → Chan) : (h.onChan c f).reads = h.reads := rfl
@[simp] theorem Hub.onChan_sps (h : Hub) (c : Nat) (f : Chan → Chan) : (h.onChan c f).sps = h.sps := rfl
@[simp] theorem Hub.onChan_spanReps (h : Hub) (c : Nat) (f : Chan → Chan) : (h.onChan c f).spanReps = h.spanReps := rfl
@[simp] theorem Hub.onChan_spanBacks (h : Hub) (c : Nat) (f : Chan → Chan) : (h.onChan c f).spanBacks = h.spanBacks := rfl
@[simp] theorem Hub.onChan_waitSnoops (h : Hub) (c : Nat) (f : Chan → Chan) : (h.onChan c f).waitSnoops = h.waitSnoops := rfl
@[simp] theorem Hub.onChan_lostHubs (h : Hub) (c : Nat) (f : Chan → Chan) : (h.onChan c f).lostHubs = h.lostHubs := rfl
@[simp] theorem Hub.onChan_routeAcks (h : Hub) (c : Nat) (f : Chan → Chan) : (h.onChan c f).routeAcks = h.routeAcks := rfl
@[simp] theorem Hub.onChan_routeNew (h : Hub) (c : Nat) (f : Chan → Chan) : (h.onChan c f).routeNew = h.routeNew := rfl
@[simp] theorem Hub.onChan_routeOld (h : Hub) (c : Nat) (f : Chan → Chan) : (h.onChan c f).routeOld = h.routeOld := rfl
@[simp] theorem Hub.onChan_spanEpoch (h : Hub) (c : Nat) (f : Chan → Chan) : (h.onChan c f).spanEpoch = h.spanEpoch := rfl
@[simp] theorem Hub.onChan_records (h : Hub) (c : Nat) (f : Chan → Chan) : (h.onChan c f).records = h.records := rfl
@[simp] theorem Hub.onChan_lapses (h : Hub) (c : Nat) (f : Chan → Chan) : (h.onChan c f).lapses = h.lapses := rfl
@[simp] theorem Hub.onChan_rsvRecs (h : Hub) (c : Nat) (f : Chan → Chan) : (h.onChan c f).rsvRecs = h.rsvRecs := rfl
@[simp] theorem Hub.onChan_rsvNotes (h : Hub) (c : Nat) (f : Chan → Chan) : (h.onChan c f).rsvNotes = h.rsvNotes := rfl
@[simp] theorem Hub.onChan_notices (h : Hub) (c : Nat) (f : Chan → Chan) : (h.onChan c f).notices = h.notices := rfl
@[simp] theorem Hub.onChan_chNotes (h : Hub) (c : Nat) (f : Chan → Chan) : (h.onChan c f).chNotes = h.chNotes := rfl
@[simp] theorem Hub.onChan_slots (h : Hub) (c : Nat) (f : Chan → Chan) : (h.onChan c f).slots = h.slots := rfl
@[simp] theorem Hub.onChan_pointer (h : Hub) (c : Nat) (f : Chan → Chan) : (h.onChan c f).pointer = h.pointer := rfl
@[simp] theorem Hub.onChan_dev (h : Hub) (c : Nat) (f : Chan → Chan) : (h.onChan c f).dev = h.dev := rfl
@[simp] theorem Hub.onChan_epoch (h : Hub) (c : Nat) (f : Chan → Chan) : (h.onChan c f).epoch = h.epoch := rfl
@[simp] theorem Hub.onChan_arbs (h : Hub) (c : Nat) (f : Chan → Chan) : (h.onChan c f).arbs = h.arbs := rfl
@[simp] theorem Hub.onChan_power (h : Hub) (c : Nat) (f : Chan → Chan) : (h.onChan c f).power = h.power := rfl
@[simp] theorem Hub.onChan_rot (h : Hub) (c : Nat) (f : Chan → Chan) : (h.onChan c f).rot = h.rot := rfl
@[simp] theorem Hub.onChan_events (h : Hub) (c : Nat) (f : Chan → Chan) : (h.onChan c f).events = h.events := rfl
@[simp] theorem Hub.onChan_pmc (h : Hub) (c : Nat) (f : Chan → Chan) : (h.onChan c f).pmc = h.pmc := rfl
@[simp] theorem Hub.onChan_prefetchNotes (h : Hub) (c : Nat) (f : Chan → Chan) : (h.onChan c f).prefetchNotes = h.prefetchNotes := rfl
@[simp] theorem Hub.onChan_freeCtr (h : Hub) (c : Nat) (f : Chan → Chan) : (h.onChan c f).freeCtr = h.freeCtr := rfl
@[simp] theorem Hub.onChan_out (h : Hub) (c : Nat) (f : Chan → Chan) : (h.onChan c f).out = h.out := rfl

/-! ### `onNote` -/

@[simp] theorem Hub.onNote_round (h : Hub) (c : Nat) (f : ChNotice → ChNotice) : (h.onNote c f).round = h.round := rfl
@[simp] theorem Hub.onNote_pins (h : Hub) (c : Nat) (f : ChNotice → ChNotice) : (h.onNote c f).pins = h.pins := rfl
@[simp] theorem Hub.onNote_start (h : Hub) (c : Nat) (f : ChNotice → ChNotice) : (h.onNote c f).start = h.start := rfl
@[simp] theorem Hub.onNote_mirror (h : Hub) (c : Nat) (f : ChNotice → ChNotice) : (h.onNote c f).mirror = h.mirror := rfl
@[simp] theorem Hub.onNote_aon (h : Hub) (c : Nat) (f : ChNotice → ChNotice) : (h.onNote c f).aon = h.aon := rfl
@[simp] theorem Hub.onNote_par (h : Hub) (c : Nat) (f : ChNotice → ChNotice) : (h.onNote c f).par = h.par := rfl
@[simp] theorem Hub.onNote_master (h : Hub) (c : Nat) (f : ChNotice → ChNotice) : (h.onNote c f).master = h.master := rfl
@[simp] theorem Hub.onNote_prot (h : Hub) (c : Nat) (f : ChNotice → ChNotice) : (h.onNote c f).prot = h.prot := rfl
@[simp] theorem Hub.onNote_mbx (h : Hub) (c : Nat) (f : ChNotice → ChNotice) : (h.onNote c f).mbx = h.mbx := rfl
@[simp] theorem Hub.onNote_core (h : Hub) (c : Nat) (f : ChNotice → ChNotice) : (h.onNote c f).core = h.core := rfl
@[simp] theorem Hub.onNote_map (h : Hub) (c : Nat) (f : ChNotice → ChNotice) : (h.onNote c f).map = h.map := rfl
@[simp] theorem Hub.onNote_slices (h : Hub) (c : Nat) (f : ChNotice → ChNotice) : (h.onNote c f).slices = h.slices := rfl
@[simp] theorem Hub.onNote_spill (h : Hub) (c : Nat) (f : ChNotice → ChNotice) : (h.onNote c f).spill = h.spill := rfl
@[simp] theorem Hub.onNote_agents (h : Hub) (c : Nat) (f : ChNotice → ChNotice) : (h.onNote c f).agents = h.agents := rfl
@[simp] theorem Hub.onNote_aps (h : Hub) (c : Nat) (f : ChNotice → ChNotice) : (h.onNote c f).aps = h.aps := rfl
@[simp] theorem Hub.onNote_mps (h : Hub) (c : Nat) (f : ChNotice → ChNotice) : (h.onNote c f).mps = h.mps := rfl
@[simp] theorem Hub.onNote_chans (h : Hub) (c : Nat) (f : ChNotice → ChNotice) : (h.onNote c f).chans = h.chans := rfl
@[simp] theorem Hub.onNote_reads (h : Hub) (c : Nat) (f : ChNotice → ChNotice) : (h.onNote c f).reads = h.reads := rfl
@[simp] theorem Hub.onNote_sps (h : Hub) (c : Nat) (f : ChNotice → ChNotice) : (h.onNote c f).sps = h.sps := rfl
@[simp] theorem Hub.onNote_spanReps (h : Hub) (c : Nat) (f : ChNotice → ChNotice) : (h.onNote c f).spanReps = h.spanReps := rfl
@[simp] theorem Hub.onNote_spanBacks (h : Hub) (c : Nat) (f : ChNotice → ChNotice) : (h.onNote c f).spanBacks = h.spanBacks := rfl
@[simp] theorem Hub.onNote_waitSnoops (h : Hub) (c : Nat) (f : ChNotice → ChNotice) : (h.onNote c f).waitSnoops = h.waitSnoops := rfl
@[simp] theorem Hub.onNote_lostHubs (h : Hub) (c : Nat) (f : ChNotice → ChNotice) : (h.onNote c f).lostHubs = h.lostHubs := rfl
@[simp] theorem Hub.onNote_routeAcks (h : Hub) (c : Nat) (f : ChNotice → ChNotice) : (h.onNote c f).routeAcks = h.routeAcks := rfl
@[simp] theorem Hub.onNote_routeNew (h : Hub) (c : Nat) (f : ChNotice → ChNotice) : (h.onNote c f).routeNew = h.routeNew := rfl
@[simp] theorem Hub.onNote_routeOld (h : Hub) (c : Nat) (f : ChNotice → ChNotice) : (h.onNote c f).routeOld = h.routeOld := rfl
@[simp] theorem Hub.onNote_spanEpoch (h : Hub) (c : Nat) (f : ChNotice → ChNotice) : (h.onNote c f).spanEpoch = h.spanEpoch := rfl
@[simp] theorem Hub.onNote_records (h : Hub) (c : Nat) (f : ChNotice → ChNotice) : (h.onNote c f).records = h.records := rfl
@[simp] theorem Hub.onNote_lapses (h : Hub) (c : Nat) (f : ChNotice → ChNotice) : (h.onNote c f).lapses = h.lapses := rfl
@[simp] theorem Hub.onNote_rsvRecs (h : Hub) (c : Nat) (f : ChNotice → ChNotice) : (h.onNote c f).rsvRecs = h.rsvRecs := rfl
@[simp] theorem Hub.onNote_rsvNotes (h : Hub) (c : Nat) (f : ChNotice → ChNotice) : (h.onNote c f).rsvNotes = h.rsvNotes := rfl
@[simp] theorem Hub.onNote_notices (h : Hub) (c : Nat) (f : ChNotice → ChNotice) : (h.onNote c f).notices = h.notices := rfl
@[simp] theorem Hub.onNote_slots (h : Hub) (c : Nat) (f : ChNotice → ChNotice) : (h.onNote c f).slots = h.slots := rfl
@[simp] theorem Hub.onNote_pointer (h : Hub) (c : Nat) (f : ChNotice → ChNotice) : (h.onNote c f).pointer = h.pointer := rfl
@[simp] theorem Hub.onNote_dev (h : Hub) (c : Nat) (f : ChNotice → ChNotice) : (h.onNote c f).dev = h.dev := rfl
@[simp] theorem Hub.onNote_epoch (h : Hub) (c : Nat) (f : ChNotice → ChNotice) : (h.onNote c f).epoch = h.epoch := rfl
@[simp] theorem Hub.onNote_arbs (h : Hub) (c : Nat) (f : ChNotice → ChNotice) : (h.onNote c f).arbs = h.arbs := rfl
@[simp] theorem Hub.onNote_power (h : Hub) (c : Nat) (f : ChNotice → ChNotice) : (h.onNote c f).power = h.power := rfl
@[simp] theorem Hub.onNote_rot (h : Hub) (c : Nat) (f : ChNotice → ChNotice) : (h.onNote c f).rot = h.rot := rfl
@[simp] theorem Hub.onNote_events (h : Hub) (c : Nat) (f : ChNotice → ChNotice) : (h.onNote c f).events = h.events := rfl
@[simp] theorem Hub.onNote_pmc (h : Hub) (c : Nat) (f : ChNotice → ChNotice) : (h.onNote c f).pmc = h.pmc := rfl
@[simp] theorem Hub.onNote_prefetchNotes (h : Hub) (c : Nat) (f : ChNotice → ChNotice) : (h.onNote c f).prefetchNotes = h.prefetchNotes := rfl
@[simp] theorem Hub.onNote_freeCtr (h : Hub) (c : Nat) (f : ChNotice → ChNotice) : (h.onNote c f).freeCtr = h.freeCtr := rfl
@[simp] theorem Hub.onNote_out (h : Hub) (c : Nat) (f : ChNotice → ChNotice) : (h.onNote c f).out = h.out := rfl

/-! ### `onDie` -/

@[simp] theorem Hub.onDie_round (h : Hub) (p : BitVec 4) (f : Die → Die) : (h.onDie p f).round = h.round := rfl
@[simp] theorem Hub.onDie_pins (h : Hub) (p : BitVec 4) (f : Die → Die) : (h.onDie p f).pins = h.pins := rfl
@[simp] theorem Hub.onDie_start (h : Hub) (p : BitVec 4) (f : Die → Die) : (h.onDie p f).start = h.start := rfl
@[simp] theorem Hub.onDie_mirror (h : Hub) (p : BitVec 4) (f : Die → Die) : (h.onDie p f).mirror = h.mirror := rfl
@[simp] theorem Hub.onDie_aon (h : Hub) (p : BitVec 4) (f : Die → Die) : (h.onDie p f).aon = h.aon := rfl
@[simp] theorem Hub.onDie_par (h : Hub) (p : BitVec 4) (f : Die → Die) : (h.onDie p f).par = h.par := rfl
@[simp] theorem Hub.onDie_master (h : Hub) (p : BitVec 4) (f : Die → Die) : (h.onDie p f).master = h.master := rfl
@[simp] theorem Hub.onDie_prot (h : Hub) (p : BitVec 4) (f : Die → Die) : (h.onDie p f).prot = h.prot := rfl
@[simp] theorem Hub.onDie_mbx (h : Hub) (p : BitVec 4) (f : Die → Die) : (h.onDie p f).mbx = h.mbx := rfl
@[simp] theorem Hub.onDie_core (h : Hub) (p : BitVec 4) (f : Die → Die) : (h.onDie p f).core = h.core := rfl
@[simp] theorem Hub.onDie_map (h : Hub) (p : BitVec 4) (f : Die → Die) : (h.onDie p f).map = h.map := rfl
@[simp] theorem Hub.onDie_slices (h : Hub) (p : BitVec 4) (f : Die → Die) : (h.onDie p f).slices = h.slices := rfl
@[simp] theorem Hub.onDie_spill (h : Hub) (p : BitVec 4) (f : Die → Die) : (h.onDie p f).spill = h.spill := rfl
@[simp] theorem Hub.onDie_agents (h : Hub) (p : BitVec 4) (f : Die → Die) : (h.onDie p f).agents = h.agents := rfl
@[simp] theorem Hub.onDie_aps (h : Hub) (p : BitVec 4) (f : Die → Die) : (h.onDie p f).aps = h.aps := rfl
@[simp] theorem Hub.onDie_mps (h : Hub) (p : BitVec 4) (f : Die → Die) : (h.onDie p f).mps = h.mps := rfl
@[simp] theorem Hub.onDie_chans (h : Hub) (p : BitVec 4) (f : Die → Die) : (h.onDie p f).chans = h.chans := rfl
@[simp] theorem Hub.onDie_reads (h : Hub) (p : BitVec 4) (f : Die → Die) : (h.onDie p f).reads = h.reads := rfl
@[simp] theorem Hub.onDie_sps (h : Hub) (p : BitVec 4) (f : Die → Die) : (h.onDie p f).sps = h.sps := rfl
@[simp] theorem Hub.onDie_spanReps (h : Hub) (p : BitVec 4) (f : Die → Die) : (h.onDie p f).spanReps = h.spanReps := rfl
@[simp] theorem Hub.onDie_spanBacks (h : Hub) (p : BitVec 4) (f : Die → Die) : (h.onDie p f).spanBacks = h.spanBacks := rfl
@[simp] theorem Hub.onDie_waitSnoops (h : Hub) (p : BitVec 4) (f : Die → Die) : (h.onDie p f).waitSnoops = h.waitSnoops := rfl
@[simp] theorem Hub.onDie_lostHubs (h : Hub) (p : BitVec 4) (f : Die → Die) : (h.onDie p f).lostHubs = h.lostHubs := rfl
@[simp] theorem Hub.onDie_routeAcks (h : Hub) (p : BitVec 4) (f : Die → Die) : (h.onDie p f).routeAcks = h.routeAcks := rfl
@[simp] theorem Hub.onDie_routeNew (h : Hub) (p : BitVec 4) (f : Die → Die) : (h.onDie p f).routeNew = h.routeNew := rfl
@[simp] theorem Hub.onDie_routeOld (h : Hub) (p : BitVec 4) (f : Die → Die) : (h.onDie p f).routeOld = h.routeOld := rfl
@[simp] theorem Hub.onDie_spanEpoch (h : Hub) (p : BitVec 4) (f : Die → Die) : (h.onDie p f).spanEpoch = h.spanEpoch := rfl
@[simp] theorem Hub.onDie_records (h : Hub) (p : BitVec 4) (f : Die → Die) : (h.onDie p f).records = h.records := rfl
@[simp] theorem Hub.onDie_lapses (h : Hub) (p : BitVec 4) (f : Die → Die) : (h.onDie p f).lapses = h.lapses := rfl
@[simp] theorem Hub.onDie_rsvRecs (h : Hub) (p : BitVec 4) (f : Die → Die) : (h.onDie p f).rsvRecs = h.rsvRecs := rfl
@[simp] theorem Hub.onDie_rsvNotes (h : Hub) (p : BitVec 4) (f : Die → Die) : (h.onDie p f).rsvNotes = h.rsvNotes := rfl
@[simp] theorem Hub.onDie_notices (h : Hub) (p : BitVec 4) (f : Die → Die) : (h.onDie p f).notices = h.notices := rfl
@[simp] theorem Hub.onDie_chNotes (h : Hub) (p : BitVec 4) (f : Die → Die) : (h.onDie p f).chNotes = h.chNotes := rfl
@[simp] theorem Hub.onDie_slots (h : Hub) (p : BitVec 4) (f : Die → Die) : (h.onDie p f).slots = h.slots := rfl
@[simp] theorem Hub.onDie_pointer (h : Hub) (p : BitVec 4) (f : Die → Die) : (h.onDie p f).pointer = h.pointer := rfl
@[simp] theorem Hub.onDie_dev (h : Hub) (p : BitVec 4) (f : Die → Die) : (h.onDie p f).dev = h.dev := rfl
@[simp] theorem Hub.onDie_epoch (h : Hub) (p : BitVec 4) (f : Die → Die) : (h.onDie p f).epoch = h.epoch := rfl
@[simp] theorem Hub.onDie_arbs (h : Hub) (p : BitVec 4) (f : Die → Die) : (h.onDie p f).arbs = h.arbs := rfl
@[simp] theorem Hub.onDie_rot (h : Hub) (p : BitVec 4) (f : Die → Die) : (h.onDie p f).rot = h.rot := rfl
@[simp] theorem Hub.onDie_events (h : Hub) (p : BitVec 4) (f : Die → Die) : (h.onDie p f).events = h.events := rfl
@[simp] theorem Hub.onDie_pmc (h : Hub) (p : BitVec 4) (f : Die → Die) : (h.onDie p f).pmc = h.pmc := rfl
@[simp] theorem Hub.onDie_prefetchNotes (h : Hub) (p : BitVec 4) (f : Die → Die) : (h.onDie p f).prefetchNotes = h.prefetchNotes := rfl
@[simp] theorem Hub.onDie_freeCtr (h : Hub) (p : BitVec 4) (f : Die → Die) : (h.onDie p f).freeCtr = h.freeCtr := rfl
@[simp] theorem Hub.onDie_out (h : Hub) (p : BitVec 4) (f : Die → Die) : (h.onDie p f).out = h.out := rfl

/-! ### `onDev` -/

@[simp] theorem Hub.onDev_round (h : Hub) (d : Txid) (f : DevReq → DevReq) : (h.onDev d f).round = h.round := rfl
@[simp] theorem Hub.onDev_pins (h : Hub) (d : Txid) (f : DevReq → DevReq) : (h.onDev d f).pins = h.pins := rfl
@[simp] theorem Hub.onDev_start (h : Hub) (d : Txid) (f : DevReq → DevReq) : (h.onDev d f).start = h.start := rfl
@[simp] theorem Hub.onDev_mirror (h : Hub) (d : Txid) (f : DevReq → DevReq) : (h.onDev d f).mirror = h.mirror := rfl
@[simp] theorem Hub.onDev_aon (h : Hub) (d : Txid) (f : DevReq → DevReq) : (h.onDev d f).aon = h.aon := rfl
@[simp] theorem Hub.onDev_par (h : Hub) (d : Txid) (f : DevReq → DevReq) : (h.onDev d f).par = h.par := rfl
@[simp] theorem Hub.onDev_master (h : Hub) (d : Txid) (f : DevReq → DevReq) : (h.onDev d f).master = h.master := rfl
@[simp] theorem Hub.onDev_prot (h : Hub) (d : Txid) (f : DevReq → DevReq) : (h.onDev d f).prot = h.prot := rfl
@[simp] theorem Hub.onDev_mbx (h : Hub) (d : Txid) (f : DevReq → DevReq) : (h.onDev d f).mbx = h.mbx := rfl
@[simp] theorem Hub.onDev_core (h : Hub) (d : Txid) (f : DevReq → DevReq) : (h.onDev d f).core = h.core := rfl
@[simp] theorem Hub.onDev_map (h : Hub) (d : Txid) (f : DevReq → DevReq) : (h.onDev d f).map = h.map := rfl
@[simp] theorem Hub.onDev_slices (h : Hub) (d : Txid) (f : DevReq → DevReq) : (h.onDev d f).slices = h.slices := rfl
@[simp] theorem Hub.onDev_spill (h : Hub) (d : Txid) (f : DevReq → DevReq) : (h.onDev d f).spill = h.spill := rfl
@[simp] theorem Hub.onDev_agents (h : Hub) (d : Txid) (f : DevReq → DevReq) : (h.onDev d f).agents = h.agents := rfl
@[simp] theorem Hub.onDev_aps (h : Hub) (d : Txid) (f : DevReq → DevReq) : (h.onDev d f).aps = h.aps := rfl
@[simp] theorem Hub.onDev_mps (h : Hub) (d : Txid) (f : DevReq → DevReq) : (h.onDev d f).mps = h.mps := rfl
@[simp] theorem Hub.onDev_chans (h : Hub) (d : Txid) (f : DevReq → DevReq) : (h.onDev d f).chans = h.chans := rfl
@[simp] theorem Hub.onDev_reads (h : Hub) (d : Txid) (f : DevReq → DevReq) : (h.onDev d f).reads = h.reads := rfl
@[simp] theorem Hub.onDev_sps (h : Hub) (d : Txid) (f : DevReq → DevReq) : (h.onDev d f).sps = h.sps := rfl
@[simp] theorem Hub.onDev_spanReps (h : Hub) (d : Txid) (f : DevReq → DevReq) : (h.onDev d f).spanReps = h.spanReps := rfl
@[simp] theorem Hub.onDev_spanBacks (h : Hub) (d : Txid) (f : DevReq → DevReq) : (h.onDev d f).spanBacks = h.spanBacks := rfl
@[simp] theorem Hub.onDev_waitSnoops (h : Hub) (d : Txid) (f : DevReq → DevReq) : (h.onDev d f).waitSnoops = h.waitSnoops := rfl
@[simp] theorem Hub.onDev_lostHubs (h : Hub) (d : Txid) (f : DevReq → DevReq) : (h.onDev d f).lostHubs = h.lostHubs := rfl
@[simp] theorem Hub.onDev_routeAcks (h : Hub) (d : Txid) (f : DevReq → DevReq) : (h.onDev d f).routeAcks = h.routeAcks := rfl
@[simp] theorem Hub.onDev_routeNew (h : Hub) (d : Txid) (f : DevReq → DevReq) : (h.onDev d f).routeNew = h.routeNew := rfl
@[simp] theorem Hub.onDev_routeOld (h : Hub) (d : Txid) (f : DevReq → DevReq) : (h.onDev d f).routeOld = h.routeOld := rfl
@[simp] theorem Hub.onDev_spanEpoch (h : Hub) (d : Txid) (f : DevReq → DevReq) : (h.onDev d f).spanEpoch = h.spanEpoch := rfl
@[simp] theorem Hub.onDev_records (h : Hub) (d : Txid) (f : DevReq → DevReq) : (h.onDev d f).records = h.records := rfl
@[simp] theorem Hub.onDev_lapses (h : Hub) (d : Txid) (f : DevReq → DevReq) : (h.onDev d f).lapses = h.lapses := rfl
@[simp] theorem Hub.onDev_rsvRecs (h : Hub) (d : Txid) (f : DevReq → DevReq) : (h.onDev d f).rsvRecs = h.rsvRecs := rfl
@[simp] theorem Hub.onDev_rsvNotes (h : Hub) (d : Txid) (f : DevReq → DevReq) : (h.onDev d f).rsvNotes = h.rsvNotes := rfl
@[simp] theorem Hub.onDev_notices (h : Hub) (d : Txid) (f : DevReq → DevReq) : (h.onDev d f).notices = h.notices := rfl
@[simp] theorem Hub.onDev_chNotes (h : Hub) (d : Txid) (f : DevReq → DevReq) : (h.onDev d f).chNotes = h.chNotes := rfl
@[simp] theorem Hub.onDev_slots (h : Hub) (d : Txid) (f : DevReq → DevReq) : (h.onDev d f).slots = h.slots := rfl
@[simp] theorem Hub.onDev_pointer (h : Hub) (d : Txid) (f : DevReq → DevReq) : (h.onDev d f).pointer = h.pointer := rfl
@[simp] theorem Hub.onDev_epoch (h : Hub) (d : Txid) (f : DevReq → DevReq) : (h.onDev d f).epoch = h.epoch := rfl
@[simp] theorem Hub.onDev_arbs (h : Hub) (d : Txid) (f : DevReq → DevReq) : (h.onDev d f).arbs = h.arbs := rfl
@[simp] theorem Hub.onDev_power (h : Hub) (d : Txid) (f : DevReq → DevReq) : (h.onDev d f).power = h.power := rfl
@[simp] theorem Hub.onDev_rot (h : Hub) (d : Txid) (f : DevReq → DevReq) : (h.onDev d f).rot = h.rot := rfl
@[simp] theorem Hub.onDev_events (h : Hub) (d : Txid) (f : DevReq → DevReq) : (h.onDev d f).events = h.events := rfl
@[simp] theorem Hub.onDev_pmc (h : Hub) (d : Txid) (f : DevReq → DevReq) : (h.onDev d f).pmc = h.pmc := rfl
@[simp] theorem Hub.onDev_prefetchNotes (h : Hub) (d : Txid) (f : DevReq → DevReq) : (h.onDev d f).prefetchNotes = h.prefetchNotes := rfl
@[simp] theorem Hub.onDev_freeCtr (h : Hub) (d : Txid) (f : DevReq → DevReq) : (h.onDev d f).freeCtr = h.freeCtr := rfl
@[simp] theorem Hub.onDev_out (h : Hub) (d : Txid) (f : DevReq → DevReq) : (h.onDev d f).out = h.out := rfl

/-! ### `onRead` -/

@[simp] theorem Hub.onRead_round (h : Hub) (r : MemRead) (f : MemRead → MemRead) : (h.onRead r f).round = h.round := rfl
@[simp] theorem Hub.onRead_pins (h : Hub) (r : MemRead) (f : MemRead → MemRead) : (h.onRead r f).pins = h.pins := rfl
@[simp] theorem Hub.onRead_start (h : Hub) (r : MemRead) (f : MemRead → MemRead) : (h.onRead r f).start = h.start := rfl
@[simp] theorem Hub.onRead_mirror (h : Hub) (r : MemRead) (f : MemRead → MemRead) : (h.onRead r f).mirror = h.mirror := rfl
@[simp] theorem Hub.onRead_aon (h : Hub) (r : MemRead) (f : MemRead → MemRead) : (h.onRead r f).aon = h.aon := rfl
@[simp] theorem Hub.onRead_par (h : Hub) (r : MemRead) (f : MemRead → MemRead) : (h.onRead r f).par = h.par := rfl
@[simp] theorem Hub.onRead_master (h : Hub) (r : MemRead) (f : MemRead → MemRead) : (h.onRead r f).master = h.master := rfl
@[simp] theorem Hub.onRead_prot (h : Hub) (r : MemRead) (f : MemRead → MemRead) : (h.onRead r f).prot = h.prot := rfl
@[simp] theorem Hub.onRead_mbx (h : Hub) (r : MemRead) (f : MemRead → MemRead) : (h.onRead r f).mbx = h.mbx := rfl
@[simp] theorem Hub.onRead_core (h : Hub) (r : MemRead) (f : MemRead → MemRead) : (h.onRead r f).core = h.core := rfl
@[simp] theorem Hub.onRead_map (h : Hub) (r : MemRead) (f : MemRead → MemRead) : (h.onRead r f).map = h.map := rfl
@[simp] theorem Hub.onRead_slices (h : Hub) (r : MemRead) (f : MemRead → MemRead) : (h.onRead r f).slices = h.slices := rfl
@[simp] theorem Hub.onRead_spill (h : Hub) (r : MemRead) (f : MemRead → MemRead) : (h.onRead r f).spill = h.spill := rfl
@[simp] theorem Hub.onRead_agents (h : Hub) (r : MemRead) (f : MemRead → MemRead) : (h.onRead r f).agents = h.agents := rfl
@[simp] theorem Hub.onRead_aps (h : Hub) (r : MemRead) (f : MemRead → MemRead) : (h.onRead r f).aps = h.aps := rfl
@[simp] theorem Hub.onRead_mps (h : Hub) (r : MemRead) (f : MemRead → MemRead) : (h.onRead r f).mps = h.mps := rfl
@[simp] theorem Hub.onRead_chans (h : Hub) (r : MemRead) (f : MemRead → MemRead) : (h.onRead r f).chans = h.chans := rfl
@[simp] theorem Hub.onRead_sps (h : Hub) (r : MemRead) (f : MemRead → MemRead) : (h.onRead r f).sps = h.sps := rfl
@[simp] theorem Hub.onRead_spanReps (h : Hub) (r : MemRead) (f : MemRead → MemRead) : (h.onRead r f).spanReps = h.spanReps := rfl
@[simp] theorem Hub.onRead_spanBacks (h : Hub) (r : MemRead) (f : MemRead → MemRead) : (h.onRead r f).spanBacks = h.spanBacks := rfl
@[simp] theorem Hub.onRead_waitSnoops (h : Hub) (r : MemRead) (f : MemRead → MemRead) : (h.onRead r f).waitSnoops = h.waitSnoops := rfl
@[simp] theorem Hub.onRead_lostHubs (h : Hub) (r : MemRead) (f : MemRead → MemRead) : (h.onRead r f).lostHubs = h.lostHubs := rfl
@[simp] theorem Hub.onRead_routeAcks (h : Hub) (r : MemRead) (f : MemRead → MemRead) : (h.onRead r f).routeAcks = h.routeAcks := rfl
@[simp] theorem Hub.onRead_routeNew (h : Hub) (r : MemRead) (f : MemRead → MemRead) : (h.onRead r f).routeNew = h.routeNew := rfl
@[simp] theorem Hub.onRead_routeOld (h : Hub) (r : MemRead) (f : MemRead → MemRead) : (h.onRead r f).routeOld = h.routeOld := rfl
@[simp] theorem Hub.onRead_spanEpoch (h : Hub) (r : MemRead) (f : MemRead → MemRead) : (h.onRead r f).spanEpoch = h.spanEpoch := rfl
@[simp] theorem Hub.onRead_records (h : Hub) (r : MemRead) (f : MemRead → MemRead) : (h.onRead r f).records = h.records := rfl
@[simp] theorem Hub.onRead_lapses (h : Hub) (r : MemRead) (f : MemRead → MemRead) : (h.onRead r f).lapses = h.lapses := rfl
@[simp] theorem Hub.onRead_rsvRecs (h : Hub) (r : MemRead) (f : MemRead → MemRead) : (h.onRead r f).rsvRecs = h.rsvRecs := rfl
@[simp] theorem Hub.onRead_rsvNotes (h : Hub) (r : MemRead) (f : MemRead → MemRead) : (h.onRead r f).rsvNotes = h.rsvNotes := rfl
@[simp] theorem Hub.onRead_notices (h : Hub) (r : MemRead) (f : MemRead → MemRead) : (h.onRead r f).notices = h.notices := rfl
@[simp] theorem Hub.onRead_chNotes (h : Hub) (r : MemRead) (f : MemRead → MemRead) : (h.onRead r f).chNotes = h.chNotes := rfl
@[simp] theorem Hub.onRead_slots (h : Hub) (r : MemRead) (f : MemRead → MemRead) : (h.onRead r f).slots = h.slots := rfl
@[simp] theorem Hub.onRead_pointer (h : Hub) (r : MemRead) (f : MemRead → MemRead) : (h.onRead r f).pointer = h.pointer := rfl
@[simp] theorem Hub.onRead_dev (h : Hub) (r : MemRead) (f : MemRead → MemRead) : (h.onRead r f).dev = h.dev := rfl
@[simp] theorem Hub.onRead_epoch (h : Hub) (r : MemRead) (f : MemRead → MemRead) : (h.onRead r f).epoch = h.epoch := rfl
@[simp] theorem Hub.onRead_arbs (h : Hub) (r : MemRead) (f : MemRead → MemRead) : (h.onRead r f).arbs = h.arbs := rfl
@[simp] theorem Hub.onRead_power (h : Hub) (r : MemRead) (f : MemRead → MemRead) : (h.onRead r f).power = h.power := rfl
@[simp] theorem Hub.onRead_rot (h : Hub) (r : MemRead) (f : MemRead → MemRead) : (h.onRead r f).rot = h.rot := rfl
@[simp] theorem Hub.onRead_events (h : Hub) (r : MemRead) (f : MemRead → MemRead) : (h.onRead r f).events = h.events := rfl
@[simp] theorem Hub.onRead_pmc (h : Hub) (r : MemRead) (f : MemRead → MemRead) : (h.onRead r f).pmc = h.pmc := rfl
@[simp] theorem Hub.onRead_prefetchNotes (h : Hub) (r : MemRead) (f : MemRead → MemRead) : (h.onRead r f).prefetchNotes = h.prefetchNotes := rfl
@[simp] theorem Hub.onRead_freeCtr (h : Hub) (r : MemRead) (f : MemRead → MemRead) : (h.onRead r f).freeCtr = h.freeCtr := rfl
@[simp] theorem Hub.onRead_out (h : Hub) (r : MemRead) (f : MemRead → MemRead) : (h.onRead r f).out = h.out := rfl

/-! ### `dropRead` -/

@[simp] theorem Hub.dropRead_round (h : Hub) (r : MemRead) : (h.dropRead r).round = h.round := rfl
@[simp] theorem Hub.dropRead_pins (h : Hub) (r : MemRead) : (h.dropRead r).pins = h.pins := rfl
@[simp] theorem Hub.dropRead_start (h : Hub) (r : MemRead) : (h.dropRead r).start = h.start := rfl
@[simp] theorem Hub.dropRead_mirror (h : Hub) (r : MemRead) : (h.dropRead r).mirror = h.mirror := rfl
@[simp] theorem Hub.dropRead_aon (h : Hub) (r : MemRead) : (h.dropRead r).aon = h.aon := rfl
@[simp] theorem Hub.dropRead_par (h : Hub) (r : MemRead) : (h.dropRead r).par = h.par := rfl
@[simp] theorem Hub.dropRead_master (h : Hub) (r : MemRead) : (h.dropRead r).master = h.master := rfl
@[simp] theorem Hub.dropRead_prot (h : Hub) (r : MemRead) : (h.dropRead r).prot = h.prot := rfl
@[simp] theorem Hub.dropRead_mbx (h : Hub) (r : MemRead) : (h.dropRead r).mbx = h.mbx := rfl
@[simp] theorem Hub.dropRead_core (h : Hub) (r : MemRead) : (h.dropRead r).core = h.core := rfl
@[simp] theorem Hub.dropRead_map (h : Hub) (r : MemRead) : (h.dropRead r).map = h.map := rfl
@[simp] theorem Hub.dropRead_slices (h : Hub) (r : MemRead) : (h.dropRead r).slices = h.slices := rfl
@[simp] theorem Hub.dropRead_spill (h : Hub) (r : MemRead) : (h.dropRead r).spill = h.spill := rfl
@[simp] theorem Hub.dropRead_agents (h : Hub) (r : MemRead) : (h.dropRead r).agents = h.agents := rfl
@[simp] theorem Hub.dropRead_aps (h : Hub) (r : MemRead) : (h.dropRead r).aps = h.aps := rfl
@[simp] theorem Hub.dropRead_mps (h : Hub) (r : MemRead) : (h.dropRead r).mps = h.mps := rfl
@[simp] theorem Hub.dropRead_chans (h : Hub) (r : MemRead) : (h.dropRead r).chans = h.chans := rfl
@[simp] theorem Hub.dropRead_sps (h : Hub) (r : MemRead) : (h.dropRead r).sps = h.sps := rfl
@[simp] theorem Hub.dropRead_spanReps (h : Hub) (r : MemRead) : (h.dropRead r).spanReps = h.spanReps := rfl
@[simp] theorem Hub.dropRead_spanBacks (h : Hub) (r : MemRead) : (h.dropRead r).spanBacks = h.spanBacks := rfl
@[simp] theorem Hub.dropRead_waitSnoops (h : Hub) (r : MemRead) : (h.dropRead r).waitSnoops = h.waitSnoops := rfl
@[simp] theorem Hub.dropRead_lostHubs (h : Hub) (r : MemRead) : (h.dropRead r).lostHubs = h.lostHubs := rfl
@[simp] theorem Hub.dropRead_routeAcks (h : Hub) (r : MemRead) : (h.dropRead r).routeAcks = h.routeAcks := rfl
@[simp] theorem Hub.dropRead_routeNew (h : Hub) (r : MemRead) : (h.dropRead r).routeNew = h.routeNew := rfl
@[simp] theorem Hub.dropRead_routeOld (h : Hub) (r : MemRead) : (h.dropRead r).routeOld = h.routeOld := rfl
@[simp] theorem Hub.dropRead_spanEpoch (h : Hub) (r : MemRead) : (h.dropRead r).spanEpoch = h.spanEpoch := rfl
@[simp] theorem Hub.dropRead_records (h : Hub) (r : MemRead) : (h.dropRead r).records = h.records := rfl
@[simp] theorem Hub.dropRead_lapses (h : Hub) (r : MemRead) : (h.dropRead r).lapses = h.lapses := rfl
@[simp] theorem Hub.dropRead_rsvRecs (h : Hub) (r : MemRead) : (h.dropRead r).rsvRecs = h.rsvRecs := rfl
@[simp] theorem Hub.dropRead_rsvNotes (h : Hub) (r : MemRead) : (h.dropRead r).rsvNotes = h.rsvNotes := rfl
@[simp] theorem Hub.dropRead_notices (h : Hub) (r : MemRead) : (h.dropRead r).notices = h.notices := rfl
@[simp] theorem Hub.dropRead_chNotes (h : Hub) (r : MemRead) : (h.dropRead r).chNotes = h.chNotes := rfl
@[simp] theorem Hub.dropRead_slots (h : Hub) (r : MemRead) : (h.dropRead r).slots = h.slots := rfl
@[simp] theorem Hub.dropRead_pointer (h : Hub) (r : MemRead) : (h.dropRead r).pointer = h.pointer := rfl
@[simp] theorem Hub.dropRead_dev (h : Hub) (r : MemRead) : (h.dropRead r).dev = h.dev := rfl
@[simp] theorem Hub.dropRead_epoch (h : Hub) (r : MemRead) : (h.dropRead r).epoch = h.epoch := rfl
@[simp] theorem Hub.dropRead_arbs (h : Hub) (r : MemRead) : (h.dropRead r).arbs = h.arbs := rfl
@[simp] theorem Hub.dropRead_power (h : Hub) (r : MemRead) : (h.dropRead r).power = h.power := rfl
@[simp] theorem Hub.dropRead_rot (h : Hub) (r : MemRead) : (h.dropRead r).rot = h.rot := rfl
@[simp] theorem Hub.dropRead_events (h : Hub) (r : MemRead) : (h.dropRead r).events = h.events := rfl
@[simp] theorem Hub.dropRead_pmc (h : Hub) (r : MemRead) : (h.dropRead r).pmc = h.pmc := rfl
@[simp] theorem Hub.dropRead_prefetchNotes (h : Hub) (r : MemRead) : (h.dropRead r).prefetchNotes = h.prefetchNotes := rfl
@[simp] theorem Hub.dropRead_freeCtr (h : Hub) (r : MemRead) : (h.dropRead r).freeCtr = h.freeCtr := rfl
@[simp] theorem Hub.dropRead_out (h : Hub) (r : MemRead) : (h.dropRead r).out = h.out := rfl

/-! ### `notify` -/

@[simp] theorem Hub.notify_round (h : Hub) (n : Notice) : (h.notify n).round = h.round := rfl
@[simp] theorem Hub.notify_pins (h : Hub) (n : Notice) : (h.notify n).pins = h.pins := rfl
@[simp] theorem Hub.notify_start (h : Hub) (n : Notice) : (h.notify n).start = h.start := rfl
@[simp] theorem Hub.notify_mirror (h : Hub) (n : Notice) : (h.notify n).mirror = h.mirror := rfl
@[simp] theorem Hub.notify_aon (h : Hub) (n : Notice) : (h.notify n).aon = h.aon := rfl
@[simp] theorem Hub.notify_par (h : Hub) (n : Notice) : (h.notify n).par = h.par := rfl
@[simp] theorem Hub.notify_master (h : Hub) (n : Notice) : (h.notify n).master = h.master := rfl
@[simp] theorem Hub.notify_prot (h : Hub) (n : Notice) : (h.notify n).prot = h.prot := rfl
@[simp] theorem Hub.notify_mbx (h : Hub) (n : Notice) : (h.notify n).mbx = h.mbx := rfl
@[simp] theorem Hub.notify_core (h : Hub) (n : Notice) : (h.notify n).core = h.core := rfl
@[simp] theorem Hub.notify_map (h : Hub) (n : Notice) : (h.notify n).map = h.map := rfl
@[simp] theorem Hub.notify_slices (h : Hub) (n : Notice) : (h.notify n).slices = h.slices := rfl
@[simp] theorem Hub.notify_spill (h : Hub) (n : Notice) : (h.notify n).spill = h.spill := rfl
@[simp] theorem Hub.notify_agents (h : Hub) (n : Notice) : (h.notify n).agents = h.agents := rfl
@[simp] theorem Hub.notify_aps (h : Hub) (n : Notice) : (h.notify n).aps = h.aps := rfl
@[simp] theorem Hub.notify_mps (h : Hub) (n : Notice) : (h.notify n).mps = h.mps := rfl
@[simp] theorem Hub.notify_chans (h : Hub) (n : Notice) : (h.notify n).chans = h.chans := rfl
@[simp] theorem Hub.notify_reads (h : Hub) (n : Notice) : (h.notify n).reads = h.reads := rfl
@[simp] theorem Hub.notify_sps (h : Hub) (n : Notice) : (h.notify n).sps = h.sps := rfl
@[simp] theorem Hub.notify_spanReps (h : Hub) (n : Notice) : (h.notify n).spanReps = h.spanReps := rfl
@[simp] theorem Hub.notify_spanBacks (h : Hub) (n : Notice) : (h.notify n).spanBacks = h.spanBacks := rfl
@[simp] theorem Hub.notify_waitSnoops (h : Hub) (n : Notice) : (h.notify n).waitSnoops = h.waitSnoops := rfl
@[simp] theorem Hub.notify_lostHubs (h : Hub) (n : Notice) : (h.notify n).lostHubs = h.lostHubs := rfl
@[simp] theorem Hub.notify_routeAcks (h : Hub) (n : Notice) : (h.notify n).routeAcks = h.routeAcks := rfl
@[simp] theorem Hub.notify_routeNew (h : Hub) (n : Notice) : (h.notify n).routeNew = h.routeNew := rfl
@[simp] theorem Hub.notify_routeOld (h : Hub) (n : Notice) : (h.notify n).routeOld = h.routeOld := rfl
@[simp] theorem Hub.notify_spanEpoch (h : Hub) (n : Notice) : (h.notify n).spanEpoch = h.spanEpoch := rfl
@[simp] theorem Hub.notify_records (h : Hub) (n : Notice) : (h.notify n).records = h.records := rfl
@[simp] theorem Hub.notify_lapses (h : Hub) (n : Notice) : (h.notify n).lapses = h.lapses := rfl
@[simp] theorem Hub.notify_rsvRecs (h : Hub) (n : Notice) : (h.notify n).rsvRecs = h.rsvRecs := rfl
@[simp] theorem Hub.notify_rsvNotes (h : Hub) (n : Notice) : (h.notify n).rsvNotes = h.rsvNotes := rfl
@[simp] theorem Hub.notify_chNotes (h : Hub) (n : Notice) : (h.notify n).chNotes = h.chNotes := rfl
@[simp] theorem Hub.notify_slots (h : Hub) (n : Notice) : (h.notify n).slots = h.slots := rfl
@[simp] theorem Hub.notify_pointer (h : Hub) (n : Notice) : (h.notify n).pointer = h.pointer := rfl
@[simp] theorem Hub.notify_dev (h : Hub) (n : Notice) : (h.notify n).dev = h.dev := rfl
@[simp] theorem Hub.notify_epoch (h : Hub) (n : Notice) : (h.notify n).epoch = h.epoch := rfl
@[simp] theorem Hub.notify_arbs (h : Hub) (n : Notice) : (h.notify n).arbs = h.arbs := rfl
@[simp] theorem Hub.notify_power (h : Hub) (n : Notice) : (h.notify n).power = h.power := rfl
@[simp] theorem Hub.notify_rot (h : Hub) (n : Notice) : (h.notify n).rot = h.rot := rfl
@[simp] theorem Hub.notify_events (h : Hub) (n : Notice) : (h.notify n).events = h.events := rfl
@[simp] theorem Hub.notify_pmc (h : Hub) (n : Notice) : (h.notify n).pmc = h.pmc := rfl
@[simp] theorem Hub.notify_prefetchNotes (h : Hub) (n : Notice) : (h.notify n).prefetchNotes = h.prefetchNotes := rfl
@[simp] theorem Hub.notify_freeCtr (h : Hub) (n : Notice) : (h.notify n).freeCtr = h.freeCtr := rfl
@[simp] theorem Hub.notify_out (h : Hub) (n : Notice) : (h.notify n).out = h.out := rfl

/-! ### `emit` -/

@[simp] theorem Hub.emit_round (h : Hub) (m : OutMsg) : (h.emit m).round = h.round := rfl
@[simp] theorem Hub.emit_pins (h : Hub) (m : OutMsg) : (h.emit m).pins = h.pins := rfl
@[simp] theorem Hub.emit_start (h : Hub) (m : OutMsg) : (h.emit m).start = h.start := rfl
@[simp] theorem Hub.emit_mirror (h : Hub) (m : OutMsg) : (h.emit m).mirror = h.mirror := rfl
@[simp] theorem Hub.emit_aon (h : Hub) (m : OutMsg) : (h.emit m).aon = h.aon := rfl
@[simp] theorem Hub.emit_par (h : Hub) (m : OutMsg) : (h.emit m).par = h.par := rfl
@[simp] theorem Hub.emit_master (h : Hub) (m : OutMsg) : (h.emit m).master = h.master := rfl
@[simp] theorem Hub.emit_prot (h : Hub) (m : OutMsg) : (h.emit m).prot = h.prot := rfl
@[simp] theorem Hub.emit_mbx (h : Hub) (m : OutMsg) : (h.emit m).mbx = h.mbx := rfl
@[simp] theorem Hub.emit_core (h : Hub) (m : OutMsg) : (h.emit m).core = h.core := rfl
@[simp] theorem Hub.emit_map (h : Hub) (m : OutMsg) : (h.emit m).map = h.map := rfl
@[simp] theorem Hub.emit_slices (h : Hub) (m : OutMsg) : (h.emit m).slices = h.slices := rfl
@[simp] theorem Hub.emit_spill (h : Hub) (m : OutMsg) : (h.emit m).spill = h.spill := rfl
@[simp] theorem Hub.emit_agents (h : Hub) (m : OutMsg) : (h.emit m).agents = h.agents := rfl
@[simp] theorem Hub.emit_aps (h : Hub) (m : OutMsg) : (h.emit m).aps = h.aps := rfl
@[simp] theorem Hub.emit_mps (h : Hub) (m : OutMsg) : (h.emit m).mps = h.mps := rfl
@[simp] theorem Hub.emit_chans (h : Hub) (m : OutMsg) : (h.emit m).chans = h.chans := rfl
@[simp] theorem Hub.emit_reads (h : Hub) (m : OutMsg) : (h.emit m).reads = h.reads := rfl
@[simp] theorem Hub.emit_sps (h : Hub) (m : OutMsg) : (h.emit m).sps = h.sps := rfl
@[simp] theorem Hub.emit_spanReps (h : Hub) (m : OutMsg) : (h.emit m).spanReps = h.spanReps := rfl
@[simp] theorem Hub.emit_spanBacks (h : Hub) (m : OutMsg) : (h.emit m).spanBacks = h.spanBacks := rfl
@[simp] theorem Hub.emit_waitSnoops (h : Hub) (m : OutMsg) : (h.emit m).waitSnoops = h.waitSnoops := rfl
@[simp] theorem Hub.emit_lostHubs (h : Hub) (m : OutMsg) : (h.emit m).lostHubs = h.lostHubs := rfl
@[simp] theorem Hub.emit_routeAcks (h : Hub) (m : OutMsg) : (h.emit m).routeAcks = h.routeAcks := rfl
@[simp] theorem Hub.emit_routeNew (h : Hub) (m : OutMsg) : (h.emit m).routeNew = h.routeNew := rfl
@[simp] theorem Hub.emit_routeOld (h : Hub) (m : OutMsg) : (h.emit m).routeOld = h.routeOld := rfl
@[simp] theorem Hub.emit_spanEpoch (h : Hub) (m : OutMsg) : (h.emit m).spanEpoch = h.spanEpoch := rfl
@[simp] theorem Hub.emit_records (h : Hub) (m : OutMsg) : (h.emit m).records = h.records := rfl
@[simp] theorem Hub.emit_lapses (h : Hub) (m : OutMsg) : (h.emit m).lapses = h.lapses := rfl
@[simp] theorem Hub.emit_rsvRecs (h : Hub) (m : OutMsg) : (h.emit m).rsvRecs = h.rsvRecs := rfl
@[simp] theorem Hub.emit_rsvNotes (h : Hub) (m : OutMsg) : (h.emit m).rsvNotes = h.rsvNotes := rfl
@[simp] theorem Hub.emit_notices (h : Hub) (m : OutMsg) : (h.emit m).notices = h.notices := rfl
@[simp] theorem Hub.emit_chNotes (h : Hub) (m : OutMsg) : (h.emit m).chNotes = h.chNotes := rfl
@[simp] theorem Hub.emit_slots (h : Hub) (m : OutMsg) : (h.emit m).slots = h.slots := rfl
@[simp] theorem Hub.emit_pointer (h : Hub) (m : OutMsg) : (h.emit m).pointer = h.pointer := rfl
@[simp] theorem Hub.emit_dev (h : Hub) (m : OutMsg) : (h.emit m).dev = h.dev := rfl
@[simp] theorem Hub.emit_epoch (h : Hub) (m : OutMsg) : (h.emit m).epoch = h.epoch := rfl
@[simp] theorem Hub.emit_arbs (h : Hub) (m : OutMsg) : (h.emit m).arbs = h.arbs := rfl
@[simp] theorem Hub.emit_power (h : Hub) (m : OutMsg) : (h.emit m).power = h.power := rfl
@[simp] theorem Hub.emit_rot (h : Hub) (m : OutMsg) : (h.emit m).rot = h.rot := rfl
@[simp] theorem Hub.emit_events (h : Hub) (m : OutMsg) : (h.emit m).events = h.events := rfl
@[simp] theorem Hub.emit_pmc (h : Hub) (m : OutMsg) : (h.emit m).pmc = h.pmc := rfl
@[simp] theorem Hub.emit_prefetchNotes (h : Hub) (m : OutMsg) : (h.emit m).prefetchNotes = h.prefetchNotes := rfl
@[simp] theorem Hub.emit_freeCtr (h : Hub) (m : OutMsg) : (h.emit m).freeCtr = h.freeCtr := rfl

/-! ### `setDom` -/

@[simp] theorem Hub.setDom_round (h : Hub) (d : Domain) (x : DomState) : (h.setDom d x).round = h.round := rfl
@[simp] theorem Hub.setDom_pins (h : Hub) (d : Domain) (x : DomState) : (h.setDom d x).pins = h.pins := rfl
@[simp] theorem Hub.setDom_start (h : Hub) (d : Domain) (x : DomState) : (h.setDom d x).start = h.start := rfl
@[simp] theorem Hub.setDom_mirror (h : Hub) (d : Domain) (x : DomState) : (h.setDom d x).mirror = h.mirror := rfl
@[simp] theorem Hub.setDom_aon (h : Hub) (d : Domain) (x : DomState) : (h.setDom d x).aon = h.aon := rfl
@[simp] theorem Hub.setDom_par (h : Hub) (d : Domain) (x : DomState) : (h.setDom d x).par = h.par := rfl
@[simp] theorem Hub.setDom_master (h : Hub) (d : Domain) (x : DomState) : (h.setDom d x).master = h.master := rfl
@[simp] theorem Hub.setDom_prot (h : Hub) (d : Domain) (x : DomState) : (h.setDom d x).prot = h.prot := rfl
@[simp] theorem Hub.setDom_mbx (h : Hub) (d : Domain) (x : DomState) : (h.setDom d x).mbx = h.mbx := rfl
@[simp] theorem Hub.setDom_core (h : Hub) (d : Domain) (x : DomState) : (h.setDom d x).core = h.core := rfl
@[simp] theorem Hub.setDom_map (h : Hub) (d : Domain) (x : DomState) : (h.setDom d x).map = h.map := rfl
@[simp] theorem Hub.setDom_slices (h : Hub) (d : Domain) (x : DomState) : (h.setDom d x).slices = h.slices := rfl
@[simp] theorem Hub.setDom_spill (h : Hub) (d : Domain) (x : DomState) : (h.setDom d x).spill = h.spill := rfl
@[simp] theorem Hub.setDom_agents (h : Hub) (d : Domain) (x : DomState) : (h.setDom d x).agents = h.agents := rfl
@[simp] theorem Hub.setDom_aps (h : Hub) (d : Domain) (x : DomState) : (h.setDom d x).aps = h.aps := rfl
@[simp] theorem Hub.setDom_mps (h : Hub) (d : Domain) (x : DomState) : (h.setDom d x).mps = h.mps := rfl
@[simp] theorem Hub.setDom_chans (h : Hub) (d : Domain) (x : DomState) : (h.setDom d x).chans = h.chans := rfl
@[simp] theorem Hub.setDom_reads (h : Hub) (d : Domain) (x : DomState) : (h.setDom d x).reads = h.reads := rfl
@[simp] theorem Hub.setDom_sps (h : Hub) (d : Domain) (x : DomState) : (h.setDom d x).sps = h.sps := rfl
@[simp] theorem Hub.setDom_spanReps (h : Hub) (d : Domain) (x : DomState) : (h.setDom d x).spanReps = h.spanReps := rfl
@[simp] theorem Hub.setDom_spanBacks (h : Hub) (d : Domain) (x : DomState) : (h.setDom d x).spanBacks = h.spanBacks := rfl
@[simp] theorem Hub.setDom_waitSnoops (h : Hub) (d : Domain) (x : DomState) : (h.setDom d x).waitSnoops = h.waitSnoops := rfl
@[simp] theorem Hub.setDom_lostHubs (h : Hub) (d : Domain) (x : DomState) : (h.setDom d x).lostHubs = h.lostHubs := rfl
@[simp] theorem Hub.setDom_routeAcks (h : Hub) (d : Domain) (x : DomState) : (h.setDom d x).routeAcks = h.routeAcks := rfl
@[simp] theorem Hub.setDom_routeNew (h : Hub) (d : Domain) (x : DomState) : (h.setDom d x).routeNew = h.routeNew := rfl
@[simp] theorem Hub.setDom_routeOld (h : Hub) (d : Domain) (x : DomState) : (h.setDom d x).routeOld = h.routeOld := rfl
@[simp] theorem Hub.setDom_spanEpoch (h : Hub) (d : Domain) (x : DomState) : (h.setDom d x).spanEpoch = h.spanEpoch := rfl
@[simp] theorem Hub.setDom_records (h : Hub) (d : Domain) (x : DomState) : (h.setDom d x).records = h.records := rfl
@[simp] theorem Hub.setDom_lapses (h : Hub) (d : Domain) (x : DomState) : (h.setDom d x).lapses = h.lapses := rfl
@[simp] theorem Hub.setDom_rsvRecs (h : Hub) (d : Domain) (x : DomState) : (h.setDom d x).rsvRecs = h.rsvRecs := rfl
@[simp] theorem Hub.setDom_rsvNotes (h : Hub) (d : Domain) (x : DomState) : (h.setDom d x).rsvNotes = h.rsvNotes := rfl
@[simp] theorem Hub.setDom_notices (h : Hub) (d : Domain) (x : DomState) : (h.setDom d x).notices = h.notices := rfl
@[simp] theorem Hub.setDom_chNotes (h : Hub) (d : Domain) (x : DomState) : (h.setDom d x).chNotes = h.chNotes := rfl
@[simp] theorem Hub.setDom_slots (h : Hub) (d : Domain) (x : DomState) : (h.setDom d x).slots = h.slots := rfl
@[simp] theorem Hub.setDom_pointer (h : Hub) (d : Domain) (x : DomState) : (h.setDom d x).pointer = h.pointer := rfl
@[simp] theorem Hub.setDom_dev (h : Hub) (d : Domain) (x : DomState) : (h.setDom d x).dev = h.dev := rfl
@[simp] theorem Hub.setDom_epoch (h : Hub) (d : Domain) (x : DomState) : (h.setDom d x).epoch = h.epoch := rfl
@[simp] theorem Hub.setDom_arbs (h : Hub) (d : Domain) (x : DomState) : (h.setDom d x).arbs = h.arbs := rfl
@[simp] theorem Hub.setDom_rot (h : Hub) (d : Domain) (x : DomState) : (h.setDom d x).rot = h.rot := rfl
@[simp] theorem Hub.setDom_events (h : Hub) (d : Domain) (x : DomState) : (h.setDom d x).events = h.events := rfl
@[simp] theorem Hub.setDom_pmc (h : Hub) (d : Domain) (x : DomState) : (h.setDom d x).pmc = h.pmc := rfl
@[simp] theorem Hub.setDom_prefetchNotes (h : Hub) (d : Domain) (x : DomState) : (h.setDom d x).prefetchNotes = h.prefetchNotes := rfl
@[simp] theorem Hub.setDom_freeCtr (h : Hub) (d : Domain) (x : DomState) : (h.setDom d x).freeCtr = h.freeCtr := rfl
@[simp] theorem Hub.setDom_out (h : Hub) (d : Domain) (x : DomState) : (h.setDom d x).out = h.out := rfl

/-! ### `askWake` -/

@[simp] theorem Hub.askWake_round (h : Hub) (d : Domain) : (h.askWake d).round = h.round := rfl
@[simp] theorem Hub.askWake_pins (h : Hub) (d : Domain) : (h.askWake d).pins = h.pins := rfl
@[simp] theorem Hub.askWake_start (h : Hub) (d : Domain) : (h.askWake d).start = h.start := rfl
@[simp] theorem Hub.askWake_mirror (h : Hub) (d : Domain) : (h.askWake d).mirror = h.mirror := rfl
@[simp] theorem Hub.askWake_aon (h : Hub) (d : Domain) : (h.askWake d).aon = h.aon := rfl
@[simp] theorem Hub.askWake_par (h : Hub) (d : Domain) : (h.askWake d).par = h.par := rfl
@[simp] theorem Hub.askWake_master (h : Hub) (d : Domain) : (h.askWake d).master = h.master := rfl
@[simp] theorem Hub.askWake_prot (h : Hub) (d : Domain) : (h.askWake d).prot = h.prot := rfl
@[simp] theorem Hub.askWake_mbx (h : Hub) (d : Domain) : (h.askWake d).mbx = h.mbx := rfl
@[simp] theorem Hub.askWake_core (h : Hub) (d : Domain) : (h.askWake d).core = h.core := rfl
@[simp] theorem Hub.askWake_map (h : Hub) (d : Domain) : (h.askWake d).map = h.map := rfl
@[simp] theorem Hub.askWake_slices (h : Hub) (d : Domain) : (h.askWake d).slices = h.slices := rfl
@[simp] theorem Hub.askWake_spill (h : Hub) (d : Domain) : (h.askWake d).spill = h.spill := rfl
@[simp] theorem Hub.askWake_agents (h : Hub) (d : Domain) : (h.askWake d).agents = h.agents := rfl
@[simp] theorem Hub.askWake_aps (h : Hub) (d : Domain) : (h.askWake d).aps = h.aps := rfl
@[simp] theorem Hub.askWake_mps (h : Hub) (d : Domain) : (h.askWake d).mps = h.mps := rfl
@[simp] theorem Hub.askWake_chans (h : Hub) (d : Domain) : (h.askWake d).chans = h.chans := rfl
@[simp] theorem Hub.askWake_reads (h : Hub) (d : Domain) : (h.askWake d).reads = h.reads := rfl
@[simp] theorem Hub.askWake_sps (h : Hub) (d : Domain) : (h.askWake d).sps = h.sps := rfl
@[simp] theorem Hub.askWake_spanReps (h : Hub) (d : Domain) : (h.askWake d).spanReps = h.spanReps := rfl
@[simp] theorem Hub.askWake_spanBacks (h : Hub) (d : Domain) : (h.askWake d).spanBacks = h.spanBacks := rfl
@[simp] theorem Hub.askWake_waitSnoops (h : Hub) (d : Domain) : (h.askWake d).waitSnoops = h.waitSnoops := rfl
@[simp] theorem Hub.askWake_lostHubs (h : Hub) (d : Domain) : (h.askWake d).lostHubs = h.lostHubs := rfl
@[simp] theorem Hub.askWake_routeAcks (h : Hub) (d : Domain) : (h.askWake d).routeAcks = h.routeAcks := rfl
@[simp] theorem Hub.askWake_routeNew (h : Hub) (d : Domain) : (h.askWake d).routeNew = h.routeNew := rfl
@[simp] theorem Hub.askWake_routeOld (h : Hub) (d : Domain) : (h.askWake d).routeOld = h.routeOld := rfl
@[simp] theorem Hub.askWake_spanEpoch (h : Hub) (d : Domain) : (h.askWake d).spanEpoch = h.spanEpoch := rfl
@[simp] theorem Hub.askWake_records (h : Hub) (d : Domain) : (h.askWake d).records = h.records := rfl
@[simp] theorem Hub.askWake_lapses (h : Hub) (d : Domain) : (h.askWake d).lapses = h.lapses := rfl
@[simp] theorem Hub.askWake_rsvRecs (h : Hub) (d : Domain) : (h.askWake d).rsvRecs = h.rsvRecs := rfl
@[simp] theorem Hub.askWake_rsvNotes (h : Hub) (d : Domain) : (h.askWake d).rsvNotes = h.rsvNotes := rfl
@[simp] theorem Hub.askWake_notices (h : Hub) (d : Domain) : (h.askWake d).notices = h.notices := rfl
@[simp] theorem Hub.askWake_chNotes (h : Hub) (d : Domain) : (h.askWake d).chNotes = h.chNotes := rfl
@[simp] theorem Hub.askWake_slots (h : Hub) (d : Domain) : (h.askWake d).slots = h.slots := rfl
@[simp] theorem Hub.askWake_pointer (h : Hub) (d : Domain) : (h.askWake d).pointer = h.pointer := rfl
@[simp] theorem Hub.askWake_dev (h : Hub) (d : Domain) : (h.askWake d).dev = h.dev := rfl
@[simp] theorem Hub.askWake_epoch (h : Hub) (d : Domain) : (h.askWake d).epoch = h.epoch := rfl
@[simp] theorem Hub.askWake_arbs (h : Hub) (d : Domain) : (h.askWake d).arbs = h.arbs := rfl
@[simp] theorem Hub.askWake_rot (h : Hub) (d : Domain) : (h.askWake d).rot = h.rot := rfl
@[simp] theorem Hub.askWake_events (h : Hub) (d : Domain) : (h.askWake d).events = h.events := rfl
@[simp] theorem Hub.askWake_pmc (h : Hub) (d : Domain) : (h.askWake d).pmc = h.pmc := rfl
@[simp] theorem Hub.askWake_prefetchNotes (h : Hub) (d : Domain) : (h.askWake d).prefetchNotes = h.prefetchNotes := rfl
@[simp] theorem Hub.askWake_freeCtr (h : Hub) (d : Domain) : (h.askWake d).freeCtr = h.freeCtr := rfl
@[simp] theorem Hub.askWake_out (h : Hub) (d : Domain) : (h.askWake d).out = h.out := rfl

end Sys2Proof.Machine
end

