-- ==== Sys2Proof/Laws/Raises.lean ====
section
/-!
SUPPORT. What the shared operations behind every message and every event leave as it was. Each theorem says all of it at once and
rewrites with `simp`.
-/
set_option Elab.async false
namespace Sys2Proof.Machine

@[simp] theorem Hub.count_keeps (h : Hub) (ev u n : Nat) :
    (h.count ev u n).round = h.round ∧ (h.count ev u n).pins = h.pins ∧ (h.count ev u n).start = h.start ∧
    (h.count ev u n).mirror = h.mirror ∧ (h.count ev u n).aon = h.aon ∧ (h.count ev u n).par = h.par ∧
    (h.count ev u n).master = h.master ∧ (h.count ev u n).prot = h.prot ∧ (h.count ev u n).mbx = h.mbx ∧
    (h.count ev u n).core = h.core ∧ (h.count ev u n).map = h.map ∧ (h.count ev u n).slices = h.slices ∧
    (h.count ev u n).spill = h.spill ∧ (h.count ev u n).agents = h.agents ∧ (h.count ev u n).aps = h.aps ∧
    (h.count ev u n).mps = h.mps ∧ (h.count ev u n).chans = h.chans ∧ (h.count ev u n).reads = h.reads ∧
    (h.count ev u n).sps = h.sps ∧ (h.count ev u n).spanReps = h.spanReps ∧ (h.count ev u n).spanBacks = h.spanBacks ∧
    (h.count ev u n).waitSnoops = h.waitSnoops ∧ (h.count ev u n).lostHubs = h.lostHubs ∧ (h.count ev u n).routeAcks = h.routeAcks ∧
    (h.count ev u n).routeNew = h.routeNew ∧ (h.count ev u n).routeOld = h.routeOld ∧ (h.count ev u n).spanEpoch = h.spanEpoch ∧
    (h.count ev u n).records = h.records ∧ (h.count ev u n).lapses = h.lapses ∧ (h.count ev u n).rsvRecs = h.rsvRecs ∧
    (h.count ev u n).rsvNotes = h.rsvNotes ∧ (h.count ev u n).notices = h.notices ∧ (h.count ev u n).chNotes = h.chNotes ∧
    (h.count ev u n).slots = h.slots ∧ (h.count ev u n).pointer = h.pointer ∧ (h.count ev u n).dev = h.dev ∧
    (h.count ev u n).epoch = h.epoch ∧ (h.count ev u n).arbs = h.arbs ∧ (h.count ev u n).power = h.power ∧
    (h.count ev u n).rot = h.rot ∧ (h.count ev u n).events = h.events ∧ (h.count ev u n).prefetchNotes = h.prefetchNotes ∧
    (h.count ev u n).freeCtr = h.freeCtr ∧ (h.count ev u n).out = h.out := by
  unfold Hub.count; split <;> simp

@[simp] theorem Hub.moved_keeps (h : Hub) (a b : Nat) (d : Bool) (n : Nat) :
    (h.moved a b d n).round = h.round ∧ (h.moved a b d n).pins = h.pins ∧ (h.moved a b d n).start = h.start ∧
    (h.moved a b d n).mirror = h.mirror ∧ (h.moved a b d n).aon = h.aon ∧ (h.moved a b d n).par = h.par ∧
    (h.moved a b d n).master = h.master ∧ (h.moved a b d n).prot = h.prot ∧ (h.moved a b d n).mbx = h.mbx ∧
    (h.moved a b d n).core = h.core ∧ (h.moved a b d n).map = h.map ∧ (h.moved a b d n).slices = h.slices ∧
    (h.moved a b d n).spill = h.spill ∧ (h.moved a b d n).agents = h.agents ∧ (h.moved a b d n).aps = h.aps ∧
    (h.moved a b d n).mps = h.mps ∧ (h.moved a b d n).chans = h.chans ∧ (h.moved a b d n).reads = h.reads ∧
    (h.moved a b d n).sps = h.sps ∧ (h.moved a b d n).spanReps = h.spanReps ∧ (h.moved a b d n).spanBacks = h.spanBacks ∧
    (h.moved a b d n).waitSnoops = h.waitSnoops ∧ (h.moved a b d n).lostHubs = h.lostHubs ∧ (h.moved a b d n).routeAcks = h.routeAcks ∧
    (h.moved a b d n).routeNew = h.routeNew ∧ (h.moved a b d n).routeOld = h.routeOld ∧ (h.moved a b d n).spanEpoch = h.spanEpoch ∧
    (h.moved a b d n).records = h.records ∧ (h.moved a b d n).lapses = h.lapses ∧ (h.moved a b d n).rsvRecs = h.rsvRecs ∧
    (h.moved a b d n).rsvNotes = h.rsvNotes ∧ (h.moved a b d n).notices = h.notices ∧ (h.moved a b d n).chNotes = h.chNotes ∧
    (h.moved a b d n).slots = h.slots ∧ (h.moved a b d n).pointer = h.pointer ∧ (h.moved a b d n).dev = h.dev ∧
    (h.moved a b d n).epoch = h.epoch ∧ (h.moved a b d n).arbs = h.arbs ∧ (h.moved a b d n).power = h.power ∧
    (h.moved a b d n).rot = h.rot ∧ (h.moved a b d n).events = h.events ∧ (h.moved a b d n).prefetchNotes = h.prefetchNotes ∧
    (h.moved a b d n).out = h.out := by
  simp [Hub.moved, Hub.takeFree]

@[simp] theorem Hub.unpark_keeps (h : Hub) (d : Domain) :
    (h.unpark d).round = h.round ∧ (h.unpark d).pins = h.pins ∧ (h.unpark d).start = h.start ∧
    (h.unpark d).mirror = h.mirror ∧ (h.unpark d).aon = h.aon ∧ (h.unpark d).par = h.par ∧
    (h.unpark d).master = h.master ∧ (h.unpark d).prot = h.prot ∧ (h.unpark d).mbx = h.mbx ∧
    (h.unpark d).core = h.core ∧ (h.unpark d).map = h.map ∧ (h.unpark d).slices = h.slices ∧
    (h.unpark d).spill = h.spill ∧ (h.unpark d).mps = h.mps ∧ (h.unpark d).chans = h.chans ∧
    (h.unpark d).reads = h.reads ∧ (h.unpark d).sps = h.sps ∧ (h.unpark d).spanReps = h.spanReps ∧
    (h.unpark d).spanBacks = h.spanBacks ∧ (h.unpark d).waitSnoops = h.waitSnoops ∧ (h.unpark d).lostHubs = h.lostHubs ∧
    (h.unpark d).routeAcks = h.routeAcks ∧ (h.unpark d).routeNew = h.routeNew ∧ (h.unpark d).routeOld = h.routeOld ∧
    (h.unpark d).spanEpoch = h.spanEpoch ∧ (h.unpark d).records = h.records ∧ (h.unpark d).lapses = h.lapses ∧
    (h.unpark d).rsvRecs = h.rsvRecs ∧ (h.unpark d).rsvNotes = h.rsvNotes ∧ (h.unpark d).notices = h.notices ∧
    (h.unpark d).chNotes = h.chNotes ∧ (h.unpark d).slots = h.slots ∧ (h.unpark d).pointer = h.pointer ∧
    (h.unpark d).dev = h.dev ∧ (h.unpark d).epoch = h.epoch ∧ (h.unpark d).arbs = h.arbs ∧
    (h.unpark d).power = h.power ∧ (h.unpark d).rot = h.rot ∧ (h.unpark d).events = h.events ∧
    (h.unpark d).pmc = h.pmc ∧ (h.unpark d).prefetchNotes = h.prefetchNotes ∧ (h.unpark d).freeCtr = h.freeCtr ∧
    (h.unpark d).out = h.out := by
  unfold Hub.unpark; split <;> simp

@[simp] theorem Hub.abortDown_keeps (h : Hub) (d : Domain) :
    (h.abortDown d).round = h.round ∧ (h.abortDown d).pins = h.pins ∧ (h.abortDown d).start = h.start ∧
    (h.abortDown d).mirror = h.mirror ∧ (h.abortDown d).aon = h.aon ∧ (h.abortDown d).par = h.par ∧
    (h.abortDown d).master = h.master ∧ (h.abortDown d).prot = h.prot ∧ (h.abortDown d).mbx = h.mbx ∧
    (h.abortDown d).core = h.core ∧ (h.abortDown d).map = h.map ∧ (h.abortDown d).slices = h.slices ∧
    (h.abortDown d).spill = h.spill ∧ (h.abortDown d).mps = h.mps ∧ (h.abortDown d).chans = h.chans ∧
    (h.abortDown d).reads = h.reads ∧ (h.abortDown d).sps = h.sps ∧ (h.abortDown d).spanReps = h.spanReps ∧
    (h.abortDown d).spanBacks = h.spanBacks ∧ (h.abortDown d).waitSnoops = h.waitSnoops ∧ (h.abortDown d).lostHubs = h.lostHubs ∧
    (h.abortDown d).routeAcks = h.routeAcks ∧ (h.abortDown d).routeNew = h.routeNew ∧ (h.abortDown d).routeOld = h.routeOld ∧
    (h.abortDown d).spanEpoch = h.spanEpoch ∧ (h.abortDown d).records = h.records ∧ (h.abortDown d).lapses = h.lapses ∧
    (h.abortDown d).rsvRecs = h.rsvRecs ∧ (h.abortDown d).rsvNotes = h.rsvNotes ∧ (h.abortDown d).chNotes = h.chNotes ∧
    (h.abortDown d).slots = h.slots ∧ (h.abortDown d).pointer = h.pointer ∧ (h.abortDown d).dev = h.dev ∧
    (h.abortDown d).epoch = h.epoch ∧ (h.abortDown d).arbs = h.arbs ∧ (h.abortDown d).rot = h.rot ∧
    (h.abortDown d).events = h.events ∧ (h.abortDown d).pmc = h.pmc ∧ (h.abortDown d).prefetchNotes = h.prefetchNotes ∧
    (h.abortDown d).freeCtr = h.freeCtr ∧ (h.abortDown d).out = h.out := by
  unfold Hub.abortDown; cases d <;> simp

@[simp] theorem Hub.domReady_keeps (h : Hub) (d : Domain) :
    ((h.domReady d).1).round = h.round ∧ ((h.domReady d).1).pins = h.pins ∧ ((h.domReady d).1).start = h.start ∧
    ((h.domReady d).1).mirror = h.mirror ∧ ((h.domReady d).1).aon = h.aon ∧ ((h.domReady d).1).par = h.par ∧
    ((h.domReady d).1).master = h.master ∧ ((h.domReady d).1).prot = h.prot ∧ ((h.domReady d).1).mbx = h.mbx ∧
    ((h.domReady d).1).core = h.core ∧ ((h.domReady d).1).map = h.map ∧ ((h.domReady d).1).slices = h.slices ∧
    ((h.domReady d).1).spill = h.spill ∧ ((h.domReady d).1).mps = h.mps ∧ ((h.domReady d).1).chans = h.chans ∧
    ((h.domReady d).1).reads = h.reads ∧ ((h.domReady d).1).sps = h.sps ∧ ((h.domReady d).1).spanReps = h.spanReps ∧
    ((h.domReady d).1).spanBacks = h.spanBacks ∧ ((h.domReady d).1).waitSnoops = h.waitSnoops ∧ ((h.domReady d).1).lostHubs = h.lostHubs ∧
    ((h.domReady d).1).routeAcks = h.routeAcks ∧ ((h.domReady d).1).routeNew = h.routeNew ∧ ((h.domReady d).1).routeOld = h.routeOld ∧
    ((h.domReady d).1).spanEpoch = h.spanEpoch ∧ ((h.domReady d).1).records = h.records ∧ ((h.domReady d).1).lapses = h.lapses ∧
    ((h.domReady d).1).rsvRecs = h.rsvRecs ∧ ((h.domReady d).1).rsvNotes = h.rsvNotes ∧ ((h.domReady d).1).chNotes = h.chNotes ∧
    ((h.domReady d).1).slots = h.slots ∧ ((h.domReady d).1).pointer = h.pointer ∧ ((h.domReady d).1).dev = h.dev ∧
    ((h.domReady d).1).epoch = h.epoch ∧ ((h.domReady d).1).arbs = h.arbs ∧ ((h.domReady d).1).rot = h.rot ∧
    ((h.domReady d).1).events = h.events ∧ ((h.domReady d).1).pmc = h.pmc ∧ ((h.domReady d).1).prefetchNotes = h.prefetchNotes ∧
    ((h.domReady d).1).freeCtr = h.freeCtr ∧ ((h.domReady d).1).out = h.out := by
  unfold Hub.domReady; split <;> simp

@[simp] theorem Hub.apReady_keeps (h : Hub) (p : BitVec 4) :
    ((h.apReady p).1).round = h.round ∧ ((h.apReady p).1).pins = h.pins ∧ ((h.apReady p).1).start = h.start ∧
    ((h.apReady p).1).mirror = h.mirror ∧ ((h.apReady p).1).aon = h.aon ∧ ((h.apReady p).1).par = h.par ∧
    ((h.apReady p).1).master = h.master ∧ ((h.apReady p).1).prot = h.prot ∧ ((h.apReady p).1).mbx = h.mbx ∧
    ((h.apReady p).1).core = h.core ∧ ((h.apReady p).1).map = h.map ∧ ((h.apReady p).1).slices = h.slices ∧
    ((h.apReady p).1).spill = h.spill ∧ ((h.apReady p).1).mps = h.mps ∧ ((h.apReady p).1).chans = h.chans ∧
    ((h.apReady p).1).reads = h.reads ∧ ((h.apReady p).1).sps = h.sps ∧ ((h.apReady p).1).spanReps = h.spanReps ∧
    ((h.apReady p).1).spanBacks = h.spanBacks ∧ ((h.apReady p).1).waitSnoops = h.waitSnoops ∧ ((h.apReady p).1).lostHubs = h.lostHubs ∧
    ((h.apReady p).1).routeAcks = h.routeAcks ∧ ((h.apReady p).1).routeNew = h.routeNew ∧ ((h.apReady p).1).routeOld = h.routeOld ∧
    ((h.apReady p).1).spanEpoch = h.spanEpoch ∧ ((h.apReady p).1).records = h.records ∧ ((h.apReady p).1).lapses = h.lapses ∧
    ((h.apReady p).1).rsvRecs = h.rsvRecs ∧ ((h.apReady p).1).rsvNotes = h.rsvNotes ∧ ((h.apReady p).1).chNotes = h.chNotes ∧
    ((h.apReady p).1).slots = h.slots ∧ ((h.apReady p).1).pointer = h.pointer ∧ ((h.apReady p).1).dev = h.dev ∧
    ((h.apReady p).1).epoch = h.epoch ∧ ((h.apReady p).1).arbs = h.arbs ∧ ((h.apReady p).1).rot = h.rot ∧
    ((h.apReady p).1).events = h.events ∧ ((h.apReady p).1).pmc = h.pmc ∧ ((h.apReady p).1).prefetchNotes = h.prefetchNotes ∧
    ((h.apReady p).1).freeCtr = h.freeCtr ∧ ((h.apReady p).1).out = h.out := by
  simp [Hub.apReady]

@[simp] theorem Hub.ejected_keeps (h : Hub) (dst : Nat) (data : Bool) (n : Nat) :
    (h.ejected dst data n).round = h.round ∧ (h.ejected dst data n).pins = h.pins ∧ (h.ejected dst data n).start = h.start ∧
    (h.ejected dst data n).mirror = h.mirror ∧ (h.ejected dst data n).aon = h.aon ∧ (h.ejected dst data n).par = h.par ∧
    (h.ejected dst data n).master = h.master ∧ (h.ejected dst data n).prot = h.prot ∧ (h.ejected dst data n).mbx = h.mbx ∧
    (h.ejected dst data n).core = h.core ∧ (h.ejected dst data n).map = h.map ∧ (h.ejected dst data n).slices = h.slices ∧
    (h.ejected dst data n).spill = h.spill ∧ (h.ejected dst data n).agents = h.agents ∧ (h.ejected dst data n).aps = h.aps ∧
    (h.ejected dst data n).mps = h.mps ∧ (h.ejected dst data n).chans = h.chans ∧ (h.ejected dst data n).reads = h.reads ∧
    (h.ejected dst data n).sps = h.sps ∧ (h.ejected dst data n).spanReps = h.spanReps ∧
    (h.ejected dst data n).spanBacks = h.spanBacks ∧ (h.ejected dst data n).waitSnoops = h.waitSnoops ∧
    (h.ejected dst data n).lostHubs = h.lostHubs ∧ (h.ejected dst data n).routeAcks = h.routeAcks ∧
    (h.ejected dst data n).routeNew = h.routeNew ∧ (h.ejected dst data n).routeOld = h.routeOld ∧
    (h.ejected dst data n).spanEpoch = h.spanEpoch ∧ (h.ejected dst data n).records = h.records ∧
    (h.ejected dst data n).lapses = h.lapses ∧ (h.ejected dst data n).rsvRecs = h.rsvRecs ∧
    (h.ejected dst data n).rsvNotes = h.rsvNotes ∧ (h.ejected dst data n).notices = h.notices ∧
    (h.ejected dst data n).chNotes = h.chNotes ∧ (h.ejected dst data n).slots = h.slots ∧
    (h.ejected dst data n).pointer = h.pointer ∧ (h.ejected dst data n).dev = h.dev ∧ (h.ejected dst data n).epoch = h.epoch ∧
    (h.ejected dst data n).arbs = h.arbs ∧ (h.ejected dst data n).power = h.power ∧ (h.ejected dst data n).rot = h.rot ∧
    (h.ejected dst data n).events = h.events ∧ (h.ejected dst data n).prefetchNotes = h.prefetchNotes ∧
    (h.ejected dst data n).freeCtr = h.freeCtr ∧ (h.ejected dst data n).out = h.out := by
  simp [Hub.ejected]

@[simp] theorem Hub.passMsg_keeps (h : Hub) (p : BitVec 4) (from_ : Nat) (m : AgentMsg) :
    (h.passMsg p from_ m).round = h.round ∧ (h.passMsg p from_ m).pins = h.pins ∧ (h.passMsg p from_ m).start = h.start ∧
    (h.passMsg p from_ m).mirror = h.mirror ∧ (h.passMsg p from_ m).aon = h.aon ∧ (h.passMsg p from_ m).par = h.par ∧
    (h.passMsg p from_ m).master = h.master ∧ (h.passMsg p from_ m).prot = h.prot ∧ (h.passMsg p from_ m).mbx = h.mbx ∧
    (h.passMsg p from_ m).core = h.core ∧ (h.passMsg p from_ m).map = h.map ∧ (h.passMsg p from_ m).slices = h.slices ∧
    (h.passMsg p from_ m).spill = h.spill ∧ (h.passMsg p from_ m).agents = h.agents ∧ (h.passMsg p from_ m).mps = h.mps ∧
    (h.passMsg p from_ m).chans = h.chans ∧ (h.passMsg p from_ m).reads = h.reads ∧ (h.passMsg p from_ m).sps = h.sps ∧
    (h.passMsg p from_ m).spanReps = h.spanReps ∧ (h.passMsg p from_ m).spanBacks = h.spanBacks ∧
    (h.passMsg p from_ m).waitSnoops = h.waitSnoops ∧ (h.passMsg p from_ m).lostHubs = h.lostHubs ∧
    (h.passMsg p from_ m).routeAcks = h.routeAcks ∧ (h.passMsg p from_ m).routeNew = h.routeNew ∧
    (h.passMsg p from_ m).routeOld = h.routeOld ∧ (h.passMsg p from_ m).spanEpoch = h.spanEpoch ∧
    (h.passMsg p from_ m).records = h.records ∧ (h.passMsg p from_ m).lapses = h.lapses ∧
    (h.passMsg p from_ m).rsvRecs = h.rsvRecs ∧ (h.passMsg p from_ m).rsvNotes = h.rsvNotes ∧
    (h.passMsg p from_ m).notices = h.notices ∧ (h.passMsg p from_ m).chNotes = h.chNotes ∧
    (h.passMsg p from_ m).slots = h.slots ∧ (h.passMsg p from_ m).pointer = h.pointer ∧ (h.passMsg p from_ m).dev = h.dev ∧
    (h.passMsg p from_ m).epoch = h.epoch ∧ (h.passMsg p from_ m).arbs = h.arbs ∧ (h.passMsg p from_ m).power = h.power ∧
    (h.passMsg p from_ m).rot = h.rot ∧ (h.passMsg p from_ m).events = h.events ∧
    (h.passMsg p from_ m).prefetchNotes = h.prefetchNotes := by
  unfold Hub.passMsg; dsimp only; split <;> simp

@[simp] theorem Hub.passOrStall_keeps (h : Hub) (p : BitVec 4) (from_ : Nat) (m : AgentMsg) :
    (h.passOrStall p from_ m).1.round = h.round ∧ (h.passOrStall p from_ m).1.pins = h.pins ∧
    (h.passOrStall p from_ m).1.start = h.start ∧ (h.passOrStall p from_ m).1.mirror = h.mirror ∧
    (h.passOrStall p from_ m).1.aon = h.aon ∧ (h.passOrStall p from_ m).1.par = h.par ∧
    (h.passOrStall p from_ m).1.master = h.master ∧ (h.passOrStall p from_ m).1.prot = h.prot ∧
    (h.passOrStall p from_ m).1.mbx = h.mbx ∧ (h.passOrStall p from_ m).1.core = h.core ∧
    (h.passOrStall p from_ m).1.map = h.map ∧ (h.passOrStall p from_ m).1.slices = h.slices ∧
    (h.passOrStall p from_ m).1.spill = h.spill ∧ (h.passOrStall p from_ m).1.agents = h.agents ∧
    (h.passOrStall p from_ m).1.mps = h.mps ∧ (h.passOrStall p from_ m).1.chans = h.chans ∧
    (h.passOrStall p from_ m).1.reads = h.reads ∧ (h.passOrStall p from_ m).1.sps = h.sps ∧
    (h.passOrStall p from_ m).1.spanReps = h.spanReps ∧ (h.passOrStall p from_ m).1.spanBacks = h.spanBacks ∧
    (h.passOrStall p from_ m).1.waitSnoops = h.waitSnoops ∧ (h.passOrStall p from_ m).1.lostHubs = h.lostHubs ∧
    (h.passOrStall p from_ m).1.routeAcks = h.routeAcks ∧ (h.passOrStall p from_ m).1.routeNew = h.routeNew ∧
    (h.passOrStall p from_ m).1.routeOld = h.routeOld ∧ (h.passOrStall p from_ m).1.spanEpoch = h.spanEpoch ∧
    (h.passOrStall p from_ m).1.records = h.records ∧ (h.passOrStall p from_ m).1.lapses = h.lapses ∧
    (h.passOrStall p from_ m).1.rsvRecs = h.rsvRecs ∧ (h.passOrStall p from_ m).1.rsvNotes = h.rsvNotes ∧
    (h.passOrStall p from_ m).1.notices = h.notices ∧ (h.passOrStall p from_ m).1.chNotes = h.chNotes ∧
    (h.passOrStall p from_ m).1.slots = h.slots ∧ (h.passOrStall p from_ m).1.pointer = h.pointer ∧
    (h.passOrStall p from_ m).1.dev = h.dev ∧ (h.passOrStall p from_ m).1.epoch = h.epoch ∧
    (h.passOrStall p from_ m).1.arbs = h.arbs ∧ (h.passOrStall p from_ m).1.power = h.power ∧
    (h.passOrStall p from_ m).1.rot = h.rot ∧ (h.passOrStall p from_ m).1.events = h.events ∧
    (h.passOrStall p from_ m).1.prefetchNotes = h.prefetchNotes := by
  unfold Hub.passOrStall; dsimp only; split <;> simp

@[simp] theorem Hub.sendDev_keeps (h : Hub) (r : DevReq) :
    (h.sendDev r).round = h.round ∧ (h.sendDev r).pins = h.pins ∧ (h.sendDev r).start = h.start ∧
    (h.sendDev r).mirror = h.mirror ∧ (h.sendDev r).aon = h.aon ∧ (h.sendDev r).par = h.par ∧ (h.sendDev r).master = h.master ∧
    (h.sendDev r).prot = h.prot ∧ (h.sendDev r).mbx = h.mbx ∧ (h.sendDev r).core = h.core ∧ (h.sendDev r).map = h.map ∧
    (h.sendDev r).slices = h.slices ∧ (h.sendDev r).spill = h.spill ∧ (h.sendDev r).agents = h.agents ∧
    (h.sendDev r).mps = h.mps ∧ (h.sendDev r).chans = h.chans ∧ (h.sendDev r).reads = h.reads ∧ (h.sendDev r).sps = h.sps ∧
    (h.sendDev r).spanReps = h.spanReps ∧ (h.sendDev r).spanBacks = h.spanBacks ∧ (h.sendDev r).waitSnoops = h.waitSnoops ∧
    (h.sendDev r).lostHubs = h.lostHubs ∧ (h.sendDev r).routeAcks = h.routeAcks ∧ (h.sendDev r).routeNew = h.routeNew ∧
    (h.sendDev r).routeOld = h.routeOld ∧ (h.sendDev r).spanEpoch = h.spanEpoch ∧ (h.sendDev r).records = h.records ∧
    (h.sendDev r).lapses = h.lapses ∧ (h.sendDev r).rsvRecs = h.rsvRecs ∧ (h.sendDev r).rsvNotes = h.rsvNotes ∧
    (h.sendDev r).notices = h.notices ∧ (h.sendDev r).chNotes = h.chNotes ∧ (h.sendDev r).slots = h.slots ∧
    (h.sendDev r).pointer = h.pointer ∧ (h.sendDev r).dev = h.dev ∧ (h.sendDev r).epoch = h.epoch ∧
    (h.sendDev r).arbs = h.arbs ∧ (h.sendDev r).power = h.power ∧ (h.sendDev r).rot = h.rot ∧ (h.sendDev r).events = h.events ∧
    (h.sendDev r).prefetchNotes = h.prefetchNotes := by
  unfold Hub.sendDev; dsimp only; split <;> simp

theorem Hub.devPumpList_keeps (l : List DevReq) (b : List (Gaid × Nat)) (h : Hub) :
    (Hub.devPumpList l b h).round = h.round ∧ (Hub.devPumpList l b h).pins = h.pins ∧ (Hub.devPumpList l b h).start = h.start ∧
    (Hub.devPumpList l b h).mirror = h.mirror ∧ (Hub.devPumpList l b h).aon = h.aon ∧ (Hub.devPumpList l b h).par = h.par ∧
    (Hub.devPumpList l b h).master = h.master ∧ (Hub.devPumpList l b h).prot = h.prot ∧ (Hub.devPumpList l b h).mbx = h.mbx ∧
    (Hub.devPumpList l b h).core = h.core ∧ (Hub.devPumpList l b h).map = h.map ∧ (Hub.devPumpList l b h).slices = h.slices ∧
    (Hub.devPumpList l b h).spill = h.spill ∧ (Hub.devPumpList l b h).mps = h.mps ∧ (Hub.devPumpList l b h).chans = h.chans ∧
    (Hub.devPumpList l b h).reads = h.reads ∧ (Hub.devPumpList l b h).sps = h.sps ∧ (Hub.devPumpList l b h).spanReps = h.spanReps ∧
    (Hub.devPumpList l b h).spanBacks = h.spanBacks ∧ (Hub.devPumpList l b h).waitSnoops = h.waitSnoops ∧ (Hub.devPumpList l b h).lostHubs = h.lostHubs ∧
    (Hub.devPumpList l b h).routeAcks = h.routeAcks ∧ (Hub.devPumpList l b h).routeNew = h.routeNew ∧ (Hub.devPumpList l b h).routeOld = h.routeOld ∧
    (Hub.devPumpList l b h).spanEpoch = h.spanEpoch ∧ (Hub.devPumpList l b h).records = h.records ∧ (Hub.devPumpList l b h).lapses = h.lapses ∧
    (Hub.devPumpList l b h).rsvRecs = h.rsvRecs ∧ (Hub.devPumpList l b h).rsvNotes = h.rsvNotes ∧ (Hub.devPumpList l b h).chNotes = h.chNotes ∧
    (Hub.devPumpList l b h).slots = h.slots ∧ (Hub.devPumpList l b h).pointer = h.pointer ∧ (Hub.devPumpList l b h).epoch = h.epoch ∧
    (Hub.devPumpList l b h).arbs = h.arbs ∧ (Hub.devPumpList l b h).rot = h.rot ∧ (Hub.devPumpList l b h).events = h.events ∧
    (Hub.devPumpList l b h).prefetchNotes = h.prefetchNotes := by
  induction l generalizing b h with
  | nil => simp [Hub.devPumpList]
  | cons r t ih =>
    unfold Hub.devPumpList
    split
    · exact ih _ _
    · split
      · exact ih _ _
      · dsimp only
        split
        · refine ⟨?_, ?_, ?_, ?_, ?_, ?_, ?_, ?_, ?_, ?_, ?_, ?_, ?_, ?_, ?_, ?_, ?_, ?_, ?_, ?_, ?_, ?_, ?_, ?_, ?_, ?_, ?_, ?_, ?_, ?_, ?_, ?_, ?_, ?_, ?_, ?_, ?_⟩ <;> simp [ih]
        · refine ⟨?_, ?_, ?_, ?_, ?_, ?_, ?_, ?_, ?_, ?_, ?_, ?_, ?_, ?_, ?_, ?_, ?_, ?_, ?_, ?_, ?_, ?_, ?_, ?_, ?_, ?_, ?_, ?_, ?_, ?_, ?_, ?_, ?_, ?_, ?_, ?_, ?_⟩ <;> simp [ih]

@[simp] theorem Hub.devPump_keeps (h : Hub)  :
    (h.devPump).round = h.round ∧ (h.devPump).pins = h.pins ∧ (h.devPump).start = h.start ∧
    (h.devPump).mirror = h.mirror ∧ (h.devPump).aon = h.aon ∧ (h.devPump).par = h.par ∧
    (h.devPump).master = h.master ∧ (h.devPump).prot = h.prot ∧ (h.devPump).mbx = h.mbx ∧
    (h.devPump).core = h.core ∧ (h.devPump).map = h.map ∧ (h.devPump).slices = h.slices ∧
    (h.devPump).spill = h.spill ∧ (h.devPump).mps = h.mps ∧ (h.devPump).chans = h.chans ∧
    (h.devPump).reads = h.reads ∧ (h.devPump).sps = h.sps ∧ (h.devPump).spanReps = h.spanReps ∧
    (h.devPump).spanBacks = h.spanBacks ∧ (h.devPump).waitSnoops = h.waitSnoops ∧ (h.devPump).lostHubs = h.lostHubs ∧
    (h.devPump).routeAcks = h.routeAcks ∧ (h.devPump).routeNew = h.routeNew ∧ (h.devPump).routeOld = h.routeOld ∧
    (h.devPump).spanEpoch = h.spanEpoch ∧ (h.devPump).records = h.records ∧ (h.devPump).lapses = h.lapses ∧
    (h.devPump).rsvRecs = h.rsvRecs ∧ (h.devPump).rsvNotes = h.rsvNotes ∧ (h.devPump).chNotes = h.chNotes ∧
    (h.devPump).slots = h.slots ∧ (h.devPump).pointer = h.pointer ∧ (h.devPump).epoch = h.epoch ∧
    (h.devPump).arbs = h.arbs ∧ (h.devPump).rot = h.rot ∧ (h.devPump).events = h.events ∧
    (h.devPump).prefetchNotes = h.prefetchNotes := Hub.devPumpList_keeps _ _ _

@[simp] theorem Hub.devAdd_keeps (h : Hub) (r : DevReq) :
    (h.devAdd r).round = h.round ∧ (h.devAdd r).pins = h.pins ∧ (h.devAdd r).start = h.start ∧
    (h.devAdd r).mirror = h.mirror ∧ (h.devAdd r).aon = h.aon ∧ (h.devAdd r).par = h.par ∧
    (h.devAdd r).master = h.master ∧ (h.devAdd r).prot = h.prot ∧ (h.devAdd r).mbx = h.mbx ∧
    (h.devAdd r).core = h.core ∧ (h.devAdd r).map = h.map ∧ (h.devAdd r).slices = h.slices ∧
    (h.devAdd r).spill = h.spill ∧ (h.devAdd r).mps = h.mps ∧ (h.devAdd r).chans = h.chans ∧
    (h.devAdd r).reads = h.reads ∧ (h.devAdd r).sps = h.sps ∧ (h.devAdd r).spanReps = h.spanReps ∧
    (h.devAdd r).spanBacks = h.spanBacks ∧ (h.devAdd r).waitSnoops = h.waitSnoops ∧ (h.devAdd r).lostHubs = h.lostHubs ∧
    (h.devAdd r).routeAcks = h.routeAcks ∧ (h.devAdd r).routeNew = h.routeNew ∧ (h.devAdd r).routeOld = h.routeOld ∧
    (h.devAdd r).spanEpoch = h.spanEpoch ∧ (h.devAdd r).records = h.records ∧ (h.devAdd r).lapses = h.lapses ∧
    (h.devAdd r).rsvRecs = h.rsvRecs ∧ (h.devAdd r).rsvNotes = h.rsvNotes ∧ (h.devAdd r).chNotes = h.chNotes ∧
    (h.devAdd r).slots = h.slots ∧ (h.devAdd r).pointer = h.pointer ∧ (h.devAdd r).epoch = h.epoch ∧
    (h.devAdd r).arbs = h.arbs ∧ (h.devAdd r).rot = h.rot ∧ (h.devAdd r).events = h.events ∧
    (h.devAdd r).prefetchNotes = h.prefetchNotes := by
  simp [Hub.devAdd]

@[simp] theorem Hub.sendIrq_keeps (h : Hub) (g : Nat) :
    (h.sendIrq g).round = h.round ∧ (h.sendIrq g).pins = h.pins ∧ (h.sendIrq g).start = h.start ∧
    (h.sendIrq g).mirror = h.mirror ∧ (h.sendIrq g).aon = h.aon ∧ (h.sendIrq g).par = h.par ∧
    (h.sendIrq g).master = h.master ∧ (h.sendIrq g).prot = h.prot ∧ (h.sendIrq g).mbx = h.mbx ∧
    (h.sendIrq g).core = h.core ∧ (h.sendIrq g).map = h.map ∧ (h.sendIrq g).slices = h.slices ∧
    (h.sendIrq g).spill = h.spill ∧ (h.sendIrq g).mps = h.mps ∧ (h.sendIrq g).chans = h.chans ∧
    (h.sendIrq g).reads = h.reads ∧ (h.sendIrq g).sps = h.sps ∧ (h.sendIrq g).spanReps = h.spanReps ∧
    (h.sendIrq g).spanBacks = h.spanBacks ∧ (h.sendIrq g).waitSnoops = h.waitSnoops ∧ (h.sendIrq g).lostHubs = h.lostHubs ∧
    (h.sendIrq g).routeAcks = h.routeAcks ∧ (h.sendIrq g).routeNew = h.routeNew ∧ (h.sendIrq g).routeOld = h.routeOld ∧
    (h.sendIrq g).spanEpoch = h.spanEpoch ∧ (h.sendIrq g).records = h.records ∧ (h.sendIrq g).lapses = h.lapses ∧
    (h.sendIrq g).rsvRecs = h.rsvRecs ∧ (h.sendIrq g).rsvNotes = h.rsvNotes ∧ (h.sendIrq g).chNotes = h.chNotes ∧
    (h.sendIrq g).slots = h.slots ∧ (h.sendIrq g).pointer = h.pointer ∧ (h.sendIrq g).epoch = h.epoch ∧
    (h.sendIrq g).arbs = h.arbs ∧ (h.sendIrq g).rot = h.rot ∧ (h.sendIrq g).events = h.events ∧
    (h.sendIrq g).prefetchNotes = h.prefetchNotes := by
  unfold Hub.sendIrq; dsimp only; repeat' split
  all_goals simp

@[simp] theorem Hub.deliver_keeps (h : Hub) (g : Nat) (o : BitVec 32) (v : Sev) :
    (h.deliver g o v).round = h.round ∧ (h.deliver g o v).pins = h.pins ∧ (h.deliver g o v).start = h.start ∧
    (h.deliver g o v).mirror = h.mirror ∧ (h.deliver g o v).aon = h.aon ∧ (h.deliver g o v).par = h.par ∧
    (h.deliver g o v).master = h.master ∧ (h.deliver g o v).prot = h.prot ∧ (h.deliver g o v).mbx = h.mbx ∧
    (h.deliver g o v).core = h.core ∧ (h.deliver g o v).map = h.map ∧ (h.deliver g o v).slices = h.slices ∧
    (h.deliver g o v).spill = h.spill ∧ (h.deliver g o v).mps = h.mps ∧ (h.deliver g o v).chans = h.chans ∧
    (h.deliver g o v).reads = h.reads ∧ (h.deliver g o v).sps = h.sps ∧ (h.deliver g o v).spanReps = h.spanReps ∧
    (h.deliver g o v).spanBacks = h.spanBacks ∧ (h.deliver g o v).waitSnoops = h.waitSnoops ∧ (h.deliver g o v).lostHubs = h.lostHubs ∧
    (h.deliver g o v).routeAcks = h.routeAcks ∧ (h.deliver g o v).routeNew = h.routeNew ∧ (h.deliver g o v).routeOld = h.routeOld ∧
    (h.deliver g o v).spanEpoch = h.spanEpoch ∧ (h.deliver g o v).records = h.records ∧ (h.deliver g o v).lapses = h.lapses ∧
    (h.deliver g o v).rsvRecs = h.rsvRecs ∧ (h.deliver g o v).rsvNotes = h.rsvNotes ∧ (h.deliver g o v).chNotes = h.chNotes ∧
    (h.deliver g o v).slots = h.slots ∧ (h.deliver g o v).pointer = h.pointer ∧ (h.deliver g o v).epoch = h.epoch ∧
    (h.deliver g o v).arbs = h.arbs ∧ (h.deliver g o v).rot = h.rot ∧ (h.deliver g o v).events = h.events ∧
    (h.deliver g o v).prefetchNotes = h.prefetchNotes := by
  unfold Hub.deliver; dsimp only; repeat' split
  all_goals simp

@[simp] theorem Hub.raise_keeps (h : Hub) (r : Raise) :
    (h.raise r).round = h.round ∧ (h.raise r).pins = h.pins ∧ (h.raise r).start = h.start ∧
    (h.raise r).mirror = h.mirror ∧ (h.raise r).par = h.par ∧ (h.raise r).master = h.master ∧
    (h.raise r).prot = h.prot ∧ (h.raise r).mbx = h.mbx ∧ (h.raise r).core = h.core ∧
    (h.raise r).map = h.map ∧ (h.raise r).slices = h.slices ∧ (h.raise r).spill = h.spill ∧
    (h.raise r).mps = h.mps ∧ (h.raise r).chans = h.chans ∧ (h.raise r).reads = h.reads ∧
    (h.raise r).sps = h.sps ∧ (h.raise r).spanReps = h.spanReps ∧ (h.raise r).spanBacks = h.spanBacks ∧
    (h.raise r).waitSnoops = h.waitSnoops ∧ (h.raise r).lostHubs = h.lostHubs ∧ (h.raise r).routeAcks = h.routeAcks ∧
    (h.raise r).routeNew = h.routeNew ∧ (h.raise r).routeOld = h.routeOld ∧ (h.raise r).spanEpoch = h.spanEpoch ∧
    (h.raise r).records = h.records ∧ (h.raise r).lapses = h.lapses ∧ (h.raise r).rsvRecs = h.rsvRecs ∧
    (h.raise r).rsvNotes = h.rsvNotes ∧ (h.raise r).chNotes = h.chNotes ∧ (h.raise r).slots = h.slots ∧
    (h.raise r).pointer = h.pointer ∧ (h.raise r).epoch = h.epoch ∧ (h.raise r).arbs = h.arbs ∧
    (h.raise r).rot = h.rot ∧ (h.raise r).prefetchNotes = h.prefetchNotes := by
  simp [Hub.raise]

@[simp] theorem Hub.redeliver_keeps (h : Hub) (g : Nat) (b : Bool) :
    (h.redeliver g b).round = h.round ∧ (h.redeliver g b).pins = h.pins ∧ (h.redeliver g b).start = h.start ∧
    (h.redeliver g b).mirror = h.mirror ∧ (h.redeliver g b).aon = h.aon ∧ (h.redeliver g b).par = h.par ∧
    (h.redeliver g b).master = h.master ∧ (h.redeliver g b).prot = h.prot ∧ (h.redeliver g b).mbx = h.mbx ∧
    (h.redeliver g b).core = h.core ∧ (h.redeliver g b).map = h.map ∧ (h.redeliver g b).slices = h.slices ∧
    (h.redeliver g b).spill = h.spill ∧ (h.redeliver g b).mps = h.mps ∧ (h.redeliver g b).chans = h.chans ∧
    (h.redeliver g b).reads = h.reads ∧ (h.redeliver g b).sps = h.sps ∧ (h.redeliver g b).spanReps = h.spanReps ∧
    (h.redeliver g b).spanBacks = h.spanBacks ∧ (h.redeliver g b).waitSnoops = h.waitSnoops ∧ (h.redeliver g b).lostHubs = h.lostHubs ∧
    (h.redeliver g b).routeAcks = h.routeAcks ∧ (h.redeliver g b).routeNew = h.routeNew ∧ (h.redeliver g b).routeOld = h.routeOld ∧
    (h.redeliver g b).spanEpoch = h.spanEpoch ∧ (h.redeliver g b).records = h.records ∧ (h.redeliver g b).lapses = h.lapses ∧
    (h.redeliver g b).rsvRecs = h.rsvRecs ∧ (h.redeliver g b).rsvNotes = h.rsvNotes ∧ (h.redeliver g b).chNotes = h.chNotes ∧
    (h.redeliver g b).slots = h.slots ∧ (h.redeliver g b).pointer = h.pointer ∧ (h.redeliver g b).epoch = h.epoch ∧
    (h.redeliver g b).arbs = h.arbs ∧ (h.redeliver g b).rot = h.rot ∧ (h.redeliver g b).events = h.events ∧
    (h.redeliver g b).prefetchNotes = h.prefetchNotes := by
  unfold Hub.redeliver; dsimp only; repeat' split
  all_goals simp

end Sys2Proof.Machine
end

