-- ==== Sys2Proof/Laws/Polls.lean ====
section
/-!
SUPPORT. What the end of a command that a mailbox had in progress leaves as it was: a command of the hub that may end one changes, beside
its own effect, the mailboxes, the mailbox rings and what a raise changes.
-/
set_option Elab.async false
namespace Sys2Proof.Machine

@[simp] theorem Hub.takeFree_keeps (h : Hub)  :
    (h.takeFree.2).round = h.round ∧ (h.takeFree.2).pins = h.pins ∧ (h.takeFree.2).start = h.start ∧
    (h.takeFree.2).mirror = h.mirror ∧ (h.takeFree.2).aon = h.aon ∧ (h.takeFree.2).par = h.par ∧
    (h.takeFree.2).master = h.master ∧ (h.takeFree.2).prot = h.prot ∧ (h.takeFree.2).mbx = h.mbx ∧
    (h.takeFree.2).core = h.core ∧ (h.takeFree.2).map = h.map ∧ (h.takeFree.2).slices = h.slices ∧
    (h.takeFree.2).spill = h.spill ∧ (h.takeFree.2).agents = h.agents ∧ (h.takeFree.2).aps = h.aps ∧
    (h.takeFree.2).mps = h.mps ∧ (h.takeFree.2).chans = h.chans ∧ (h.takeFree.2).reads = h.reads ∧
    (h.takeFree.2).sps = h.sps ∧ (h.takeFree.2).spanReps = h.spanReps ∧ (h.takeFree.2).spanBacks = h.spanBacks ∧
    (h.takeFree.2).waitSnoops = h.waitSnoops ∧ (h.takeFree.2).lostHubs = h.lostHubs ∧ (h.takeFree.2).routeAcks = h.routeAcks ∧
    (h.takeFree.2).routeNew = h.routeNew ∧ (h.takeFree.2).routeOld = h.routeOld ∧ (h.takeFree.2).spanEpoch = h.spanEpoch ∧
    (h.takeFree.2).records = h.records ∧ (h.takeFree.2).lapses = h.lapses ∧ (h.takeFree.2).rsvRecs = h.rsvRecs ∧
    (h.takeFree.2).rsvNotes = h.rsvNotes ∧ (h.takeFree.2).notices = h.notices ∧ (h.takeFree.2).chNotes = h.chNotes ∧
    (h.takeFree.2).slots = h.slots ∧ (h.takeFree.2).pointer = h.pointer ∧ (h.takeFree.2).dev = h.dev ∧
    (h.takeFree.2).epoch = h.epoch ∧ (h.takeFree.2).arbs = h.arbs ∧ (h.takeFree.2).power = h.power ∧
    (h.takeFree.2).rot = h.rot ∧ (h.takeFree.2).events = h.events ∧ (h.takeFree.2).pmc = h.pmc ∧
    (h.takeFree.2).prefetchNotes = h.prefetchNotes ∧ (h.takeFree.2).out = h.out := by
  simp [Hub.takeFree]

@[simp] theorem Hub.takeTag_keeps (h : Hub) (m : Nat) :
    ((h.takeTag m).2).round = h.round ∧ ((h.takeTag m).2).pins = h.pins ∧ ((h.takeTag m).2).start = h.start ∧
    ((h.takeTag m).2).mirror = h.mirror ∧ ((h.takeTag m).2).aon = h.aon ∧ ((h.takeTag m).2).par = h.par ∧
    ((h.takeTag m).2).master = h.master ∧ ((h.takeTag m).2).prot = h.prot ∧ ((h.takeTag m).2).mbx = h.mbx ∧
    ((h.takeTag m).2).core = h.core ∧ ((h.takeTag m).2).map = h.map ∧ ((h.takeTag m).2).slices = h.slices ∧
    ((h.takeTag m).2).spill = h.spill ∧ ((h.takeTag m).2).agents = h.agents ∧ ((h.takeTag m).2).aps = h.aps ∧
    ((h.takeTag m).2).mps = h.mps ∧ ((h.takeTag m).2).chans = h.chans ∧ ((h.takeTag m).2).reads = h.reads ∧
    ((h.takeTag m).2).sps = h.sps ∧ ((h.takeTag m).2).spanReps = h.spanReps ∧ ((h.takeTag m).2).spanBacks = h.spanBacks ∧
    ((h.takeTag m).2).waitSnoops = h.waitSnoops ∧ ((h.takeTag m).2).lostHubs = h.lostHubs ∧ ((h.takeTag m).2).routeAcks = h.routeAcks ∧
    ((h.takeTag m).2).routeNew = h.routeNew ∧ ((h.takeTag m).2).routeOld = h.routeOld ∧ ((h.takeTag m).2).spanEpoch = h.spanEpoch ∧
    ((h.takeTag m).2).records = h.records ∧ ((h.takeTag m).2).lapses = h.lapses ∧ ((h.takeTag m).2).rsvRecs = h.rsvRecs ∧
    ((h.takeTag m).2).rsvNotes = h.rsvNotes ∧ ((h.takeTag m).2).notices = h.notices ∧ ((h.takeTag m).2).chNotes = h.chNotes ∧
    ((h.takeTag m).2).slots = h.slots ∧ ((h.takeTag m).2).pointer = h.pointer ∧ ((h.takeTag m).2).dev = h.dev ∧
    ((h.takeTag m).2).epoch = h.epoch ∧ ((h.takeTag m).2).arbs = h.arbs ∧ ((h.takeTag m).2).power = h.power ∧
    ((h.takeTag m).2).rot = h.rot ∧ ((h.takeTag m).2).events = h.events ∧ ((h.takeTag m).2).pmc = h.pmc ∧
    ((h.takeTag m).2).prefetchNotes = h.prefetchNotes ∧ ((h.takeTag m).2).out = h.out := by
  simp [Hub.takeTag]

@[simp] theorem Hub.checkPressure_keeps (h : Hub) (c : Nat) :
    (h.checkPressure c).round = h.round ∧ (h.checkPressure c).pins = h.pins ∧ (h.checkPressure c).start = h.start ∧
    (h.checkPressure c).mirror = h.mirror ∧ (h.checkPressure c).aon = h.aon ∧ (h.checkPressure c).par = h.par ∧
    (h.checkPressure c).master = h.master ∧ (h.checkPressure c).prot = h.prot ∧ (h.checkPressure c).mbx = h.mbx ∧
    (h.checkPressure c).core = h.core ∧ (h.checkPressure c).map = h.map ∧ (h.checkPressure c).slices = h.slices ∧
    (h.checkPressure c).spill = h.spill ∧ (h.checkPressure c).agents = h.agents ∧ (h.checkPressure c).aps = h.aps ∧
    (h.checkPressure c).mps = h.mps ∧ (h.checkPressure c).reads = h.reads ∧ (h.checkPressure c).sps = h.sps ∧
    (h.checkPressure c).spanReps = h.spanReps ∧ (h.checkPressure c).spanBacks = h.spanBacks ∧
    (h.checkPressure c).waitSnoops = h.waitSnoops ∧ (h.checkPressure c).lostHubs = h.lostHubs ∧
    (h.checkPressure c).routeAcks = h.routeAcks ∧ (h.checkPressure c).routeNew = h.routeNew ∧
    (h.checkPressure c).routeOld = h.routeOld ∧ (h.checkPressure c).spanEpoch = h.spanEpoch ∧
    (h.checkPressure c).records = h.records ∧ (h.checkPressure c).lapses = h.lapses ∧ (h.checkPressure c).rsvRecs = h.rsvRecs ∧
    (h.checkPressure c).rsvNotes = h.rsvNotes ∧ (h.checkPressure c).chNotes = h.chNotes ∧ (h.checkPressure c).slots = h.slots ∧
    (h.checkPressure c).pointer = h.pointer ∧ (h.checkPressure c).dev = h.dev ∧ (h.checkPressure c).epoch = h.epoch ∧
    (h.checkPressure c).arbs = h.arbs ∧ (h.checkPressure c).power = h.power ∧ (h.checkPressure c).rot = h.rot ∧
    (h.checkPressure c).events = h.events ∧ (h.checkPressure c).pmc = h.pmc ∧
    (h.checkPressure c).prefetchNotes = h.prefetchNotes ∧ (h.checkPressure c).freeCtr = h.freeCtr ∧
    (h.checkPressure c).out = h.out := by
  unfold Hub.checkPressure; dsimp only; (repeat' split) <;> simp

@[simp] theorem Hub.issueRead_keeps (h : Hub) (hs : Nat) (l : Line) (who : ReadFor) (spec crit lk : Bool) (aop : Option Req) :
    (h.issueRead hs l who spec crit lk aop).round = h.round ∧ (h.issueRead hs l who spec crit lk aop).pins = h.pins ∧
    (h.issueRead hs l who spec crit lk aop).start = h.start ∧ (h.issueRead hs l who spec crit lk aop).mirror = h.mirror ∧
    (h.issueRead hs l who spec crit lk aop).aon = h.aon ∧ (h.issueRead hs l who spec crit lk aop).par = h.par ∧
    (h.issueRead hs l who spec crit lk aop).master = h.master ∧ (h.issueRead hs l who spec crit lk aop).prot = h.prot ∧
    (h.issueRead hs l who spec crit lk aop).mbx = h.mbx ∧ (h.issueRead hs l who spec crit lk aop).core = h.core ∧
    (h.issueRead hs l who spec crit lk aop).map = h.map ∧ (h.issueRead hs l who spec crit lk aop).slices = h.slices ∧
    (h.issueRead hs l who spec crit lk aop).spill = h.spill ∧ (h.issueRead hs l who spec crit lk aop).agents = h.agents ∧
    (h.issueRead hs l who spec crit lk aop).aps = h.aps ∧ (h.issueRead hs l who spec crit lk aop).mps = h.mps ∧
    (h.issueRead hs l who spec crit lk aop).sps = h.sps ∧ (h.issueRead hs l who spec crit lk aop).spanReps = h.spanReps ∧
    (h.issueRead hs l who spec crit lk aop).spanBacks = h.spanBacks ∧
    (h.issueRead hs l who spec crit lk aop).waitSnoops = h.waitSnoops ∧
    (h.issueRead hs l who spec crit lk aop).lostHubs = h.lostHubs ∧
    (h.issueRead hs l who spec crit lk aop).routeAcks = h.routeAcks ∧
    (h.issueRead hs l who spec crit lk aop).routeNew = h.routeNew ∧
    (h.issueRead hs l who spec crit lk aop).routeOld = h.routeOld ∧
    (h.issueRead hs l who spec crit lk aop).spanEpoch = h.spanEpoch ∧
    (h.issueRead hs l who spec crit lk aop).records = h.records ∧ (h.issueRead hs l who spec crit lk aop).lapses = h.lapses ∧
    (h.issueRead hs l who spec crit lk aop).rsvRecs = h.rsvRecs ∧
    (h.issueRead hs l who spec crit lk aop).rsvNotes = h.rsvNotes ∧
    (h.issueRead hs l who spec crit lk aop).chNotes = h.chNotes ∧ (h.issueRead hs l who spec crit lk aop).slots = h.slots ∧
    (h.issueRead hs l who spec crit lk aop).pointer = h.pointer ∧ (h.issueRead hs l who spec crit lk aop).dev = h.dev ∧
    (h.issueRead hs l who spec crit lk aop).epoch = h.epoch ∧ (h.issueRead hs l who spec crit lk aop).arbs = h.arbs ∧
    (h.issueRead hs l who spec crit lk aop).power = h.power ∧ (h.issueRead hs l who spec crit lk aop).rot = h.rot ∧
    (h.issueRead hs l who spec crit lk aop).events = h.events ∧
    (h.issueRead hs l who spec crit lk aop).prefetchNotes = h.prefetchNotes ∧
    (h.issueRead hs l who spec crit lk aop).out = h.out := by
  unfold Hub.issueRead; dsimp only; repeat' split
  all_goals simp

@[simp] theorem Hub.setLong_keeps (h : Hub) (n : BitVec 3) (k : Long) :
    (h.setLong n k).round = h.round ∧ (h.setLong n k).pins = h.pins ∧ (h.setLong n k).start = h.start ∧
    (h.setLong n k).mirror = h.mirror ∧ (h.setLong n k).aon = h.aon ∧ (h.setLong n k).par = h.par ∧
    (h.setLong n k).master = h.master ∧ (h.setLong n k).prot = h.prot ∧ (h.setLong n k).core = h.core ∧
    (h.setLong n k).map = h.map ∧ (h.setLong n k).slices = h.slices ∧ (h.setLong n k).spill = h.spill ∧
    (h.setLong n k).agents = h.agents ∧ (h.setLong n k).aps = h.aps ∧ (h.setLong n k).mps = h.mps ∧
    (h.setLong n k).chans = h.chans ∧ (h.setLong n k).reads = h.reads ∧ (h.setLong n k).sps = h.sps ∧
    (h.setLong n k).spanReps = h.spanReps ∧ (h.setLong n k).spanBacks = h.spanBacks ∧ (h.setLong n k).waitSnoops = h.waitSnoops ∧
    (h.setLong n k).lostHubs = h.lostHubs ∧ (h.setLong n k).routeAcks = h.routeAcks ∧ (h.setLong n k).routeNew = h.routeNew ∧
    (h.setLong n k).routeOld = h.routeOld ∧ (h.setLong n k).spanEpoch = h.spanEpoch ∧ (h.setLong n k).records = h.records ∧
    (h.setLong n k).lapses = h.lapses ∧ (h.setLong n k).rsvRecs = h.rsvRecs ∧ (h.setLong n k).rsvNotes = h.rsvNotes ∧
    (h.setLong n k).notices = h.notices ∧ (h.setLong n k).chNotes = h.chNotes ∧ (h.setLong n k).slots = h.slots ∧
    (h.setLong n k).pointer = h.pointer ∧ (h.setLong n k).dev = h.dev ∧ (h.setLong n k).epoch = h.epoch ∧
    (h.setLong n k).arbs = h.arbs ∧ (h.setLong n k).power = h.power ∧ (h.setLong n k).rot = h.rot ∧
    (h.setLong n k).events = h.events ∧ (h.setLong n k).pmc = h.pmc ∧ (h.setLong n k).prefetchNotes = h.prefetchNotes ∧
    (h.setLong n k).freeCtr = h.freeCtr ∧ (h.setLong n k).out = h.out := by
  simp [Hub.setLong]

@[simp] theorem Hub.mctpResponse_keeps (h : Hub) (n : BitVec 3) (w : List Word) :
    (h.mctpResponse n w).round = h.round ∧ (h.mctpResponse n w).pins = h.pins ∧ (h.mctpResponse n w).start = h.start ∧
    (h.mctpResponse n w).mirror = h.mirror ∧ (h.mctpResponse n w).aon = h.aon ∧ (h.mctpResponse n w).par = h.par ∧
    (h.mctpResponse n w).master = h.master ∧ (h.mctpResponse n w).prot = h.prot ∧ (h.mctpResponse n w).core = h.core ∧
    (h.mctpResponse n w).map = h.map ∧ (h.mctpResponse n w).slices = h.slices ∧ (h.mctpResponse n w).spill = h.spill ∧
    (h.mctpResponse n w).agents = h.agents ∧ (h.mctpResponse n w).aps = h.aps ∧ (h.mctpResponse n w).mps = h.mps ∧
    (h.mctpResponse n w).chans = h.chans ∧ (h.mctpResponse n w).reads = h.reads ∧ (h.mctpResponse n w).sps = h.sps ∧
    (h.mctpResponse n w).spanReps = h.spanReps ∧ (h.mctpResponse n w).spanBacks = h.spanBacks ∧ (h.mctpResponse n w).waitSnoops = h.waitSnoops ∧
    (h.mctpResponse n w).lostHubs = h.lostHubs ∧ (h.mctpResponse n w).routeAcks = h.routeAcks ∧ (h.mctpResponse n w).routeNew = h.routeNew ∧
    (h.mctpResponse n w).routeOld = h.routeOld ∧ (h.mctpResponse n w).spanEpoch = h.spanEpoch ∧ (h.mctpResponse n w).records = h.records ∧
    (h.mctpResponse n w).lapses = h.lapses ∧ (h.mctpResponse n w).rsvRecs = h.rsvRecs ∧ (h.mctpResponse n w).rsvNotes = h.rsvNotes ∧
    (h.mctpResponse n w).notices = h.notices ∧ (h.mctpResponse n w).chNotes = h.chNotes ∧ (h.mctpResponse n w).slots = h.slots ∧
    (h.mctpResponse n w).pointer = h.pointer ∧ (h.mctpResponse n w).dev = h.dev ∧ (h.mctpResponse n w).epoch = h.epoch ∧
    (h.mctpResponse n w).arbs = h.arbs ∧ (h.mctpResponse n w).power = h.power ∧ (h.mctpResponse n w).rot = h.rot ∧
    (h.mctpResponse n w).events = h.events ∧ (h.mctpResponse n w).pmc = h.pmc ∧ (h.mctpResponse n w).prefetchNotes = h.prefetchNotes ∧
    (h.mctpResponse n w).freeCtr = h.freeCtr := by
  simp [Hub.mctpResponse]

@[simp] theorem Hub.respond_keeps (h : Hub) (n : BitVec 3) (c t : BitVec 16) (y : Bool) (a d : Byte) (w1 w2 w3 : Word) :
    (h.respond n c t y a d w1 w2 w3).round = h.round ∧ (h.respond n c t y a d w1 w2 w3).pins = h.pins ∧ (h.respond n c t y a d w1 w2 w3).start = h.start ∧
    (h.respond n c t y a d w1 w2 w3).mirror = h.mirror ∧ (h.respond n c t y a d w1 w2 w3).par = h.par ∧ (h.respond n c t y a d w1 w2 w3).master = h.master ∧
    (h.respond n c t y a d w1 w2 w3).prot = h.prot ∧ (h.respond n c t y a d w1 w2 w3).map = h.map ∧ (h.respond n c t y a d w1 w2 w3).slices = h.slices ∧
    (h.respond n c t y a d w1 w2 w3).spill = h.spill ∧ (h.respond n c t y a d w1 w2 w3).mps = h.mps ∧ (h.respond n c t y a d w1 w2 w3).chans = h.chans ∧
    (h.respond n c t y a d w1 w2 w3).reads = h.reads ∧ (h.respond n c t y a d w1 w2 w3).sps = h.sps ∧ (h.respond n c t y a d w1 w2 w3).spanReps = h.spanReps ∧
    (h.respond n c t y a d w1 w2 w3).spanBacks = h.spanBacks ∧ (h.respond n c t y a d w1 w2 w3).waitSnoops = h.waitSnoops ∧ (h.respond n c t y a d w1 w2 w3).lostHubs = h.lostHubs ∧
    (h.respond n c t y a d w1 w2 w3).routeAcks = h.routeAcks ∧ (h.respond n c t y a d w1 w2 w3).routeNew = h.routeNew ∧ (h.respond n c t y a d w1 w2 w3).routeOld = h.routeOld ∧
    (h.respond n c t y a d w1 w2 w3).spanEpoch = h.spanEpoch ∧ (h.respond n c t y a d w1 w2 w3).records = h.records ∧ (h.respond n c t y a d w1 w2 w3).lapses = h.lapses ∧
    (h.respond n c t y a d w1 w2 w3).rsvRecs = h.rsvRecs ∧ (h.respond n c t y a d w1 w2 w3).rsvNotes = h.rsvNotes ∧ (h.respond n c t y a d w1 w2 w3).chNotes = h.chNotes ∧
    (h.respond n c t y a d w1 w2 w3).slots = h.slots ∧ (h.respond n c t y a d w1 w2 w3).pointer = h.pointer ∧ (h.respond n c t y a d w1 w2 w3).epoch = h.epoch ∧
    (h.respond n c t y a d w1 w2 w3).arbs = h.arbs ∧ (h.respond n c t y a d w1 w2 w3).rot = h.rot ∧ (h.respond n c t y a d w1 w2 w3).prefetchNotes = h.prefetchNotes := by
  unfold Hub.respond; dsimp only; repeat' split
  all_goals simp

@[simp] theorem Hub.endLong_keeps (h : Hub) (n : BitVec 3) (c d : Byte) (w1 w2 : Word) :
    (h.endLong n c d w1 w2).round = h.round ∧ (h.endLong n c d w1 w2).pins = h.pins ∧ (h.endLong n c d w1 w2).start = h.start ∧
    (h.endLong n c d w1 w2).mirror = h.mirror ∧ (h.endLong n c d w1 w2).par = h.par ∧ (h.endLong n c d w1 w2).master = h.master ∧
    (h.endLong n c d w1 w2).prot = h.prot ∧ (h.endLong n c d w1 w2).map = h.map ∧ (h.endLong n c d w1 w2).slices = h.slices ∧
    (h.endLong n c d w1 w2).spill = h.spill ∧ (h.endLong n c d w1 w2).mps = h.mps ∧ (h.endLong n c d w1 w2).chans = h.chans ∧
    (h.endLong n c d w1 w2).reads = h.reads ∧ (h.endLong n c d w1 w2).sps = h.sps ∧ (h.endLong n c d w1 w2).spanReps = h.spanReps ∧
    (h.endLong n c d w1 w2).spanBacks = h.spanBacks ∧ (h.endLong n c d w1 w2).waitSnoops = h.waitSnoops ∧ (h.endLong n c d w1 w2).lostHubs = h.lostHubs ∧
    (h.endLong n c d w1 w2).routeAcks = h.routeAcks ∧ (h.endLong n c d w1 w2).routeNew = h.routeNew ∧ (h.endLong n c d w1 w2).routeOld = h.routeOld ∧
    (h.endLong n c d w1 w2).spanEpoch = h.spanEpoch ∧ (h.endLong n c d w1 w2).records = h.records ∧ (h.endLong n c d w1 w2).lapses = h.lapses ∧
    (h.endLong n c d w1 w2).rsvRecs = h.rsvRecs ∧ (h.endLong n c d w1 w2).rsvNotes = h.rsvNotes ∧ (h.endLong n c d w1 w2).chNotes = h.chNotes ∧
    (h.endLong n c d w1 w2).slots = h.slots ∧ (h.endLong n c d w1 w2).pointer = h.pointer ∧ (h.endLong n c d w1 w2).epoch = h.epoch ∧
    (h.endLong n c d w1 w2).arbs = h.arbs ∧ (h.endLong n c d w1 w2).rot = h.rot ∧ (h.endLong n c d w1 w2).prefetchNotes = h.prefetchNotes := by
  unfold Hub.endLong; repeat' split
  all_goals simp

@[simp] theorem Hub.endMaint_keeps (h : Hub) (n : BitVec 3) (r : Byte) :
    (h.endMaint n r).round = h.round ∧ (h.endMaint n r).pins = h.pins ∧ (h.endMaint n r).start = h.start ∧
    (h.endMaint n r).mirror = h.mirror ∧ (h.endMaint n r).par = h.par ∧ (h.endMaint n r).master = h.master ∧
    (h.endMaint n r).prot = h.prot ∧ (h.endMaint n r).map = h.map ∧ (h.endMaint n r).slices = h.slices ∧
    (h.endMaint n r).spill = h.spill ∧ (h.endMaint n r).mps = h.mps ∧ (h.endMaint n r).chans = h.chans ∧
    (h.endMaint n r).reads = h.reads ∧ (h.endMaint n r).sps = h.sps ∧ (h.endMaint n r).spanReps = h.spanReps ∧
    (h.endMaint n r).spanBacks = h.spanBacks ∧ (h.endMaint n r).waitSnoops = h.waitSnoops ∧ (h.endMaint n r).lostHubs = h.lostHubs ∧
    (h.endMaint n r).routeAcks = h.routeAcks ∧ (h.endMaint n r).routeNew = h.routeNew ∧ (h.endMaint n r).routeOld = h.routeOld ∧
    (h.endMaint n r).spanEpoch = h.spanEpoch ∧ (h.endMaint n r).records = h.records ∧ (h.endMaint n r).lapses = h.lapses ∧
    (h.endMaint n r).rsvRecs = h.rsvRecs ∧ (h.endMaint n r).rsvNotes = h.rsvNotes ∧ (h.endMaint n r).chNotes = h.chNotes ∧
    (h.endMaint n r).slots = h.slots ∧ (h.endMaint n r).pointer = h.pointer ∧ (h.endMaint n r).epoch = h.epoch ∧
    (h.endMaint n r).arbs = h.arbs ∧ (h.endMaint n r).rot = h.rot ∧ (h.endMaint n r).prefetchNotes = h.prefetchNotes := by
  simp [Hub.endMaint]

@[simp] theorem Hub.pollOne_keeps (h : Hub) (n : BitVec 3) :
    (h.pollOne n).round = h.round ∧ (h.pollOne n).pins = h.pins ∧ (h.pollOne n).start = h.start ∧
    (h.pollOne n).mirror = h.mirror ∧ (h.pollOne n).par = h.par ∧ (h.pollOne n).master = h.master ∧
    (h.pollOne n).prot = h.prot ∧ (h.pollOne n).map = h.map ∧ (h.pollOne n).slices = h.slices ∧
    (h.pollOne n).spill = h.spill ∧ (h.pollOne n).mps = h.mps ∧
    (h.pollOne n).sps = h.sps ∧ (h.pollOne n).spanReps = h.spanReps ∧ (h.pollOne n).spanBacks = h.spanBacks ∧
    (h.pollOne n).waitSnoops = h.waitSnoops ∧ (h.pollOne n).lostHubs = h.lostHubs ∧ (h.pollOne n).routeAcks = h.routeAcks ∧
    (h.pollOne n).routeNew = h.routeNew ∧ (h.pollOne n).routeOld = h.routeOld ∧ (h.pollOne n).spanEpoch = h.spanEpoch ∧
    (h.pollOne n).records = h.records ∧ (h.pollOne n).lapses = h.lapses ∧ (h.pollOne n).rsvRecs = h.rsvRecs ∧
    (h.pollOne n).rsvNotes = h.rsvNotes ∧ (h.pollOne n).chNotes = h.chNotes ∧ (h.pollOne n).slots = h.slots ∧
    (h.pollOne n).pointer = h.pointer ∧ (h.pollOne n).epoch = h.epoch ∧ (h.pollOne n).arbs = h.arbs ∧
    (h.pollOne n).rot = h.rot ∧ (h.pollOne n).prefetchNotes = h.prefetchNotes := by
  unfold Hub.pollOne; dsimp only; repeat' split
  all_goals simp

@[simp] theorem Hub.pollLong_keeps (h : Hub)  :
    (h.pollLong).round = h.round ∧ (h.pollLong).pins = h.pins ∧ (h.pollLong).start = h.start ∧
    (h.pollLong).mirror = h.mirror ∧ (h.pollLong).par = h.par ∧ (h.pollLong).master = h.master ∧
    (h.pollLong).prot = h.prot ∧ (h.pollLong).map = h.map ∧ (h.pollLong).slices = h.slices ∧
    (h.pollLong).spill = h.spill ∧ (h.pollLong).mps = h.mps ∧
    (h.pollLong).sps = h.sps ∧ (h.pollLong).spanReps = h.spanReps ∧ (h.pollLong).spanBacks = h.spanBacks ∧
    (h.pollLong).waitSnoops = h.waitSnoops ∧ (h.pollLong).lostHubs = h.lostHubs ∧ (h.pollLong).routeAcks = h.routeAcks ∧
    (h.pollLong).routeNew = h.routeNew ∧ (h.pollLong).routeOld = h.routeOld ∧ (h.pollLong).spanEpoch = h.spanEpoch ∧
    (h.pollLong).records = h.records ∧ (h.pollLong).lapses = h.lapses ∧ (h.pollLong).rsvRecs = h.rsvRecs ∧
    (h.pollLong).rsvNotes = h.rsvNotes ∧ (h.pollLong).chNotes = h.chNotes ∧ (h.pollLong).slots = h.slots ∧
    (h.pollLong).pointer = h.pointer ∧ (h.pollLong).epoch = h.epoch ∧ (h.pollLong).arbs = h.arbs ∧
    (h.pollLong).rot = h.rot ∧ (h.pollLong).prefetchNotes = h.prefetchNotes := by
  simp [Hub.pollLong, upTo, List.range, List.range.loop]

@[simp] theorem State.flush_keeps (s : State) :
    s.flush.pending = s.pending ∧ s.flush.otp = s.otp ∧
    (s.flush.hub).round = s.hub.round ∧ (s.flush.hub).pins = s.hub.pins ∧ (s.flush.hub).start = s.hub.start ∧
    (s.flush.hub).mirror = s.hub.mirror ∧ (s.flush.hub).aon = s.hub.aon ∧ (s.flush.hub).par = s.hub.par ∧
    (s.flush.hub).master = s.hub.master ∧ (s.flush.hub).prot = s.hub.prot ∧ (s.flush.hub).mbx = s.hub.mbx ∧
    (s.flush.hub).map = s.hub.map ∧ (s.flush.hub).slices = s.hub.slices ∧ (s.flush.hub).spill = s.hub.spill ∧
    (s.flush.hub).agents = s.hub.agents ∧ (s.flush.hub).aps = s.hub.aps ∧ (s.flush.hub).mps = s.hub.mps ∧
    (s.flush.hub).chans = s.hub.chans ∧ (s.flush.hub).reads = s.hub.reads ∧ (s.flush.hub).sps = s.hub.sps ∧
    (s.flush.hub).spanReps = s.hub.spanReps ∧ (s.flush.hub).spanBacks = s.hub.spanBacks ∧ (s.flush.hub).waitSnoops = s.hub.waitSnoops ∧
    (s.flush.hub).lostHubs = s.hub.lostHubs ∧ (s.flush.hub).routeAcks = s.hub.routeAcks ∧ (s.flush.hub).routeNew = s.hub.routeNew ∧
    (s.flush.hub).routeOld = s.hub.routeOld ∧ (s.flush.hub).spanEpoch = s.hub.spanEpoch ∧ (s.flush.hub).records = s.hub.records ∧
    (s.flush.hub).lapses = s.hub.lapses ∧ (s.flush.hub).rsvRecs = s.hub.rsvRecs ∧ (s.flush.hub).rsvNotes = s.hub.rsvNotes ∧
    (s.flush.hub).notices = s.hub.notices ∧ (s.flush.hub).chNotes = s.hub.chNotes ∧ (s.flush.hub).slots = s.hub.slots ∧
    (s.flush.hub).pointer = s.hub.pointer ∧ (s.flush.hub).dev = s.hub.dev ∧ (s.flush.hub).epoch = s.hub.epoch ∧
    (s.flush.hub).arbs = s.hub.arbs ∧ (s.flush.hub).power = s.hub.power ∧ (s.flush.hub).rot = s.hub.rot ∧
    (s.flush.hub).events = s.hub.events ∧ (s.flush.hub).pmc = s.hub.pmc ∧ (s.flush.hub).prefetchNotes = s.hub.prefetchNotes ∧
    (s.flush.hub).freeCtr = s.hub.freeCtr ∧ (s.flush.hub).out = s.hub.out := by
  simp [State.flush]

@[simp] theorem State.withHubR_keeps (s : State) (f : Hub → Hub) :
    (s.withHubR f).pending = s.pending ∧ (s.withHubR f).otp = s.otp ∧
    ((s.withHubR f).hub).round = (f s.hub).round ∧ ((s.withHubR f).hub).pins = (f s.hub).pins ∧ ((s.withHubR f).hub).start = (f s.hub).start ∧
    ((s.withHubR f).hub).mirror = (f s.hub).mirror ∧ ((s.withHubR f).hub).par = (f s.hub).par ∧ ((s.withHubR f).hub).master = (f s.hub).master ∧
    ((s.withHubR f).hub).prot = (f s.hub).prot ∧ ((s.withHubR f).hub).map = (f s.hub).map ∧ ((s.withHubR f).hub).slices = (f s.hub).slices ∧
    ((s.withHubR f).hub).spill = (f s.hub).spill ∧ ((s.withHubR f).hub).mps = (f s.hub).mps  ∧
    ((s.withHubR f).hub).sps = (f s.hub).sps ∧ ((s.withHubR f).hub).spanReps = (f s.hub).spanReps ∧ ((s.withHubR f).hub).spanBacks = (f s.hub).spanBacks ∧
    ((s.withHubR f).hub).waitSnoops = (f s.hub).waitSnoops ∧ ((s.withHubR f).hub).lostHubs = (f s.hub).lostHubs ∧ ((s.withHubR f).hub).routeAcks = (f s.hub).routeAcks ∧
    ((s.withHubR f).hub).routeNew = (f s.hub).routeNew ∧ ((s.withHubR f).hub).routeOld = (f s.hub).routeOld ∧ ((s.withHubR f).hub).spanEpoch = (f s.hub).spanEpoch ∧
    ((s.withHubR f).hub).records = (f s.hub).records ∧ ((s.withHubR f).hub).lapses = (f s.hub).lapses ∧ ((s.withHubR f).hub).rsvRecs = (f s.hub).rsvRecs ∧
    ((s.withHubR f).hub).rsvNotes = (f s.hub).rsvNotes ∧ ((s.withHubR f).hub).chNotes = (f s.hub).chNotes ∧ ((s.withHubR f).hub).slots = (f s.hub).slots ∧
    ((s.withHubR f).hub).pointer = (f s.hub).pointer ∧ ((s.withHubR f).hub).epoch = (f s.hub).epoch ∧ ((s.withHubR f).hub).arbs = (f s.hub).arbs ∧
    ((s.withHubR f).hub).rot = (f s.hub).rot ∧ ((s.withHubR f).hub).prefetchNotes = (f s.hub).prefetchNotes := by
  simp [State.withHubR]

end Sys2Proof.Machine
end

