-- ==== Sys2Proof/Laws/Folds.lean ====
section
/-!
SUPPORT. Frames: groups of the hub's parts that the lemmas of `Sys2Proof/Laws/Frames*.lean` name together, and folds over
operations that leave a part as it is.
-/
set_option Elab.async false
namespace Sys2Proof.Machine

/-- Two hubs agree on the count of rounds, the parameters and tables in force, the memory ports, the notices under way and the routes. -/
@[simp] abbrev Hub.sameConfig (h k : Hub) : Prop :=
  k.round = h.round ∧ k.par = h.par ∧ k.master = h.master ∧ k.prot = h.prot ∧ k.map = h.map ∧ k.mps = h.mps ∧
  k.chNotes = h.chNotes ∧ k.prefetchNotes = h.prefetchNotes ∧ k.pointer = h.pointer ∧ k.routeAcks = h.routeAcks ∧
  k.routeNew = h.routeNew ∧ k.routeOld = h.routeOld ∧ k.lostHubs = h.lostHubs ∧ k.slots = h.slots ∧
  k.spanEpoch = h.spanEpoch

/-- Two hubs agree on the start, the control core, the channels, the mailboxes, the arbiters and what waits for the span or holds reservations. -/
@[simp] abbrev Hub.sameFlow (h k : Hub) : Prop :=
  k.start = h.start ∧ k.core = h.core ∧ k.chans = h.chans ∧ k.mbx = h.mbx ∧ k.spanReps = h.spanReps ∧
  k.spanBacks = h.spanBacks ∧ k.waitSnoops = h.waitSnoops ∧ k.arbs = h.arbs ∧ k.rsvRecs = h.rsvRecs ∧
  k.rsvNotes = h.rsvNotes

/-- Two hubs agree on the pins, the ledger's mirror, the requester records, the outstanding reads, the spilled writes, the span ports and the rotation. -/
@[simp] abbrev Hub.sameStore (h k : Hub) : Prop :=
  k.pins = h.pins ∧ k.mirror = h.mirror ∧ k.records = h.records ∧ k.lapses = h.lapses ∧ k.reads = h.reads ∧
  k.spill = h.spill ∧ k.sps = h.sps ∧ k.epoch = h.epoch ∧ k.rot = h.rot

/-- Two hubs agree on what the raise of an event or a wake may write. -/
@[simp] abbrev Hub.sameEvent (h k : Hub) : Prop :=
  k.aon = h.aon ∧ k.events = h.events ∧ k.power = h.power ∧ k.notices = h.notices ∧ k.aps = h.aps ∧ k.agents = h.agents ∧
  k.dev = h.dev ∧ k.pmc = h.pmc ∧ k.freeCtr = h.freeCtr

/-- A fold of operations that leave a part as it is leaves it as it is. -/
theorem foldl_same {α β : Type} (p : Hub → β) (g : Hub → α → Hub) (H : ∀ h x, p (g h x) = p h) (l : List α) :
    ∀ h, p (l.foldl g h) = p h := by
  induction l with
  | nil => intro h; rfl
  | cons a t ih => intro h; rw [List.foldl_cons, ih, H]

theorem foldl_round {α : Type} (l : List α) (g : Hub → α → Hub) (h : Hub) (H : ∀ h x, (g h x).round = h.round) :
    (l.foldl g h).round = h.round := foldl_same (·.round) g H l h
theorem foldl_pins {α : Type} (l : List α) (g : Hub → α → Hub) (h : Hub) (H : ∀ h x, (g h x).pins = h.pins) :
    (l.foldl g h).pins = h.pins := foldl_same (·.pins) g H l h
theorem foldl_start {α : Type} (l : List α) (g : Hub → α → Hub) (h : Hub) (H : ∀ h x, (g h x).start = h.start) :
    (l.foldl g h).start = h.start := foldl_same (·.start) g H l h
theorem foldl_mirror {α : Type} (l : List α) (g : Hub → α → Hub) (h : Hub) (H : ∀ h x, (g h x).mirror = h.mirror) :
    (l.foldl g h).mirror = h.mirror := foldl_same (·.mirror) g H l h
theorem foldl_aon {α : Type} (l : List α) (g : Hub → α → Hub) (h : Hub) (H : ∀ h x, (g h x).aon = h.aon) :
    (l.foldl g h).aon = h.aon := foldl_same (·.aon) g H l h
theorem foldl_par {α : Type} (l : List α) (g : Hub → α → Hub) (h : Hub) (H : ∀ h x, (g h x).par = h.par) :
    (l.foldl g h).par = h.par := foldl_same (·.par) g H l h
theorem foldl_master {α : Type} (l : List α) (g : Hub → α → Hub) (h : Hub) (H : ∀ h x, (g h x).master = h.master) :
    (l.foldl g h).master = h.master := foldl_same (·.master) g H l h
theorem foldl_prot {α : Type} (l : List α) (g : Hub → α → Hub) (h : Hub) (H : ∀ h x, (g h x).prot = h.prot) :
    (l.foldl g h).prot = h.prot := foldl_same (·.prot) g H l h
theorem foldl_mbx {α : Type} (l : List α) (g : Hub → α → Hub) (h : Hub) (H : ∀ h x, (g h x).mbx = h.mbx) :
    (l.foldl g h).mbx = h.mbx := foldl_same (·.mbx) g H l h
theorem foldl_core {α : Type} (l : List α) (g : Hub → α → Hub) (h : Hub) (H : ∀ h x, (g h x).core = h.core) :
    (l.foldl g h).core = h.core := foldl_same (·.core) g H l h
theorem foldl_map {α : Type} (l : List α) (g : Hub → α → Hub) (h : Hub) (H : ∀ h x, (g h x).map = h.map) :
    (l.foldl g h).map = h.map := foldl_same (·.map) g H l h
theorem foldl_slices {α : Type} (l : List α) (g : Hub → α → Hub) (h : Hub) (H : ∀ h x, (g h x).slices = h.slices) :
    (l.foldl g h).slices = h.slices := foldl_same (·.slices) g H l h
theorem foldl_spill {α : Type} (l : List α) (g : Hub → α → Hub) (h : Hub) (H : ∀ h x, (g h x).spill = h.spill) :
    (l.foldl g h).spill = h.spill := foldl_same (·.spill) g H l h
theorem foldl_agents {α : Type} (l : List α) (g : Hub → α → Hub) (h : Hub) (H : ∀ h x, (g h x).agents = h.agents) :
    (l.foldl g h).agents = h.agents := foldl_same (·.agents) g H l h
theorem foldl_aps {α : Type} (l : List α) (g : Hub → α → Hub) (h : Hub) (H : ∀ h x, (g h x).aps = h.aps) :
    (l.foldl g h).aps = h.aps := foldl_same (·.aps) g H l h
theorem foldl_mps {α : Type} (l : List α) (g : Hub → α → Hub) (h : Hub) (H : ∀ h x, (g h x).mps = h.mps) :
    (l.foldl g h).mps = h.mps := foldl_same (·.mps) g H l h
theorem foldl_chans {α : Type} (l : List α) (g : Hub → α → Hub) (h : Hub) (H : ∀ h x, (g h x).chans = h.chans) :
    (l.foldl g h).chans = h.chans := foldl_same (·.chans) g H l h
theorem foldl_reads {α : Type} (l : List α) (g : Hub → α → Hub) (h : Hub) (H : ∀ h x, (g h x).reads = h.reads) :
    (l.foldl g h).reads = h.reads := foldl_same (·.reads) g H l h
theorem foldl_sps {α : Type} (l : List α) (g : Hub → α → Hub) (h : Hub) (H : ∀ h x, (g h x).sps = h.sps) :
    (l.foldl g h).sps = h.sps := foldl_same (·.sps) g H l h
theorem foldl_spanReps {α : Type} (l : List α) (g : Hub → α → Hub) (h : Hub) (H : ∀ h x, (g h x).spanReps = h.spanReps) :
    (l.foldl g h).spanReps = h.spanReps := foldl_same (·.spanReps) g H l h
theorem foldl_spanBacks {α : Type} (l : List α) (g : Hub → α → Hub) (h : Hub) (H : ∀ h x, (g h x).spanBacks = h.spanBacks) :
    (l.foldl g h).spanBacks = h.spanBacks := foldl_same (·.spanBacks) g H l h
theorem foldl_waitSnoops {α : Type} (l : List α) (g : Hub → α → Hub) (h : Hub) (H : ∀ h x, (g h x).waitSnoops = h.waitSnoops) :
    (l.foldl g h).waitSnoops = h.waitSnoops := foldl_same (·.waitSnoops) g H l h
theorem foldl_lostHubs {α : Type} (l : List α) (g : Hub → α → Hub) (h : Hub) (H : ∀ h x, (g h x).lostHubs = h.lostHubs) :
    (l.foldl g h).lostHubs = h.lostHubs := foldl_same (·.lostHubs) g H l h
theorem foldl_routeAcks {α : Type} (l : List α) (g : Hub → α → Hub) (h : Hub) (H : ∀ h x, (g h x).routeAcks = h.routeAcks) :
    (l.foldl g h).routeAcks = h.routeAcks := foldl_same (·.routeAcks) g H l h
theorem foldl_routeNew {α : Type} (l : List α) (g : Hub → α → Hub) (h : Hub) (H : ∀ h x, (g h x).routeNew = h.routeNew) :
    (l.foldl g h).routeNew = h.routeNew := foldl_same (·.routeNew) g H l h
theorem foldl_routeOld {α : Type} (l : List α) (g : Hub → α → Hub) (h : Hub) (H : ∀ h x, (g h x).routeOld = h.routeOld) :
    (l.foldl g h).routeOld = h.routeOld := foldl_same (·.routeOld) g H l h
theorem foldl_spanEpoch {α : Type} (l : List α) (g : Hub → α → Hub) (h : Hub) (H : ∀ h x, (g h x).spanEpoch = h.spanEpoch) :
    (l.foldl g h).spanEpoch = h.spanEpoch := foldl_same (·.spanEpoch) g H l h
theorem foldl_records {α : Type} (l : List α) (g : Hub → α → Hub) (h : Hub) (H : ∀ h x, (g h x).records = h.records) :
    (l.foldl g h).records = h.records := foldl_same (·.records) g H l h
theorem foldl_lapses {α : Type} (l : List α) (g : Hub → α → Hub) (h : Hub) (H : ∀ h x, (g h x).lapses = h.lapses) :
    (l.foldl g h).lapses = h.lapses := foldl_same (·.lapses) g H l h
theorem foldl_rsvRecs {α : Type} (l : List α) (g : Hub → α → Hub) (h : Hub) (H : ∀ h x, (g h x).rsvRecs = h.rsvRecs) :
    (l.foldl g h).rsvRecs = h.rsvRecs := foldl_same (·.rsvRecs) g H l h
theorem foldl_rsvNotes {α : Type} (l : List α) (g : Hub → α → Hub) (h : Hub) (H : ∀ h x, (g h x).rsvNotes = h.rsvNotes) :
    (l.foldl g h).rsvNotes = h.rsvNotes := foldl_same (·.rsvNotes) g H l h
theorem foldl_notices {α : Type} (l : List α) (g : Hub → α → Hub) (h : Hub) (H : ∀ h x, (g h x).notices = h.notices) :
    (l.foldl g h).notices = h.notices := foldl_same (·.notices) g H l h
theorem foldl_chNotes {α : Type} (l : List α) (g : Hub → α → Hub) (h : Hub) (H : ∀ h x, (g h x).chNotes = h.chNotes) :
    (l.foldl g h).chNotes = h.chNotes := foldl_same (·.chNotes) g H l h
theorem foldl_slots {α : Type} (l : List α) (g : Hub → α → Hub) (h : Hub) (H : ∀ h x, (g h x).slots = h.slots) :
    (l.foldl g h).slots = h.slots := foldl_same (·.slots) g H l h
theorem foldl_pointer {α : Type} (l : List α) (g : Hub → α → Hub) (h : Hub) (H : ∀ h x, (g h x).pointer = h.pointer) :
    (l.foldl g h).pointer = h.pointer := foldl_same (·.pointer) g H l h
theorem foldl_dev {α : Type} (l : List α) (g : Hub → α → Hub) (h : Hub) (H : ∀ h x, (g h x).dev = h.dev) :
    (l.foldl g h).dev = h.dev := foldl_same (·.dev) g H l h
theorem foldl_epoch {α : Type} (l : List α) (g : Hub → α → Hub) (h : Hub) (H : ∀ h x, (g h x).epoch = h.epoch) :
    (l.foldl g h).epoch = h.epoch := foldl_same (·.epoch) g H l h
theorem foldl_arbs {α : Type} (l : List α) (g : Hub → α → Hub) (h : Hub) (H : ∀ h x, (g h x).arbs = h.arbs) :
    (l.foldl g h).arbs = h.arbs := foldl_same (·.arbs) g H l h
theorem foldl_power {α : Type} (l : List α) (g : Hub → α → Hub) (h : Hub) (H : ∀ h x, (g h x).power = h.power) :
    (l.foldl g h).power = h.power := foldl_same (·.power) g H l h
theorem foldl_rot {α : Type} (l : List α) (g : Hub → α → Hub) (h : Hub) (H : ∀ h x, (g h x).rot = h.rot) :
    (l.foldl g h).rot = h.rot := foldl_same (·.rot) g H l h
theorem foldl_events {α : Type} (l : List α) (g : Hub → α → Hub) (h : Hub) (H : ∀ h x, (g h x).events = h.events) :
    (l.foldl g h).events = h.events := foldl_same (·.events) g H l h
theorem foldl_pmc {α : Type} (l : List α) (g : Hub → α → Hub) (h : Hub) (H : ∀ h x, (g h x).pmc = h.pmc) :
    (l.foldl g h).pmc = h.pmc := foldl_same (·.pmc) g H l h
theorem foldl_prefetchNotes {α : Type} (l : List α) (g : Hub → α → Hub) (h : Hub) (H : ∀ h x, (g h x).prefetchNotes = h.prefetchNotes) :
    (l.foldl g h).prefetchNotes = h.prefetchNotes := foldl_same (·.prefetchNotes) g H l h
theorem foldl_freeCtr {α : Type} (l : List α) (g : Hub → α → Hub) (h : Hub) (H : ∀ h x, (g h x).freeCtr = h.freeCtr) :
    (l.foldl g h).freeCtr = h.freeCtr := foldl_same (·.freeCtr) g H l h
theorem foldl_out {α : Type} (l : List α) (g : Hub → α → Hub) (h : Hub) (H : ∀ h x, (g h x).out = h.out) :
    (l.foldl g h).out = h.out := foldl_same (·.out) g H l h

end Sys2Proof.Machine
end

