-- ==== Sys2Proof/Laws/Frames.lean ====
section
/-!
SUPPORT. What the shared operations leave as it was: for each, the parts of the hub that it does not write, as one lemma that `simp`
uses field by field.
-/
set_option Elab.async false
namespace Sys2Proof.Machine

@[simp] theorem Hub.onMirrored_keeps (h : Hub) (hs grp : Nat) (f : Slice → Slice) :
    Hub.sameConfig h (h.onMirrored hs grp f) ∧ Hub.sameFlow h (h.onMirrored hs grp f) ∧
    Hub.sameStore h (h.onMirrored hs grp f) ∧ Hub.sameEvent h (h.onMirrored hs grp f) ∧ (h.onMirrored hs grp f).out = h.out := by
  unfold Hub.onMirrored; (try dsimp only); (repeat' split) <;> simp

@[simp] theorem Hub.putSf_keeps (h : Hub) (hs : Nat) (set : BitVec 14) (way : Nat) (w : Word) :
    Hub.sameConfig h (h.putSf hs set way w) ∧ Hub.sameFlow h (h.putSf hs set way w) ∧ Hub.sameStore h (h.putSf hs set way w) ∧
    Hub.sameEvent h (h.putSf hs set way w) ∧ (h.putSf hs set way w).out = h.out := by
  unfold Hub.putSf; (try dsimp only); (repeat' split) <;> simp

@[simp] theorem Hub.putSd_keeps (h : Hub) (hs : Nat) (set : BitVec 12) (way : Nat) (w : Word) :
    Hub.sameConfig h (h.putSd hs set way w) ∧ Hub.sameFlow h (h.putSd hs set way w) ∧ Hub.sameStore h (h.putSd hs set way w) ∧
    Hub.sameEvent h (h.putSd hs set way w) ∧ (h.putSd hs set way w).out = h.out := by
  unfold Hub.putSd; (try dsimp only); (repeat' split) <;> simp

@[simp] theorem Hub.toAgent_keeps (h : Hub) (from_ : Nat) (m : AgentMsg) :
    Hub.sameConfig h (h.toAgent from_ m) ∧ Hub.sameFlow h (h.toAgent from_ m) ∧ Hub.sameStore h (h.toAgent from_ m) ∧
    (h.toAgent from_ m).slices = h.slices := by
  unfold Hub.toAgent; (try dsimp only); (repeat' split) <;> simp

@[simp] theorem Hub.noteRefusal_keeps (h : Hub) (g : Gaid) (t : Txid) (l : Line) :
    Hub.sameConfig h (h.noteRefusal g t l) ∧ Hub.sameFlow h (h.noteRefusal g t l) ∧ (h.noteRefusal g t l).pins = h.pins ∧
    (h.noteRefusal g t l).mirror = h.mirror ∧ (h.noteRefusal g t l).lapses = h.lapses ∧ (h.noteRefusal g t l).reads = h.reads ∧
    (h.noteRefusal g t l).spill = h.spill ∧ (h.noteRefusal g t l).sps = h.sps ∧ (h.noteRefusal g t l).epoch = h.epoch ∧
    (h.noteRefusal g t l).rot = h.rot ∧ Hub.sameEvent h (h.noteRefusal g t l) ∧ (h.noteRefusal g t l).slices = h.slices ∧
    (h.noteRefusal g t l).out = h.out := by
  unfold Hub.noteRefusal; (try dsimp only); (repeat' split) <;> simp

@[simp] theorem Hub.clearRefusal_keeps (h : Hub) (g : Gaid) (t : Txid) (l : Line) :
    Hub.sameConfig h (h.clearRefusal g t l) ∧ Hub.sameFlow h (h.clearRefusal g t l) ∧ (h.clearRefusal g t l).pins = h.pins ∧
    (h.clearRefusal g t l).mirror = h.mirror ∧ (h.clearRefusal g t l).reads = h.reads ∧ (h.clearRefusal g t l).spill = h.spill ∧
    (h.clearRefusal g t l).sps = h.sps ∧ (h.clearRefusal g t l).epoch = h.epoch ∧ (h.clearRefusal g t l).rot = h.rot ∧
    Hub.sameEvent h (h.clearRefusal g t l) ∧ (h.clearRefusal g t l).slices = h.slices ∧ (h.clearRefusal g t l).out = h.out := by
  unfold Hub.clearRefusal; (try dsimp only); (repeat' split) <;> simp

@[simp] theorem Hub.endOutst_keeps (h : Hub) (p : BitVec 4) (g : Gaid) (t : Txid) :
    Hub.sameConfig h (h.endOutst p g t) ∧ Hub.sameFlow h (h.endOutst p g t) ∧ Hub.sameStore h (h.endOutst p g t) ∧
    (h.endOutst p g t).aon = h.aon ∧ (h.endOutst p g t).events = h.events ∧ (h.endOutst p g t).power = h.power ∧
    (h.endOutst p g t).notices = h.notices ∧ (h.endOutst p g t).agents = h.agents ∧ (h.endOutst p g t).dev = h.dev ∧
    (h.endOutst p g t).pmc = h.pmc ∧ (h.endOutst p g t).freeCtr = h.freeCtr ∧ (h.endOutst p g t).slices = h.slices ∧
    (h.endOutst p g t).out = h.out := by
  unfold Hub.endOutst; (try dsimp only); (repeat' split) <;> simp

@[simp] theorem Hub.sendCmp_keeps (h : Hub) (from_ : Nat) (g : Gaid) (t : Txid) (l : Line) (grant : BitVec 3) (outcome : BitVec 2) :
    Hub.sameConfig h (h.sendCmp from_ g t l grant outcome) ∧ Hub.sameFlow h (h.sendCmp from_ g t l grant outcome) ∧
    (h.sendCmp from_ g t l grant outcome).pins = h.pins ∧ (h.sendCmp from_ g t l grant outcome).mirror = h.mirror ∧
    (h.sendCmp from_ g t l grant outcome).reads = h.reads ∧ (h.sendCmp from_ g t l grant outcome).spill = h.spill ∧
    (h.sendCmp from_ g t l grant outcome).sps = h.sps ∧ (h.sendCmp from_ g t l grant outcome).epoch = h.epoch ∧
    (h.sendCmp from_ g t l grant outcome).rot = h.rot ∧ (h.sendCmp from_ g t l grant outcome).slices = h.slices := by
  unfold Hub.sendCmp; (try dsimp only); (repeat' split) <;> simp

@[simp] theorem Hub.sendSpan_keeps (h : Hub) (m : SpanOut) :
    Hub.sameConfig h (h.sendSpan m) ∧ Hub.sameFlow h (h.sendSpan m) ∧ (h.sendSpan m).pins = h.pins ∧
    (h.sendSpan m).mirror = h.mirror ∧ (h.sendSpan m).records = h.records ∧ (h.sendSpan m).lapses = h.lapses ∧
    (h.sendSpan m).reads = h.reads ∧ (h.sendSpan m).spill = h.spill ∧ (h.sendSpan m).epoch = h.epoch ∧
    (h.sendSpan m).rot = h.rot ∧ (h.sendSpan m).aon = h.aon ∧ (h.sendSpan m).events = h.events ∧
    (h.sendSpan m).power = h.power ∧ (h.sendSpan m).notices = h.notices ∧ (h.sendSpan m).aps = h.aps ∧
    (h.sendSpan m).agents = h.agents ∧ (h.sendSpan m).dev = h.dev ∧ (h.sendSpan m).freeCtr = h.freeCtr ∧
    (h.sendSpan m).slices = h.slices := by
  unfold Hub.sendSpan; (try dsimp only); (repeat' split) <;> simp

@[simp] theorem Hub.toHubWith_keeps (h : Hub) (dest : HubNo) (opc : BitVec 6) (f : Flit) (d : Option Payload)
    (operand : Option (BitVec 256)) (be : ByteMask) :
    Hub.sameConfig h (h.toHubWith dest opc f d operand be) ∧ Hub.sameFlow h (h.toHubWith dest opc f d operand be) ∧
    (h.toHubWith dest opc f d operand be).pins = h.pins ∧ (h.toHubWith dest opc f d operand be).mirror = h.mirror ∧
    (h.toHubWith dest opc f d operand be).records = h.records ∧ (h.toHubWith dest opc f d operand be).lapses = h.lapses ∧
    (h.toHubWith dest opc f d operand be).reads = h.reads ∧ (h.toHubWith dest opc f d operand be).spill = h.spill ∧
    (h.toHubWith dest opc f d operand be).rot = h.rot ∧ (h.toHubWith dest opc f d operand be).aon = h.aon ∧
    (h.toHubWith dest opc f d operand be).events = h.events ∧ (h.toHubWith dest opc f d operand be).power = h.power ∧
    (h.toHubWith dest opc f d operand be).notices = h.notices ∧ (h.toHubWith dest opc f d operand be).aps = h.aps ∧
    (h.toHubWith dest opc f d operand be).agents = h.agents ∧ (h.toHubWith dest opc f d operand be).dev = h.dev ∧
    (h.toHubWith dest opc f d operand be).slices = h.slices := by
  unfold Hub.toHubWith; (try dsimp only); (repeat' split) <;> simp

@[simp] theorem Hub.toHub_keeps (h : Hub) (dest : HubNo) (opc : BitVec 6) (f : Flit) (d : Option Payload) (operand : Option
    (BitVec 256)) :
    Hub.sameConfig h (h.toHub dest opc f d operand) ∧ Hub.sameFlow h (h.toHub dest opc f d operand) ∧
    (h.toHub dest opc f d operand).pins = h.pins ∧ (h.toHub dest opc f d operand).mirror = h.mirror ∧
    (h.toHub dest opc f d operand).records = h.records ∧ (h.toHub dest opc f d operand).lapses = h.lapses ∧
    (h.toHub dest opc f d operand).reads = h.reads ∧ (h.toHub dest opc f d operand).spill = h.spill ∧
    (h.toHub dest opc f d operand).rot = h.rot ∧ (h.toHub dest opc f d operand).aon = h.aon ∧
    (h.toHub dest opc f d operand).events = h.events ∧ (h.toHub dest opc f d operand).power = h.power ∧
    (h.toHub dest opc f d operand).notices = h.notices ∧ (h.toHub dest opc f d operand).aps = h.aps ∧
    (h.toHub dest opc f d operand).agents = h.agents ∧ (h.toHub dest opc f d operand).dev = h.dev ∧
    (h.toHub dest opc f d operand).slices = h.slices := by
  unfold Hub.toHub; (try dsimp only); (repeat' split) <;> simp

@[simp] theorem Hub.checkRun_keeps (h : Hub) (hs : Nat) (set : BitVec 14) :
    Hub.sameConfig h (h.checkRun hs set) ∧ Hub.sameFlow h (h.checkRun hs set) ∧ Hub.sameStore h (h.checkRun hs set) := by
  unfold Hub.checkRun; (try dsimp only); (repeat' split) <;> simp

@[simp] theorem Hub.settleWay_keeps (h : Hub) (hs : Nat) (l : Line) :
    Hub.sameConfig h (h.settleWay hs l) ∧ Hub.sameFlow h (h.settleWay hs l) ∧ Hub.sameStore h (h.settleWay hs l) ∧
    Hub.sameEvent h (h.settleWay hs l) ∧ (h.settleWay hs l).out = h.out := by
  unfold Hub.settleWay; (try dsimp only); (repeat' split) <;> simp

@[simp] theorem Hub.putEntry_keeps (h : Hub) (hs : Nat) (l : Line) (w : Nat) (v : SView) :
    Hub.sameConfig h (h.putEntry hs l w v) ∧ Hub.sameFlow h (h.putEntry hs l w v) ∧ Hub.sameStore h (h.putEntry hs l w v) := by
  unfold Hub.putEntry; (try dsimp only); (repeat' split) <;> simp

@[simp] theorem Hub.putHub_keeps (h : Hub) (hs : Nat) (l : Line) (w : Nat) (v : HView) :
    Hub.sameConfig h (h.putHub hs l w v) ∧ Hub.sameFlow h (h.putHub hs l w v) ∧ Hub.sameStore h (h.putHub hs l w v) ∧
    Hub.sameEvent h (h.putHub hs l w v) ∧ (h.putHub hs l w v).out = h.out := by
  unfold Hub.putHub; (try dsimp only); (repeat' split) <;> simp

@[simp] theorem Hub.setHub_keeps (h : Hub) (hs : Nat) (l : Line) (v : HView) :
    Hub.sameConfig h (h.setHub hs l v) ∧ Hub.sameFlow h (h.setHub hs l v) ∧ Hub.sameStore h (h.setHub hs l v) ∧
    Hub.sameEvent h (h.setHub hs l v) ∧ (h.setHub hs l v).out = h.out := by
  unfold Hub.setHub; (try dsimp only); (repeat' split) <;> simp

@[simp] theorem Hub.raiseMalformed_keeps (h : Hub) (hs : Nat) (set : BitVec 14) (way : Nat) (bad : Bool) :
    Hub.sameConfig h (h.raiseMalformed hs set way bad) ∧ Hub.sameFlow h (h.raiseMalformed hs set way bad) ∧
    Hub.sameStore h (h.raiseMalformed hs set way bad) ∧ (h.raiseMalformed hs set way bad).slices = h.slices := by
  unfold Hub.raiseMalformed; (try dsimp only); (repeat' split) <;> simp

@[simp] theorem Hub.markDeg_keeps (h : Hub) (hs : Nat) (set : BitVec 14) (way : Nat) (tagRead : BitVec 32) :
    Hub.sameConfig h (h.markDeg hs set way tagRead) ∧ Hub.sameFlow h (h.markDeg hs set way tagRead) ∧
    Hub.sameStore h (h.markDeg hs set way tagRead) := by
  unfold Hub.markDeg; (try dsimp only); (repeat' split) <;> simp

@[simp] theorem Hub.markHubDeg_keeps (h : Hub) (hs : Nat) (set : BitVec 12) (way : Nat) (tagRead : BitVec 34) :
    Hub.sameConfig h (h.markHubDeg hs set way tagRead) ∧ Hub.sameFlow h (h.markHubDeg hs set way tagRead) ∧
    Hub.sameStore h (h.markHubDeg hs set way tagRead) := by
  unfold Hub.markHubDeg; (try dsimp only); (repeat' split) <;> simp

@[simp] theorem Hub.putHc_keeps (h : Hub) (hs : Nat) (set : BitVec 10) (way : Nat) (w : Word) (bytes : LineBits) :
    Hub.sameConfig h (h.putHc hs set way w bytes) ∧ Hub.sameFlow h (h.putHc hs set way w bytes) ∧
    Hub.sameStore h (h.putHc hs set way w bytes) ∧ Hub.sameEvent h (h.putHc hs set way w bytes) ∧
    (h.putHc hs set way w bytes).out = h.out := by
  unfold Hub.putHc; (try dsimp only); (repeat' split) <;> simp

@[simp] theorem Hub.hcTouch_keeps (h : Hub) (hs : Nat) (l : Line) :
    Hub.sameConfig h (h.hcTouch hs l) ∧ Hub.sameFlow h (h.hcTouch hs l) ∧ Hub.sameStore h (h.hcTouch hs l) ∧
    Hub.sameEvent h (h.hcTouch hs l) ∧ (h.hcTouch hs l).out = h.out := by
  unfold Hub.hcTouch; (try dsimp only); (repeat' split) <;> simp

@[simp] theorem Hub.tryDisable_keeps (h : Hub) (hs way : Nat) :
    Hub.sameConfig h (h.tryDisable hs way) ∧ Hub.sameFlow h (h.tryDisable hs way) ∧ (h.tryDisable hs way).pins = h.pins ∧
    (h.tryDisable hs way).mirror = h.mirror ∧ (h.tryDisable hs way).records = h.records ∧
    (h.tryDisable hs way).lapses = h.lapses ∧ (h.tryDisable hs way).reads = h.reads ∧ (h.tryDisable hs way).spill = h.spill ∧
    (h.tryDisable hs way).sps = h.sps ∧ (h.tryDisable hs way).epoch = h.epoch := by
  unfold Hub.tryDisable; (try dsimp only); (repeat' split) <;> simp

@[simp] theorem Hub.hcInvalidateWay_keeps (h : Hub) (hs : Nat) (set : BitVec 10) (way : Nat) :
    Hub.sameConfig h (h.hcInvalidateWay hs set way) ∧ Hub.sameFlow h (h.hcInvalidateWay hs set way) ∧
    (h.hcInvalidateWay hs set way).pins = h.pins ∧ (h.hcInvalidateWay hs set way).mirror = h.mirror ∧
    (h.hcInvalidateWay hs set way).records = h.records ∧ (h.hcInvalidateWay hs set way).lapses = h.lapses ∧
    (h.hcInvalidateWay hs set way).reads = h.reads ∧ (h.hcInvalidateWay hs set way).spill = h.spill ∧
    (h.hcInvalidateWay hs set way).sps = h.sps ∧ (h.hcInvalidateWay hs set way).epoch = h.epoch := by
  unfold Hub.hcInvalidateWay; (try dsimp only); (repeat' split) <;> simp

@[simp] theorem Hub.hcInvalidateLine_keeps (h : Hub) (hs : Nat) (l : Line) :
    Hub.sameConfig h (h.hcInvalidateLine hs l) ∧ Hub.sameFlow h (h.hcInvalidateLine hs l) ∧
    (h.hcInvalidateLine hs l).pins = h.pins ∧ (h.hcInvalidateLine hs l).mirror = h.mirror ∧
    (h.hcInvalidateLine hs l).records = h.records ∧ (h.hcInvalidateLine hs l).lapses = h.lapses ∧
    (h.hcInvalidateLine hs l).reads = h.reads ∧ (h.hcInvalidateLine hs l).spill = h.spill ∧
    (h.hcInvalidateLine hs l).sps = h.sps ∧ (h.hcInvalidateLine hs l).epoch = h.epoch := by
  unfold Hub.hcInvalidateLine; (try dsimp only); (repeat' split) <;> simp

@[simp] theorem Hub.wayCorrected_keeps (h : Hub) (hs way : Nat) :
    Hub.sameConfig h (h.wayCorrected hs way) ∧ Hub.sameFlow h (h.wayCorrected hs way) ∧
    Hub.sameStore h (h.wayCorrected hs way) ∧ Hub.sameEvent h (h.wayCorrected hs way) ∧ (h.wayCorrected hs way).out = h.out := by
  unfold Hub.wayCorrected; (try dsimp only); (repeat' split) <;> simp

@[simp] theorem Hub.fillDropped_keeps (h : Hub) (hs : Nat) (l : Line) :
    Hub.sameConfig h (h.fillDropped hs l) ∧ Hub.sameFlow h (h.fillDropped hs l) ∧ Hub.sameStore h (h.fillDropped hs l) ∧
    (h.fillDropped hs l).slices = h.slices := by
  unfold Hub.fillDropped; (try dsimp only); (repeat' split) <;> simp

@[simp] theorem Hub.takeVictim_keeps (h : Hub) (hs : Nat) (set : BitVec 10) (way : Nat) :
    Hub.sameConfig h (h.takeVictim hs set way).1 ∧ Hub.sameFlow h (h.takeVictim hs set way).1 ∧
    Hub.sameStore h (h.takeVictim hs set way).1 ∧ Hub.sameEvent h (h.takeVictim hs set way).1 ∧
    (h.takeVictim hs set way).1.out = h.out := by
  unfold Hub.takeVictim; (try dsimp only); (repeat' split) <;> simp

@[simp] theorem Hub.installFill_keeps (h : Hub) (hs : Nat) (f : Fill) :
    Hub.sameConfig h (h.installFill hs f) ∧ Hub.sameFlow h (h.installFill hs f) ∧ Hub.sameStore h (h.installFill hs f) ∧
    Hub.sameEvent h (h.installFill hs f) ∧ (h.installFill hs f).out = h.out := by
  unfold Hub.installFill; (try dsimp only); (repeat' split) <;> simp

@[simp] theorem Hub.hcUpdate_keeps (h : Hub) (hs : Nat) (l : Line) (bytes : LineBits) (mask : ByteMask) (poison : Bool)
    (down : Bool) :
    Hub.sameConfig h (h.hcUpdate hs l bytes mask poison down) ∧ Hub.sameFlow h (h.hcUpdate hs l bytes mask poison down) ∧
    (h.hcUpdate hs l bytes mask poison down).pins = h.pins ∧ (h.hcUpdate hs l bytes mask poison down).mirror = h.mirror ∧
    (h.hcUpdate hs l bytes mask poison down).records = h.records ∧ (h.hcUpdate hs l bytes mask poison down).lapses = h.lapses ∧
    (h.hcUpdate hs l bytes mask poison down).reads = h.reads ∧ (h.hcUpdate hs l bytes mask poison down).spill = h.spill ∧
    (h.hcUpdate hs l bytes mask poison down).sps = h.sps ∧ (h.hcUpdate hs l bytes mask poison down).epoch = h.epoch := by
  unfold Hub.hcUpdate; (try dsimp only); (repeat' split) <;> simp

@[simp] theorem Hub.chainMark_keeps (h : Hub) (hs : Nat) (l : Line) :
    Hub.sameConfig h (h.chainMark hs l) ∧ Hub.sameFlow h (h.chainMark hs l) ∧ Hub.sameStore h (h.chainMark hs l) ∧
    Hub.sameEvent h (h.chainMark hs l) ∧ (h.chainMark hs l).out = h.out := by
  unfold Hub.chainMark; (try dsimp only); (repeat' split) <;> simp

@[simp] theorem Hub.chainPut_keeps (h : Hub) (hs : Nat) (l : Line) (d : LineBits) (poison : Bool) :
    Hub.sameConfig h (h.chainPut hs l d poison) ∧ Hub.sameFlow h (h.chainPut hs l d poison) ∧
    Hub.sameStore h (h.chainPut hs l d poison) ∧ Hub.sameEvent h (h.chainPut hs l d poison) ∧
    (h.chainPut hs l d poison).out = h.out := by
  unfold Hub.chainPut; (try dsimp only); (repeat' split) <;> simp

@[simp] theorem Hub.chainFill_keeps (h : Hub) (hs : Nat) (l : Line) (d : LineBits) (poison : Bool) :
    Hub.sameConfig h (h.chainFill hs l d poison) ∧ Hub.sameFlow h (h.chainFill hs l d poison) ∧
    Hub.sameStore h (h.chainFill hs l d poison) ∧ Hub.sameEvent h (h.chainFill hs l d poison) ∧
    (h.chainFill hs l d poison).out = h.out := by
  unfold Hub.chainFill; (try dsimp only); (repeat' split) <;> simp

@[simp] theorem Hub.chainEnd_keeps (h : Hub) (hs : Nat) (l : Line) :
    Hub.sameConfig h (h.chainEnd hs l) ∧ Hub.sameFlow h (h.chainEnd hs l) ∧ (h.chainEnd hs l).pins = h.pins ∧
    (h.chainEnd hs l).mirror = h.mirror ∧ (h.chainEnd hs l).records = h.records ∧ (h.chainEnd hs l).lapses = h.lapses ∧
    (h.chainEnd hs l).reads = h.reads ∧ (h.chainEnd hs l).spill = h.spill ∧ (h.chainEnd hs l).sps = h.sps ∧
    (h.chainEnd hs l).epoch = h.epoch := by
  unfold Hub.chainEnd; (try dsimp only); (repeat' split) <;> simp

@[simp] theorem Hub.refuseWay_keeps (h : Hub) (hs : Nat) (f : Fill) :
    Hub.sameConfig h (h.refuseWay hs f) ∧ Hub.sameFlow h (h.refuseWay hs f) ∧ Hub.sameStore h (h.refuseWay hs f) := by
  unfold Hub.refuseWay; (try dsimp only); (repeat' split) <;> simp

@[simp] theorem Hub.markWay_keeps (h : Hub) (hs way : Nat) :
    Hub.sameConfig h (h.markWay hs way) ∧ Hub.sameFlow h (h.markWay hs way) ∧ (h.markWay hs way).pins = h.pins ∧
    (h.markWay hs way).mirror = h.mirror ∧ (h.markWay hs way).records = h.records ∧ (h.markWay hs way).lapses = h.lapses ∧
    (h.markWay hs way).reads = h.reads ∧ (h.markWay hs way).spill = h.spill ∧ (h.markWay hs way).sps = h.sps ∧
    (h.markWay hs way).epoch = h.epoch := by
  unfold Hub.markWay; (try dsimp only); (repeat' split) <;>
    simp [foldl_round, foldl_pins, foldl_start, foldl_mirror, foldl_par, foldl_master, foldl_prot, foldl_mbx, foldl_core,
      foldl_map, foldl_spill, foldl_mps, foldl_chans, foldl_reads, foldl_sps, foldl_spanReps, foldl_spanBacks, foldl_waitSnoops,
      foldl_lostHubs, foldl_routeAcks, foldl_routeNew, foldl_routeOld, foldl_spanEpoch, foldl_records, foldl_lapses,
      foldl_rsvRecs, foldl_rsvNotes, foldl_chNotes, foldl_slots, foldl_pointer, foldl_epoch, foldl_arbs, foldl_prefetchNotes]

@[simp] theorem Hub.raiseStorm_keeps (h : Hub) (hs : Nat) :
    Hub.sameConfig h (h.raiseStorm hs) ∧ Hub.sameFlow h (h.raiseStorm hs) ∧ (h.raiseStorm hs).pins = h.pins ∧
    (h.raiseStorm hs).mirror = h.mirror ∧ (h.raiseStorm hs).records = h.records ∧ (h.raiseStorm hs).lapses = h.lapses ∧
    (h.raiseStorm hs).reads = h.reads ∧ (h.raiseStorm hs).spill = h.spill ∧ (h.raiseStorm hs).sps = h.sps ∧
    (h.raiseStorm hs).epoch = h.epoch ∧ (h.raiseStorm hs).slices = h.slices := by
  unfold Hub.raiseStorm; (try dsimp only); (repeat' split) <;> simp

@[simp] theorem Hub.stormCount_keeps (h : Hub) (hs n : Nat) :
    Hub.sameConfig h (h.stormCount hs n) ∧ Hub.sameFlow h (h.stormCount hs n) ∧ (h.stormCount hs n).pins = h.pins ∧
    (h.stormCount hs n).mirror = h.mirror ∧ (h.stormCount hs n).records = h.records ∧ (h.stormCount hs n).lapses = h.lapses ∧
    (h.stormCount hs n).reads = h.reads ∧ (h.stormCount hs n).spill = h.spill ∧ (h.stormCount hs n).sps = h.sps ∧
    (h.stormCount hs n).epoch = h.epoch := by
  unfold Hub.stormCount; (try dsimp only); (repeat' split) <;> simp

@[simp] theorem Hub.corrected_keeps (h : Hub) (hs : Nat) (a : ErrArray) (n : Nat) :
    Hub.sameConfig h (h.corrected hs a n) ∧ Hub.sameFlow h (h.corrected hs a n) ∧ (h.corrected hs a n).pins = h.pins ∧
    (h.corrected hs a n).mirror = h.mirror ∧ (h.corrected hs a n).records = h.records ∧ (h.corrected hs a n).lapses = h.lapses ∧
    (h.corrected hs a n).reads = h.reads ∧ (h.corrected hs a n).spill = h.spill ∧ (h.corrected hs a n).sps = h.sps ∧
    (h.corrected hs a n).epoch = h.epoch := by
  unfold Hub.corrected; (try dsimp only); (repeat' split) <;> simp

@[simp] theorem Hub.hcUncorrectable_keeps (h : Hub) (hs : Nat) (set : BitVec 10) (way : Nat) :
    Hub.sameConfig h (h.hcUncorrectable hs set way) ∧ Hub.sameFlow h (h.hcUncorrectable hs set way) ∧
    (h.hcUncorrectable hs set way).pins = h.pins ∧ (h.hcUncorrectable hs set way).mirror = h.mirror ∧
    (h.hcUncorrectable hs set way).records = h.records ∧ (h.hcUncorrectable hs set way).lapses = h.lapses ∧
    (h.hcUncorrectable hs set way).reads = h.reads ∧ (h.hcUncorrectable hs set way).spill = h.spill ∧
    (h.hcUncorrectable hs set way).sps = h.sps ∧ (h.hcUncorrectable hs set way).epoch = h.epoch := by
  unfold Hub.hcUncorrectable; (try dsimp only); (repeat' split) <;> simp

@[simp] theorem Hub.onWb_keeps (h : Hub) (hs : Nat) (l : Line) (f : WbLine → WbLine) :
    Hub.sameConfig h (h.onWb hs l f) ∧ Hub.sameFlow h (h.onWb hs l f) ∧ (h.onWb hs l f).pins = h.pins ∧
    (h.onWb hs l f).mirror = h.mirror ∧ (h.onWb hs l f).records = h.records ∧ (h.onWb hs l f).lapses = h.lapses ∧
    (h.onWb hs l f).reads = h.reads ∧ (h.onWb hs l f).sps = h.sps ∧ (h.onWb hs l f).epoch = h.epoch ∧
    (h.onWb hs l f).rot = h.rot ∧ Hub.sameEvent h (h.onWb hs l f) ∧ (h.onWb hs l f).out = h.out := by
  unfold Hub.onWb; (try dsimp only); (repeat' split) <;> simp

@[simp] theorem Hub.dropWb_keeps (h : Hub) (hs : Nat) (l : Line) :
    Hub.sameConfig h (h.dropWb hs l) ∧ Hub.sameFlow h (h.dropWb hs l) ∧ (h.dropWb hs l).pins = h.pins ∧
    (h.dropWb hs l).mirror = h.mirror ∧ (h.dropWb hs l).records = h.records ∧ (h.dropWb hs l).lapses = h.lapses ∧
    (h.dropWb hs l).reads = h.reads ∧ (h.dropWb hs l).sps = h.sps ∧ (h.dropWb hs l).epoch = h.epoch ∧
    (h.dropWb hs l).rot = h.rot ∧ Hub.sameEvent h (h.dropWb hs l) ∧ (h.dropWb hs l).out = h.out := by
  unfold Hub.dropWb; (try dsimp only); (repeat' split) <;> simp

@[simp] theorem Hub.wbEnsure_keeps (h : Hub) (hs : Nat) (l : Line) (who : Entering) (home : Bool) :
    Hub.sameConfig h (h.wbEnsure hs l who home) ∧ Hub.sameFlow h (h.wbEnsure hs l who home) ∧
    (h.wbEnsure hs l who home).pins = h.pins ∧ (h.wbEnsure hs l who home).mirror = h.mirror ∧
    (h.wbEnsure hs l who home).records = h.records ∧ (h.wbEnsure hs l who home).lapses = h.lapses ∧
    (h.wbEnsure hs l who home).reads = h.reads ∧ (h.wbEnsure hs l who home).sps = h.sps ∧
    (h.wbEnsure hs l who home).epoch = h.epoch ∧ (h.wbEnsure hs l who home).rot = h.rot ∧
    Hub.sameEvent h (h.wbEnsure hs l who home) ∧ (h.wbEnsure hs l who home).out = h.out := by
  unfold Hub.wbEnsure; (try dsimp only); (repeat' split) <;> simp

@[simp] theorem Hub.dropIfDown_keeps (h : Hub) (hs : Nat) (l : Line) :
    Hub.sameConfig h (h.dropIfDown hs l) ∧ Hub.sameFlow h (h.dropIfDown hs l) ∧ (h.dropIfDown hs l).pins = h.pins ∧
    (h.dropIfDown hs l).mirror = h.mirror ∧ (h.dropIfDown hs l).records = h.records ∧ (h.dropIfDown hs l).lapses = h.lapses ∧
    (h.dropIfDown hs l).reads = h.reads ∧ (h.dropIfDown hs l).sps = h.sps ∧ (h.dropIfDown hs l).epoch = h.epoch ∧
    (h.dropIfDown hs l).rot = h.rot := by
  unfold Hub.dropIfDown; (try dsimp only); (repeat' split) <;> simp

@[simp] theorem Hub.staleFills_keeps (h : Hub) (hs : Nat) (l : Line) :
    Hub.sameConfig h (h.staleFills hs l) ∧ Hub.sameFlow h (h.staleFills hs l) ∧ (h.staleFills hs l).pins = h.pins ∧
    (h.staleFills hs l).mirror = h.mirror ∧ (h.staleFills hs l).records = h.records ∧ (h.staleFills hs l).lapses = h.lapses ∧
    (h.staleFills hs l).spill = h.spill ∧ (h.staleFills hs l).sps = h.sps ∧ (h.staleFills hs l).epoch = h.epoch ∧
    (h.staleFills hs l).rot = h.rot := by
  unfold Hub.staleFills; (try dsimp only); (repeat' split) <;> simp

@[simp] theorem Hub.enterWb_keeps (h : Hub) (hs : Nat) (l : Line) (who : Entering) (home : Bool) (bytes : LineBits)
    (mask : ByteMask) (f : WbLine → WbLine) :
    Hub.sameConfig h (h.enterWb hs l who home bytes mask f) ∧ Hub.sameFlow h (h.enterWb hs l who home bytes mask f) ∧
    (h.enterWb hs l who home bytes mask f).pins = h.pins ∧ (h.enterWb hs l who home bytes mask f).mirror = h.mirror ∧
    (h.enterWb hs l who home bytes mask f).records = h.records ∧ (h.enterWb hs l who home bytes mask f).lapses = h.lapses ∧
    (h.enterWb hs l who home bytes mask f).sps = h.sps ∧ (h.enterWb hs l who home bytes mask f).epoch = h.epoch := by
  unfold Hub.enterWb; (try dsimp only); (repeat' split) <;> simp

@[simp] theorem Hub.enterValue_keeps (h : Hub) (hs : Nat) (l : Line) (who : Entering) (home : Bool) (bytes : LineBits)
    (pois : ByteMask) (from_ : Option Gaid) :
    Hub.sameConfig h (h.enterValue hs l who home bytes pois from_) ∧
    Hub.sameFlow h (h.enterValue hs l who home bytes pois from_) ∧ (h.enterValue hs l who home bytes pois from_).pins = h.pins ∧
    (h.enterValue hs l who home bytes pois from_).mirror = h.mirror ∧
    (h.enterValue hs l who home bytes pois from_).records = h.records ∧
    (h.enterValue hs l who home bytes pois from_).lapses = h.lapses ∧
    (h.enterValue hs l who home bytes pois from_).sps = h.sps ∧ (h.enterValue hs l who home bytes pois from_).epoch = h.epoch := by
  unfold Hub.enterValue; (try dsimp only); (repeat' split) <;> simp

@[simp] theorem Hub.enterBase_keeps (h : Hub) (hs : Nat) (l : Line) (bytes : LineBits) (poison : Bool) :
    Hub.sameConfig h (h.enterBase hs l bytes poison) ∧ Hub.sameFlow h (h.enterBase hs l bytes poison) ∧
    (h.enterBase hs l bytes poison).pins = h.pins ∧ (h.enterBase hs l bytes poison).mirror = h.mirror ∧
    (h.enterBase hs l bytes poison).records = h.records ∧ (h.enterBase hs l bytes poison).lapses = h.lapses ∧
    (h.enterBase hs l bytes poison).sps = h.sps ∧ (h.enterBase hs l bytes poison).epoch = h.epoch := by
  unfold Hub.enterBase; (try dsimp only); (repeat' split) <;> simp

@[simp] theorem Hub.enterWritten_keeps (h : Hub) (hs : Nat) (l : Line) (home : Bool) (bytes : LineBits) (mask pois : ByteMask) :
    Hub.sameConfig h (h.enterWritten hs l home bytes mask pois) ∧ Hub.sameFlow h (h.enterWritten hs l home bytes mask pois) ∧
    (h.enterWritten hs l home bytes mask pois).pins = h.pins ∧ (h.enterWritten hs l home bytes mask pois).mirror = h.mirror ∧
    (h.enterWritten hs l home bytes mask pois).records = h.records ∧
    (h.enterWritten hs l home bytes mask pois).lapses = h.lapses ∧ (h.enterWritten hs l home bytes mask pois).sps = h.sps ∧
    (h.enterWritten hs l home bytes mask pois).epoch = h.epoch := by
  unfold Hub.enterWritten; (try dsimp only); (repeat' split) <;> simp

@[simp] theorem Hub.poisonMark_keeps (h : Hub) (hs : Nat) (l : Line) (home : Bool) :
    Hub.sameConfig h (h.poisonMark hs l home) ∧ Hub.sameFlow h (h.poisonMark hs l home) ∧
    (h.poisonMark hs l home).pins = h.pins ∧ (h.poisonMark hs l home).mirror = h.mirror ∧
    (h.poisonMark hs l home).records = h.records ∧ (h.poisonMark hs l home).lapses = h.lapses ∧
    (h.poisonMark hs l home).sps = h.sps ∧ (h.poisonMark hs l home).epoch = h.epoch := by
  unfold Hub.poisonMark; (try dsimp only); (repeat' split) <;> simp

@[simp] theorem Hub.clearMasks_keeps (h : Hub) (hs : Nat) (l : Line) :
    Hub.sameConfig h (h.clearMasks hs l) ∧ Hub.sameFlow h (h.clearMasks hs l) ∧ (h.clearMasks hs l).pins = h.pins ∧
    (h.clearMasks hs l).mirror = h.mirror ∧ (h.clearMasks hs l).records = h.records ∧ (h.clearMasks hs l).lapses = h.lapses ∧
    (h.clearMasks hs l).reads = h.reads ∧ (h.clearMasks hs l).sps = h.sps ∧ (h.clearMasks hs l).epoch = h.epoch ∧
    (h.clearMasks hs l).rot = h.rot ∧ Hub.sameEvent h (h.clearMasks hs l) ∧ (h.clearMasks hs l).out = h.out := by
  unfold Hub.clearMasks; (try dsimp only); (repeat' split) <;> simp

@[simp] theorem Hub.proxyFlush_keeps (h : Hub) (hs : Nat) (l : Line) (becameUnc : Bool) :
    Hub.sameConfig h (h.proxyFlush hs l becameUnc) ∧ Hub.sameFlow h (h.proxyFlush hs l becameUnc) ∧
    (h.proxyFlush hs l becameUnc).pins = h.pins ∧ (h.proxyFlush hs l becameUnc).mirror = h.mirror ∧
    (h.proxyFlush hs l becameUnc).records = h.records ∧ (h.proxyFlush hs l becameUnc).lapses = h.lapses ∧
    (h.proxyFlush hs l becameUnc).reads = h.reads ∧ (h.proxyFlush hs l becameUnc).rot = h.rot ∧
    (h.proxyFlush hs l becameUnc).aon = h.aon ∧ (h.proxyFlush hs l becameUnc).events = h.events ∧
    (h.proxyFlush hs l becameUnc).power = h.power ∧ (h.proxyFlush hs l becameUnc).notices = h.notices ∧
    (h.proxyFlush hs l becameUnc).aps = h.aps ∧ (h.proxyFlush hs l becameUnc).agents = h.agents ∧
    (h.proxyFlush hs l becameUnc).dev = h.dev := by
  unfold Hub.proxyFlush; (try dsimp only); (repeat' split) <;> simp

@[simp] theorem Hub.cancelSpec_keeps (h : Hub) (l : Line) (tid : Byte) :
    Hub.sameConfig h (h.cancelSpec l tid) ∧ Hub.sameFlow h (h.cancelSpec l tid) ∧ (h.cancelSpec l tid).pins = h.pins ∧
    (h.cancelSpec l tid).mirror = h.mirror ∧ (h.cancelSpec l tid).records = h.records ∧ (h.cancelSpec l tid).lapses = h.lapses ∧
    (h.cancelSpec l tid).spill = h.spill ∧ (h.cancelSpec l tid).sps = h.sps ∧ (h.cancelSpec l tid).epoch = h.epoch ∧
    (h.cancelSpec l tid).rot = h.rot ∧ (h.cancelSpec l tid).aon = h.aon ∧ (h.cancelSpec l tid).events = h.events ∧
    (h.cancelSpec l tid).power = h.power ∧ (h.cancelSpec l tid).notices = h.notices ∧ (h.cancelSpec l tid).aps = h.aps ∧
    (h.cancelSpec l tid).agents = h.agents ∧ (h.cancelSpec l tid).dev = h.dev ∧ (h.cancelSpec l tid).freeCtr = h.freeCtr ∧
    (h.cancelSpec l tid).slices = h.slices ∧ (h.cancelSpec l tid).out = h.out := by
  unfold Hub.cancelSpec; (try dsimp only); (repeat' split) <;> simp

@[simp] theorem Hub.maintInvalidate_keeps (h : Hub) (l : Line) :
    Hub.sameConfig h (h.maintInvalidate l) ∧ Hub.sameFlow h (h.maintInvalidate l) ∧ (h.maintInvalidate l).pins = h.pins ∧
    (h.maintInvalidate l).mirror = h.mirror ∧ (h.maintInvalidate l).records = h.records ∧
    (h.maintInvalidate l).lapses = h.lapses ∧ (h.maintInvalidate l).spill = h.spill ∧ (h.maintInvalidate l).sps = h.sps ∧
    (h.maintInvalidate l).epoch = h.epoch := by
  unfold Hub.maintInvalidate; (try dsimp only); (repeat' split) <;> simp

@[simp] theorem Hub.writeDone_keeps (h : Hub) (l : Line) :
    Hub.sameConfig h (h.writeDone l) ∧ (h.writeDone l).start = h.start ∧ (h.writeDone l).core = h.core ∧
    (h.writeDone l).chans = h.chans ∧ (h.writeDone l).spanReps = h.spanReps ∧ (h.writeDone l).spanBacks = h.spanBacks ∧
    (h.writeDone l).waitSnoops = h.waitSnoops ∧ (h.writeDone l).arbs = h.arbs ∧ (h.writeDone l).rsvRecs = h.rsvRecs ∧
    (h.writeDone l).rsvNotes = h.rsvNotes ∧ Hub.sameStore h (h.writeDone l) ∧ Hub.sameEvent h (h.writeDone l) ∧
    (h.writeDone l).slices = h.slices ∧ (h.writeDone l).out = h.out := by
  unfold Hub.writeDone; (try dsimp only); (repeat' split) <;> simp

@[simp] theorem Hub.countBroadcast_keeps (h : Hub) (ls : BitVec 6) (b : Bool) :
    Hub.sameConfig h (h.countBroadcast ls b) ∧ Hub.sameFlow h (h.countBroadcast ls b) ∧
    Hub.sameStore h (h.countBroadcast ls b) ∧ (h.countBroadcast ls b).aon = h.aon ∧ (h.countBroadcast ls b).events = h.events ∧
    (h.countBroadcast ls b).power = h.power ∧ (h.countBroadcast ls b).notices = h.notices ∧
    (h.countBroadcast ls b).aps = h.aps ∧ (h.countBroadcast ls b).agents = h.agents ∧ (h.countBroadcast ls b).dev = h.dev ∧
    (h.countBroadcast ls b).freeCtr = h.freeCtr ∧ (h.countBroadcast ls b).slices = h.slices ∧
    (h.countBroadcast ls b).out = h.out := by
  unfold Hub.countBroadcast; (try dsimp only); (repeat' split) <;> simp

@[simp] theorem Hub.endRsv_keeps (h : Hub) (hs : Nat) (tid : Byte) (l : Line) (g : Gaid) (t : Txid) (write : Bool) :
    Hub.sameConfig h (h.endRsv hs tid l g t write) ∧ (h.endRsv hs tid l g t write).start = h.start ∧
    (h.endRsv hs tid l g t write).core = h.core ∧ (h.endRsv hs tid l g t write).chans = h.chans ∧
    (h.endRsv hs tid l g t write).mbx = h.mbx ∧ (h.endRsv hs tid l g t write).spanReps = h.spanReps ∧
    (h.endRsv hs tid l g t write).spanBacks = h.spanBacks ∧ (h.endRsv hs tid l g t write).waitSnoops = h.waitSnoops ∧
    (h.endRsv hs tid l g t write).arbs = h.arbs ∧ (h.endRsv hs tid l g t write).rsvRecs = h.rsvRecs ∧
    Hub.sameStore h (h.endRsv hs tid l g t write) ∧ Hub.sameEvent h (h.endRsv hs tid l g t write) ∧
    (h.endRsv hs tid l g t write).out = h.out := by
  unfold Hub.endRsv; (try dsimp only); (repeat' split) <;> simp

@[simp] theorem Hub.countRes_keeps (h : Hub) (ls : BitVec 6) (n : Nat) :
    Hub.sameConfig h (h.countRes ls n) ∧ Hub.sameFlow h (h.countRes ls n) ∧ Hub.sameStore h (h.countRes ls n) ∧
    (h.countRes ls n).aon = h.aon ∧ (h.countRes ls n).events = h.events ∧ (h.countRes ls n).power = h.power ∧
    (h.countRes ls n).notices = h.notices ∧ (h.countRes ls n).aps = h.aps ∧ (h.countRes ls n).agents = h.agents ∧
    (h.countRes ls n).dev = h.dev ∧ (h.countRes ls n).freeCtr = h.freeCtr ∧ (h.countRes ls n).slices = h.slices ∧
    (h.countRes ls n).out = h.out := by
  unfold Hub.countRes; (try dsimp only); (repeat' split) <;> simp

@[simp] theorem Hub.sample_keeps (h : Hub) (t : Txn) :
    Hub.sameConfig h (h.sample t) ∧ Hub.sameFlow h (h.sample t) ∧ Hub.sameStore h (h.sample t) ∧ (h.sample t).aon = h.aon ∧
    (h.sample t).events = h.events ∧ (h.sample t).power = h.power ∧ (h.sample t).notices = h.notices ∧
    (h.sample t).aps = h.aps ∧ (h.sample t).agents = h.agents ∧ (h.sample t).dev = h.dev ∧ (h.sample t).freeCtr = h.freeCtr ∧
    (h.sample t).slices = h.slices ∧ (h.sample t).out = h.out := by
  unfold Hub.sample; (try dsimp only); (repeat' split) <;> simp

@[simp] theorem Hub.raiseLost_keeps (h : Hub) (hs : Nat) (l : Line) (la : La) (case_ : Nat) :
    Hub.sameConfig h (h.raiseLost hs l la case_) ∧ Hub.sameFlow h (h.raiseLost hs l la case_) ∧
    Hub.sameStore h (h.raiseLost hs l la case_) ∧ (h.raiseLost hs l la case_).slices = h.slices := by
  unfold Hub.raiseLost; (try dsimp only); (repeat' split) <;> simp

@[simp] theorem Hub.lineLost_keeps (h : Hub) (hs : Nat) (t : Txn) (la : La) (case_ : Nat) :
    Hub.sameConfig h (h.lineLost hs t la case_) ∧ Hub.sameFlow h (h.lineLost hs t la case_) ∧
    (h.lineLost hs t la case_).pins = h.pins ∧ (h.lineLost hs t la case_).mirror = h.mirror ∧
    (h.lineLost hs t la case_).records = h.records ∧ (h.lineLost hs t la case_).lapses = h.lapses ∧
    (h.lineLost hs t la case_).sps = h.sps ∧ (h.lineLost hs t la case_).epoch = h.epoch := by
  unfold Hub.lineLost; (try dsimp only); (repeat' split) <;> simp

@[simp] theorem Hub.ownerLost_keeps (h : Hub) (hs : Nat) (l : Line) (a : La) :
    Hub.sameConfig h (h.ownerLost hs l a) ∧ Hub.sameFlow h (h.ownerLost hs l a) ∧ (h.ownerLost hs l a).pins = h.pins ∧
    (h.ownerLost hs l a).mirror = h.mirror ∧ (h.ownerLost hs l a).records = h.records ∧ (h.ownerLost hs l a).lapses = h.lapses ∧
    (h.ownerLost hs l a).sps = h.sps ∧ (h.ownerLost hs l a).epoch = h.epoch := by
  unfold Hub.ownerLost; (try dsimp only); (repeat' split) <;> simp

@[simp] theorem Hub.endExact_keeps (h : Hub) (hs : Nat) (l : Line) (w : Nat) :
    Hub.sameConfig h (h.endExact hs l w) ∧ Hub.sameFlow h (h.endExact hs l w) ∧ Hub.sameStore h (h.endExact hs l w) := by
  unfold Hub.endExact; (try dsimp only); (repeat' split) <;> simp

@[simp] theorem Hub.atomUnit_keeps (h : Hub) (hs : Nat) (t : Txn) (value : LineBits) (poison : Bool) :
    Hub.sameConfig h (h.atomUnit hs t value poison) ∧ Hub.sameFlow h (h.atomUnit hs t value poison) ∧
    (h.atomUnit hs t value poison).pins = h.pins ∧ (h.atomUnit hs t value poison).mirror = h.mirror ∧
    (h.atomUnit hs t value poison).records = h.records ∧ (h.atomUnit hs t value poison).lapses = h.lapses ∧
    (h.atomUnit hs t value poison).sps = h.sps ∧ (h.atomUnit hs t value poison).epoch = h.epoch := by
  unfold Hub.atomUnit; (try dsimp only); (repeat' split) <;> simp

@[simp] theorem Hub.baseWritten_keeps (h : Hub) (hs : Nat) (t : Txn) :
    Hub.sameConfig h (h.baseWritten hs t) ∧ Hub.sameFlow h (h.baseWritten hs t) ∧ (h.baseWritten hs t).pins = h.pins ∧
    (h.baseWritten hs t).mirror = h.mirror ∧ (h.baseWritten hs t).records = h.records ∧ (h.baseWritten hs t).lapses = h.lapses ∧
    (h.baseWritten hs t).sps = h.sps ∧ (h.baseWritten hs t).epoch = h.epoch := by
  unfold Hub.baseWritten; (try dsimp only); (repeat' split) <;> simp

@[simp] theorem Hub.settleBase_keeps (h : Hub) (hs : Nat) (tid : Byte) :
    Hub.sameConfig h (h.settleBase hs tid) ∧ Hub.sameFlow h (h.settleBase hs tid) ∧ (h.settleBase hs tid).pins = h.pins ∧
    (h.settleBase hs tid).mirror = h.mirror ∧ (h.settleBase hs tid).records = h.records ∧
    (h.settleBase hs tid).lapses = h.lapses ∧ (h.settleBase hs tid).sps = h.sps ∧ (h.settleBase hs tid).epoch = h.epoch := by
  unfold Hub.settleBase; (try dsimp only); (repeat' split) <;> simp

@[simp] theorem Hub.rsvDone_keeps (h : Hub) (r : Req) :
    Hub.sameConfig h (h.rsvDone r) ∧ (h.rsvDone r).start = h.start ∧ (h.rsvDone r).core = h.core ∧
    (h.rsvDone r).chans = h.chans ∧ (h.rsvDone r).mbx = h.mbx ∧ (h.rsvDone r).spanReps = h.spanReps ∧
    (h.rsvDone r).spanBacks = h.spanBacks ∧ (h.rsvDone r).waitSnoops = h.waitSnoops ∧ (h.rsvDone r).arbs = h.arbs ∧
    (h.rsvDone r).rsvNotes = h.rsvNotes ∧ Hub.sameStore h (h.rsvDone r) ∧ Hub.sameEvent h (h.rsvDone r) ∧
    (h.rsvDone r).slices = h.slices ∧ (h.rsvDone r).out = h.out := by
  unfold Hub.rsvDone; (try dsimp only); (repeat' split) <;> simp

@[simp] theorem Hub.sendRsvRelease_keeps (h : Hub) (home : HubNo) (g : Gaid) (anchor : Line) (seq : BitVec 12) :
    Hub.sameConfig h (h.sendRsvRelease home g anchor seq) ∧ Hub.sameFlow h (h.sendRsvRelease home g anchor seq) ∧
    (h.sendRsvRelease home g anchor seq).pins = h.pins ∧ (h.sendRsvRelease home g anchor seq).mirror = h.mirror ∧
    (h.sendRsvRelease home g anchor seq).records = h.records ∧ (h.sendRsvRelease home g anchor seq).lapses = h.lapses ∧
    (h.sendRsvRelease home g anchor seq).reads = h.reads ∧ (h.sendRsvRelease home g anchor seq).spill = h.spill ∧
    (h.sendRsvRelease home g anchor seq).rot = h.rot ∧ (h.sendRsvRelease home g anchor seq).aon = h.aon ∧
    (h.sendRsvRelease home g anchor seq).events = h.events ∧ (h.sendRsvRelease home g anchor seq).power = h.power ∧
    (h.sendRsvRelease home g anchor seq).notices = h.notices ∧ (h.sendRsvRelease home g anchor seq).aps = h.aps ∧
    (h.sendRsvRelease home g anchor seq).agents = h.agents ∧ (h.sendRsvRelease home g anchor seq).dev = h.dev ∧
    (h.sendRsvRelease home g anchor seq).slices = h.slices := by
  unfold Hub.sendRsvRelease; (try dsimp only); (repeat' split) <;> simp

@[simp] theorem Hub.release_keeps (h : Hub) (hs : Nat) (t : Txn) :
    Hub.sameConfig h (h.release hs t) ∧ (h.release hs t).start = h.start ∧ (h.release hs t).core = h.core ∧
    (h.release hs t).chans = h.chans ∧ (h.release hs t).mbx = h.mbx ∧ (h.release hs t).spanReps = h.spanReps ∧
    (h.release hs t).spanBacks = h.spanBacks ∧ (h.release hs t).waitSnoops = h.waitSnoops ∧ (h.release hs t).arbs = h.arbs ∧
    (h.release hs t).rsvNotes = h.rsvNotes ∧ (h.release hs t).pins = h.pins ∧ (h.release hs t).mirror = h.mirror := by
  unfold Hub.release; (try dsimp only); (repeat' split) <;> simp

@[simp] theorem Hub.serveHub_keeps (h : Hub) (hs : Nat) (tid : Byte) :
    Hub.sameConfig h (h.serveHub hs tid) ∧ Hub.sameFlow h (h.serveHub hs tid) ∧ (h.serveHub hs tid).pins = h.pins ∧
    (h.serveHub hs tid).mirror = h.mirror ∧ (h.serveHub hs tid).reads = h.reads ∧ (h.serveHub hs tid).spill = h.spill ∧
    (h.serveHub hs tid).rot = h.rot ∧ (h.serveHub hs tid).aon = h.aon ∧ (h.serveHub hs tid).events = h.events ∧
    (h.serveHub hs tid).power = h.power ∧ (h.serveHub hs tid).notices = h.notices ∧ (h.serveHub hs tid).aps = h.aps ∧
    (h.serveHub hs tid).agents = h.agents ∧ (h.serveHub hs tid).dev = h.dev := by
  unfold Hub.serveHub; (try dsimp only); (repeat' split) <;> simp

@[simp] theorem Hub.fixEntry_keeps (h : Hub) (hs : Nat) (t : Txn) :
    Hub.sameConfig h (h.fixEntry hs t) ∧ Hub.sameFlow h (h.fixEntry hs t) ∧ (h.fixEntry hs t).pins = h.pins ∧
    (h.fixEntry hs t).mirror = h.mirror ∧ (h.fixEntry hs t).records = h.records ∧ (h.fixEntry hs t).lapses = h.lapses ∧
    (h.fixEntry hs t).sps = h.sps ∧ (h.fixEntry hs t).epoch = h.epoch := by
  unfold Hub.fixEntry; (try dsimp only); (repeat' split) <;> simp

@[simp] theorem Hub.closeTxn_keeps (h : Hub) (hs : Nat) (t : Txn) (start : Option Nat) :
    Hub.sameConfig h (h.closeTxn hs t start) ∧ Hub.sameFlow h (h.closeTxn hs t start) ∧ (h.closeTxn hs t start).pins = h.pins ∧
    (h.closeTxn hs t start).mirror = h.mirror ∧ (h.closeTxn hs t start).records = h.records ∧
    (h.closeTxn hs t start).lapses = h.lapses := by
  unfold Hub.closeTxn; (try dsimp only); (repeat' split) <;> simp

@[simp] theorem Hub.tryClose_keeps (h : Hub) (hs : Nat) (tid : Byte) :
    Hub.sameConfig h (h.tryClose hs tid) ∧ Hub.sameFlow h (h.tryClose hs tid) ∧ (h.tryClose hs tid).pins = h.pins ∧
    (h.tryClose hs tid).mirror = h.mirror ∧ (h.tryClose hs tid).records = h.records ∧ (h.tryClose hs tid).lapses = h.lapses := by
  unfold Hub.tryClose; (try dsimp only); (repeat' split) <;> simp

@[simp] theorem Hub.fillPrep_keeps (h : Hub) (hs : Nat) (tid : Byte) :
    Hub.sameConfig h (h.fillPrep hs tid) ∧ Hub.sameFlow h (h.fillPrep hs tid) ∧ Hub.sameStore h (h.fillPrep hs tid) ∧
    Hub.sameEvent h (h.fillPrep hs tid) ∧ (h.fillPrep hs tid).out = h.out := by
  unfold Hub.fillPrep; (try dsimp only); (repeat' split) <;> simp

@[simp] theorem Hub.startHold_keeps (h : Hub) (hs : Nat) (tid : Byte) :
    Hub.sameConfig h (h.startHold hs tid) ∧ Hub.sameFlow h (h.startHold hs tid) ∧ (h.startHold hs tid).pins = h.pins ∧
    (h.startHold hs tid).mirror = h.mirror ∧ (h.startHold hs tid).records = h.records ∧ (h.startHold hs tid).lapses = h.lapses := by
  unfold Hub.startHold; (try dsimp only); (repeat' split) <;> simp

@[simp] theorem Hub.sendCmpWb_keeps (h : Hub) (from_ : Nat) (la : La) (l : Line) (t : Txid) :
    Hub.sameConfig h (h.sendCmpWb from_ la l t) ∧ Hub.sameFlow h (h.sendCmpWb from_ la l t) ∧
    Hub.sameStore h (h.sendCmpWb from_ la l t) ∧ (h.sendCmpWb from_ la l t).slices = h.slices := by
  unfold Hub.sendCmpWb; (try dsimp only); (repeat' split) <;> simp

@[simp] theorem Hub.releaseHeldWb_keeps (h : Hub) (la : La) (l : Line) :
    Hub.sameConfig h (h.releaseHeldWb la l) ∧ Hub.sameFlow h (h.releaseHeldWb la l) ∧ Hub.sameStore h (h.releaseHeldWb la l) ∧
    (h.releaseHeldWb la l).slices = h.slices := by
  unfold Hub.releaseHeldWb; (try dsimp only); (repeat' split) <;>
    simp [foldl_round, foldl_pins, foldl_start, foldl_mirror, foldl_par, foldl_master, foldl_prot, foldl_mbx, foldl_core,
      foldl_map, foldl_slices, foldl_spill, foldl_mps, foldl_chans, foldl_reads, foldl_sps, foldl_spanReps, foldl_spanBacks,
      foldl_waitSnoops, foldl_lostHubs, foldl_routeAcks, foldl_routeNew, foldl_routeOld, foldl_spanEpoch, foldl_records,
      foldl_lapses, foldl_rsvRecs, foldl_rsvNotes, foldl_chNotes, foldl_slots, foldl_pointer, foldl_epoch, foldl_arbs, foldl_rot,
      foldl_prefetchNotes]

@[simp] theorem Hub.trimQueues_keeps (h : Hub) (hs : Nat) :
    Hub.sameConfig h (h.trimQueues hs) ∧ Hub.sameFlow h (h.trimQueues hs) ∧ Hub.sameStore h (h.trimQueues hs) ∧
    Hub.sameEvent h (h.trimQueues hs) ∧ (h.trimQueues hs).out = h.out := by
  unfold Hub.trimQueues; (try dsimp only); (repeat' split) <;> simp

@[simp] theorem Hub.heldReply_keeps (h : Hub) (k : HeldSnoop) (kept : BitVec 2) :
    Hub.sameConfig h (h.heldReply k kept) ∧ Hub.sameFlow h (h.heldReply k kept) ∧ (h.heldReply k kept).pins = h.pins ∧
    (h.heldReply k kept).mirror = h.mirror ∧ (h.heldReply k kept).records = h.records ∧ (h.heldReply k kept).lapses = h.lapses ∧
    (h.heldReply k kept).reads = h.reads ∧ (h.heldReply k kept).spill = h.spill ∧ (h.heldReply k kept).rot = h.rot ∧
    (h.heldReply k kept).aon = h.aon ∧ (h.heldReply k kept).events = h.events ∧ (h.heldReply k kept).power = h.power ∧
    (h.heldReply k kept).notices = h.notices ∧ (h.heldReply k kept).aps = h.aps ∧ (h.heldReply k kept).agents = h.agents ∧
    (h.heldReply k kept).dev = h.dev ∧ (h.heldReply k kept).slices = h.slices := by
  unfold Hub.heldReply; (try dsimp only); (repeat' split) <;> simp

@[simp] theorem Hub.heldTake_keeps (h : Hub) (hs : Nat) (k : HeldSnoop) (d : Payload) :
    Hub.sameConfig h (h.heldTake hs k d) ∧ Hub.sameFlow h (h.heldTake hs k d) ∧ (h.heldTake hs k d).pins = h.pins ∧
    (h.heldTake hs k d).mirror = h.mirror ∧ (h.heldTake hs k d).records = h.records ∧ (h.heldTake hs k d).lapses = h.lapses ∧
    (h.heldTake hs k d).reads = h.reads ∧ (h.heldTake hs k d).spill = h.spill ∧ (h.heldTake hs k d).rot = h.rot ∧
    (h.heldTake hs k d).aon = h.aon ∧ (h.heldTake hs k d).events = h.events ∧ (h.heldTake hs k d).power = h.power ∧
    (h.heldTake hs k d).notices = h.notices ∧ (h.heldTake hs k d).aps = h.aps ∧ (h.heldTake hs k d).agents = h.agents ∧
    (h.heldTake hs k d).dev = h.dev := by
  unfold Hub.heldTake; (try dsimp only); (repeat' split) <;> simp

@[simp] theorem Hub.heldWrite_keeps (h : Hub) (hs : Nat) (k : HeldSnoop) :
    Hub.sameConfig h (h.heldWrite hs k) ∧ Hub.sameFlow h (h.heldWrite hs k) ∧ Hub.sameStore h (h.heldWrite hs k) := by
  unfold Hub.heldWrite; (try dsimp only); (repeat' split) <;> simp

@[simp] theorem Hub.endHeld_keeps (h : Hub) (hs : Nat) (k : HeldSnoop) :
    Hub.sameConfig h (h.endHeld hs k) ∧ Hub.sameFlow h (h.endHeld hs k) ∧ (h.endHeld hs k).pins = h.pins ∧
    (h.endHeld hs k).mirror = h.mirror ∧ (h.endHeld hs k).records = h.records ∧ (h.endHeld hs k).lapses = h.lapses ∧
    (h.endHeld hs k).reads = h.reads ∧ (h.endHeld hs k).rot = h.rot := by
  unfold Hub.endHeld; (try dsimp only); (repeat' split) <;> simp

@[simp] theorem Hub.tryHeld_keeps (h : Hub) (hs : Nat) (idx : BitVec 4) :
    Hub.sameConfig h (h.tryHeld hs idx) ∧ Hub.sameFlow h (h.tryHeld hs idx) ∧ (h.tryHeld hs idx).pins = h.pins ∧
    (h.tryHeld hs idx).mirror = h.mirror ∧ (h.tryHeld hs idx).records = h.records ∧ (h.tryHeld hs idx).lapses = h.lapses := by
  unfold Hub.tryHeld; (try dsimp only); (repeat' split) <;> simp

@[simp] theorem Hub.heldAnswer_keeps (h : Hub) (hs : Nat) (idx : BitVec 4) (a : Answer) (dataIn : Bool) (d : Option
    (LineBits × ByteMask)) :
    Hub.sameConfig h (h.heldAnswer hs idx a dataIn d) ∧ Hub.sameFlow h (h.heldAnswer hs idx a dataIn d) ∧
    (h.heldAnswer hs idx a dataIn d).pins = h.pins ∧ (h.heldAnswer hs idx a dataIn d).mirror = h.mirror ∧
    (h.heldAnswer hs idx a dataIn d).records = h.records ∧ (h.heldAnswer hs idx a dataIn d).lapses = h.lapses := by
  unfold Hub.heldAnswer; (try dsimp only); (repeat' split) <;> simp

@[simp] theorem Hub.heldData_keeps (h : Hub) (hs : Nat) (idx : BitVec 4) (la : La) (homeCopy : Bool) (d : Payload) :
    Hub.sameConfig h (h.heldData hs idx la homeCopy d) ∧ Hub.sameFlow h (h.heldData hs idx la homeCopy d) ∧
    (h.heldData hs idx la homeCopy d).pins = h.pins ∧ (h.heldData hs idx la homeCopy d).mirror = h.mirror ∧
    (h.heldData hs idx la homeCopy d).records = h.records ∧ (h.heldData hs idx la homeCopy d).lapses = h.lapses := by
  unfold Hub.heldData; (try dsimp only); (repeat' split) <;> simp

@[simp] theorem Hub.malformedAt_keeps (h : Hub) (p : BitVec 4) (f : Flit) :
    Hub.sameConfig h (h.malformedAt p f) ∧ Hub.sameFlow h (h.malformedAt p f) ∧ Hub.sameStore h (h.malformedAt p f) ∧
    (h.malformedAt p f).slices = h.slices := by
  unfold Hub.malformedAt; (try dsimp only); (repeat' split) <;> simp

@[simp] theorem Hub.keepSpan_keeps (h : Hub) (r : Req) (n t : Nat) (opc : BitVec 6) :
    Hub.sameConfig h (h.keepSpan r n t opc) ∧ (h.keepSpan r n t opc).start = h.start ∧ (h.keepSpan r n t opc).core = h.core ∧
    (h.keepSpan r n t opc).chans = h.chans ∧ (h.keepSpan r n t opc).mbx = h.mbx ∧
    (h.keepSpan r n t opc).spanBacks = h.spanBacks ∧ (h.keepSpan r n t opc).waitSnoops = h.waitSnoops ∧
    (h.keepSpan r n t opc).arbs = h.arbs ∧ (h.keepSpan r n t opc).rsvRecs = h.rsvRecs ∧
    (h.keepSpan r n t opc).rsvNotes = h.rsvNotes ∧ (h.keepSpan r n t opc).pins = h.pins ∧
    (h.keepSpan r n t opc).mirror = h.mirror ∧ (h.keepSpan r n t opc).lapses = h.lapses ∧
    (h.keepSpan r n t opc).reads = h.reads ∧ (h.keepSpan r n t opc).spill = h.spill ∧ (h.keepSpan r n t opc).rot = h.rot ∧
    (h.keepSpan r n t opc).aon = h.aon ∧ (h.keepSpan r n t opc).events = h.events ∧ (h.keepSpan r n t opc).power = h.power ∧
    (h.keepSpan r n t opc).notices = h.notices ∧ (h.keepSpan r n t opc).aps = h.aps ∧ (h.keepSpan r n t opc).agents = h.agents ∧
    (h.keepSpan r n t opc).dev = h.dev ∧ (h.keepSpan r n t opc).slices = h.slices := by
  unfold Hub.keepSpan; (try dsimp only); (repeat' split) <;> simp

@[simp] theorem Hub.refuseLocal_keeps (h : Hub) (hs : Nat) (r : Req) (opc : BitVec 6) (t : Nat) (isDefer : Bool) :
    Hub.sameConfig h (h.refuseLocal hs r opc t isDefer) ∧ Hub.sameFlow h (h.refuseLocal hs r opc t isDefer) ∧
    (h.refuseLocal hs r opc t isDefer).pins = h.pins ∧ (h.refuseLocal hs r opc t isDefer).mirror = h.mirror ∧
    (h.refuseLocal hs r opc t isDefer).lapses = h.lapses ∧ (h.refuseLocal hs r opc t isDefer).reads = h.reads ∧
    (h.refuseLocal hs r opc t isDefer).spill = h.spill ∧ (h.refuseLocal hs r opc t isDefer).sps = h.sps ∧
    (h.refuseLocal hs r opc t isDefer).epoch = h.epoch ∧ (h.refuseLocal hs r opc t isDefer).rot = h.rot ∧
    (h.refuseLocal hs r opc t isDefer).slices = h.slices := by
  unfold Hub.refuseLocal; (try dsimp only); (repeat' split) <;> simp

@[simp] theorem Hub.deferReq_keeps (h : Hub) (hs : Nat) (r : Req) (n : Nat) (place : Option (Option Line)) :
    Hub.sameConfig h (h.deferReq hs r n place) ∧ (h.deferReq hs r n place).start = h.start ∧
    (h.deferReq hs r n place).core = h.core ∧ (h.deferReq hs r n place).chans = h.chans ∧
    (h.deferReq hs r n place).mbx = h.mbx ∧ (h.deferReq hs r n place).spanBacks = h.spanBacks ∧
    (h.deferReq hs r n place).waitSnoops = h.waitSnoops ∧ (h.deferReq hs r n place).arbs = h.arbs ∧
    (h.deferReq hs r n place).rsvRecs = h.rsvRecs ∧ (h.deferReq hs r n place).rsvNotes = h.rsvNotes ∧
    (h.deferReq hs r n place).pins = h.pins ∧ (h.deferReq hs r n place).mirror = h.mirror ∧
    (h.deferReq hs r n place).lapses = h.lapses ∧ (h.deferReq hs r n place).reads = h.reads ∧
    (h.deferReq hs r n place).spill = h.spill ∧ (h.deferReq hs r n place).rot = h.rot := by
  unfold Hub.deferReq; (try dsimp only); (repeat' split) <;> simp

@[simp] theorem Hub.lapse_keeps (h : Hub) (hs : Nat) (p : Ticket → Bool) :
    Hub.sameConfig h (h.lapse hs p) ∧ Hub.sameFlow h (h.lapse hs p) ∧ (h.lapse hs p).pins = h.pins ∧
    (h.lapse hs p).mirror = h.mirror ∧ (h.lapse hs p).records = h.records ∧ (h.lapse hs p).lapses = h.lapses ∧
    (h.lapse hs p).reads = h.reads ∧ (h.lapse hs p).spill = h.spill ∧ (h.lapse hs p).sps = h.sps ∧
    (h.lapse hs p).epoch = h.epoch := by
  unfold Hub.lapse; (try dsimp only); (repeat' split) <;>
    simp [foldl_round, foldl_pins, foldl_start, foldl_mirror, foldl_par, foldl_master, foldl_prot, foldl_mbx, foldl_core,
      foldl_map, foldl_spill, foldl_mps, foldl_chans, foldl_reads, foldl_sps, foldl_spanReps, foldl_spanBacks, foldl_waitSnoops,
      foldl_lostHubs, foldl_routeAcks, foldl_routeNew, foldl_routeOld, foldl_spanEpoch, foldl_records, foldl_lapses,
      foldl_rsvRecs, foldl_rsvNotes, foldl_chNotes, foldl_slots, foldl_pointer, foldl_epoch, foldl_arbs, foldl_prefetchNotes]

@[simp] theorem Hub.endReq_keeps (h : Hub) (hs : Nat) (r : Req) (outcome : BitVec 2) :
    Hub.sameConfig h (h.endReq hs r outcome) ∧ (h.endReq hs r outcome).start = h.start ∧ (h.endReq hs r outcome).core = h.core ∧
    (h.endReq hs r outcome).chans = h.chans ∧ (h.endReq hs r outcome).mbx = h.mbx ∧
    (h.endReq hs r outcome).spanBacks = h.spanBacks ∧ (h.endReq hs r outcome).waitSnoops = h.waitSnoops ∧
    (h.endReq hs r outcome).arbs = h.arbs ∧ (h.endReq hs r outcome).rsvRecs = h.rsvRecs ∧
    (h.endReq hs r outcome).rsvNotes = h.rsvNotes ∧ (h.endReq hs r outcome).pins = h.pins ∧
    (h.endReq hs r outcome).mirror = h.mirror ∧ (h.endReq hs r outcome).reads = h.reads ∧
    (h.endReq hs r outcome).spill = h.spill ∧ (h.endReq hs r outcome).rot = h.rot ∧ (h.endReq hs r outcome).slices = h.slices := by
  unfold Hub.endReq; (try dsimp only); (repeat' split) <;> simp

@[simp] theorem Hub.malformedCmp_keeps (h : Hub) (p : BitVec 4) (f : Flit) :
    Hub.sameConfig h (h.malformedCmp p f) ∧ Hub.sameFlow h (h.malformedCmp p f) ∧ Hub.sameStore h (h.malformedCmp p f) ∧
    (h.malformedCmp p f).slices = h.slices := by
  unfold Hub.malformedCmp; (try dsimp only); (repeat' split) <;> simp

@[simp] theorem Hub.edgeEnd_keeps (h : Hub) (p : BitVec 4) (f : Flit) (outcome : BitVec 2) :
    Hub.sameConfig h (h.edgeEnd p f outcome) ∧ Hub.sameFlow h (h.edgeEnd p f outcome) ∧ (h.edgeEnd p f outcome).pins = h.pins ∧
    (h.edgeEnd p f outcome).mirror = h.mirror ∧ (h.edgeEnd p f outcome).reads = h.reads ∧
    (h.edgeEnd p f outcome).spill = h.spill ∧ (h.edgeEnd p f outcome).sps = h.sps ∧ (h.edgeEnd p f outcome).epoch = h.epoch ∧
    (h.edgeEnd p f outcome).rot = h.rot ∧ (h.edgeEnd p f outcome).slices = h.slices := by
  unfold Hub.edgeEnd; (try dsimp only); (repeat' split) <;> simp

@[simp] theorem Hub.releaseRsv_keeps (h : Hub) (la : La) :
    Hub.sameConfig h (h.releaseRsv la) ∧ (h.releaseRsv la).start = h.start ∧ (h.releaseRsv la).core = h.core ∧
    (h.releaseRsv la).chans = h.chans ∧ (h.releaseRsv la).mbx = h.mbx ∧ (h.releaseRsv la).spanReps = h.spanReps ∧
    (h.releaseRsv la).spanBacks = h.spanBacks ∧ (h.releaseRsv la).waitSnoops = h.waitSnoops ∧ (h.releaseRsv la).arbs = h.arbs ∧
    (h.releaseRsv la).rsvRecs = h.rsvRecs ∧ (h.releaseRsv la).pins = h.pins ∧ (h.releaseRsv la).mirror = h.mirror ∧
    (h.releaseRsv la).records = h.records ∧ (h.releaseRsv la).lapses = h.lapses ∧ (h.releaseRsv la).reads = h.reads ∧
    (h.releaseRsv la).spill = h.spill ∧ (h.releaseRsv la).rot = h.rot ∧ (h.releaseRsv la).aon = h.aon ∧
    (h.releaseRsv la).events = h.events ∧ (h.releaseRsv la).power = h.power ∧ (h.releaseRsv la).notices = h.notices ∧
    (h.releaseRsv la).aps = h.aps ∧ (h.releaseRsv la).agents = h.agents ∧ (h.releaseRsv la).dev = h.dev ∧
    (h.releaseRsv la).slices = h.slices := by
  unfold Hub.releaseRsv; (try dsimp only); (repeat' split) <;> simp

@[simp] theorem Hub.stepRsv_keeps (h : Hub) (la : La) :
    Hub.sameConfig h (h.stepRsv la) ∧ (h.stepRsv la).start = h.start ∧ (h.stepRsv la).core = h.core ∧
    (h.stepRsv la).chans = h.chans ∧ (h.stepRsv la).mbx = h.mbx ∧ (h.stepRsv la).spanReps = h.spanReps ∧
    (h.stepRsv la).spanBacks = h.spanBacks ∧ (h.stepRsv la).waitSnoops = h.waitSnoops ∧ (h.stepRsv la).arbs = h.arbs ∧
    (h.stepRsv la).rsvNotes = h.rsvNotes ∧ Hub.sameStore h (h.stepRsv la) ∧ Hub.sameEvent h (h.stepRsv la) ∧
    (h.stepRsv la).slices = h.slices ∧ (h.stepRsv la).out = h.out := by
  unfold Hub.stepRsv; (try dsimp only); (repeat' split) <;> simp

@[simp] theorem Hub.releaseOther_keeps (h : Hub) (r : Req) :
    Hub.sameConfig h (h.releaseOther r) ∧ (h.releaseOther r).start = h.start ∧ (h.releaseOther r).core = h.core ∧
    (h.releaseOther r).chans = h.chans ∧ (h.releaseOther r).mbx = h.mbx ∧ (h.releaseOther r).spanReps = h.spanReps ∧
    (h.releaseOther r).spanBacks = h.spanBacks ∧ (h.releaseOther r).waitSnoops = h.waitSnoops ∧
    (h.releaseOther r).arbs = h.arbs ∧ (h.releaseOther r).rsvRecs = h.rsvRecs ∧ (h.releaseOther r).pins = h.pins ∧
    (h.releaseOther r).mirror = h.mirror ∧ (h.releaseOther r).records = h.records ∧ (h.releaseOther r).lapses = h.lapses ∧
    (h.releaseOther r).reads = h.reads ∧ (h.releaseOther r).spill = h.spill ∧ (h.releaseOther r).rot = h.rot ∧
    (h.releaseOther r).aon = h.aon ∧ (h.releaseOther r).events = h.events ∧ (h.releaseOther r).power = h.power ∧
    (h.releaseOther r).notices = h.notices ∧ (h.releaseOther r).aps = h.aps ∧ (h.releaseOther r).agents = h.agents ∧
    (h.releaseOther r).dev = h.dev ∧ (h.releaseOther r).slices = h.slices := by
  unfold Hub.releaseOther; (try dsimp only); (repeat' split) <;> simp

@[simp] theorem Hub.present_keeps (h : Hub) (r : Req) (tkt : Option Nat) :
    Hub.sameConfig h (h.present r tkt) ∧ Hub.sameFlow h (h.present r tkt) ∧ (h.present r tkt).pins = h.pins ∧
    (h.present r tkt).mirror = h.mirror ∧ (h.present r tkt).records = h.records ∧ (h.present r tkt).reads = h.reads ∧
    (h.present r tkt).spill = h.spill ∧ (h.present r tkt).sps = h.sps ∧ (h.present r tkt).epoch = h.epoch ∧
    (h.present r tkt).rot = h.rot ∧ (h.present r tkt).aon = h.aon ∧ (h.present r tkt).events = h.events ∧
    (h.present r tkt).power = h.power ∧ (h.present r tkt).notices = h.notices ∧ (h.present r tkt).aps = h.aps ∧
    (h.present r tkt).agents = h.agents ∧ (h.present r tkt).dev = h.dev ∧ (h.present r tkt).out = h.out := by
  unfold Hub.present; (try dsimp only); (repeat' split) <;> simp

@[simp] theorem Hub.inject_keeps (h : Hub) (r : Req) (tkt : Option Nat) :
    Hub.sameConfig h (h.inject r tkt) ∧ (h.inject r tkt).start = h.start ∧ (h.inject r tkt).core = h.core ∧
    (h.inject r tkt).chans = h.chans ∧ (h.inject r tkt).mbx = h.mbx ∧ (h.inject r tkt).spanReps = h.spanReps ∧
    (h.inject r tkt).spanBacks = h.spanBacks ∧ (h.inject r tkt).waitSnoops = h.waitSnoops ∧ (h.inject r tkt).arbs = h.arbs ∧
    (h.inject r tkt).rsvRecs = h.rsvRecs ∧ (h.inject r tkt).pins = h.pins ∧ (h.inject r tkt).mirror = h.mirror ∧
    (h.inject r tkt).records = h.records ∧ (h.inject r tkt).reads = h.reads ∧ (h.inject r tkt).spill = h.spill ∧
    (h.inject r tkt).rot = h.rot ∧ (h.inject r tkt).aon = h.aon ∧ (h.inject r tkt).events = h.events ∧
    (h.inject r tkt).power = h.power ∧ (h.inject r tkt).notices = h.notices ∧ (h.inject r tkt).aps = h.aps ∧
    (h.inject r tkt).agents = h.agents ∧ (h.inject r tkt).dev = h.dev := by
  unfold Hub.inject; (try dsimp only); (repeat' split) <;> simp

@[simp] theorem Hub.sameAnswer_keeps (h : Hub) (p : BitVec 4) (f : Flit) (isDefer : Bool) (t : Nat) :
    Hub.sameConfig h (h.sameAnswer p f isDefer t) ∧ Hub.sameFlow h (h.sameAnswer p f isDefer t) ∧
    Hub.sameStore h (h.sameAnswer p f isDefer t) ∧ (h.sameAnswer p f isDefer t).slices = h.slices := by
  unfold Hub.sameAnswer; (try dsimp only); (repeat' split) <;> simp

@[simp] theorem Hub.letIn_keeps (h : Hub) (p : BitVec 4) (f : Flit) (op : ReqOp) (d : Option WrData) (operand : BitVec 256) :
    Hub.sameConfig h (h.letIn p f op d operand) ∧ (h.letIn p f op d operand).start = h.start ∧
    (h.letIn p f op d operand).core = h.core ∧ (h.letIn p f op d operand).chans = h.chans ∧
    (h.letIn p f op d operand).mbx = h.mbx ∧ (h.letIn p f op d operand).spanReps = h.spanReps ∧
    (h.letIn p f op d operand).spanBacks = h.spanBacks ∧ (h.letIn p f op d operand).waitSnoops = h.waitSnoops ∧
    (h.letIn p f op d operand).arbs = h.arbs ∧ (h.letIn p f op d operand).pins = h.pins ∧
    (h.letIn p f op d operand).mirror = h.mirror ∧ (h.letIn p f op d operand).records = h.records ∧
    (h.letIn p f op d operand).reads = h.reads ∧ (h.letIn p f op d operand).spill = h.spill ∧
    (h.letIn p f op d operand).rot = h.rot := by
  unfold Hub.letIn; (try dsimp only); (repeat' split) <;> simp

@[simp] theorem Hub.ownDeg_keeps (h : Hub) (hs : Nat) (l : Line) (w : Nat) :
    Hub.sameConfig h (h.ownDeg hs l w) ∧ Hub.sameFlow h (h.ownDeg hs l w) ∧ Hub.sameStore h (h.ownDeg hs l w) := by
  unfold Hub.ownDeg; (try dsimp only); (repeat' split) <;> simp

@[simp] theorem Hub.readSdSet_keeps (h : Hub) (hs : Nat) (set : BitVec 12) (e : LookupErr) :
    Hub.sameConfig h (h.readSdSet hs set e) ∧ Hub.sameFlow h (h.readSdSet hs set e) ∧ (h.readSdSet hs set e).pins = h.pins ∧
    (h.readSdSet hs set e).mirror = h.mirror ∧ (h.readSdSet hs set e).records = h.records ∧
    (h.readSdSet hs set e).lapses = h.lapses ∧ (h.readSdSet hs set e).reads = h.reads ∧ (h.readSdSet hs set e).spill = h.spill ∧
    (h.readSdSet hs set e).sps = h.sps ∧ (h.readSdSet hs set e).epoch = h.epoch := by
  unfold Hub.readSdSet; (try dsimp only); (repeat' split) <;>
    simp [foldl_round, foldl_pins, foldl_start, foldl_mirror, foldl_par, foldl_master, foldl_prot, foldl_mbx, foldl_core,
      foldl_map, foldl_spill, foldl_mps, foldl_chans, foldl_reads, foldl_sps, foldl_spanReps, foldl_spanBacks, foldl_waitSnoops,
      foldl_lostHubs, foldl_routeAcks, foldl_routeNew, foldl_routeOld, foldl_spanEpoch, foldl_records, foldl_lapses,
      foldl_rsvRecs, foldl_rsvNotes, foldl_chNotes, foldl_slots, foldl_pointer, foldl_epoch, foldl_arbs, foldl_prefetchNotes]

@[simp] theorem Hub.readSd_keeps (h : Hub) (hs : Nat) (l : Line) (e : LookupErr) :
    Hub.sameConfig h (h.readSd hs l e) ∧ Hub.sameFlow h (h.readSd hs l e) ∧ (h.readSd hs l e).pins = h.pins ∧
    (h.readSd hs l e).mirror = h.mirror ∧ (h.readSd hs l e).records = h.records ∧ (h.readSd hs l e).lapses = h.lapses ∧
    (h.readSd hs l e).reads = h.reads ∧ (h.readSd hs l e).spill = h.spill ∧ (h.readSd hs l e).sps = h.sps ∧
    (h.readSd hs l e).epoch = h.epoch := by
  unfold Hub.readSd; (try dsimp only); (repeat' split) <;> simp

@[simp] theorem Hub.removeWriter_keeps (h : Hub) (hs : Nat) (l : Line) (w : La) :
    Hub.sameConfig h (h.removeWriter hs l w) ∧ Hub.sameFlow h (h.removeWriter hs l w) ∧ Hub.sameStore h (h.removeWriter hs l w) := by
  unfold Hub.removeWriter; (try dsimp only); (repeat' split) <;> simp

@[simp] theorem Hub.ackWb_keeps (h : Hub) (p : BitVec 4) (hs : Nat) (la : La) (l : Line) (t : Txid) :
    Hub.sameConfig h (h.ackWb p hs la l t) ∧ Hub.sameFlow h (h.ackWb p hs la l t) ∧ Hub.sameStore h (h.ackWb p hs la l t) ∧
    (h.ackWb p hs la l t).slices = h.slices := by
  unfold Hub.ackWb; (try dsimp only); (repeat' split) <;> simp

@[simp] theorem Hub.unstage_keeps (h : Hub) (r : Req) :
    Hub.sameConfig h (h.unstage r) ∧ (h.unstage r).start = h.start ∧ (h.unstage r).core = h.core ∧
    (h.unstage r).chans = h.chans ∧ (h.unstage r).mbx = h.mbx ∧ (h.unstage r).spanBacks = h.spanBacks ∧
    (h.unstage r).waitSnoops = h.waitSnoops ∧ (h.unstage r).arbs = h.arbs ∧ (h.unstage r).rsvRecs = h.rsvRecs ∧
    (h.unstage r).rsvNotes = h.rsvNotes ∧ Hub.sameStore h (h.unstage r) ∧ (h.unstage r).aon = h.aon ∧
    (h.unstage r).events = h.events ∧ (h.unstage r).power = h.power ∧ (h.unstage r).notices = h.notices ∧
    (h.unstage r).agents = h.agents ∧ (h.unstage r).dev = h.dev ∧ (h.unstage r).pmc = h.pmc ∧
    (h.unstage r).freeCtr = h.freeCtr ∧ (h.unstage r).slices = h.slices ∧ (h.unstage r).out = h.out := by
  unfold Hub.unstage; (try dsimp only); (repeat' split) <;> simp

@[simp] theorem Hub.sendSpanWr_keeps (h : Hub) (r : Req) (e : HubNo) (bytes : LineBits) (pois be : ByteMask) :
    Hub.sameConfig h (h.sendSpanWr r e bytes pois be) ∧ Hub.sameFlow h (h.sendSpanWr r e bytes pois be) ∧
    (h.sendSpanWr r e bytes pois be).pins = h.pins ∧ (h.sendSpanWr r e bytes pois be).mirror = h.mirror ∧
    (h.sendSpanWr r e bytes pois be).records = h.records ∧ (h.sendSpanWr r e bytes pois be).lapses = h.lapses ∧
    (h.sendSpanWr r e bytes pois be).reads = h.reads ∧ (h.sendSpanWr r e bytes pois be).spill = h.spill ∧
    (h.sendSpanWr r e bytes pois be).rot = h.rot ∧ (h.sendSpanWr r e bytes pois be).aon = h.aon ∧
    (h.sendSpanWr r e bytes pois be).events = h.events ∧ (h.sendSpanWr r e bytes pois be).power = h.power ∧
    (h.sendSpanWr r e bytes pois be).notices = h.notices ∧ (h.sendSpanWr r e bytes pois be).aps = h.aps ∧
    (h.sendSpanWr r e bytes pois be).agents = h.agents ∧ (h.sendSpanWr r e bytes pois be).dev = h.dev ∧
    (h.sendSpanWr r e bytes pois be).slices = h.slices := by
  unfold Hub.sendSpanWr; (try dsimp only); (repeat' split) <;> simp

@[simp] theorem Hub.toMem_keeps (h : Hub) (c : Nat) (opc : BitVec 6) (t : Txid) (l : Line) (crit : Bool) (data : Option
    (LineBits × Bool)) :
    (h.toMem c opc t l crit data).round = h.round ∧ (h.toMem c opc t l crit data).par = h.par ∧
    (h.toMem c opc t l crit data).master = h.master ∧ (h.toMem c opc t l crit data).prot = h.prot ∧
    (h.toMem c opc t l crit data).map = h.map ∧ (h.toMem c opc t l crit data).chNotes = h.chNotes ∧
    (h.toMem c opc t l crit data).prefetchNotes = h.prefetchNotes ∧ (h.toMem c opc t l crit data).pointer = h.pointer ∧
    (h.toMem c opc t l crit data).routeAcks = h.routeAcks ∧ (h.toMem c opc t l crit data).routeNew = h.routeNew ∧
    (h.toMem c opc t l crit data).routeOld = h.routeOld ∧ (h.toMem c opc t l crit data).lostHubs = h.lostHubs ∧
    (h.toMem c opc t l crit data).slots = h.slots ∧ (h.toMem c opc t l crit data).spanEpoch = h.spanEpoch ∧
    Hub.sameFlow h (h.toMem c opc t l crit data) ∧ Hub.sameStore h (h.toMem c opc t l crit data) ∧
    Hub.sameEvent h (h.toMem c opc t l crit data) ∧ (h.toMem c opc t l crit data).slices = h.slices := by
  unfold Hub.toMem; (try dsimp only); (repeat' split) <;> simp

@[simp] theorem Hub.sendWrite_keeps (h : Hub) (c : Nat) (opc : BitVec 6) (t : Txid) (l : Line) (bytes : LineBits) (poison : Bool) :
    (h.sendWrite c opc t l bytes poison).round = h.round ∧ (h.sendWrite c opc t l bytes poison).par = h.par ∧
    (h.sendWrite c opc t l bytes poison).master = h.master ∧ (h.sendWrite c opc t l bytes poison).prot = h.prot ∧
    (h.sendWrite c opc t l bytes poison).map = h.map ∧ (h.sendWrite c opc t l bytes poison).chNotes = h.chNotes ∧
    (h.sendWrite c opc t l bytes poison).prefetchNotes = h.prefetchNotes ∧
    (h.sendWrite c opc t l bytes poison).pointer = h.pointer ∧ (h.sendWrite c opc t l bytes poison).routeAcks = h.routeAcks ∧
    (h.sendWrite c opc t l bytes poison).routeNew = h.routeNew ∧ (h.sendWrite c opc t l bytes poison).routeOld = h.routeOld ∧
    (h.sendWrite c opc t l bytes poison).lostHubs = h.lostHubs ∧ (h.sendWrite c opc t l bytes poison).slots = h.slots ∧
    (h.sendWrite c opc t l bytes poison).spanEpoch = h.spanEpoch ∧ (h.sendWrite c opc t l bytes poison).start = h.start ∧
    (h.sendWrite c opc t l bytes poison).core = h.core ∧ (h.sendWrite c opc t l bytes poison).mbx = h.mbx ∧
    (h.sendWrite c opc t l bytes poison).spanReps = h.spanReps ∧ (h.sendWrite c opc t l bytes poison).spanBacks = h.spanBacks ∧
    (h.sendWrite c opc t l bytes poison).waitSnoops = h.waitSnoops ∧ (h.sendWrite c opc t l bytes poison).arbs = h.arbs ∧
    (h.sendWrite c opc t l bytes poison).rsvRecs = h.rsvRecs ∧ (h.sendWrite c opc t l bytes poison).rsvNotes = h.rsvNotes ∧
    Hub.sameStore h (h.sendWrite c opc t l bytes poison) ∧ (h.sendWrite c opc t l bytes poison).aon = h.aon ∧
    (h.sendWrite c opc t l bytes poison).events = h.events ∧ (h.sendWrite c opc t l bytes poison).power = h.power ∧
    (h.sendWrite c opc t l bytes poison).notices = h.notices ∧ (h.sendWrite c opc t l bytes poison).aps = h.aps ∧
    (h.sendWrite c opc t l bytes poison).agents = h.agents ∧ (h.sendWrite c opc t l bytes poison).dev = h.dev ∧
    (h.sendWrite c opc t l bytes poison).freeCtr = h.freeCtr ∧ (h.sendWrite c opc t l bytes poison).slices = h.slices := by
  unfold Hub.sendWrite; (try dsimp only); (repeat' split) <;> simp

@[simp] theorem Hub.useGrant_keeps (h : Hub) (key i : Nat) :
    Hub.sameConfig h (h.useGrant key i) ∧ (h.useGrant key i).start = h.start ∧ (h.useGrant key i).core = h.core ∧
    (h.useGrant key i).chans = h.chans ∧ (h.useGrant key i).mbx = h.mbx ∧ (h.useGrant key i).spanReps = h.spanReps ∧
    (h.useGrant key i).spanBacks = h.spanBacks ∧ (h.useGrant key i).waitSnoops = h.waitSnoops ∧
    (h.useGrant key i).rsvRecs = h.rsvRecs ∧ (h.useGrant key i).rsvNotes = h.rsvNotes ∧ Hub.sameStore h (h.useGrant key i) ∧
    Hub.sameEvent h (h.useGrant key i) ∧ (h.useGrant key i).slices = h.slices ∧ (h.useGrant key i).out = h.out := by
  unfold Hub.useGrant; (try dsimp only); (repeat' split) <;> simp

@[simp] theorem Hub.useGrants_keeps (h : Hub) (l : List (Nat × Nat)) :
    Hub.sameConfig h (h.useGrants l) ∧ (h.useGrants l).start = h.start ∧ (h.useGrants l).core = h.core ∧
    (h.useGrants l).chans = h.chans ∧ (h.useGrants l).mbx = h.mbx ∧ (h.useGrants l).spanReps = h.spanReps ∧
    (h.useGrants l).spanBacks = h.spanBacks ∧ (h.useGrants l).waitSnoops = h.waitSnoops ∧ (h.useGrants l).rsvRecs = h.rsvRecs ∧
    (h.useGrants l).rsvNotes = h.rsvNotes ∧ Hub.sameStore h (h.useGrants l) ∧ Hub.sameEvent h (h.useGrants l) ∧
    (h.useGrants l).slices = h.slices ∧ (h.useGrants l).out = h.out := by
  unfold Hub.useGrants; (try dsimp only); (repeat' split) <;>
    simp [foldl_round, foldl_pins, foldl_start, foldl_mirror, foldl_aon, foldl_par, foldl_master, foldl_prot, foldl_mbx,
      foldl_core, foldl_map, foldl_slices, foldl_spill, foldl_agents, foldl_aps, foldl_mps, foldl_chans, foldl_reads, foldl_sps,
      foldl_spanReps, foldl_spanBacks, foldl_waitSnoops, foldl_lostHubs, foldl_routeAcks, foldl_routeNew, foldl_routeOld,
      foldl_spanEpoch, foldl_records, foldl_lapses, foldl_rsvRecs, foldl_rsvNotes, foldl_notices, foldl_chNotes, foldl_slots,
      foldl_pointer, foldl_dev, foldl_epoch, foldl_power, foldl_rot, foldl_events, foldl_pmc, foldl_prefetchNotes, foldl_freeCtr,
      foldl_out]

@[simp] theorem Hub.sendRead_keeps (h : Hub) (c : Nat) (r : MemRead) :
    (h.sendRead c r).round = h.round ∧ (h.sendRead c r).par = h.par ∧ (h.sendRead c r).master = h.master ∧
    (h.sendRead c r).prot = h.prot ∧ (h.sendRead c r).map = h.map ∧ (h.sendRead c r).chNotes = h.chNotes ∧
    (h.sendRead c r).prefetchNotes = h.prefetchNotes ∧ (h.sendRead c r).pointer = h.pointer ∧
    (h.sendRead c r).routeAcks = h.routeAcks ∧ (h.sendRead c r).routeNew = h.routeNew ∧ (h.sendRead c r).routeOld = h.routeOld ∧
    (h.sendRead c r).lostHubs = h.lostHubs ∧ (h.sendRead c r).slots = h.slots ∧ (h.sendRead c r).spanEpoch = h.spanEpoch ∧
    (h.sendRead c r).start = h.start ∧ (h.sendRead c r).core = h.core ∧ (h.sendRead c r).mbx = h.mbx ∧
    (h.sendRead c r).spanReps = h.spanReps ∧ (h.sendRead c r).spanBacks = h.spanBacks ∧
    (h.sendRead c r).waitSnoops = h.waitSnoops ∧ (h.sendRead c r).rsvRecs = h.rsvRecs ∧ (h.sendRead c r).rsvNotes = h.rsvNotes ∧
    (h.sendRead c r).pins = h.pins ∧ (h.sendRead c r).mirror = h.mirror ∧ (h.sendRead c r).records = h.records ∧
    (h.sendRead c r).lapses = h.lapses ∧ (h.sendRead c r).spill = h.spill ∧ (h.sendRead c r).sps = h.sps ∧
    (h.sendRead c r).epoch = h.epoch ∧ (h.sendRead c r).rot = h.rot ∧ (h.sendRead c r).aon = h.aon ∧
    (h.sendRead c r).events = h.events ∧ (h.sendRead c r).dev = h.dev ∧ (h.sendRead c r).freeCtr = h.freeCtr ∧
    (h.sendRead c r).slices = h.slices := by
  unfold Hub.sendRead; (try dsimp only); (repeat' split) <;> simp

@[simp] theorem Hub.sendEarly_keeps (h : Hub) (l : Line) (tid : Byte) :
    (h.sendEarly l tid).round = h.round ∧ (h.sendEarly l tid).par = h.par ∧ (h.sendEarly l tid).master = h.master ∧
    (h.sendEarly l tid).prot = h.prot ∧ (h.sendEarly l tid).map = h.map ∧ (h.sendEarly l tid).chNotes = h.chNotes ∧
    (h.sendEarly l tid).prefetchNotes = h.prefetchNotes ∧ (h.sendEarly l tid).pointer = h.pointer ∧
    (h.sendEarly l tid).routeAcks = h.routeAcks ∧ (h.sendEarly l tid).routeNew = h.routeNew ∧
    (h.sendEarly l tid).routeOld = h.routeOld ∧ (h.sendEarly l tid).lostHubs = h.lostHubs ∧
    (h.sendEarly l tid).slots = h.slots ∧ (h.sendEarly l tid).spanEpoch = h.spanEpoch ∧ (h.sendEarly l tid).start = h.start ∧
    (h.sendEarly l tid).core = h.core ∧ (h.sendEarly l tid).mbx = h.mbx ∧ (h.sendEarly l tid).spanReps = h.spanReps ∧
    (h.sendEarly l tid).spanBacks = h.spanBacks ∧ (h.sendEarly l tid).waitSnoops = h.waitSnoops ∧
    (h.sendEarly l tid).rsvRecs = h.rsvRecs ∧ (h.sendEarly l tid).rsvNotes = h.rsvNotes ∧ (h.sendEarly l tid).pins = h.pins ∧
    (h.sendEarly l tid).mirror = h.mirror ∧ (h.sendEarly l tid).records = h.records ∧ (h.sendEarly l tid).lapses = h.lapses ∧
    (h.sendEarly l tid).spill = h.spill ∧ (h.sendEarly l tid).sps = h.sps ∧ (h.sendEarly l tid).epoch = h.epoch ∧
    (h.sendEarly l tid).rot = h.rot ∧ (h.sendEarly l tid).aon = h.aon ∧ (h.sendEarly l tid).events = h.events ∧
    (h.sendEarly l tid).dev = h.dev ∧ (h.sendEarly l tid).freeCtr = h.freeCtr ∧ (h.sendEarly l tid).slices = h.slices := by
  unfold Hub.sendEarly; (try dsimp only); (repeat' split) <;> simp

@[simp] theorem Hub.lockedResult_keeps (h : Hub) (hs : Nat) (r : MemRead) (t : Txid) (bytes : LineBits) (poison : Bool) :
    Hub.sameConfig h (h.lockedResult hs r t bytes poison) ∧ Hub.sameFlow h (h.lockedResult hs r t bytes poison) ∧
    (h.lockedResult hs r t bytes poison).pins = h.pins ∧ (h.lockedResult hs r t bytes poison).mirror = h.mirror ∧
    (h.lockedResult hs r t bytes poison).records = h.records ∧ (h.lockedResult hs r t bytes poison).lapses = h.lapses ∧
    (h.lockedResult hs r t bytes poison).sps = h.sps ∧ (h.lockedResult hs r t bytes poison).epoch = h.epoch := by
  unfold Hub.lockedResult; (try dsimp only); (repeat' split) <;> simp

@[simp] theorem Hub.mirrorCopy_keeps (h : Hub) (r : MemRead) (d : Payload) :
    (h.mirrorCopy r d).round = h.round ∧ (h.mirrorCopy r d).par = h.par ∧ (h.mirrorCopy r d).master = h.master ∧
    (h.mirrorCopy r d).prot = h.prot ∧ (h.mirrorCopy r d).map = h.map ∧ (h.mirrorCopy r d).chNotes = h.chNotes ∧
    (h.mirrorCopy r d).prefetchNotes = h.prefetchNotes ∧ (h.mirrorCopy r d).pointer = h.pointer ∧
    (h.mirrorCopy r d).routeAcks = h.routeAcks ∧ (h.mirrorCopy r d).routeNew = h.routeNew ∧
    (h.mirrorCopy r d).routeOld = h.routeOld ∧ (h.mirrorCopy r d).lostHubs = h.lostHubs ∧ (h.mirrorCopy r d).slots = h.slots ∧
    (h.mirrorCopy r d).spanEpoch = h.spanEpoch ∧ (h.mirrorCopy r d).start = h.start ∧ (h.mirrorCopy r d).core = h.core ∧
    (h.mirrorCopy r d).mbx = h.mbx ∧ (h.mirrorCopy r d).spanReps = h.spanReps ∧ (h.mirrorCopy r d).spanBacks = h.spanBacks ∧
    (h.mirrorCopy r d).waitSnoops = h.waitSnoops ∧ (h.mirrorCopy r d).rsvRecs = h.rsvRecs ∧
    (h.mirrorCopy r d).rsvNotes = h.rsvNotes ∧ (h.mirrorCopy r d).pins = h.pins ∧ (h.mirrorCopy r d).mirror = h.mirror ∧
    (h.mirrorCopy r d).records = h.records ∧ (h.mirrorCopy r d).lapses = h.lapses ∧ (h.mirrorCopy r d).spill = h.spill ∧
    (h.mirrorCopy r d).sps = h.sps ∧ (h.mirrorCopy r d).epoch = h.epoch ∧ (h.mirrorCopy r d).rot = h.rot ∧
    (h.mirrorCopy r d).aon = h.aon ∧ (h.mirrorCopy r d).events = h.events ∧ (h.mirrorCopy r d).power = h.power ∧
    (h.mirrorCopy r d).notices = h.notices ∧ (h.mirrorCopy r d).aps = h.aps ∧ (h.mirrorCopy r d).agents = h.agents ∧
    (h.mirrorCopy r d).dev = h.dev ∧ (h.mirrorCopy r d).slices = h.slices := by
  unfold Hub.mirrorCopy; (try dsimp only); (repeat' split) <;> simp

@[simp] theorem Hub.makeRsv_keeps (h : Hub) (hs : Nat) (t : Txn) :
    Hub.sameConfig h (h.makeRsv hs t) ∧ (h.makeRsv hs t).start = h.start ∧ (h.makeRsv hs t).core = h.core ∧
    (h.makeRsv hs t).chans = h.chans ∧ (h.makeRsv hs t).mbx = h.mbx ∧ (h.makeRsv hs t).spanReps = h.spanReps ∧
    (h.makeRsv hs t).spanBacks = h.spanBacks ∧ (h.makeRsv hs t).waitSnoops = h.waitSnoops ∧ (h.makeRsv hs t).arbs = h.arbs ∧
    (h.makeRsv hs t).rsvRecs = h.rsvRecs ∧ Hub.sameStore h (h.makeRsv hs t) := by
  unfold Hub.makeRsv; (try dsimp only); (repeat' split) <;> simp

@[simp] theorem Hub.nextLine_keeps (h : Hub) (l : Line) (stream : Bool) :
    (h.nextLine l stream).round = h.round ∧ (h.nextLine l stream).par = h.par ∧ (h.nextLine l stream).master = h.master ∧
    (h.nextLine l stream).prot = h.prot ∧ (h.nextLine l stream).map = h.map ∧ (h.nextLine l stream).mps = h.mps ∧
    (h.nextLine l stream).chNotes = h.chNotes ∧ (h.nextLine l stream).pointer = h.pointer ∧
    (h.nextLine l stream).routeAcks = h.routeAcks ∧ (h.nextLine l stream).routeNew = h.routeNew ∧
    (h.nextLine l stream).routeOld = h.routeOld ∧ (h.nextLine l stream).lostHubs = h.lostHubs ∧
    (h.nextLine l stream).slots = h.slots ∧ (h.nextLine l stream).spanEpoch = h.spanEpoch ∧
    Hub.sameFlow h (h.nextLine l stream) ∧ Hub.sameStore h (h.nextLine l stream) ∧ Hub.sameEvent h (h.nextLine l stream) ∧
    (h.nextLine l stream).slices = h.slices ∧ (h.nextLine l stream).out = h.out := by
  unfold Hub.nextLine; (try dsimp only); (repeat' split) <;> simp

@[simp] theorem Hub.sendSpanReq_keeps (h : Hub) (t : Txn) (op : ReqOp) (e : HubNo) :
    Hub.sameConfig h (h.sendSpanReq t op e) ∧ Hub.sameFlow h (h.sendSpanReq t op e) ∧ (h.sendSpanReq t op e).pins = h.pins ∧
    (h.sendSpanReq t op e).mirror = h.mirror ∧ (h.sendSpanReq t op e).records = h.records ∧
    (h.sendSpanReq t op e).lapses = h.lapses ∧ (h.sendSpanReq t op e).reads = h.reads ∧ (h.sendSpanReq t op e).spill = h.spill ∧
    (h.sendSpanReq t op e).rot = h.rot ∧ (h.sendSpanReq t op e).aon = h.aon ∧ (h.sendSpanReq t op e).events = h.events ∧
    (h.sendSpanReq t op e).power = h.power ∧ (h.sendSpanReq t op e).notices = h.notices ∧ (h.sendSpanReq t op e).aps = h.aps ∧
    (h.sendSpanReq t op e).agents = h.agents ∧ (h.sendSpanReq t op e).dev = h.dev ∧ (h.sendSpanReq t op e).slices = h.slices := by
  unfold Hub.sendSpanReq; (try dsimp only); (repeat' split) <;> simp

@[simp] theorem Hub.discardWaiting_keeps (h : Hub) :
    Hub.sameConfig h (h.discardWaiting) ∧ (h.discardWaiting).start = h.start ∧ (h.discardWaiting).core = h.core ∧
    (h.discardWaiting).chans = h.chans ∧ (h.discardWaiting).mbx = h.mbx ∧ (h.discardWaiting).arbs = h.arbs ∧
    (h.discardWaiting).rsvRecs = h.rsvRecs ∧ (h.discardWaiting).rsvNotes = h.rsvNotes ∧ Hub.sameStore h (h.discardWaiting) ∧
    (h.discardWaiting).aon = h.aon ∧ (h.discardWaiting).events = h.events ∧ (h.discardWaiting).power = h.power ∧
    (h.discardWaiting).notices = h.notices ∧ (h.discardWaiting).agents = h.agents ∧ (h.discardWaiting).dev = h.dev ∧
    (h.discardWaiting).pmc = h.pmc ∧ (h.discardWaiting).freeCtr = h.freeCtr ∧ (h.discardWaiting).out = h.out := by
  unfold Hub.discardWaiting; (try dsimp only); (repeat' split) <;> simp

@[simp] theorem Hub.stopTest_keeps (h : Hub) :
    Hub.sameConfig h (h.stopTest) ∧ Hub.sameFlow h (h.stopTest) ∧ (h.stopTest).pins = h.pins ∧ (h.stopTest).mirror = h.mirror ∧
    (h.stopTest).records = h.records ∧ (h.stopTest).lapses = h.lapses ∧ (h.stopTest).reads = h.reads ∧
    (h.stopTest).spill = h.spill ∧ (h.stopTest).sps = h.sps ∧ (h.stopTest).epoch = h.epoch ∧ (h.stopTest).slices = h.slices := by
  unfold Hub.stopTest; (try dsimp only); (repeat' split) <;> simp

@[simp] theorem Hub.stopFatal_keeps (h : Hub) (source : BitVec 10) (inst : Byte) (synd : BitVec 16) :
    Hub.sameConfig h (h.stopFatal source inst synd) ∧ (h.stopFatal source inst synd).core = h.core ∧
    (h.stopFatal source inst synd).chans = h.chans ∧ (h.stopFatal source inst synd).mbx = h.mbx ∧
    (h.stopFatal source inst synd).arbs = h.arbs ∧ (h.stopFatal source inst synd).rsvRecs = h.rsvRecs ∧
    (h.stopFatal source inst synd).rsvNotes = h.rsvNotes ∧ (h.stopFatal source inst synd).mirror = h.mirror ∧
    (h.stopFatal source inst synd).records = h.records ∧ (h.stopFatal source inst synd).lapses = h.lapses ∧
    (h.stopFatal source inst synd).reads = h.reads ∧ (h.stopFatal source inst synd).spill = h.spill ∧
    (h.stopFatal source inst synd).sps = h.sps ∧ (h.stopFatal source inst synd).epoch = h.epoch := by
  unfold Hub.stopFatal; (try dsimp only); (repeat' split) <;> simp

@[simp] theorem Hub.fatal_keeps (h : Hub) (source : BitVec 10) (inst : Byte) (synd : BitVec 16) :
    Hub.sameConfig h (h.fatal source inst synd) ∧ (h.fatal source inst synd).core = h.core ∧
    (h.fatal source inst synd).chans = h.chans ∧ (h.fatal source inst synd).mbx = h.mbx ∧
    (h.fatal source inst synd).arbs = h.arbs ∧ (h.fatal source inst synd).rsvRecs = h.rsvRecs ∧
    (h.fatal source inst synd).rsvNotes = h.rsvNotes ∧ (h.fatal source inst synd).mirror = h.mirror ∧
    (h.fatal source inst synd).records = h.records ∧ (h.fatal source inst synd).lapses = h.lapses ∧
    (h.fatal source inst synd).reads = h.reads ∧ (h.fatal source inst synd).spill = h.spill ∧
    (h.fatal source inst synd).sps = h.sps ∧ (h.fatal source inst synd).epoch = h.epoch := by
  unfold Hub.fatal; (try dsimp only); (repeat' split) <;> simp

@[simp] theorem Hub.interrupt_keeps (h : Hub) :
    Hub.sameConfig h (h.interrupt) ∧ (h.interrupt).start = h.start ∧ (h.interrupt).chans = h.chans ∧
    (h.interrupt).spanReps = h.spanReps ∧ (h.interrupt).spanBacks = h.spanBacks ∧ (h.interrupt).waitSnoops = h.waitSnoops ∧
    (h.interrupt).arbs = h.arbs ∧ (h.interrupt).rsvRecs = h.rsvRecs ∧ (h.interrupt).rsvNotes = h.rsvNotes ∧
    (h.interrupt).pins = h.pins ∧ (h.interrupt).mirror = h.mirror ∧ (h.interrupt).records = h.records ∧
    (h.interrupt).lapses = h.lapses ∧ (h.interrupt).reads = h.reads ∧ (h.interrupt).spill = h.spill ∧
    (h.interrupt).sps = h.sps ∧ (h.interrupt).epoch = h.epoch ∧ Hub.sameEvent h (h.interrupt) ∧
    (h.interrupt).slices = h.slices ∧ (h.interrupt).out = h.out := by
  unfold Hub.interrupt; (try dsimp only); (repeat' split) <;> simp

@[simp] theorem Hub.lockstep_keeps (h : Hub) :
    Hub.sameConfig h (h.lockstep) ∧ (h.lockstep).chans = h.chans ∧ (h.lockstep).arbs = h.arbs ∧
    (h.lockstep).rsvRecs = h.rsvRecs ∧ (h.lockstep).rsvNotes = h.rsvNotes ∧ (h.lockstep).mirror = h.mirror ∧
    (h.lockstep).records = h.records ∧ (h.lockstep).lapses = h.lapses ∧ (h.lockstep).reads = h.reads ∧
    (h.lockstep).spill = h.spill ∧ (h.lockstep).sps = h.sps ∧ (h.lockstep).epoch = h.epoch := by
  unfold Hub.lockstep; (try dsimp only); (repeat' split) <;> simp

@[simp] theorem Hub.writeMirror_keeps (h : Hub) :
    Hub.sameConfig h (h.writeMirror) ∧ Hub.sameFlow h (h.writeMirror) ∧ (h.writeMirror).pins = h.pins ∧
    (h.writeMirror).records = h.records ∧ (h.writeMirror).lapses = h.lapses ∧ (h.writeMirror).reads = h.reads ∧
    (h.writeMirror).spill = h.spill ∧ (h.writeMirror).sps = h.sps ∧ (h.writeMirror).epoch = h.epoch ∧
    (h.writeMirror).rot = h.rot ∧ Hub.sameEvent h (h.writeMirror) ∧ (h.writeMirror).slices = h.slices ∧
    (h.writeMirror).out = h.out := by
  unfold Hub.writeMirror; (try dsimp only); (repeat' split) <;> simp

@[simp] theorem Hub.countStep_keeps (h : Hub) (bit : Nat) (ok : Bool) :
    Hub.sameConfig h (h.countStep bit ok) ∧ Hub.sameFlow h (h.countStep bit ok) ∧ (h.countStep bit ok).pins = h.pins ∧
    (h.countStep bit ok).records = h.records ∧ (h.countStep bit ok).lapses = h.lapses ∧ (h.countStep bit ok).reads = h.reads ∧
    (h.countStep bit ok).spill = h.spill ∧ (h.countStep bit ok).sps = h.sps ∧ (h.countStep bit ok).epoch = h.epoch ∧
    (h.countStep bit ok).rot = h.rot ∧ (h.countStep bit ok).events = h.events ∧ (h.countStep bit ok).power = h.power ∧
    (h.countStep bit ok).notices = h.notices ∧ (h.countStep bit ok).aps = h.aps ∧ (h.countStep bit ok).agents = h.agents ∧
    (h.countStep bit ok).dev = h.dev ∧ (h.countStep bit ok).pmc = h.pmc ∧ (h.countStep bit ok).freeCtr = h.freeCtr ∧
    (h.countStep bit ok).slices = h.slices ∧ (h.countStep bit ok).out = h.out := by
  unfold Hub.countStep; (try dsimp only); (repeat' split) <;> simp

@[simp] theorem Hub.settleFences_keeps (h : Hub) :
    Hub.sameConfig h (h.settleFences) ∧ Hub.sameFlow h (h.settleFences) ∧ (h.settleFences).pins = h.pins ∧
    (h.settleFences).mirror = h.mirror ∧ (h.settleFences).reads = h.reads ∧ (h.settleFences).spill = h.spill ∧
    (h.settleFences).sps = h.sps ∧ (h.settleFences).epoch = h.epoch ∧ (h.settleFences).rot = h.rot ∧
    (h.settleFences).slices = h.slices := by
  unfold Hub.settleFences; (try dsimp only); (repeat' split) <;>
    simp [foldl_round, foldl_pins, foldl_start, foldl_mirror, foldl_par, foldl_master, foldl_prot, foldl_mbx, foldl_core,
      foldl_map, foldl_slices, foldl_spill, foldl_mps, foldl_chans, foldl_reads, foldl_sps, foldl_spanReps, foldl_spanBacks,
      foldl_waitSnoops, foldl_lostHubs, foldl_routeAcks, foldl_routeNew, foldl_routeOld, foldl_spanEpoch, foldl_rsvRecs,
      foldl_rsvNotes, foldl_chNotes, foldl_slots, foldl_pointer, foldl_epoch, foldl_arbs, foldl_rot, foldl_prefetchNotes]

@[simp] theorem Hub.earlyEnded_keeps (h : Hub) (r : DevReq) (lost : Bool) :
    Hub.sameConfig h (h.earlyEnded r lost) ∧ Hub.sameFlow h (h.earlyEnded r lost) ∧ (h.earlyEnded r lost).pins = h.pins ∧
    (h.earlyEnded r lost).mirror = h.mirror ∧ (h.earlyEnded r lost).reads = h.reads ∧ (h.earlyEnded r lost).spill = h.spill ∧
    (h.earlyEnded r lost).sps = h.sps ∧ (h.earlyEnded r lost).epoch = h.epoch ∧ (h.earlyEnded r lost).rot = h.rot ∧
    (h.earlyEnded r lost).slices = h.slices := by
  unfold Hub.earlyEnded; (try dsimp only); (repeat' split) <;> simp

@[simp] theorem Hub.postOne_keeps (h : Hub) (r : DevReq) :
    Hub.sameConfig h (h.postOne r) ∧ Hub.sameFlow h (h.postOne r) ∧ (h.postOne r).pins = h.pins ∧
    (h.postOne r).mirror = h.mirror ∧ (h.postOne r).reads = h.reads ∧ (h.postOne r).spill = h.spill ∧
    (h.postOne r).sps = h.sps ∧ (h.postOne r).epoch = h.epoch ∧ (h.postOne r).rot = h.rot ∧ (h.postOne r).slices = h.slices := by
  unfold Hub.postOne; (try dsimp only); (repeat' split) <;> simp

@[simp] theorem Hub.devFinish_keeps (h : Hub) (r : DevReq) (outcome : BitVec 2) (d : Option Payload) :
    Hub.sameConfig h (h.devFinish r outcome d) ∧ Hub.sameFlow h (h.devFinish r outcome d) ∧
    (h.devFinish r outcome d).pins = h.pins ∧ (h.devFinish r outcome d).mirror = h.mirror ∧
    (h.devFinish r outcome d).reads = h.reads ∧ (h.devFinish r outcome d).spill = h.spill ∧
    (h.devFinish r outcome d).rot = h.rot ∧ (h.devFinish r outcome d).slices = h.slices := by
  unfold Hub.devFinish; (try dsimp only); (repeat' split) <;> simp

@[simp] theorem Hub.devDrop_keeps (h : Hub) (r : DevReq) :
    Hub.sameConfig h (h.devDrop r) ∧ Hub.sameFlow h (h.devDrop r) ∧ (h.devDrop r).pins = h.pins ∧
    (h.devDrop r).mirror = h.mirror ∧ (h.devDrop r).reads = h.reads ∧ (h.devDrop r).spill = h.spill ∧
    (h.devDrop r).rot = h.rot ∧ (h.devDrop r).slices = h.slices := by
  unfold Hub.devDrop; (try dsimp only); (repeat' split) <;> simp

@[simp] theorem Hub.devDead_keeps (h : Hub) (la : La) :
    Hub.sameConfig h (h.devDead la) ∧ Hub.sameFlow h (h.devDead la) ∧ (h.devDead la).pins = h.pins ∧
    (h.devDead la).mirror = h.mirror ∧ (h.devDead la).reads = h.reads ∧ (h.devDead la).spill = h.spill ∧
    (h.devDead la).rot = h.rot ∧ (h.devDead la).slices = h.slices := by
  unfold Hub.devDead; (try dsimp only); (repeat' split) <;>
    simp [foldl_round, foldl_pins, foldl_start, foldl_mirror, foldl_par, foldl_master, foldl_prot, foldl_mbx, foldl_core,
      foldl_map, foldl_slices, foldl_spill, foldl_mps, foldl_chans, foldl_reads, foldl_spanReps, foldl_spanBacks,
      foldl_waitSnoops, foldl_lostHubs, foldl_routeAcks, foldl_routeNew, foldl_routeOld, foldl_spanEpoch, foldl_rsvRecs,
      foldl_rsvNotes, foldl_chNotes, foldl_slots, foldl_pointer, foldl_arbs, foldl_rot, foldl_prefetchNotes]

@[simp] theorem Hub.tellHome_keeps (h : Hub) (t : Txn) :
    Hub.sameConfig h (h.tellHome t) ∧ Hub.sameFlow h (h.tellHome t) ∧ (h.tellHome t).pins = h.pins ∧
    (h.tellHome t).mirror = h.mirror ∧ (h.tellHome t).records = h.records ∧ (h.tellHome t).lapses = h.lapses ∧
    (h.tellHome t).reads = h.reads ∧ (h.tellHome t).spill = h.spill ∧ (h.tellHome t).rot = h.rot ∧ (h.tellHome t).aon = h.aon ∧
    (h.tellHome t).events = h.events ∧ (h.tellHome t).power = h.power ∧ (h.tellHome t).notices = h.notices ∧
    (h.tellHome t).aps = h.aps ∧ (h.tellHome t).agents = h.agents ∧ (h.tellHome t).dev = h.dev ∧
    (h.tellHome t).slices = h.slices := by
  unfold Hub.tellHome; (try dsimp only); (repeat' split) <;> simp

@[simp] theorem Hub.endHold_keeps (h : Hub) (hs : Nat) (l : Line) (p : Hold → Bool) :
    Hub.sameConfig h (h.endHold hs l p) ∧ Hub.sameFlow h (h.endHold hs l p) ∧ Hub.sameStore h (h.endHold hs l p) := by
  unfold Hub.endHold; (try dsimp only); (repeat' split) <;> simp

@[simp] theorem Hub.visitWay_keeps (h : Hub) (hs : Nat) (mask : BitVec 128) (set : BitVec 14) (way : Nat) :
    Hub.sameConfig h (h.visitWay hs mask set way) ∧ Hub.sameFlow h (h.visitWay hs mask set way) ∧
    (h.visitWay hs mask set way).pins = h.pins ∧ (h.visitWay hs mask set way).mirror = h.mirror ∧
    (h.visitWay hs mask set way).records = h.records ∧ (h.visitWay hs mask set way).lapses = h.lapses := by
  unfold Hub.visitWay; (try dsimp only); (repeat' split) <;> simp

@[simp] theorem Hub.endWalk_keeps (h : Hub) (hs : Nat) :
    Hub.sameConfig h (h.endWalk hs) ∧ Hub.sameFlow h (h.endWalk hs) ∧ Hub.sameStore h (h.endWalk hs) := by
  unfold Hub.endWalk; (try dsimp only); (repeat' split) <;> simp

@[simp] theorem Hub.advanceSweep_keeps (h : Hub) (hs : Nat) (x : Sweep) (skip live : Bool) :
    Hub.sameConfig h (h.advanceSweep hs x skip live) ∧ Hub.sameFlow h (h.advanceSweep hs x skip live) ∧
    Hub.sameStore h (h.advanceSweep hs x skip live) ∧ Hub.sameEvent h (h.advanceSweep hs x skip live) ∧
    (h.advanceSweep hs x skip live).out = h.out := by
  unfold Hub.advanceSweep; (try dsimp only); (repeat' split) <;> simp

@[simp] theorem Hub.copyStep_keeps (h : Hub) (c : Nat) :
    (h.copyStep c).round = h.round ∧ (h.copyStep c).par = h.par ∧ (h.copyStep c).master = h.master ∧
    (h.copyStep c).prot = h.prot ∧ (h.copyStep c).map = h.map ∧ (h.copyStep c).chNotes = h.chNotes ∧
    (h.copyStep c).prefetchNotes = h.prefetchNotes ∧ (h.copyStep c).pointer = h.pointer ∧
    (h.copyStep c).routeAcks = h.routeAcks ∧ (h.copyStep c).routeNew = h.routeNew ∧ (h.copyStep c).routeOld = h.routeOld ∧
    (h.copyStep c).lostHubs = h.lostHubs ∧ (h.copyStep c).slots = h.slots ∧ (h.copyStep c).spanEpoch = h.spanEpoch ∧
    (h.copyStep c).start = h.start ∧ (h.copyStep c).core = h.core ∧ (h.copyStep c).mbx = h.mbx ∧
    (h.copyStep c).spanReps = h.spanReps ∧ (h.copyStep c).spanBacks = h.spanBacks ∧ (h.copyStep c).waitSnoops = h.waitSnoops ∧
    (h.copyStep c).rsvRecs = h.rsvRecs ∧ (h.copyStep c).rsvNotes = h.rsvNotes ∧ (h.copyStep c).pins = h.pins ∧
    (h.copyStep c).mirror = h.mirror ∧ (h.copyStep c).records = h.records ∧ (h.copyStep c).lapses = h.lapses ∧
    (h.copyStep c).spill = h.spill ∧ (h.copyStep c).sps = h.sps ∧ (h.copyStep c).epoch = h.epoch ∧ (h.copyStep c).rot = h.rot ∧
    (h.copyStep c).aon = h.aon ∧ (h.copyStep c).events = h.events ∧ (h.copyStep c).power = h.power ∧
    (h.copyStep c).notices = h.notices ∧ (h.copyStep c).aps = h.aps ∧ (h.copyStep c).agents = h.agents ∧
    (h.copyStep c).dev = h.dev ∧ (h.copyStep c).slices = h.slices := by
  unfold Hub.copyStep; (try dsimp only); (repeat' split) <;> simp

@[simp] theorem Hub.writeOn_keeps (h : Hub) (l : Line) (c : Nat) :
    (h.writeOn l c).round = h.round ∧ (h.writeOn l c).par = h.par ∧ (h.writeOn l c).master = h.master ∧
    (h.writeOn l c).prot = h.prot ∧ (h.writeOn l c).map = h.map ∧ (h.writeOn l c).chNotes = h.chNotes ∧
    (h.writeOn l c).prefetchNotes = h.prefetchNotes ∧ (h.writeOn l c).pointer = h.pointer ∧
    (h.writeOn l c).routeAcks = h.routeAcks ∧ (h.writeOn l c).routeNew = h.routeNew ∧ (h.writeOn l c).routeOld = h.routeOld ∧
    (h.writeOn l c).lostHubs = h.lostHubs ∧ (h.writeOn l c).slots = h.slots ∧ (h.writeOn l c).spanEpoch = h.spanEpoch ∧
    (h.writeOn l c).start = h.start ∧ (h.writeOn l c).core = h.core ∧ (h.writeOn l c).mbx = h.mbx ∧
    (h.writeOn l c).spanReps = h.spanReps ∧ (h.writeOn l c).spanBacks = h.spanBacks ∧
    (h.writeOn l c).waitSnoops = h.waitSnoops ∧ (h.writeOn l c).rsvRecs = h.rsvRecs ∧ (h.writeOn l c).rsvNotes = h.rsvNotes ∧
    (h.writeOn l c).pins = h.pins ∧ (h.writeOn l c).mirror = h.mirror ∧ (h.writeOn l c).records = h.records ∧
    (h.writeOn l c).lapses = h.lapses ∧ (h.writeOn l c).reads = h.reads ∧ (h.writeOn l c).sps = h.sps ∧
    (h.writeOn l c).epoch = h.epoch ∧ (h.writeOn l c).rot = h.rot ∧ (h.writeOn l c).aon = h.aon ∧
    (h.writeOn l c).events = h.events ∧ (h.writeOn l c).dev = h.dev := by
  unfold Hub.writeOn; (try dsimp only); (repeat' split) <;> simp

@[simp] theorem Hub.rehome_keeps (h : Hub) (hs : Nat) :
    Hub.sameConfig h (h.rehome hs) ∧ Hub.sameFlow h (h.rehome hs) ∧ (h.rehome hs).pins = h.pins ∧
    (h.rehome hs).mirror = h.mirror ∧ (h.rehome hs).records = h.records ∧ (h.rehome hs).lapses = h.lapses ∧
    (h.rehome hs).reads = h.reads ∧ (h.rehome hs).sps = h.sps ∧ (h.rehome hs).epoch = h.epoch ∧ (h.rehome hs).rot = h.rot ∧
    Hub.sameEvent h (h.rehome hs) ∧ (h.rehome hs).out = h.out := by
  unfold Hub.rehome; (try dsimp only); (repeat' split) <;> simp

@[simp] theorem Hub.tryComplete_keeps (h : Hub) (l : Line) :
    Hub.sameConfig h (h.tryComplete l) ∧ (h.tryComplete l).start = h.start ∧ (h.tryComplete l).core = h.core ∧
    (h.tryComplete l).chans = h.chans ∧ (h.tryComplete l).spanReps = h.spanReps ∧ (h.tryComplete l).spanBacks = h.spanBacks ∧
    (h.tryComplete l).waitSnoops = h.waitSnoops ∧ (h.tryComplete l).arbs = h.arbs ∧ (h.tryComplete l).rsvRecs = h.rsvRecs ∧
    (h.tryComplete l).rsvNotes = h.rsvNotes ∧ (h.tryComplete l).pins = h.pins ∧ (h.tryComplete l).mirror = h.mirror ∧
    (h.tryComplete l).records = h.records ∧ (h.tryComplete l).lapses = h.lapses ∧ (h.tryComplete l).reads = h.reads ∧
    (h.tryComplete l).sps = h.sps ∧ (h.tryComplete l).epoch = h.epoch ∧ (h.tryComplete l).rot = h.rot ∧
    Hub.sameEvent h (h.tryComplete l) ∧ (h.tryComplete l).out = h.out := by
  unfold Hub.tryComplete; (try dsimp only); (repeat' split) <;> simp

@[simp] theorem Hub.rereadAt_keeps (h : Hub) (r : MemRead) (c : Nat) :
    Hub.sameConfig h (h.rereadAt r c) ∧ (h.rereadAt r c).start = h.start ∧ (h.rereadAt r c).core = h.core ∧
    (h.rereadAt r c).mbx = h.mbx ∧ (h.rereadAt r c).spanReps = h.spanReps ∧ (h.rereadAt r c).spanBacks = h.spanBacks ∧
    (h.rereadAt r c).waitSnoops = h.waitSnoops ∧ (h.rereadAt r c).arbs = h.arbs ∧ (h.rereadAt r c).rsvRecs = h.rsvRecs ∧
    (h.rereadAt r c).rsvNotes = h.rsvNotes ∧ (h.rereadAt r c).pins = h.pins ∧ (h.rereadAt r c).mirror = h.mirror ∧
    (h.rereadAt r c).records = h.records ∧ (h.rereadAt r c).lapses = h.lapses ∧ (h.rereadAt r c).spill = h.spill ∧
    (h.rereadAt r c).sps = h.sps ∧ (h.rereadAt r c).epoch = h.epoch ∧ (h.rereadAt r c).rot = h.rot ∧
    (h.rereadAt r c).aon = h.aon ∧ (h.rereadAt r c).events = h.events ∧ (h.rereadAt r c).power = h.power ∧
    (h.rereadAt r c).aps = h.aps ∧ (h.rereadAt r c).agents = h.agents ∧ (h.rereadAt r c).dev = h.dev ∧
    (h.rereadAt r c).pmc = h.pmc ∧ (h.rereadAt r c).slices = h.slices ∧ (h.rereadAt r c).out = h.out := by
  unfold Hub.rereadAt; (try dsimp only); (repeat' split) <;> simp

@[simp] theorem Hub.reservedWrite_keeps (h : Hub) (g : Gaid) (off : Nat) :
    Hub.sameConfig h (h.reservedWrite g off) ∧ Hub.sameFlow h (h.reservedWrite g off) ∧
    Hub.sameStore h (h.reservedWrite g off) ∧ (h.reservedWrite g off).slices = h.slices := by
  unfold Hub.reservedWrite; (try dsimp only); (repeat' split) <;> simp

@[simp] theorem Hub.ringTail_keeps (h : Hub) (n : BitVec 3) (v : Word) :
    Hub.sameConfig h (h.ringTail n v) ∧ (h.ringTail n v).start = h.start ∧ (h.ringTail n v).core = h.core ∧
    (h.ringTail n v).chans = h.chans ∧ (h.ringTail n v).spanReps = h.spanReps ∧ (h.ringTail n v).spanBacks = h.spanBacks ∧
    (h.ringTail n v).waitSnoops = h.waitSnoops ∧ (h.ringTail n v).arbs = h.arbs ∧ (h.ringTail n v).rsvRecs = h.rsvRecs ∧
    (h.ringTail n v).rsvNotes = h.rsvNotes ∧ Hub.sameStore h (h.ringTail n v) ∧ (h.ringTail n v).slices = h.slices := by
  unfold Hub.ringTail; (try dsimp only); (repeat' split) <;> simp

@[simp] theorem Hub.freeSlots_keeps (h : Hub) (n : BitVec 3) (v : Word) :
    Hub.sameConfig h (h.freeSlots n v) ∧ (h.freeSlots n v).start = h.start ∧ (h.freeSlots n v).core = h.core ∧
    (h.freeSlots n v).chans = h.chans ∧ (h.freeSlots n v).spanReps = h.spanReps ∧ (h.freeSlots n v).spanBacks = h.spanBacks ∧
    (h.freeSlots n v).waitSnoops = h.waitSnoops ∧ (h.freeSlots n v).arbs = h.arbs ∧ (h.freeSlots n v).rsvRecs = h.rsvRecs ∧
    (h.freeSlots n v).rsvNotes = h.rsvNotes ∧ Hub.sameStore h (h.freeSlots n v) ∧ (h.freeSlots n v).slices = h.slices := by
  unfold Hub.freeSlots; (try dsimp only); (repeat' split) <;> simp

@[simp] theorem Hub.clearStatus_keeps (h : Hub) (g : Nat) (v : Word) (raised : BitVec 32) :
    Hub.sameConfig h (h.clearStatus g v raised) ∧ Hub.sameFlow h (h.clearStatus g v raised) ∧
    Hub.sameStore h (h.clearStatus g v raised) ∧ (h.clearStatus g v raised).aon = h.aon ∧
    (h.clearStatus g v raised).slices = h.slices := by
  unfold Hub.clearStatus; (try dsimp only); (repeat' split) <;> simp

@[simp] theorem Hub.putMask_keeps (h : Hub) (g : Nat) (v : Word) :
    Hub.sameConfig h (h.putMask g v) ∧ Hub.sameFlow h (h.putMask g v) ∧ Hub.sameStore h (h.putMask g v) ∧
    (h.putMask g v).aon = h.aon ∧ (h.putMask g v).slices = h.slices := by
  unfold Hub.putMask; (try dsimp only); (repeat' split) <;> simp

@[simp] theorem Hub.preset_keeps (h : Hub) (i : Nat) (v : Word) :
    Hub.sameConfig h (h.preset i v) ∧ Hub.sameFlow h (h.preset i v) ∧ Hub.sameStore h (h.preset i v) ∧
    (h.preset i v).aon = h.aon ∧ (h.preset i v).events = h.events ∧ (h.preset i v).power = h.power ∧
    (h.preset i v).notices = h.notices ∧ (h.preset i v).aps = h.aps ∧ (h.preset i v).agents = h.agents ∧
    (h.preset i v).dev = h.dev ∧ (h.preset i v).freeCtr = h.freeCtr ∧ (h.preset i v).slices = h.slices ∧
    (h.preset i v).out = h.out := by
  unfold Hub.preset; (try dsimp only); (repeat' split) <;> simp

@[simp] theorem Hub.clearStats_keeps (h : Hub) :
    Hub.sameConfig h (h.clearStats) ∧ Hub.sameFlow h (h.clearStats) ∧ Hub.sameStore h (h.clearStats) ∧
    (h.clearStats).aon = h.aon ∧ (h.clearStats).events = h.events ∧ (h.clearStats).power = h.power ∧
    (h.clearStats).notices = h.notices ∧ (h.clearStats).aps = h.aps ∧ (h.clearStats).agents = h.agents ∧
    (h.clearStats).dev = h.dev ∧ (h.clearStats).freeCtr = h.freeCtr ∧ (h.clearStats).slices = h.slices ∧
    (h.clearStats).out = h.out := by
  unfold Hub.clearStats; (try dsimp only); (repeat' split) <;> simp

@[simp] theorem Hub.clearCounters_keeps (h : Hub) :
    Hub.sameConfig h (h.clearCounters) ∧ Hub.sameFlow h (h.clearCounters) ∧ Hub.sameStore h (h.clearCounters) ∧
    (h.clearCounters).aon = h.aon ∧ (h.clearCounters).events = h.events ∧ (h.clearCounters).power = h.power ∧
    (h.clearCounters).notices = h.notices ∧ (h.clearCounters).aps = h.aps ∧ (h.clearCounters).agents = h.agents ∧
    (h.clearCounters).dev = h.dev ∧ (h.clearCounters).freeCtr = h.freeCtr ∧ (h.clearCounters).slices = h.slices ∧
    (h.clearCounters).out = h.out := by
  unfold Hub.clearCounters; (try dsimp only); (repeat' split) <;> simp

@[simp] theorem Hub.setFreeze_keeps (h : Hub) (b : Bool) :
    Hub.sameConfig h (h.setFreeze b) ∧ Hub.sameFlow h (h.setFreeze b) ∧ Hub.sameStore h (h.setFreeze b) ∧
    (h.setFreeze b).aon = h.aon ∧ (h.setFreeze b).events = h.events ∧ (h.setFreeze b).power = h.power ∧
    (h.setFreeze b).notices = h.notices ∧ (h.setFreeze b).aps = h.aps ∧ (h.setFreeze b).agents = h.agents ∧
    (h.setFreeze b).dev = h.dev ∧ (h.setFreeze b).freeCtr = h.freeCtr ∧ (h.setFreeze b).slices = h.slices ∧
    (h.setFreeze b).out = h.out := by
  unfold Hub.setFreeze; (try dsimp only); (repeat' split) <;> simp

@[simp] theorem Hub.putPmcCtl_keeps (h : Hub) (v : Word) :
    Hub.sameConfig h (h.putPmcCtl v) ∧ Hub.sameFlow h (h.putPmcCtl v) ∧ Hub.sameStore h (h.putPmcCtl v) ∧
    (h.putPmcCtl v).aon = h.aon ∧ (h.putPmcCtl v).events = h.events ∧ (h.putPmcCtl v).power = h.power ∧
    (h.putPmcCtl v).notices = h.notices ∧ (h.putPmcCtl v).aps = h.aps ∧ (h.putPmcCtl v).agents = h.agents ∧
    (h.putPmcCtl v).dev = h.dev ∧ (h.putPmcCtl v).freeCtr = h.freeCtr ∧ (h.putPmcCtl v).slices = h.slices ∧
    (h.putPmcCtl v).out = h.out := by
  unfold Hub.putPmcCtl; (try dsimp only); (repeat' split) <;> simp

@[simp] theorem Hub.writeReg_keeps (h : Hub) (g : Gaid) (off : Nat) (v : Word) :
    Hub.sameConfig h (h.writeReg g off v) ∧ (h.writeReg g off v).start = h.start ∧ (h.writeReg g off v).core = h.core ∧
    (h.writeReg g off v).chans = h.chans ∧ (h.writeReg g off v).spanReps = h.spanReps ∧
    (h.writeReg g off v).spanBacks = h.spanBacks ∧ (h.writeReg g off v).waitSnoops = h.waitSnoops ∧
    (h.writeReg g off v).arbs = h.arbs ∧ (h.writeReg g off v).rsvRecs = h.rsvRecs ∧ (h.writeReg g off v).rsvNotes = h.rsvNotes ∧
    Hub.sameStore h (h.writeReg g off v) ∧ (h.writeReg g off v).slices = h.slices := by
  unfold Hub.writeReg; (try dsimp only); (repeat' split) <;> simp

@[simp] theorem Hub.devRefuse_keeps (h : Hub) (r : DevReq) (outcome : BitVec 2) :
    Hub.sameConfig h (h.devRefuse r outcome) ∧ Hub.sameFlow h (h.devRefuse r outcome) ∧ (h.devRefuse r outcome).pins = h.pins ∧
    (h.devRefuse r outcome).mirror = h.mirror ∧ (h.devRefuse r outcome).reads = h.reads ∧
    (h.devRefuse r outcome).spill = h.spill ∧ (h.devRefuse r outcome).rot = h.rot ∧ (h.devRefuse r outcome).slices = h.slices := by
  unfold Hub.devRefuse; (try dsimp only); (repeat' split) <;> simp

@[simp] theorem Hub.devArrive_keeps (h : Hub) (n : Nat) (r : DevReq) :
    Hub.sameConfig h (h.devArrive n r) ∧ Hub.sameFlow h (h.devArrive n r) ∧ (h.devArrive n r).pins = h.pins ∧
    (h.devArrive n r).mirror = h.mirror ∧ (h.devArrive n r).reads = h.reads ∧ (h.devArrive n r).spill = h.spill ∧
    (h.devArrive n r).rot = h.rot ∧ (h.devArrive n r).slices = h.slices := by
  unfold Hub.devArrive; (try dsimp only); (repeat' split) <;> simp

@[simp] theorem Hub.devRemote_keeps (h : Hub) (e : HubNo) (r : DevReq) :
    Hub.sameConfig h (h.devRemote e r) ∧ Hub.sameFlow h (h.devRemote e r) ∧ (h.devRemote e r).pins = h.pins ∧
    (h.devRemote e r).mirror = h.mirror ∧ (h.devRemote e r).reads = h.reads ∧ (h.devRemote e r).spill = h.spill ∧
    (h.devRemote e r).rot = h.rot ∧ (h.devRemote e r).slices = h.slices := by
  unfold Hub.devRemote; (try dsimp only); (repeat' split) <;> simp

@[simp] theorem Hub.replayMsgs_keeps (h : Hub) (port : PortId) (f : FrameState) (hd : FrameHdr) (taken : Bool) :
    Hub.sameConfig h (h.replayMsgs port f hd taken) ∧ Hub.sameFlow h (h.replayMsgs port f hd taken) ∧
    Hub.sameStore h (h.replayMsgs port f hd taken) ∧ Hub.sameEvent h (h.replayMsgs port f hd taken) ∧
    (h.replayMsgs port f hd taken).slices = h.slices := by
  unfold Hub.replayMsgs; (try dsimp only); (repeat' split) <;>
    simp [Hub.emit, foldl_round, foldl_pins, foldl_start, foldl_mirror, foldl_aon, foldl_par, foldl_master, foldl_prot,
      foldl_mbx, foldl_core, foldl_map, foldl_slices, foldl_spill, foldl_agents, foldl_aps, foldl_mps, foldl_chans, foldl_reads,
      foldl_sps, foldl_spanReps, foldl_spanBacks, foldl_waitSnoops, foldl_lostHubs, foldl_routeAcks, foldl_routeNew,
      foldl_routeOld, foldl_spanEpoch, foldl_records, foldl_lapses, foldl_rsvRecs, foldl_rsvNotes, foldl_notices, foldl_chNotes,
      foldl_slots, foldl_pointer, foldl_dev, foldl_epoch, foldl_arbs, foldl_power, foldl_rot, foldl_events, foldl_pmc,
      foldl_prefetchNotes, foldl_freeCtr]

@[simp] theorem Hub.chanUp_keeps (h : Hub) (c : Nat) :
    Hub.sameConfig h (h.chanUp c) ∧ (h.chanUp c).start = h.start ∧ (h.chanUp c).core = h.core ∧ (h.chanUp c).mbx = h.mbx ∧
    (h.chanUp c).spanReps = h.spanReps ∧ (h.chanUp c).spanBacks = h.spanBacks ∧ (h.chanUp c).waitSnoops = h.waitSnoops ∧
    (h.chanUp c).arbs = h.arbs ∧ (h.chanUp c).rsvRecs = h.rsvRecs ∧ (h.chanUp c).rsvNotes = h.rsvNotes ∧
    Hub.sameStore h (h.chanUp c) ∧ (h.chanUp c).aon = h.aon ∧ (h.chanUp c).events = h.events ∧ (h.chanUp c).power = h.power ∧
    (h.chanUp c).aps = h.aps ∧ (h.chanUp c).agents = h.agents ∧ (h.chanUp c).dev = h.dev ∧ (h.chanUp c).pmc = h.pmc ∧
    (h.chanUp c).freeCtr = h.freeCtr ∧ (h.chanUp c).slices = h.slices ∧ (h.chanUp c).out = h.out := by
  unfold Hub.chanUp; (try dsimp only); (repeat' split) <;> simp

@[simp] theorem Hub.loadMap_keeps (h : Hub) (m : Tbl Nat) :
    Hub.sameConfig h (h.loadMap m) ∧ Hub.sameFlow h (h.loadMap m) ∧ (h.loadMap m).pins = h.pins ∧
    (h.loadMap m).mirror = h.mirror ∧ (h.loadMap m).records = h.records ∧ (h.loadMap m).lapses = h.lapses ∧
    (h.loadMap m).reads = h.reads ∧ (h.loadMap m).spill = h.spill ∧ (h.loadMap m).sps = h.sps ∧ (h.loadMap m).rot = h.rot ∧
    Hub.sameEvent h (h.loadMap m) ∧ (h.loadMap m).slices = h.slices ∧ (h.loadMap m).out = h.out := by
  unfold Hub.loadMap; (try dsimp only); (repeat' split) <;> simp

@[simp] theorem Hub.loadWaiting_keeps (h : Hub) :
    Hub.sameConfig h (h.loadWaiting) ∧ Hub.sameFlow h (h.loadWaiting) ∧ (h.loadWaiting).pins = h.pins ∧
    (h.loadWaiting).mirror = h.mirror ∧ (h.loadWaiting).records = h.records ∧ (h.loadWaiting).lapses = h.lapses ∧
    (h.loadWaiting).reads = h.reads ∧ (h.loadWaiting).spill = h.spill ∧ (h.loadWaiting).sps = h.sps ∧
    (h.loadWaiting).rot = h.rot ∧ Hub.sameEvent h (h.loadWaiting) ∧ (h.loadWaiting).slices = h.slices ∧
    (h.loadWaiting).out = h.out := by
  unfold Hub.loadWaiting; (try dsimp only); (repeat' split) <;> simp

@[simp] theorem Hub.countSpan_keeps (h : Hub) (n : BitVec 3) (i : Nat) :
    Hub.sameConfig h (h.countSpan n i) ∧ Hub.sameFlow h (h.countSpan n i) ∧ Hub.sameStore h (h.countSpan n i) ∧
    (h.countSpan n i).aon = h.aon ∧ (h.countSpan n i).events = h.events ∧ (h.countSpan n i).power = h.power ∧
    (h.countSpan n i).notices = h.notices ∧ (h.countSpan n i).aps = h.aps ∧ (h.countSpan n i).agents = h.agents ∧
    (h.countSpan n i).dev = h.dev ∧ (h.countSpan n i).freeCtr = h.freeCtr ∧ (h.countSpan n i).slices = h.slices ∧
    (h.countSpan n i).out = h.out := by
  unfold Hub.countSpan; (try dsimp only); (repeat' split) <;> simp

@[simp] theorem Hub.forward_keeps (h : Hub) (n : BitVec 3) (u : SpanUnit) :
    Hub.sameConfig h (h.forward n u) ∧ Hub.sameFlow h (h.forward n u) ∧ (h.forward n u).pins = h.pins ∧
    (h.forward n u).mirror = h.mirror ∧ (h.forward n u).records = h.records ∧ (h.forward n u).lapses = h.lapses ∧
    (h.forward n u).reads = h.reads ∧ (h.forward n u).spill = h.spill ∧ (h.forward n u).rot = h.rot ∧
    (h.forward n u).slices = h.slices := by
  unfold Hub.forward; (try dsimp only); (repeat' split) <;> simp

@[simp] theorem Hub.reqAccepted_keeps (h : Hub) (u : SpanUnit) :
    Hub.sameConfig h (h.reqAccepted u) ∧ Hub.sameFlow h (h.reqAccepted u) ∧ (h.reqAccepted u).pins = h.pins ∧
    (h.reqAccepted u).mirror = h.mirror ∧ (h.reqAccepted u).records = h.records ∧ (h.reqAccepted u).lapses = h.lapses ∧
    (h.reqAccepted u).reads = h.reads ∧ (h.reqAccepted u).spill = h.spill ∧ (h.reqAccepted u).epoch = h.epoch ∧
    (h.reqAccepted u).rot = h.rot ∧ Hub.sameEvent h (h.reqAccepted u) ∧ (h.reqAccepted u).slices = h.slices ∧
    (h.reqAccepted u).out = h.out := by
  unfold Hub.reqAccepted; (try dsimp only); (repeat' split) <;> simp

@[simp] theorem Hub.spanUnit_keeps (n : BitVec 3) (h : Hub) (u : SpanUnit) :
    Hub.sameConfig h (Hub.spanUnit n h u) ∧ Hub.sameFlow h (Hub.spanUnit n h u) ∧ (Hub.spanUnit n h u).pins = h.pins ∧
    (Hub.spanUnit n h u).mirror = h.mirror ∧ (Hub.spanUnit n h u).records = h.records ∧ (Hub.spanUnit n h u).lapses = h.lapses ∧
    (Hub.spanUnit n h u).reads = h.reads ∧ (Hub.spanUnit n h u).spill = h.spill ∧ (Hub.spanUnit n h u).rot = h.rot ∧
    (Hub.spanUnit n h u).slices = h.slices := by
  unfold Hub.spanUnit; (try dsimp only); (repeat' split) <;> simp

@[simp] theorem Hub.spanReplay_keeps (h : Hub) (n : BitVec 3) :
    Hub.sameConfig h (h.spanReplay n) ∧ Hub.sameFlow h (h.spanReplay n) ∧ Hub.sameStore h (h.spanReplay n) ∧
    (h.spanReplay n).slices = h.slices := by
  unfold Hub.spanReplay; (try dsimp only); (repeat' split) <;> simp

@[simp] theorem Hub.addWait_keeps (h : Hub) (g : Gaid) (t : Txid) (l : Line) (n : Nat) :
    Hub.sameConfig h (h.addWait g t l n) ∧ Hub.sameFlow h (h.addWait g t l n) ∧ Hub.sameStore h (h.addWait g t l n) ∧
    Hub.sameEvent h (h.addWait g t l n) ∧ (h.addWait g t l n).out = h.out := by
  unfold Hub.addWait; (try dsimp only); (repeat' split) <;> simp

@[simp] theorem Hub.reportLost_keeps (h : Hub) :
    Hub.sameConfig h (h.reportLost) ∧ Hub.sameFlow h (h.reportLost) ∧ Hub.sameStore h (h.reportLost) ∧
    (h.reportLost).slices = h.slices := by
  unfold Hub.reportLost; (try dsimp only); (repeat' split) <;> simp

end Sys2Proof.Machine
end

