-- ==== Sys2Proof/Laws/Memory.lean ====
section
/-!
SUPPORT. Laws of the byte memory of the mailbox rings (R380): every operation keeps its canonical form, a byte reads as it was written,
and a word as it was written.
-/
set_option Elab.async false
namespace Sys2Proof.Machine

/-- A canonical list above a bound is canonical above a lower one. -/
theorem Memory.wfAbove_mono {lo hi : Nat} (h : lo ≤ hi) : ∀ {m : Memory}, Memory.wfAbove hi m = true → Memory.wfAbove lo m = true
  | [], _ => rfl
  | (k, b) :: t, w => by
    simp only [Memory.wfAbove, Bool.and_eq_true, decide_eq_true_eq] at w ⊢
    exact ⟨⟨by omega, w.1.2⟩, w.2⟩

/-- A canonical list above a bound reads zero below it. -/
theorem Memory.read_below : ∀ {m : Memory} {lo a : Nat}, Memory.wfAbove lo m = true → a < lo → Memory.read m a = 0
  | [], _, _, _, _ => rfl
  | (k, b) :: t, lo, a, w, h => by
    simp only [Memory.wfAbove, Bool.and_eq_true, decide_eq_true_eq] at w
    have hk : k ≠ a := by omega
    simp only [Memory.read, if_neg hk]
    exact Memory.read_below w.2 (by omega)

/-- A write keeps the canonical form above any bound that the key meets. -/
theorem Memory.wfAbove_write : ∀ {m : Memory} {lo a : Nat} (b : Byte), lo ≤ a → Memory.wfAbove lo m = true →
    Memory.wfAbove lo (m.write a b) = true
  | [], lo, a, b, h, _ => by
    unfold Memory.write
    split
    · rfl
    · simp_all [Memory.wfAbove]
  | (k, v) :: t, lo, a, b, h, w => by
    simp only [Memory.wfAbove, Bool.and_eq_true, decide_eq_true_eq] at w
    unfold Memory.write
    split
    · rename_i hlt
      split
      · simp_all [Memory.wfAbove]
      · simp only [Memory.wfAbove, Bool.and_eq_true, decide_eq_true_eq]
        exact ⟨⟨h, by simpa⟩, ⟨⟨by omega, w.1.2⟩, w.2⟩⟩
    · split
      · rename_i heq
        subst heq
        split
        · exact Memory.wfAbove_mono (by omega) w.2
        · simp only [Memory.wfAbove, Bool.and_eq_true, decide_eq_true_eq]
          exact ⟨⟨h, by simpa⟩, w.2⟩
      · simp only [Memory.wfAbove, Bool.and_eq_true, decide_eq_true_eq]
        exact ⟨w.1, Memory.wfAbove_write b (by omega) w.2⟩

/-- A write keeps the canonical form. -/
theorem Memory.wf_write {m : Memory} (a : Nat) (b : Byte) (w : m.wf = true) : (m.write a b).wf = true :=
  Memory.wfAbove_write b (Nat.zero_le _) w

/-- Writing bytes keeps the canonical form. -/
theorem Memory.wf_writeBytes : ∀ (l : List Byte) {m : Memory} (a : Nat), m.wf = true → (m.writeBytes a l).wf = true
  | [], _, _, w => w
  | b :: t, _, a, w => Memory.wf_writeBytes t (a + 1) (Memory.wf_write a b w)

/-- Writing a word keeps the canonical form. -/
theorem Memory.wf_writeWord {m : Memory} (a : Nat) (v : Word) (w : m.wf = true) : (m.writeWord a v).wf = true :=
  Memory.wf_writeBytes _ _ w

/-- A sequence of word writes keeps the canonical form. -/
theorem Memory.wf_foldl {α : Type} (f : α → Nat) (g : α → Word) : ∀ (l : List α) {m : Memory}, m.wf = true →
    (l.foldl (fun m x => m.writeWord (f x) (g x)) m).wf = true
  | [], _, w => w
  | x :: t, _, w => Memory.wf_foldl f g t (Memory.wf_writeWord (f x) (g x) w)

/-- Another byte reads as before. -/
theorem Memory.read_write_other : ∀ (m : Memory) {a c : Nat} (b : Byte), c ≠ a → Memory.wf m = true → (m.write a b).read c = m.read c := by
  suffices H : ∀ (m : Memory) (lo : Nat) {a c : Nat} (b : Byte), c ≠ a → Memory.wfAbove lo m = true →
      (m.write a b).read c = m.read c from fun m a c b h w => H m 0 b h w
  intro m
  induction m with
  | nil =>
    intro lo a c b h _
    unfold Memory.write
    split
    · rfl
    · simp [Memory.read, Ne.symm h]
  | cons x t ih =>
    obtain ⟨k, v⟩ := x
    intro lo a c b h w
    simp only [Memory.wfAbove, Bool.and_eq_true, decide_eq_true_eq] at w
    unfold Memory.write
    split
    · split
      · rfl
      · simp [Memory.read, Ne.symm h]
    · split
      · rename_i heq
        subst heq
        split
        · simp only [Memory.read, if_neg (Ne.symm h)]
        · simp only [Memory.read, if_neg (Ne.symm h)]
      · simp only [Memory.read]
        rw [ih (k + 1) b h w.2]

/-- The byte written reads as it was written. -/
theorem Memory.read_write_same {m : Memory} (a : Nat) (b : Byte) (w : m.wf = true) : (m.write a b).read a = b := by
  suffices H : ∀ (m : Memory) (lo : Nat), Memory.wfAbove lo m = true → (m.write a b).read a = b from H m 0 w
  clear w m
  intro m
  induction m with
  | nil =>
    intro lo _
    unfold Memory.write
    split
    · simp_all [Memory.read]
    · simp [Memory.read]
  | cons x t ih =>
    obtain ⟨k, v⟩ := x
    intro lo w
    simp only [Memory.wfAbove, Bool.and_eq_true, decide_eq_true_eq] at w
    unfold Memory.write
    split
    · rename_i hlt
      split
      · rename_i hb
        rw [hb]
        simp only [Memory.read, if_neg (show k ≠ a by omega)]
        exact Memory.read_below w.2 (by omega)
      · simp [Memory.read]
    · split
      · rename_i heq
        subst heq
        split
        · rename_i hb
          rw [hb]
          exact Memory.read_below w.2 (by omega)
        · simp [Memory.read]
      · rename_i h1 h2
        simp only [Memory.read, if_neg (show k ≠ a from fun e => h2 e.symm)]
        exact ih (k + 1) w.2

/-- Bytes outside a written run read as before. -/
theorem Memory.read_writeBytes_other : ∀ (l : List Byte) {m : Memory} (a : Nat) {c : Nat}, (c < a ∨ a + l.length ≤ c) → m.wf = true →
    (m.writeBytes a l).read c = m.read c
  | [], _, _, _, _, _ => rfl
  | b :: t, m, a, c, h, w => by
    have hl : (b :: t).length = t.length + 1 := rfl
    unfold Memory.writeBytes
    rw [Memory.read_writeBytes_other t (a + 1) (by omega) (Memory.wf_write a b w), Memory.read_write_other m b (by omega) w]

/-- Bytes inside a written run read as written. -/
theorem Memory.read_writeBytes_same : ∀ (l : List Byte) {m : Memory} (a k : Nat) (hk : k < l.length), m.wf = true →
    (m.writeBytes a l).read (a + k) = l[k]
  | b :: t, m, a, 0, _, w => by
    show ((m.write a b).writeBytes (a + 1) t).read a = b
    rw [Memory.read_writeBytes_other t (a + 1) (by omega) (Memory.wf_write a b w), Memory.read_write_same a b w]
  | b :: t, m, a, k + 1, hk, w => by
    show ((m.write a b).writeBytes (a + 1) t).read (a + (k + 1)) = t[k]'(by simpa using hk)
    rw [show a + (k + 1) = a + 1 + k by omega]
    exact Memory.read_writeBytes_same t (a + 1) k (by simpa using hk) (Memory.wf_write a b w)

@[simp] theorem wordBytes_length (v : Word) : (wordBytes v).length = 8 := rfl

/-- Bytes outside a written word read as before. -/
theorem Memory.read_writeWord_other {m : Memory} (a : Nat) (v : Word) {c : Nat} (h : c < a ∨ a + 8 ≤ c) (w : m.wf = true) :
    (m.writeWord a v).read c = m.read c :=
  Memory.read_writeBytes_other _ a h w

/-- A word written reads as it was written. -/
theorem Memory.word_writeWord_same {m : Memory} (a : Nat) (v : Word) (w : m.wf = true) : (m.writeWord a v).word a = v := by
  have H : ∀ k (hk : k < 8), (m.writeWord a v).read (a + k) = (wordBytes v)[k] := fun k hk =>
    Memory.read_writeBytes_same (wordBytes v) a k hk w
  unfold Memory.word
  rw [H 7 (by omega), H 6 (by omega), H 5 (by omega), H 4 (by omega), H 3 (by omega), H 2 (by omega), H 1 (by omega),
    show (m.writeWord a v).read a = (wordBytes v)[0] from H 0 (by omega)]
  show v.extractLsb' 56 8 ++ v.extractLsb' 48 8 ++ v.extractLsb' 40 8 ++ v.extractLsb' 32 8 ++ v.extractLsb' 24 8 ++
    v.extractLsb' 16 8 ++ v.extractLsb' 8 8 ++ v.extractLsb' 0 8 = v
  repeat rw [BitVec.extractLsb'_append_extractLsb'_eq_extractLsb' (by rfl)]
  simp

/-- A word that does not meet the written one reads as before. -/
theorem Memory.word_writeWord_other {m : Memory} (a : Nat) (v : Word) {c : Nat} (h : c + 8 ≤ a ∨ a + 8 ≤ c) (w : m.wf = true) :
    (m.writeWord a v).word c = m.word c := by
  unfold Memory.word
  rw [Memory.read_writeWord_other a v (by omega) w, Memory.read_writeWord_other a v (by omega) w,
    Memory.read_writeWord_other a v (by omega) w, Memory.read_writeWord_other a v (by omega) w,
    Memory.read_writeWord_other a v (by omega) w, Memory.read_writeWord_other a v (by omega) w,
    Memory.read_writeWord_other a v (by omega) w, Memory.read_writeWord_other a v (by omega) w]

/-! ### The operations that write the rings -/

/-- Writing the words of finished responses keeps the canonical form. -/
theorem State.wf_flush {s : State} (w : s.ring.wf = true) : s.flush.ring.wf = true :=
  Memory.wf_foldl (α := Nat × Word) (fun x => x.1) (fun x => x.2) _ w

/-- Commands of mailboxes that end after a change of the hub keep the canonical form. -/
theorem State.wf_withHubR {s : State} (f : Hub → Hub) (w : s.ring.wf = true) : (s.withHubR f).ring.wf = true := by
  unfold State.withHubR
  exact State.wf_flush w

/-- A command that a message places keeps the canonical form. -/
theorem State.wf_mctpPlace {s : State} (n : BitVec 3) (words : List Word) (w : s.ring.wf = true) :
    (s.mctpPlace n words).ring.wf = true := by
  unfold State.mctpPlace State.withHub
  dsimp only
  exact Memory.wf_foldl (α := Nat) (fun k => cmdSlot n (s.hub.mb n).cmdTail + 8 * k) (fun k => List.nth words k 0) _ w

/-- A write of a word of the window keeps the canonical form. -/
theorem State.wf_writeWord {s : State} (g : Gaid) (off : Nat) (v : Word) (w : s.ring.wf = true) :
    (s.writeWord g off v).ring.wf = true := by
  unfold State.writeWord
  split
  · exact Memory.wf_writeWord off v w
  · exact w

end Sys2Proof.Machine
end

