-- ==== Sys2Proof/Laws/Tbl.lean ====
section
/-!
SUPPORT. Reading a sparse table, or one unit of the hub, after a write.
-/
set_option Elab.async false
namespace Sys2Proof.Machine

theorem Tbl.look_put_self {α : Type} (t : Tbl α) (i : Nat) (x : α) : (Tbl.put t i x).look i = some x := by
  induction t with
  | nil => simp [Tbl.put, Tbl.look]
  | cons e t ih =>
    obtain ⟨k, v⟩ := e
    unfold Tbl.put
    split
    · simp [Tbl.look]
    · split
      · simp [Tbl.look]
      · rename_i h1 h2
        simp only [Tbl.look]
        rw [if_neg (fun h => h2 h.symm)]
        exact ih

theorem Tbl.look_put_ne {α : Type} (t : Tbl α) (i j : Nat) (x : α) (h : j ≠ i) : (Tbl.put t i x).look j = t.look j := by
  induction t with
  | nil => simp [Tbl.put, Tbl.look, Ne.symm h]
  | cons e t ih =>
    obtain ⟨k, v⟩ := e
    unfold Tbl.put
    split
    · simp [Tbl.look, Ne.symm h]
    · split
      · rename_i h1 h2
        subst h2
        simp [Tbl.look, Ne.symm h]
      · simp only [Tbl.look, ih]

@[simp] theorem Tbl.getD_put_self {α : Type} (t : Tbl α) (i : Nat) (x d : α) : (Tbl.put t i x).getD i d = x := by
  simp [Tbl.getD, Tbl.look_put_self]

theorem Tbl.getD_put_ne {α : Type} (t : Tbl α) (i j : Nat) (x d : α) (h : j ≠ i) : (Tbl.put t i x).getD j d = t.getD j d := by
  simp [Tbl.getD, Tbl.look_put_ne t i j x h]

@[simp] theorem Tbl.getD_upd_self {α : Type} (t : Tbl α) (i : Nat) (d : α) (f : α → α) :
    (t.upd i d f).getD i d = f (t.getD i d) := by
  simp [Tbl.upd]

theorem Tbl.getD_upd_ne {α : Type} (t : Tbl α) (i j : Nat) (d : α) (f : α → α) (h : j ≠ i) :
    (t.upd i d f).getD j d = t.getD j d := by
  simp [Tbl.upd, Tbl.getD_put_ne _ _ _ _ _ h]

theorem Tbl.getD_upd {α : Type} (t : Tbl α) (i j : Nat) (d : α) (f : α → α) :
    (t.upd i d f).getD j d = if j = i then f (t.getD i d) else t.getD j d := by
  by_cases h : j = i
  · subst h; simp
  · simp [h, Tbl.getD_upd_ne]

theorem Tbl.look_drop_self {α : Type} (t : Tbl α) (i : Nat) : (t.drop i).look i = none := by
  induction t with
  | nil => rfl
  | cons e t ih =>
    obtain ⟨k, v⟩ := e
    unfold Tbl.drop at *
    rw [List.filter_cons]
    split
    · rename_i h
      simp only [Tbl.look]
      rw [if_neg (by simpa using h)]
      exact ih
    · exact ih

theorem Tbl.look_drop_ne {α : Type} (t : Tbl α) (i j : Nat) (h : j ≠ i) : (t.drop i).look j = t.look j := by
  induction t with
  | nil => rfl
  | cons e t ih =>
    obtain ⟨k, v⟩ := e
    unfold Tbl.drop at *
    rw [List.filter_cons]
    split
    · simp only [Tbl.look, ih]
    · rename_i hk
      have hk : k = i := by simpa using hk
      subst hk
      simp only [Tbl.look, ih]
      rw [if_neg (Ne.symm h)]

@[simp] theorem Tbl.getD_set_self {α : Type} [DecidableEq α] (t : Tbl α) (i : Nat) (d x : α) : (t.set i d x).getD i d = x := by
  unfold Tbl.set
  split
  · rename_i h; subst h; simp [Tbl.getD, Tbl.look_drop_self]
  · simp

theorem Tbl.getD_set_ne {α : Type} [DecidableEq α] (t : Tbl α) (i j : Nat) (d x : α) (h : j ≠ i) :
    (t.set i d x).getD j d = t.getD j d := by
  unfold Tbl.set
  split
  · simp [Tbl.getD, Tbl.look_drop_ne t i j h]
  · exact Tbl.getD_put_ne _ _ _ _ _ h

/-! ### One unit after a change of a unit -/

@[simp] theorem Hub.slice_onSlice_self (h : Hub) (n : Nat) (f : Slice → Slice) : (h.onSlice n f).slice n = f (h.slice n) := by
  simp [Hub.slice, Hub.onSlice]

theorem Hub.slice_onSlice_ne (h : Hub) (n m : Nat) (f : Slice → Slice) (hm : m ≠ n) : (h.onSlice n f).slice m = h.slice m :=
  Tbl.getD_upd_ne _ _ _ _ _ hm

theorem Hub.slice_onSlice (h : Hub) (n m : Nat) (f : Slice → Slice) :
    (h.onSlice n f).slice m = if m = n then f (h.slice n) else h.slice m := Tbl.getD_upd _ _ _ _ _

@[simp] theorem Hub.ap_onAp_self (h : Hub) (p : BitVec 4) (f : ApPort → ApPort) : (h.onAp p f).ap p = f (h.ap p) := by
  simp [Hub.ap, Hub.onAp]

theorem Hub.ap_onAp_ne (h : Hub) (p q : BitVec 4) (f : ApPort → ApPort) (hq : q ≠ p) : (h.onAp p f).ap q = h.ap q :=
  Tbl.getD_upd_ne _ _ _ _ _ (fun e => hq (BitVec.eq_of_toNat_eq e))

@[simp] theorem Hub.sp_onSp_self (h : Hub) (n : BitVec 3) (f : SpPort → SpPort) : (h.onSp n f).sp n = f (h.sp n) := by
  simp [Hub.sp, Hub.onSp]

theorem Hub.sp_onSp_ne (h : Hub) (n m : BitVec 3) (f : SpPort → SpPort) (hm : m ≠ n) : (h.onSp n f).sp m = h.sp m :=
  Tbl.getD_upd_ne _ _ _ _ _ (fun e => hm (BitVec.eq_of_toNat_eq e))

/-! ### Units seen from a hub whose tables of them are the same -/

theorem Hub.slice_congr (h k : Hub) (n : Nat) (e : h.slices = k.slices) : h.slice n = k.slice n := by simp [Hub.slice, e]
theorem Hub.ap_congr (h k : Hub) (p : BitVec 4) (e : h.aps = k.aps) : h.ap p = k.ap p := by simp [Hub.ap, e]

end Sys2Proof.Machine
end

