-- ==== Sys2Proof/Laws/Requests.lean ====
section
/-!
SUPPORT. Coherent requests at their edge router: what a new one's taking does, said once for every kind of request.
-/
set_option Elab.async false
namespace Sys2Proof.Machine
open Sys2Proof.Safety

/-- A new request passes its edge router's checks. -/
theorem request_new (h : Hub) (p : BitVec 4) (f : Flit) (op : ReqOp) (d : Option WrData) (o : BitVec 256)
    (n : NewRequest h p f op d) : h.request p f op d o = h.letIn p f op d o := by
  obtain ⟨h1, h2, ⟨h3, h4, h5, h6⟩, h7, h8, h9, h10, h11⟩ := n
  have hb : h.badRequest p f op d = false := by
    unfold Hub.badRequest ApPort.txidBusy
    rw [h7]
    cases hd : d with
    | none => cases hc : op.cached <;> simp_all
    | some w =>
      have := h9 w hd
      cases hc : op.cached <;> cases op <;> simp_all
  obtain ⟨w, h10⟩ | ⟨e, h10, h12⟩ := h10
  · simp [Hub.request, h1, Hub.fromGaid, h2, Hub.fromAgent, h3, h4, h5, h6, hb, h10, h11]
  · simp [Hub.request, h1, Hub.fromGaid, h2, Hub.fromAgent, h3, h4, h5, h6, hb, h10, h11]
    intro h13
    simp_all

/-- A new request, other than a reservation load, is noted with its data staged and presented. -/
theorem letIn_new (h : Hub) (p : BitVec 4) (f : Flit) (op : ReqOp) (d : Option WrData) (o : BitVec 256)
    (n : NewRequest h p f op d) (hr : op ≠ .rsvLoad) : h.letIn p f op d o =
    ((match d with | some w => h.onAp p fun a => a.stage (h.reqOf op f o) w | none => h).onAp p fun a => a.note (h.reqOf op f o)).present
      (h.reqOf op f o) none := by
  have hr' : (op == ReqOp.rsvLoad) = false := by simpa using hr
  have hj : ∀ (k : Hub) (r : Req), r.op = op → r.rsvSeq = k.seqOf op r.gaid.la → k.inject r none = k.present r none := by
    intro k r e1 e2
    subst e1
    simp only [Hub.inject, Hub.releaseOther, hr', Bool.false_and, Bool.false_eq_true, if_false, ← e2]
  simp only [Hub.letIn, n.fresh, Option.bind_none, repFate, hr', Bool.false_and, Bool.false_eq_true, if_false]
  cases d <;> exact hj _ _ rfl (by simp [Hub.reqOf, Hub.seqOf, Hub.rsvRec])

/-- A presented request stands last in the input buffer of its slice; the other slices are as before. -/
theorem Hub.present_slice (h : Hub) (r : Req) (k : Option Nat) (m : Nat) :
    (h.present r k).slice m = if m = h.homeHs r.line then
      { h.slice m with inbuf := (h.slice m).inbuf ++ [⟨{ r with age := h.ageOf r.gaid h.round }, k, h.round + 1⟩] } else h.slice m := by
  have e2 : ∀ a b c d n, ((({ h with lapses := dropRefusal h.lapses r.gaid r.txid r.line } : Hub).moved a b c d).slice n) = h.slice n :=
    fun a b c d n => by simp [Hub.slice]
  simp only [Hub.present, Hub.slice_onSlice, e2]
  split
  · simp_all
  · simp_all

/-- A presentation leaves every agent port. -/
theorem Hub.present_aps (h : Hub) (r : Req) (k : Option Nat) : (h.present r k).aps = h.aps := by simp [Hub.present]

/-- The slice of a line depends on the rotation and the slice map alone. -/
theorem homeHs_congr (h k : Hub) (l : Line) (e1 : k.rot = h.rot) (e2 : k.map = h.map) : k.homeHs l = h.homeHs l := by
  simp [Hub.homeHs, Hub.hsOf, e1, e2]

/-- What the presentation of a new request may write. -/
theorem present_only (s : State) (p : BitVec 4) (f : Flit) (op : ReqOp) (d : Option WrData) (o : BitVec 256)
    (n : NewRequest s.hub p f op d) (hr : op ≠ .rsvLoad) : onlyIn presentParts s (s.withHub fun h => h.request p f op d o) := by
  simp only [State.withHub, request_new s.hub p f op d o n, letIn_new s.hub p f op d o n hr]
  intro q hq
  cases q <;> first | exact absurd (by decide) hq | (cases d <;> simp [Part.same, Hub.present])

/-- What the presentation of a new request leaves. -/
theorem presented (s : State) (p : BitVec 4) (f : Flit) (op : ReqOp) (d : Option WrData) (o : BitVec 256)
    (n : NewRequest s.hub p f op d) (hr : op ≠ .rsvLoad) :
    Presented s (s.withHub fun h => h.request p f op d o) p (s.hub.reqOf op f o) d := by
  simp only [State.withHub, request_new s.hub p f op d o n, letIn_new s.hub p f op d o n hr]
  refine ⟨?_, ?_, ?_, ?_, ?_⟩
  case refine_1 => cases d <;> (show Hub.slice _ _ = _; rw [Hub.present_slice]; exact if_pos rfl)
  case refine_2 => cases d <;> (intro m hm; show Hub.slice _ _ = _; rw [Hub.present_slice]; exact if_neg hm)
  case refine_3 =>
    cases d <;> (intro q hq; show Hub.ap _ _ = _; rw [Hub.ap_congr _ _ q (Hub.present_aps _ _ _)]; simp [Hub.ap_onAp_ne _ _ _ _ hq])
  case refine_4 =>
    cases d <;> (show _ ∈ (Hub.ap _ _).outst; rw [Hub.ap_congr _ _ p (Hub.present_aps _ _ _)]; simp [ApPort.note])
  case refine_5 =>
    cases d with
    | none => simp
    | some w =>
      intro w' e; cases e
      show _ ∈ (Hub.ap _ _).staged; rw [Hub.ap_congr _ _ p (Hub.present_aps _ _ _)]; simp [ApPort.note, ApPort.stage]

end Sys2Proof.Machine
end

