-- ==== Sys2Proof/Tests/Slice0.lean ====
section
/-!
SUPPORT. Tests: ill-formed commands are refused, the queue runs first in first out, small effects of the spec's worked examples, and, for
each statement with hypotheses, a state and operands that meet them (one for each clause).
-/
set_option Elab.async false
namespace Sys2Proof.Tests
open Sys2Proof Sys2Proof.Machine Sys2Proof.Safety

/-! ### A small state: a hub in service -/

/-- A caching agent online at position 0 of a port. -/
def agentOn (p : BitVec 4) : Agent := ⟨true, true, true, false, p, 0, false, false, false⟩
/-- An online agent port with credits. -/
def portOn : ApPort := { ApPort.init with online := true, link := .online, reqCred := 8, snpCred := 8, rspCred := 8, datCred := 8 }
/-- A hub in service in round 100: agents 3 and 4 on ports 0 and 1, and memory port 0 with window 0 over the first GiB on channel 0. -/
def hub : Hub := { Hub.cold with
  round := 100
  start := { Start.init with phase := .serving, step := 12 }
  par := [(0x1, 0), (0x200, 1), (0x680, 1), (0x681, 1), (0x780, 1), (0x790, 0x4000000), (0x7A0, 1)]
  agents := [(3, agentOn 0), (4, agentOn 1)]
  aps := [(0, portOn), (1, portOn)]
  mps := [(0, { MpPort.init with online := true, link := .online })]
  chans := [(0, { Chan.init with cap := 1, rdCred := 64, wrCred := 64, wmHigh := 64 })] }
/-- A state with a hub. -/
def withHub (h : Hub) : State := { State.reset with hub := h }
/-- The state of that hub. -/
def st : State := withHub hub
/-- Agent 3's and agent 4's identifiers. -/
def gaid3 : Gaid := Gaid.mk hub.num 3
def gaid4 : Gaid := Gaid.mk hub.num 4
/-- A flit of agent 3 for line 5, which slice 5 serves. -/
def fl : Flit := Flit.plain gaid3 7 5 0
/-- Whole, sound, clean data. -/
def whole : WrData := ⟨0, 0, false, false, true⟩
def pay : Payload := ⟨0, false, false, true⟩
/-- The same as the mesh delivers it, clean and with an uncorrectable word. -/
def meshed : MeshData := ⟨pay, 0⟩
def broken : MeshData := ⟨pay, 4⟩
theorem test_mesh_word : meshLine meshed = pay ∧ (meshLine broken).poison = true ∧ broken.line.sound = true ∧ enterPoison false broken.ue = 0xFF0000 := by
  decide +kernel
/-- That hub with slice 5 changed, and with a port changed. -/
def slice5 (f : Slice → Slice) : State := withHub (hub.onSlice 5 f)
def port0 (f : ApPort → ApPort) : State := withHub (hub.onAp 0 f)
/-- Agent 3's read of line 5, and its open transaction, looked up. -/
def req3 : Req := hub.reqOf .rdShared fl 0
def txn3 : Txn := ⟨1, req3, 90, 100, .looked, .unc, .none, none, none, some 0, { Gate.init with released := true, judged := true }, [], none,
  false, false, false, false, [], 0, 0, [], none, false, [], false, false, false, 0, false, true, true, false⟩

/-! ### Witnesses: requests and rules -/

theorem wit_new (op : ReqOp) (d : Option WrData) (hd : ∀ w, d = some w → w.sound = true ∧ (op = .wrPart → fl.pair = true → pairBad w.mask = false))
    (hf : hub.badForm fl op = false) : NewRequest hub 0 fl op d :=
  ⟨rfl, rfl, ⟨rfl, rfl, rfl, rfl⟩, rfl, fun _ => rfl, hd, .inl ⟨0, by decide +kernel⟩, hf⟩

theorem wit_CoherentRequestsArePresented :
    (∀ op, op ≠ .atom → NewRequest hub 0 fl op none) ∧ NewRequest hub 0 fl .atom none ∧
    (∀ op, op ≠ .atom → NewRequest hub 0 fl op (some whole)) := by
  have hf : ∀ op, op ≠ .atom → hub.badForm fl op = false := by intro op h; cases op <;> first | exact absurd rfl h | decide +kernel
  exact ⟨fun op h => wit_new op none (by simp) (hf op h), wit_new .atom none (by simp) (by decide +kernel),
    fun op h => wit_new op _ (by rintro w ⟨⟩; exact ⟨rfl, fun _ h => absurd h (by decide)⟩) (hf op h)⟩

/-- A write of a pair. -/
def flPair : Flit := { fl with low := 0x2000000 }
def pairData (m : ByteMask) : WrData := ⟨0, m, true, false, true⟩
theorem wit_PairWritesEnableOneAlignedPair :
    flPair.pair = true ∧ fromOnline hub 0 flPair.gaid.la ∧ NewRequest hub 0 flPair .wrPart none ∧ hears hub flPair.gaid.la ∧
    (pairData 0xFFFF000000000000).mask = 0xFFFF#64 <<< (16 * 3) ∧ (∀ k, k < 4 → (pairData 0x1FFFE).mask ≠ 0xFFFF#64 <<< (16 * k)) := by
  refine ⟨by decide, ⟨rfl, rfl, rfl, rfl⟩, ⟨rfl, rfl, ⟨rfl, rfl, rfl, rfl⟩, rfl, fun _ => rfl, by simp, .inl ⟨0, by decide +kernel⟩, by decide +kernel⟩,
    ⟨rfl, rfl, rfl, by decide +kernel, by decide +kernel, by decide +kernel⟩, by decide +kernel, by decide +kernel⟩

/-- A flit of agent 3 for the line of the window's alias at an offset. -/
def flWin (off : Nat) : Flit := { fl with line := BitVec.ofNat 46 (aliasWindowLine + off / 64) }
theorem wit_UnlistedWindowOffsetsReadZeroAndTakeNoWrite :
    NewDevice hub 0 (flWin 0x2000) ∧ hub.classify (flWin 0x2000).line = .window hub.num ∧ hears hub gaid3.la ∧
    (regAt (windowOffset (flWin 0x2000).line + 8 * 7) = none ∧ hub.mayWrite gaid3 (windowOffset (flWin 0x2000).line + 8 * 7) = true) ∧
    NewDevice hub 0 (flWin 0x40) ∧ hub.classify (flWin 0x40).line = .window hub.num ∧
    (regAt (windowOffset (flWin 0x40).line + 8 * 7) = none ∧ hub.mayWrite gaid3 (windowOffset (flWin 0x40).line + 8 * 7) = false) ∧
    (⟨0, wordMask 7, true, false, true⟩ : WrData).mask = wordMask 7 := by
  refine ⟨⟨rfl, rfl, ⟨rfl, rfl, rfl, rfl⟩, by decide +kernel⟩, by decide +kernel, ⟨rfl, rfl, rfl, by decide +kernel, by decide +kernel, by decide +kernel⟩,
    by decide +kernel, ⟨rfl, rfl, ⟨rfl, rfl, rfl, rfl⟩, by decide +kernel⟩, by decide +kernel, by decide +kernel, by decide +kernel⟩

/-! ### Witnesses: slices -/

/-- Line 5's way 0 holds a view. -/
def viewed (v : SView) : Slice → Slice := fun s => { s with sf := [(sfKey fl.line.sfSet 0, v.word fl.line.sfTag)] }
/-- A line of the write buffer of slice 5. -/
def wb5 : WbLine := ⟨5, 5, 0, 0, BitVec.allOnes 64, 0, .general, [], [], false, none, true, false, true, false, false, 0, none⟩
/-- An accepted transaction of agent 4 whose lookup is still to come. -/
def coming : Txn := { txn3 with req := { req3 with gaid := gaid4 }, acc := 99, phase := .accepted, gate := Gate.init }
def comingTo (v : SView) : State := slice5 fun s => { viewed v s with txns := [coming] }
theorem wit_clean (h : Hub) (hw : (h.slice (h.homeHs 5)).badWays fl.line.sfSet = 0) (hd : (h.slice (h.homeHs 5)).badHubWays fl.line.sdSet = 0)
    (hc : (h.slice (h.homeHs 5)).badHcWays fl.line.hcSet = 0) : cleanLookup h 5 .none :=
  ⟨⟨rfl, rfl, rfl, hw⟩, rfl, rfl, hd, rfl, rfl, rfl, rfl, rfl, hc⟩
theorem wit_WritebacksEnterTheWriteBuffer :
    (∀ v : SView, v = .own 3 ∨ v = .own 4 ∨ v = .shr [4, 3] none →
      NewNotice (slice5 (viewed v)).hub 0 fl ∧ cleanLookup (slice5 (viewed v)).hub 5 .none) ∧
    (NewNotice (comingTo (.own 3)).hub 0 fl ∧ cleanLookup (comingTo (.own 3)).hub 5 .none) ∧
    (((slice5 (viewed (.own 3))).hub.slice 5).wbCase 5 3 = .taken ∧ (slice5 (viewed (.own 3))).hub.lineDown 5 = false ∧
      (slice5 (viewed (.own 3))).hub.wbFind 5 5 = none) ∧
    (((comingTo (.own 3)).hub.slice 5).wbCase 5 3 = .taken ∧ ((comingTo (.own 3)).hub.slice 5).lookupDue 5 = true) ∧
    ((slice5 fun s => { viewed (.own 3) s with wb := [wb5] }).hub.wbFind 5 5 = some wb5) ∧
    ((slice5 (viewed (.own 4))).hub.slice 5).wbCase 5 3 = .unnamed ∧
    (((slice5 (viewed (.shr [4, 3] none))).hub.slice 5).lookupDue 5 = false ∧
      ((slice5 (viewed (.shr [4, 3] none))).hub.slice 5).lookedOn 5 = none ∧
      ((slice5 (viewed (.shr [4, 3] none))).hub.slice 5).healthyWays 5 = [0] ∧
      ((slice5 (viewed (.shr [4, 3] none))).hub.slice 5).viewAt fl.line.sfSet 0 = some (.shr [4, 3] none) ∧
      SView.without (.shr [4, 3] none) (fun a => a == 3) ≠ .shr [4, 3] none) := by
  refine ⟨?_, ⟨⟨rfl, rfl, ⟨rfl, rfl, rfl, rfl⟩, rfl, rfl, by decide +kernel⟩,
      wit_clean _ (by decide +kernel) (by decide +kernel) (by decide +kernel)⟩, by decide +kernel, by decide +kernel, by decide +kernel,
    by decide +kernel, by decide +kernel⟩
  rintro v (rfl | rfl | rfl) <;>
    exact ⟨⟨rfl, rfl, ⟨rfl, rfl, rfl, rfl⟩, rfl, rfl, by decide +kernel⟩,
      wit_clean _ (by decide +kernel) (by decide +kernel) (by decide +kernel)⟩

def held3 : HeldRep := ⟨req3, 101⟩
def ticket3 : Ticket := ⟨99, req3, 2, 130, false, false⟩
theorem wit_HeldRequestsAndTheirRecordsEnd :
    ((port0 fun a => { a with holds := [held3] }).hub.ap 0).holds.find? (fun x => x.req.gaid == gaid3 && x.req.txid == 7) = some held3 ∧
    held3.at_ ≤ hub.round + 1 ∧
    ticket3 ∈ ((slice5 fun s => { s with tickets := [ticket3] }).hub.slice 5).tickets ∧ ticket3.round + 1 ≤ hub.round ∧
    (let h : Hub := { hub with
       lapses := [(gaid3.toNat, [⟨7, 5, 36⟩])]
       records := [(gaid3.toNat, [⟨7, 5, 30⟩])] }
     (∀ r ∈ h.lapses.getD gaid3.toNat [], r.round + 64 ≤ h.round) ∧ h.lapses.getD gaid3.toNat [] ≠ [] ∧
       (∃ r ∈ h.records.getD gaid3.toNat [], r.isOf 7 5 = true) ∧
       ∀ q ∈ h.records.getD gaid3.toNat [], ∃ r ∈ h.lapses.getD gaid3.toNat [], r.round + 64 ≤ h.round ∧ q.isOf r.txid r.line = true) := by
  decide +kernel

def grant3 : Txn := { txn3 with gate := { txn3.gate with grant := gS } }
def open5 (x : Txn) : State := slice5 fun s => { s with txns := [x] }
theorem wit_GrantedTransactionsCloseIntoAHold :
    fromOnline hub 0 gaid3.la ∧
    ((open5 grant3).hub.findTxn gaid3 7 5 = some grant3 ∧ (open5 grant3).hub.txn ((open5 grant3).hub.homeHs 5) 1 = some grant3 ∧
      grant3.closable = true ∧ grant3.gate.grant ≠ 0 ∧ grant3.acked = none ∧ grant3.req.span = false ∧ grant3.deadReq = false ∧
      ((open5 grant3).hub.slice 5).acksDue.contains (gaid3, 7, 5) = false ∧ (open5 grant3).hub.isHome 5 = true ∧ grant3.worst ≤ hub.round) ∧
    ((slice5 fun s => { s with acksDue := [(gaid3, 7, 5)] }).hub.slice 5).acksDue.contains (gaid3, 7, 5) = true ∧
    (hub.findTxn gaid3 7 5 = none ∧ (hub.slice 5).acksDue.contains (gaid3, 7, 5) = false) ∧
    (⟨5, some 3, 99, some 0⟩ : Hold) ∈ ((slice5 fun s => { s with holds := [⟨5, some 3, 99, some 0⟩] }).hub.slice 5).holds :=
  ⟨⟨rfl, rfl, rfl, rfl⟩, by decide +kernel⟩

def snoop4 (late : Bool) (n : Nat) : Snoop :=
  ⟨4, 1, 5, .inv, false, false, true, gaid3, 7, 5, .txn 1, n, late, none, false⟩
def snooped (sn : Snoop) : State := withHub (hub.onAp 1 fun a => { a with snoops := [sn] })
def dead3 : Txn := { txn3 with deadReq := true }
theorem wit_LateAgentsAreReportedThenDead :
    (snooped (snoop4 false 96)).hub.snoopOf 4 gaid3 7 5 = some (snoop4 false 96) ∧ (snoop4 false 96).offered + 4 ≤ hub.round ∧
    (snooped (snoop4 true 32)).hub.snoopOf 4 gaid3 7 5 = some (snoop4 true 32) ∧ (snoop4 true 32).offered + 68 ≤ hub.round ∧
    (hub.agent 4).valid = true ∧
    ((withHub (hub.onAgent 4 fun a => { a with dead := true })).hub.agent 4).dead = true ∧
    ((withHub (hub.onAgent 4 fun a => { a with dead := true })).hub.agent 4).online = true ∧
    (open5 dead3).hub.txn 5 1 = some dead3 ∧ dead3.closableDead = true ∧ dead3.worst ≤ hub.round ∧ hub.isHome dead3.req.line = true := by
  decide +kernel

def walkAt (left : Nat) : Walk := ⟨0x10, 3, left, []⟩
def walking (left : Nat) : Slice → Slice := fun s => { s with walk := some (walkAt left) }
/-- A walk for agent 3 that reads set 16, where that agent owns a line; the slice's general places are free, or all taken. -/
def walkOwn (n : Nat) : State := slice5 fun s => { s with
  walk := some ⟨8, 0x10, 2, []⟩
  sf := [(sfKey 0x10 0, (SView.own 3).word 0)]
  wb := (upTo n).map fun k => { wb5 with line := BitVec.ofNat 46 (5 + 64 * k) } }
/-- Run-ahead finds set 5 with agent 3 as the owner of a line in way 0. -/
def ahead5 : State := withHub { (hub.onSlice 5 fun s => { viewed (.own 3) s with runQ := [fl.line.sfSet] }) with par := (0x80, 0) :: hub.par }
def sweep5 (w : Bool) : Sweep := ⟨false, fl.line.sfSet, 0, 0, [], 0, none, w⟩
def swept (w : Bool) (f : Slice → Slice) : State := slice5 fun s => f { viewed (.deg false) s with sweeps := [sweep5 w] }
theorem wit_BackgroundWalksAdvance :
    hsExists 5 = true ∧ ((slice5 (walking 2)).hub.slice 5).walk = some (walkAt 2) ∧ 1 < (walkAt 2).left ∧
    ((slice5 (walking 0)).hub.slice 5).walk = some (walkAt 0) ∧ (walkAt 0).revisit = [] ∧
    (∀ k, k < 16 → (walked (walkOwn 0).hub 5 ⟨8, 0x10, 2, []⟩ .none).walkWaits 5 8 0x10 k = false) ∧
    (walked (walkOwn 236).hub 5 ⟨8, 0x10, 2, []⟩ .none).walkWaits 5 8 0x10 0 = true ∧
    (hub.slice 5).walk = none ∧ hub.drains 5 hub.round = false ∧
    ((ahead5.hub.slice 5).walk = none ∧ ahead5.hub.drains 5 100 = false ∧ ahead5.hub.freeBack 5 = some 0 ∧
      (ahead5.hub.trimQueues 5).aheadSets 5 = ([5], []) ∧ ((ahead5.hub.slice 5).victim 5 100).1 = some 0 ∧
      (ahead5.hub.slice 5).viewAt 5 0 = some (.own 3) ∧ snoopable ahead5.hub 3) ∧
    ((swept true id).hub.slice 5).sweepOf false 5 0 = some (sweep5 true) ∧ (swept true id).hub.sweepMove 5 5 (sweep5 true) = .wait ∧
    (swept false fun s => { s with txns := [txn3] }).hub.sweepMove 5 5 (sweep5 false) = .list ∧
    (((swept false id).hub.slice 5).sweepOf false 5 0 = some (sweep5 false) ∧ (swept false id).hub.sweepMove 5 5 (sweep5 false) = .start 5 ∧
      (swept false id).hub.freeBack 5 = some 0 ∧ (swept false id).hub.aheadSets 5 = ([], []) ∧ 3 ∈ (swept false id).hub.domain 5 ∧
      snoopable (swept false id).hub 3 ∧ ((swept false id).hub.slice 5).backOn 5 = none) := by
  unfold snoopable walked
  decide +kernel

theorem wit_ScrubReadsRepairOrReport :
    hsExists 5 = true ∧ (hub.slice 5).walk = none ∧ (hub.slice 5).pinned ((hub.slice 5).lineAt 5 0) hub.round = false ∧
    (stopExists 95 = true ∧ (0x7 : Word) ≠ hub.pw 0x40) ∧
    (hub.start.phase = .serving ∧ hub.start.fatal = false) ∧
    ((slice5 fun s => { s with scrub := ⟨100, 4096, [], false⟩ }).hub.slice 5).scrub.sdPos = 4096 ∧
    (((slice5 fun s => { s with scrub := ⟨100, 0, [], false⟩ }).hub.slice 5).scrub.late = false ∧
      ((slice5 fun s => { s with scrub := ⟨100, 0, [], false⟩ }).hub.slice 5).scrub.due ≤ hub.round) ∧
    hsExists 95 = false := by
  decide +kernel

/-! ### Witnesses: memory -/

/-- A read of line 5 on channel 0. -/
def read5 : MemRead := ⟨0, 9, 5, 5, .txn 1, false, false, false, false, .none, none, none, false, false, false, none, none, false⟩
/-- Grants of this round for a write, a spill move and a recall of slice 5. -/
def grants5 : Tbl Arbiter := [(5, { Arbiter.init with grants := [1, 1, 0, 0] }), (65, { Arbiter.init with grants := [1, 0, 0, 0] })]
/-- Slice 5 holds a lock on channel 1 and asks for another on channel 0. -/
def locks5 : State := withHub { hub with
  reads := [{ read5 with ch := 1, mtag := 8, line := 69, lk := true, sent := true }, { read5 with lk := true }]
  chans := (1, { Chan.init with cap := 1, lock := some 8 }) :: hub.chans }
def reading (r : MemRead) : State := withHub { hub with reads := [r] }
def buffered (x : WbLine) : State := withHub { (hub.onSlice 5 fun s => { s with wb := [x] }) with arbs := grants5 }
theorem wit_MemoryCommandsAreSent :
    (∀ r ∈ [read5, { read5 with lk := true }],
      (reading r).hub.chanOnline 0 = true ∧ ((reading r).hub.chan 0).down = false ∧
        (((reading r).hub.takePaused 0).refuseLock 0).nextRead 0 = some r ∧
        awake (((reading r).hub.takePaused 0).refuseLock 0) (.mp (BitVec.ofNat 3 (portOfChan 0)))) ∧
    (locks5.hub.chanOnline 0 = true ∧ (locks5.hub.chan 0).down = false ∧
      ∃ q ∈ (locks5.hub.takePaused 0).reads, (locks5.hub.takePaused 0).readFree 0 q = true ∧ (locks5.hub.takePaused 0).lockHeld q = true) ∧
    ((buffered wb5).hub.lineMap 5).1 = [0] ∧ (buffered wb5).hub.wbFind 5 5 = some wb5 ∧ (buffered wb5).hub.homeHs 5 = 5 ∧
    (buffered wb5).hub.writeSendable 0 wb5 = true ∧ (∀ y ∈ (buffered wb5).hub.allWb, y.front = true → y.line = 5) ∧
    (buffered wb5).hub.grantedAll ((buffered wb5).hub.writeGrants wb5 0) = true ∧
    awake (buffered wb5).hub (.mp (BitVec.ofNat 3 (portOfChan 0))) := by
  refine ⟨?_, by decide +kernel, by decide +kernel, by decide +kernel, by decide +kernel, by decide +kernel, by decide +kernel, by decide +kernel, rfl⟩
  intro r m
  rcases List.mem_cons.1 m with rfl | m
  · exact ⟨by decide +kernel, by decide +kernel, by decide +kernel, rfl⟩
  · rcases List.mem_singleton.1 m with rfl
    exact ⟨by decide +kernel, by decide +kernel, by decide +kernel, rfl⟩

/-- A read that waits for its data, its transaction with and without an answer due, and their hub without other channels. -/
def sent5 : MemRead := { read5 with sent := true, pres := some 50 }
def waits3 : Txn := { txn3 with memRead := true, gate := { Gate.init with expect := [4], need := true } }
def needs3 : Txn := { txn3 with memRead := true, gate := { Gate.init with judged := true, need := true } }
def awaiting (x : Txn) (r : MemRead) : State := withHub { (hub.onSlice 5 fun s => { s with txns := [x] }) with
  reads := [r]
  chans := [] }
theorem wit_ReadDataReachesItsTransaction :
    ((awaiting waits3 sent5).hub.readOf 0 9 = some sent5 ∧ (awaiting needs3 sent5).hub.readOf 0 9 = some sent5) ∧
    (quietMailboxes (awaiting waits3 sent5).hub ∧ quietMailboxes (awaiting needs3 sent5).hub) ∧ meshed.line.sound = true ∧
    (∀ c, portOfChan c = 0 → ((awaiting waits3 sent5).hub.chan c).lost.contains 9 = false) ∧
    (sent5.sent = true ∧ sent5.held = none ∧ sent5.who = .txn 1 ∧ sent5.spec = false ∧ sent5.dec ≠ .cancelled ∧ sent5.lk = false) ∧
    ((awaiting waits3 sent5).hub.readTxn 5 sent5 1 = some waits3 ∧ (awaiting needs3 sent5).hub.readTxn 5 sent5 1 = some needs3) ∧
    AwaitsAnswers waits3 ∧ AwaitsData needs3 ∧ hears (awaiting needs3 sent5).hub needs3.req.gaid.la ∧
    (50 + (awaiting needs3 sent5).hub.bound 0 ≤ 100 ∧ sent5.late = false ∧ sent5.who ≠ .mirror true) ∧
    50 + 2 * (awaiting needs3 sent5).hub.bound 0 ≤ 100 := by
  refine ⟨by decide +kernel, ⟨⟨fun _ => rfl, rfl⟩, fun _ => rfl, rfl⟩, rfl, fun _ _ => rfl, by decide +kernel, by decide +kernel,
    ⟨rfl, rfl, rfl, rfl, by decide⟩, ⟨rfl, rfl, rfl, rfl, rfl, by decide, fun _ => rfl, rfl, rfl, rfl, rfl, rfl, rfl, rfl, by decide⟩,
    ⟨rfl, rfl, rfl, by decide +kernel, by decide +kernel, by decide +kernel⟩, by decide +kernel, by decide +kernel⟩

def out5 (again : Bool) : WbLine := { wb5 with out := [⟨0, 9, false⟩], wrote := [0], again := again }
def stuck5 : WbLine := { wb5 with place := .general }
/-- A write buffer of 224 lines, whose channel has no write credit. -/
def full5 : State := withHub { (hub.onSlice 5 fun s => { s with wb := (upTo 224).map fun k => { stuck5 with line := BitVec.ofNat 46 (5 + 64 * k) } }) with
  chans := []
  arbs := grants5 }
def recalled5 : WbLine := { wb5 with place := .pool, recallAt := some 90 }
theorem wit_MemoryWritesCompleteAndSpill :
    quietMailboxes (buffered (out5 false)).hub ∧
    ((buffered (out5 false)).hub.allWb.find? (fun y => y.out.any fun o => portOfChan o.ch.toNat == 0 && o.mtag == 9) = some (out5 false) ∧
      (buffered (out5 false)).hub.wbFind 5 5 = some (out5 false) ∧
      (∀ o ∈ (out5 false).out, portOfChan o.ch.toNat = 0 ∧ o.mtag = 9) ∧ (out5 false).wrote ≠ [] ∧
      (∀ c ∈ ((buffered (out5 false)).hub.lineMap 5).1, BitVec.ofNat 4 c ∈ (out5 false).wrote)) ∧
    ((buffered (out5 true)).hub.wbFind 5 5 = some (out5 true) ∧ (out5 true).again = true) ∧
    (224 ≤ (full5.hub.slice 5).wb.length ∧
      (full5.hub.spill.filter fun y => y.place == .guaranteed && full5.hub.hsOf y.ls == full5.hub.hsOf 5).length < 24 ∧
      (full5.hub.slice 5).wb.find? (fun y => y.place == .general && full5.hub.writeStuck y) = some stuck5 ∧ full5.hub.granted 5 1 = true) ∧
    (withHub { hub with spill := [recalled5], arbs := grants5 }).hub.granted 5 1 = true ∧
    (withHub { hub with spill := [recalled5] }).hub.spill.find? (fun y => y.line == 5 && y.recallAt.isSome &&
      (withHub { hub with spill := [recalled5] }).hub.hsOf y.ls == 5) = some recalled5 := by
  refine ⟨⟨fun _ => rfl, rfl⟩, by decide +kernel, by decide +kernel, by decide +kernel, by decide +kernel, by decide +kernel⟩

def chan0 (f : Chan → Chan) : State := withHub { hub with chans := [(0, f ((hub.chan 0)))] }
theorem wit_ChannelsPauseAndFail :
    (hub.chanOnline 0 = true ∧ (1 : BitVec 7) ≠ 0 ∧ (499 : BitVec 12).toNat < 500 ∧ 125 < (126 : BitVec 7).toNat) ∧
    (∃ p ∈ ((chan0 fun c => { c with announced := [(100, 100)] }).hub.chan 0).announced, p.1 ≤ 100 ∧ 100 ≤ p.2) ∧
    (((chan0 fun c => { c with announced := [(98, 99)], paused := true }).hub.chan 0).paused = true ∧
      (∀ p ∈ ((chan0 fun c => { c with announced := [(98, 99)], paused := true }).hub.chan 0).announced, ¬(p.1 ≤ 100 ∧ 100 ≤ p.2)) ∧
      ((chan0 fun c => { c with announced := [(98, 99)], paused := true }).hub.chan 0).down = false) ∧
    quietMailboxes (chan0 fun c => { c with announced := [(98, 99)], paused := true }).hub ∧
    (hub.chan 0).down = false ∧ ((chan0 fun c => { c with failEnd := some 100 }).hub.chan 0).failEnd = some 100 ∧
    (hub.mps.getD 0 MpPort.init).online = true ∧ (hub.chan 0).cap ≠ 0 := by
  refine ⟨by decide +kernel, by decide +kernel, by decide +kernel, ⟨fun _ => rfl, rfl⟩, by decide +kernel⟩

def fill5 (w : Option (BitVec 4)) : Fill := ⟨5, .demand false, some 0, false, w, some 69, 84⟩
def filling (f : Fill) (g : Slice → Slice) : State := slice5 fun s => g { s with fills := [f] }
theorem wit_FillsThatWaitedAreInstalledOrDropped :
    (quietMailboxes (filling (fill5 (some 2)) id).hub ∧ quietMailboxes (filling (fill5 none) id).hub) ∧
    (((filling (fill5 (some 2)) id).hub.slice 5).fillOf 5 = some (fill5 (some 2)) ∧
      (filling (fill5 (some 2)) id).hub.mirrorOf 5 (4 * (5 : Line).hcSet.toNat + 3) ≠ some 5 ∧
      ((filling (fill5 (some 2)) id).hub.slice 5).writeWaits 69 = false) ∧
    ((fill5 none).since + 16 ≤ 100 ∧ (((filling (fill5 none) id).hub.slice 5).hcEligible (5 : Line).hcSet).find?
      (fun x => !hcValid (((filling (fill5 none) id).hub.slice 5).hcAt (5 : Line).hcSet x)) = some 0) ∧
    (fill5 none).kind ≠ .chain ∧ (∀ x mb, (fill5 none).kind ≠ .lock x mb) ∧ ({ fill5 none with kind := .chain } : Fill).kind = .chain ∧ ((filling (fill5 none) fun s => { s with wayDis := 0xFFFF }).hub.slice 5).hcEligible (5 : Line).hcSet = [] ∧
    ((5, true, 99) ∈ (withHub { hub with prefetchNotes := [(5, true, 99)] }).hub.prefetchNotes ∧ 99 < hub.round ∧ hub.isHome 5 = true ∧
      hub.winOf 5 = hub.winOf (5 - 1) ∧ hub.readChan 5 = some 0 ∧ hub.chanQuiet 0 = true ∧ (hub.chan 0).down = false ∧ hub.reads = [] ∧
      (∀ x ∈ (hub.slice 5).prefetches, x.line ≠ 5) ∧ (hub.slice 5).hcValue 5 = none ∧
      (hub.slice 5).fillOf 5 = none ∧ hub.wbFind 5 5 = none ∧ (hub.slice 5).isOpen 5 = false ∧ (hub.slice 5).chained 5 = false ∧
      (hub.slice 5).prefetches.length < 16 ∧ (hub.slice 5).walk = none) := by
  refine ⟨⟨⟨fun _ => rfl, rfl⟩, fun _ => rfl, rfl⟩, by decide +kernel, by decide +kernel, by decide +kernel, by decide +kernel, by decide +kernel⟩

/-! ### Witnesses: lookups and answers -/

def due3 (op : ReqOp) : Txn := { txn3 with req := { req3 with op := op }, acc := 99, phase := .accepted, gate := Gate.init }
theorem wit_due (h : Hub) (op : ReqOp) (ht : h.txn (h.hsOf 5) 1 = some (due3 op)) (hr : 100 ≤ h.round)
    (hq : ∀ q ∈ (h.slice (h.hsOf 5)).refused, q.req.line ≠ 5) : LookupDue h 5 1 (due3 op) :=
  ⟨ht, rfl, hr, (by decide : (5 : Line).ls = 5), rfl, rfl, rfl, ⟨rfl, rfl, rfl, rfl, rfl, rfl⟩, hq⟩
theorem wit_LookupsServeReadsAndFailStores :
    let h := (open5 (due3 .rdShared)).hub
    let k := (slice5 fun s => { s with txns := [due3 .rdShared], wb := [wb5] }).hub
    let r := (open5 (due3 .rsvStore)).hub
    (LookupDue h 5 1 (due3 .rdShared) ∧ cleanLookup h 5 .none ∧ (h.slice 5).homeView 5 = .unc ∧ (h.slice 5).hubView 5 = .none ∧
      h.wbFind 5 5 = none ∧ (h.slice 5).hcValue 5 = none ∧ h.readOut 5 = false ∧ h.readChan 5 = some 0 ∧ (h.chan 0).down = false ∧ noHeldData h) ∧
    (LookupDue k 5 1 (due3 .rdShared) ∧ cleanLookup k 5 .none ∧ (k.slice 5).homeView 5 = .unc ∧ (k.slice 5).hubView 5 = .none ∧
      k.wbFind 5 5 = some wb5 ∧ wb5.whole = true ∧ hears k 3 ∧ noIrq k) ∧
    (LookupDue r 5 1 (due3 .rsvStore) ∧ cleanLookup r 5 .none ∧ r.rsvHeld 5 (due3 .rsvStore).req = false ∧ hears r 3) := by
  have hear : ∀ f, hears (slice5 f).hub 3 := fun f => ⟨rfl, rfl, rfl, (by decide : 1 ≤ portOn.snpCred), (by decide : 1 ≤ portOn.rspCred),
    (by decide : 1 ≤ portOn.datCred)⟩
  refine ⟨⟨wit_due _ _ (by decide +kernel) (by decide +kernel) (by decide +kernel), wit_clean _ (by decide +kernel) (by decide +kernel) (by decide +kernel),
      by decide +kernel, by decide +kernel, by decide +kernel, by decide +kernel, by decide +kernel, by decide +kernel, by decide +kernel, by intro r h; cases h⟩,
    ⟨wit_due _ _ (by decide +kernel) (by decide +kernel) (by decide +kernel), wit_clean _ (by decide +kernel) (by decide +kernel) (by decide +kernel),
      by decide +kernel, by decide +kernel, by decide +kernel, by decide, hear _, .inr (by decide +kernel)⟩,
    ⟨wit_due _ _ (by decide +kernel) (by decide +kernel) (by decide +kernel), wit_clean _ (by decide +kernel) (by decide +kernel) (by decide +kernel),
      by decide +kernel, hear _⟩⟩

/-- Agent 4's answer to its snoop for transaction 1 of slice 5, which also waits for agent 6, with or without data of agent 6. -/
def ans4 : Flit := { fl with low := lowField 20 4 }
def two3 : Txn := { txn3 with gate := { Gate.init with expect := [4, 6] } }
def second3 : Txn := { txn3 with gate := { Gate.init with expect := [4, 6], fwd := some pay, fwdFrom := some 6 } }
def answering (x : Txn) (sn : Snoop) (c : List Staged) : State :=
  withHub ((hub.onSlice 5 fun s => { s with txns := [x] }).onAp 1 fun a => { a with snoops := [sn], staged := c })
def copy4 : Staged := ⟨4, gaid4, 8, 5, 0, 0, 0, true⟩
theorem wit_AnswersAreCollected :
    (∀ (x : Txn) (b : Bool), x = two3 ∨ x = second3 →
      AnswerDue (answering x { snoop4 false 99 with dataIn := b } [copy4]).hub 1 ans4 { snoop4 false 99 with dataIn := b } 1 x) ∧
    (answering two3 (snoop4 false 99) [copy4]).hub.wbCopy 1 ans4.src ans4.line = some (0, 0) ∧
    ((answering two3 (snoop4 false 99) []).hub.isHome (snoop4 false 99).line = true ∧
      (answering two3 (snoop4 false 99) []).hub.lineDown (snoop4 false 99).line = false) ∧
    two3.gate.fwdFrom = none ∧ second3.gate.fwdFrom ≠ none ∧ two3.gate.shut = false ∧ second3.gate.shut = false ∧
    (∀ g : Option Answer, g = none ∨ g = some ⟨4, .fwdS, 0, false⟩ →
      ((answering two3 { snoop4 false 99 with got := g } []).hub.ap 1).snoops.find? (fun k =>
        k.la == ans4.src && k.gaid == ans4.gaid && k.txid == ans4.txid && k.line == ans4.line && !k.dataIn) = some { snoop4 false 99 with got := g }) ∧
    heldsWait (answering two3 (snoop4 false 99) []).hub 5 5 ∧ Sourced two3 ∧ (snoop4 false 99).homeCopy = false := by
  refine ⟨?_, by decide +kernel, by decide +kernel, rfl, by decide, rfl, rfl, ?_, fun _ m => (nomatch m), .inl rfl, rfl⟩
  · rintro x (_ | _) (rfl | rfl)
    · exact ⟨⟨rfl, rfl, rfl, rfl⟩, by decide +kernel, rfl, by decide +kernel, ⟨rfl, rfl, rfl, rfl, by decide⟩, ⟨6, by decide, by decide⟩,
        .inl rfl, fun _ m => (nomatch m), fun _ m => (nomatch m)⟩
    · exact ⟨⟨rfl, rfl, rfl, rfl⟩, by decide +kernel, rfl, by decide +kernel, ⟨rfl, rfl, rfl, rfl, by decide⟩, ⟨6, by decide, by decide⟩,
        .inl rfl, fun _ m => (nomatch m), fun _ m => (nomatch m)⟩
    · exact ⟨⟨rfl, rfl, rfl, rfl⟩, by decide +kernel, rfl, by decide +kernel, ⟨rfl, rfl, rfl, rfl, by decide⟩, ⟨6, by decide, by decide⟩,
        .inl rfl, fun _ m => (nomatch m), fun _ m => (nomatch m)⟩
    · exact ⟨⟨rfl, rfl, rfl, rfl⟩, by decide +kernel, rfl, by decide +kernel, ⟨rfl, rfl, rfl, rfl, by decide⟩, ⟨6, by decide, by decide⟩,
        .inl rfl, fun _ m => (nomatch m), fun _ m => (nomatch m)⟩
  · rintro g (rfl | rfl) <;> decide +kernel

def upgrade3 : Txn := { txn3 with req := { req3 with op := .upgrade }, view := .shr [3, 4] none, gate := { Gate.init with expect := [4], grant := gE } }
theorem wit_UpgradeCompletesWithItsLastAnswer :
    let h := (answering upgrade3 (snoop4 false 99) []).hub
    fromOnline h 1 ans4.src ∧ (h.snoopFor 1 ans4 = some (snoop4 false 99) ∧ h.txn 5 1 = some upgrade3 ∧ (h.ap 1).cmpWbHeld = [] ∧
      (h.slice 5).helds = [] ∧ upgrade3.acked = none ∧ upgrade3.baseDue = false ∧ upgrade3.spanReq = false ∧ upgrade3.hentry = none ∧
      upgrade3.view = .shr [3, 4] none ∧ upgrade3.gate = { Gate.init with expect := [ans4.src], answers := upgrade3.gate.answers, grant := gE }) ∧
    hears h upgrade3.req.gaid.la := by
  refine ⟨⟨rfl, rfl, rfl, rfl⟩, by decide +kernel, ⟨rfl, rfl, rfl, by decide +kernel, by decide +kernel, by decide +kernel⟩⟩

def pulls3 : Txn := { txn3 with req := { req3 with op := .wrFull }, gate := { Gate.init with expect := [4], pullWait := true } }
def data3 : Staged := ⟨3, gaid3, 7, 5, 0, 0, BitVec.allOnes 64, false⟩
def pulling : State := withHub ((hub.onSlice 5 fun s => { s with txns := [pulls3] }).onAp 0 fun a => { a with staged := [data3] })
theorem wit_WriteDataIsPulledIntoTheWriteBuffer :
    AwaitsAnswers pulls3 ∧ Sourced pulls3 ∧ pulls3.spanReq = false ∧ (pulling.hub.txn 5 1 = some pulls3 ∧ pulls3.gate.pullWait = true ∧
      pulling.hub.stagedFor pulls3.req = some (0, 0, BitVec.allOnes 64) ∧ pulling.hub.isHome 5 = true ∧ pulling.hub.lineDown 5 = false) :=
  ⟨⟨rfl, rfl, rfl, rfl, by decide⟩, .inl rfl, rfl, by decide +kernel⟩

def rsvNote : RsvNotice := ⟨5, 5, gaid3, 7, 1⟩
def noted (k : BitVec 2) : State := withHub { (open5 two3).hub with rsvNotes := [(k, rsvNote)] }
theorem wit_ReservationNoticesReachTheirSlices :
    ((0, rsvNote) ∈ (noted 0).hub.rsvNotes ∧ (1, rsvNote) ∈ (noted 1).hub.rsvNotes ∧ (2, rsvNote) ∈ (noted 2).hub.rsvNotes) ∧
    ((noted 0).hub.findTxn rsvNote.gaid rsvNote.txid rsvNote.anchor = some two3 ∧ (noted 0).hub.txn ((noted 0).hub.homeHs 5) 1 = some two3) ∧
    AwaitsAnswers two3 ∧ Sourced two3 :=
  ⟨by decide +kernel, by decide +kernel, ⟨rfl, rfl, rfl, rfl, by decide⟩, .inl rfl⟩

/-! ### Witnesses: the device-region unit -/

/-- That hub with device region 0 over the second half of the first GiB's pages, for agent 4, without and with early acknowledgement. -/
def devHub (early : Bool) : Hub := { hub with par := (0x100, 0x1000000) :: (0x140, 0x1000081 ||| bitAt 1 early) :: hub.par }
def flDev : Flit := { fl with line := BitVec.ofNat 46 (0x1000000 / 64) }
def early3 : DevReq := ⟨9, gaid3, 8, 5, 0, 4, true, 0, 0, 0, true, true, false, none, true, none, none, none⟩
def fencing (l : List DevReq) : State := withHub { hub with dev := { hub.dev with reqs := l } }
theorem wit_DeviceRequestsAndFencesAreTaken :
    NewDevice (devHub true) 0 flDev ∧ DeviceServed (devHub true) flDev 0 ∧
    (whole.sound = true ∧ (devHub true).postNext = none ∧ ((devHub true).dev.reqs.filter fun x => x.posted && !x.irq).length < 512 ∧
      (devHub true).drtEarly 0 = true ∧ (devHub false).drtEarly 0 = false) ∧
    hears (devHub true) flDev.gaid.la ∧
    (hub.classify (flWin 0x2000).line = .window hub.num ∧ wholeWords (wordMask 7) = some [7]) ∧
    (∀ x ∈ (fencing [early3]).hub.dev.fences, x.wait ≠ []) ∧
    (∃ r ∈ (fencing [early3]).hub.dev.reqs, r.gaid = fl.gaid ∧ r.acked = true ∧ r.irq = false) ∧
    (∀ r ∈ hub.dev.reqs, r.gaid = fl.gaid → r.acked = true → r.irq = true) := by
  refine ⟨⟨rfl, rfl, ⟨rfl, rfl, rfl, rfl⟩, by decide +kernel⟩, ⟨by decide +kernel, by decide, by decide +kernel, by decide +kernel⟩,
    by decide +kernel, ⟨rfl, rfl, rfl, by decide +kernel, by decide +kernel, by decide +kernel⟩, by decide +kernel, by decide +kernel, by decide +kernel,
    by decide +kernel⟩

def devRead3 (write : Bool) : DevReq := ⟨9, gaid3, 8, 5, 0, 4, write, 0, 0, 0, true, false, false, none, !write, some 100, none, none⟩
def waiting3 : DevReq := ⟨9, gaid3, 8, 5, 0, 4, true, 0, 0, 0, true, false, false, none, false, none, none, none⟩
theorem wit_DeviceAnswersAndTimeoutsComplete :
    fromOnline (fencing [devRead3 false]).hub 1 4 ∧ hears (fencing [devRead3 false]).hub gaid3.la ∧ noIrq (fencing [devRead3 false]).hub ∧
    (∀ b, b = true ∨ b = false →
      (fencing [devRead3 b]).hub.dev.reqs.find? (fun x => x.dtx == 9 && x.target == 4 && x.sent.isSome && x.region != 64) =
        some (devRead3 b) ∧
      (fencing [devRead3 b]).hub.dev.reqs.find? (fun x => x.dtx == 9 && x.region != 64 && match x.sent with
        | some k => decide (k ≤ hub.round)
        | none => false) = some (devRead3 b)) ∧
    ((fencing [waiting3]).hub.postNext = some waiting3 ∧ waiting3.early = true ∧
      ((fencing [waiting3]).hub.dev.reqs.filter fun x => x.posted && !x.irq).length < 512) := by
  refine ⟨⟨rfl, rfl, rfl, rfl⟩, ⟨rfl, rfl, rfl, by decide +kernel, by decide +kernel, by decide +kernel⟩, .inr (by decide +kernel), ?_, by decide +kernel⟩
  rintro b (rfl | rfl) <;> decide +kernel

/-! ### Witnesses: ports -/

/-- That hub with agent port 2, memory port 1 and span port 5 in use and not yet trained. -/
def inUse : Hub := { hub with par := (0x682, 1) :: (0x7A1, 1) :: (0x18D, 1) :: hub.par }
def frame1 (ok : Bool) : FrameHdr := ⟨0, 0, false, 0, 0x0101010101010101, ok, 0⟩
theorem wit_LinksTrainAndReceiveFrames :
    (startQuiet (withHub inUse) ∧ inUse.bringsUp = true) ∧
    (inUse.domUsed (.ap 2) = true ∧ inUse.domUp (.ap 2) = true ∧ (inUse.ap 2).online = false ∧ (inUse.ap 2).trained = false ∧
      (withHub inUse).otp.except.getLsbD (bitAp 2) = false ∧ (inUse.ap 2).rate16 = false) ∧
    (inUse.domUsed (.mp 1) = true ∧ inUse.domUp (.mp 1) = true ∧ (inUse.mp 1).online = false ∧ (inUse.mp 1).trained = false) ∧
    ((5 : BitVec 3).toNat < 6 ∧ inUse.domUsed (.sp 5) = true ∧ inUse.domUp (.sp 5) = true ∧ (inUse.sp 5).trained = false ∧
      (withHub inUse).otp.except.getLsbD (bitSp 5) = false ∧ (inUse.sp 5).half = false) ∧
    (quietMailboxes hub ∧ GoodFrame (hub.ap 0).frame (frame1 true) ∧ GoodFrame (hub.mp 0).frame (frame1 true)) ∧
    (idleFrame (frame1 true) ∧ steadyFrames (hub.ap 0).frame ∧ steadyFrames (hub.mp 0).frame) ∧
    ((hub.ap 0).online = true ∧ (hub.ap 0).frame.part.msgs = [] ∧ (hub.ap 0).frame.part.hdrs = [] ∧ (hub.ap 0).stalled = [] ∧
      (hub.mp 0).online = true ∧ (hub.mp 0).frame.part.msgs = [] ∧ (hub.mp 0).frame.part.hdrs = [] ∧
      (frame1 false).crcOk = false ∧ (hub.ap 0).frame.bads.getD (frame1 false).fseq.toNat 0 < 2) := by
  refine ⟨⟨⟨by decide +kernel, .inl rfl⟩, by decide +kernel⟩, by decide +kernel, by decide +kernel, by decide +kernel,
    ⟨⟨fun _ => rfl, rfl⟩, ⟨rfl, by decide, by decide +kernel, rfl⟩, rfl, by decide, by decide +kernel, rfl⟩,
    ⟨rfl, ⟨fun _ m => (nomatch m), by decide +kernel⟩, fun _ m => (nomatch m), by decide +kernel⟩, by decide +kernel⟩

def declares : Hub := inUse.onAp 2 fun a => { a with trained := true }
def declWord : Word := 0x0101000120101010
def agentWord : Word := 0x0200000000000001
def declaring (n : BitVec 6) : State := withHub (inUse.onAp 2 fun a => { a with trained := true, decl := some { apDeclOf declWord with count := n } })
def onMp1 (f : MpPort → MpPort) (c : Tbl Chan) : Hub := { inUse with
  mps := inUse.mps.upd 1 MpPort.init f
  chans := c }
def chanOf (cap : BitVec 16) (flow : Bool) : Chan := { Chan.init with cap := cap, bound := 0, wmHigh := 2, wmLow := 1, rdCred := 1023, wrCred := 2, geom := true, flow := flow }
def flowWord : Word := 0x220000008017FC02
theorem wit_PortsAreDeclaredAndComeOnline :
    startQuiet (withHub declares) ∧ startQuiet (declaring 2) ∧
    (declares.bringsUp = true ∧ (declares.ap 2).online = false ∧ (declares.ap 2).decl = none ∧
      (declares.ap 2).trained = true ∧ sbOk 0x01 declWord = true ∧ (apDeclOf declWord).cause = 0) ∧
    (((declaring 2).hub.ap 2).decl = some { apDeclOf declWord with count := 2 } ∧ sbOk 0x02 agentWord = true ∧
      (agentWord.extractLsb' 48 5).toNat = (apDeclOf declWord).next ∧ (declaring 2).hub.freeNumbers ≠ [] ∧
      (withHub { (declaring 2).hub with agents := (upTo 128).map fun k => (k, agentOn 0) }).hub.freeNumbers = [] ∧
      (apDeclOf declWord).next + 1 ≠ (2 : BitVec 6).toNat ∧ (apDeclOf declWord).next + 1 = (1 : BitVec 6).toNat) ∧
    (let h := onMp1 (fun m => { m with trained := true }) []
     (h.mp 1).online = false ∧ (h.mp 1).declared = false ∧ h.bringsUp = true ∧ (h.mp 1).trained = true ∧
      sbOk 0x20 0x2001000000000000 = true ∧ ((0x2001000000000000 : Word).extractLsb' 48 8).toNat = 1) ∧
    (let h := onMp1 (fun m => { m with trained := true, declared := true }) []
     h.mpBringing 1 = true ∧ (h.mp 1).declared = true ∧ sbOk 0x21 0x2180000000000000 = true ∧ (h.chan 3).geom = false ∧ (h.chan 3).flow = false ∧
      sbOk 0x22 flowWord = true ∧ ¬wholePort (h.onChan 3 (geomOf 0x2180000000000000)) 1) ∧
    (let h := onMp1 (fun m => { m with trained := true, declared := true }) [(2, chanOf 0 false), (3, chanOf 1 true)]
     let k := h.onChan 2 (flowOf flowWord)
     h.start.phase = .serving ∧ h.mpBringing 1 = true ∧ startQuiet (withHub h) ∧ (h.chan 2).flow = false ∧ wholePort k 1 ∧
       k.chanOk 2 = true ∧ k.chanOk 3 = true) ∧
    (let h := onMp1 (fun m => { m with trained := true, declared := true }) [(2, chanOf 1 false), (3, chanOf 0 true)]
     let k := h.onChan 2 (flowOf 0x2200000000000000)
     sbOk 0x22 0x2200000000000000 = true ∧ wholePort k 1 ∧ k.chanOk 2 = false) := by
  refine ⟨⟨by decide +kernel, .inl rfl⟩, ⟨by decide +kernel, .inl rfl⟩, by decide +kernel, by decide +kernel, by decide +kernel,
    ⟨by decide +kernel, by decide +kernel, by decide +kernel, by decide +kernel, by decide +kernel, by decide +kernel, fun h => ?_⟩,
    ⟨rfl, by decide +kernel, ⟨by decide +kernel, .inl rfl⟩, by decide +kernel, by rintro c (rfl | rfl) <;> decide +kernel, by decide +kernel, by decide +kernel⟩,
    by decide +kernel, by rintro c (rfl | rfl) <;> decide +kernel, by decide +kernel⟩
  exact absurd (h 2 (.inl rfl)) (by decide +kernel)

/-! ### Witnesses: rounds, arbitration and the mesh -/

def claim3 : Ticket := { ticket3 with round := 100 }
def noWin : Hub := { hub with par := [(0x1, 0), (0x200, 1)] }
theorem wit_RequestsAreArbitrated :
    (hub.allowed req3 = true ∧ (∀ y ∈ (hub.slice 5).tickets, y.isFor req3 = false) ∧ hub.drains 5 100 = false ∧
      hub.deferCheck 5 req3 100 = none ∧ hub.passes 5 req3 100 (hub.worstSpan 5 req3.line) = true) ∧
    ((slice5 fun s => { s with tickets := [claim3] }).hub.slice 5).validTicket ⟨req3, some 100, 100⟩ 100 = some claim3 ∧
    (noWin.allowed req3 = false ∧ req3.span = false) ∧ hears noWin req3.gaid.la ∧
    (let h := (open5 { txn3 with phase := .accepted }).hub
     h.allowed req3 = true ∧ h.drains 5 100 = false ∧ h.deferCheck 5 req3 100 = none ∧
      (h.slice 5).txnOn req3.line = some { txn3 with phase := .accepted }) := by
  refine ⟨by decide +kernel, by decide +kernel, by decide +kernel, ⟨rfl, rfl, rfl, by decide +kernel, by decide +kernel, by decide +kernel⟩, by decide +kernel⟩

/-- A hub with one commit to be used from a round on. -/
def pendingAt (prot : Bool) (items : List StageItem) (tabs : List ProtItem) (k : Nat) : Hub := { hub with
  core := { hub.core with commits := [⟨0, prot, 0, items, tabs, some k⟩] } }
theorem wit_RoundsAdvanceByTicksAlone :
    st.hub.round ≠ 0 ∧ st.hub.routeNew = none ∧ st.hub.core.commits = [] ∧ State.reset.hub.round = 0 ∧
    ((pendingAt true [] [.mbx 1 ⟨1, false, false, 0⟩] 101).core.commits = [⟨0, true, 0, [], [.mbx 1 ⟨1, false, false, 0⟩], some 101⟩] ∧
      101 ≤ hub.round + 1 ∧ hub.round + 1 < 102) ∧
    ((pendingAt false [⟨0x40, false, 5⟩] [] 101).core.commits = [⟨0, false, 0, [⟨0x40, false, 5⟩], [], some 101⟩] ∧
      (pendingAt false [⟨0x40, false, 5⟩] [] 101).inForce 0x40 5 = some 5 ∧ Param.acts 0x40 = false) := by
  decide +kernel

def locked : Hub := { hub with arbs := [(arbKey (.spanPort 5), { Arbiter.init with lockBy := some 0, lockAge := 4 })] }
def flipping (e : Epoch) : Hub := { hub with epoch := e }
theorem wit_MeshTablesLocksAndBudgets :
    ((flipping ⟨false, some [], some 100, false, []⟩).epoch.loaded = some [] ∧
      (flipping ⟨false, some [], some 100, false, []⟩).epoch.flipAt = some 100) ∧
    ((flipping ⟨false, none, some 100, true, []⟩).round ≤ 100 ∧ 99 < hub.round) ∧
    ((flipping ⟨false, none, some 99, true, []⟩).epoch.draining = true ∧ (flipping ⟨false, none, none, true, []⟩).epoch.waiting = [] ∧
      (flipping ⟨false, none, none, true, [[]]⟩).epoch.waiting = [] :: []) ∧
    (ArbiterId.wf (.spanPort 5) = true ∧ (locked.arbs.getD (arbKey (.spanPort 5)) Arbiter.init).lockBy ≠ none ∧
      4 ≤ (locked.arbs.getD (arbKey (.spanPort 5)) Arbiter.init).lockAge) ∧
    stopExists 95 = true ∧ stopExists 96 = false ∧ ArbiterId.wf (.spanPort 6) = false := by
  decide +kernel

/-! ### Witnesses: errors, resets and starts -/

def inPhase (p : Phase) : State := withHub { hub with start := { hub.start with phase := p } }
theorem wit_FatalErrorsStopTheHub :
    (hub.start.fatal = false ∧ hub.isUp = true ∧ hub.start.phase = .serving) ∧
    (stopExists 95 = true ∧ ({ hub with round := 256 } : Hub).round % 256 = 0 ∧ (1 : Byte) ≠ BitVec.ofNat 8 256 ∧
      (100 : Byte) = BitVec.ofNat 8 hub.round) ∧
    (inPhase .starting).hub.start.phase = .starting := by
  decide +kernel

def coreHub (f : Core → Core) (g : Start → Start) : Hub := { hub with
  core := f hub.core
  start := g hub.start }
theorem wit_CoresMismatchAndRestart :
    (hub.coresRun = true ∧ hub.core.lastMismatch = none) ∧
    ((coreHub (fun c => { c with lastMismatch := some 100 }) id).coresRun = true ∧ hub.round - 100 ≤ 2 ^ 28) ∧
    ((coreHub (fun c => { c with restart := true }) id).core.restart = true ∧ hub.core.digest = 0 ∧ hub.routeNew = none ∧ st.dueBits = [] ∧
      hub.core.digest ≠ 1) ∧
    (let h := { coreHub id (fun x => { x with fatal := true, fatalAt := 0 }) with
       round := 500
       dev := { hub.dev with reqs := [{ early3 with acked := false }] } }
     h.start.fatal = true ∧ h.takesAnswers = true ∧ h.start.fatalAt + 500 ≤ h.round ∧
       ∃ r ∈ h.dev.reqs, r.posted = true ∧ r.irq = false ∧ r.sent = none) ∧
    quietMailboxes { coreHub id (fun x => { x with fatal := true, fatalAt := 0 }) with
       round := 500
       dev := { hub.dev with reqs := [{ early3 with acked := false }] } } := by
  refine ⟨by decide +kernel, by decide +kernel, by decide +kernel, by decide +kernel, fun _ => rfl, rfl⟩

def high : Hub := { hub with pins := ⟨true, true, true, true, true⟩ }
theorem wit_ResetsKeepWhatTheySay :
    State.reset.hub.pins.pwrgood = false ∧ (high.pins.resetN = true ∧ high.start.phase = .serving) ∧
    ({ high with start := { high.start with phase := .stopped } } : Hub).start.phase = .stopped ∧
    (let h := { high with start := { high.start with phase := .draining, drainEnd := 100 } }
     h.start.phase = .draining ∧ h.undrained = [] ∧ h.start.drainEnd ≤ h.round ∧ h.rot.phase ≠ 4 ∧ h.rot.phase ≠ 6) := by
  decide +kernel

def image : ImageHdr := ⟨0x01020001, State.reset.otp.keyHash, 0, true, true⟩
def goodEnv (pll : Bool) : StartEnv := ⟨pll, true, true, 0, [], [], none, true, false, [], true, [], [], image, image, 0, []⟩
def ready : Hub := { Hub.cold with
  pins := ⟨true, true, true, true, true⟩
  start := { Start.init with phase := .reset } }
def starts (l : List PortId) : Hub := { hub with start := { hub.start with
  phase := .starting
  waiting := l } }
theorem wit_StartsBringThePortsUpAndOpen :
    (ready.pins.pwrgood = true ∧ ready.pins.resetN = true ∧ ready.pins.thermtripN = true ∧ ready.start.phase = .reset ∧ ready.start.kind = 0 ∧
      ready.aon.subst = [] ∧ (withHub ready).otp.except = 0) ∧
    (withHub ready).otp.verifies image = true ∧
    ((goodEnv true).pllLocks = true ∧ (goodEnv true).checkOther = none ∧ (goodEnv true).mirrorOk = false ∧ (goodEnv false).pllLocks = false ∧
      (goodEnv false).ledgerUe = []) ∧
    startQuiet (withHub (starts [.mp 1, .ap 2])) ∧ startQuiet (withHub (starts [.mp 1])) ∧
    ((starts [.mp 1, .ap 2]).start.phase = .starting ∧ .mp 1 ∈ (starts [.mp 1, .ap 2]).start.waiting ∧ ((starts [.mp 1]).mp 1).trained = false ∧
      (∃ q ∈ (starts [.mp 1, .ap 2]).start.waiting, q ≠ .mp 1) ∧ (∀ q ∈ (starts [.mp 1]).start.waiting, q = .mp 1) ∧
      (starts [.mp 1]).aon.subst = [] ∧ (starts [.mp 1]).aon.carried = none ∧ (starts [.mp 1]).core.restart = false ∧
      0x0C ≤ (starts [.mp 1]).start.step.toNat) := by
  refine ⟨by decide +kernel, by
      simp only [Otp.verifies, image, show (State.reset.otp.keyHash == (withHub ready).otp.keyHash) = true from beq_self_eq_true _]
      decide +kernel, by decide +kernel, ⟨by decide +kernel, .inr (by decide)⟩, ⟨by decide +kernel, .inr (by decide)⟩, by decide +kernel⟩

/-! ### Witnesses: power -/

/-- That hub with a core die of two points on port 0. -/
def dieHub (f : Die → Die) : Hub := { hub with power := { hub.power with
  dies := [(0, f { Die.init with points := [(40, 40), (80, 80)], closed := true, budget := 40 })] } }
theorem wit_CoreDiesDeclareAndReport :
    (∀ id ∈ [(0x10 : Byte), 0x11, 0x13, 0x14, 0x15, 0x17], sbOk id 0 = false) ∧ hub.apBringing 0 = false ∧ startQuiet st ∧
    (sbOk 0x10 0x1000000000280028 = true ∧ (hub.die 0).closed = false ∧
      ((0x1000000000280028 : Word).extractLsb' 48 4).toNat = (hub.die 0).points.length) ∧
    (sbOk 0x14 0x1400002800000000 = true ∧ ¬((dieHub id).die 0).budget < ((0x1400002800000000 : Word).extractLsb' 32 16).toNat) ∧
    (sbOk 0x14 0x1400002900000000 = true ∧ ((dieHub id).die 0).budget < ((0x1400002900000000 : Word).extractLsb' 32 16).toNat ∧
      ((dieHub id).die 0).overs = 0 ∧ 1 ≤ ((dieHub fun d => { d with overs := 1 }).die 0).overs) := by
  refine ⟨by decide +kernel, by decide +kernel, ⟨by decide +kernel, .inl rfl⟩, by decide +kernel, by decide +kernel, by decide +kernel⟩

def granted : Die → Die := fun d => { d with grant := some (1, 100) }
theorem wit_OperatingPointsAndTheCapLoop :
    (sbOk 0x11 0x1100000000000001 = true ∧ 1 = ((0x1100000000000001 : Word).extractLsb' 0 4).toNat ∧ 1 < ((dieHub id).die 0).points.length ∧
      (dieHub id).power.waiting = [] ∧ (dieHub id).power.changes = [] ∧ ((dieHub id).die 0).grant = none ∧ 1 ≠ ((dieHub id).die 0).op ∧
      (dieHub id).raiseOk ((dieHub id).die 0) 1 = true ∧
      (((dieHub id).die 0).imax 1 - ((dieHub id).die 0).imax 0) + (((dieHub id).die 0).imax 0 - ((dieHub id).die 0).imax 1)
        ≤ (dieHub id).stepLimit) ∧
    (((dieHub granted).die 0).grant = some (1, 100) ∧
      (sbOk 0x13 0x1301000000000096 = true ∧ ((0x1301000000000096 : Word).extractLsb' 48 4).toNat = 1 ∧
        roundOf 100 ((0x1301000000000096 : Word).extractLsb' 0 16) = 150) ∧
      (sbOk 0x13 0x1301000000000063 = true ∧ roundOf 100 ((0x1301000000000063 : Word).extractLsb' 0 16) = 99) ∧
      roundOf 100 ((0x1301000000000097 : Word).extractLsb' 0 16) = 151) ∧
    ({ dieHub granted with round := 151 } : Hub).round = 100 + 51 ∧
    (let h := { dieHub id with power := { (dieHub id).power with hubPower := 4001 } }
     h.pkgCap < h.pkgPower) := by
  decide +kernel

def railHub (cfg : Word) : Hub := { hub with par := (0xAA0, cfg) :: hub.par }
theorem wit_SensorsRailsAndCoreVoltage :
    ([(0 : BitVec 16)] ≠ [] ∧ [(0 : BitVec 16)].length ≤ 32 ∧ hub.power.hotOn = false) ∧
    (((railHub 1).pw (0xAA0 + 0)).getLsbD 0 = true ∧ (((railHub 1).pw 0xAA0).extractLsb' 1 3).toNat ≤ 3 ∧
      3 < (((railHub 9).pw 0xAA0).extractLsb' 1 3).toNat ∧ (0x80 : BitVec 16) &&& 0xFF7F = 0 ∧ (0x8000 : BitVec 16) &&& 0xFF7F ≠ 0) ∧
    (650 ≤ hub.power.vcore + 5 ∧ hub.power.vcore + 5 ≤ 850 ∧ hub.power.minCold = false ∧ hub.power.lastAvs = 0) := by
  decide +kernel

def domHub (d : Domain) (x : DomState) : Hub := { hub with
  par := (0x680, 1) :: (0x18D, 1) :: (0x7A0, 1) :: (0xA83, 0) :: hub.par
  power := { hub.power with doms := [(domKey d, x)] } }
def packet (data : Bool) : WakePacket := ⟨95, data, 0⟩
theorem wit_DomainsPowerDownAndWake :
    (Domain.wf (.sp 5) = true ∧ stopExists (packet true).src = true) ∧
    (let h := domHub (.sp 5) .awake
     (h.mp 0).online = true ∧ h.dom (.mp 0) = .awake ∧ h.mpQuiet 0 = true ∧
      placeRound h.power.changes true h.wakeLimit 8 512 (h.round + 1) = some 101) ∧
    ((domHub (.sp 5) (.closing 100)).dom (.sp 5) = .closing 100 ∧ (domHub (.mp 0) (.closing 100)).dom (.mp 0) = .closing 100 ∧
      (domHub (.sp 5) (.closing 100)).domUsed (.sp 5) = true ∧ (domHub (.sp 5) (.opening 99)).dom (.sp 5) = .opening 99 ∧
      ((domHub (.sp 5) (.opening 99)).power.wakeBufs.getD (domKey (.sp 5)) ⟨[], false⟩).asked = false) ∧
    ((domHub (.sp 5) .awake).domUsed (.sp 5) = true ∧ (domHub (.sp 5) .awake).dom (.sp 5) = .awake) ∧
    ((domHub (.sp 5) .asleep).dom (.sp 5) = .asleep ∧
      (((domHub (.sp 5) .asleep).power.wakeBufs.getD (domKey (.sp 5)) ⟨[], false⟩).pkts.filter fun x => x.data == true).length < 8) ∧
    (domHub (.sp 5) (.waking 90 100)).dom (.sp 5) = .waking 90 100 := by
  decide +kernel

def sleeping (x : DomState) (w : Option (Nat × Bool)) : Hub := (domHub (.ap 0) x).onAp 0 fun a => { a with sleepWalk := w }
theorem wit_AgentPortsSleepAndWake :
    (sbOk 0x15 0x1500000000000000 = true ∧ (sleeping .awake none).dom (.ap 0) = .awake ∧ ((sleeping .awake none).ap 0).sleepWalk = none) ∧
    (((sleeping .awake (some (90, false))).ap 0).sleepWalk = some (90, false) ∧
      (∀ hs ∈ (sleeping .awake (some (90, false))).servingSlices, ((sleeping .awake (some (90, false))).slice hs).walk = none) ∧
      (sleeping .awake (some (90, false))).ackedBehind 0 = false ∧ (sleeping .awake (some (90, false))).portNamed 0 = false ∧
      ({ sleeping .awake (some (90, false)) with dev := { hub.dev with reqs := [{ early3 with target := 3 }] } } : Hub).ackedBehind 0 = true ∧
      ((sleeping .awake (some (90, false))).onSlice 5 (viewed (.own 3))).portNamed 0 = true ∧
      placeRound (sleeping .awake (some (90, false))).power.changes true (sleeping .awake (some (90, false))).wakeLimit 8 512 101 = some 101) ∧
    (sbOk 0x17 0x1700000000000000 = true ∧ (sleeping (.closing 100) none).dom (.ap 0) = .closing 100 ∧
      (sleeping .asleep none).dom (.ap 0) = .asleep ∧ (sleeping .awake none).domUsed (.ap 0) = true ∧
      (sleeping (.closing 100) none).domUsed (.ap 0) = true ∧ (sleeping .asleep none).domUsed (.ap 0) = true ∧
      ({ sleeping .awake none with par := [] } : Hub).domUsed (.ap 0) = false) := by
  decide +kernel


/-! ### Witnesses: span links and routes -/

/-- That hub with hub 9 next behind span port 2, whose link is keyed and has credits; addresses whose line bit 37 is set belong to hub 9. -/
def near : Hub := { hub with
  par := (0x201, 0x13) :: (0x409, 0x109) :: (0x18A, 1) :: hub.par
  sps := [(2, { SpPort.init with link := .online, trained := true, keyed := true, keys := 1, creds := (upTo 8).map fun i => (i + 2, 8) })] }
def near2 (f : SpPort → SpPort) : Hub := near.onSp 2 f
/-- A message unit for hub 9 or for hub 1, with a service class and `HOPS`: a `SPAN_RD_S` or a `SPAN_RSP_I`. -/
def unitTo (dest : Nat) (svc : BitVec 3) (hops : BitVec 4) : SpanUnit :=
  ⟨BitVec.ofNat 64 (dest * 2 ^ 55) ||| 0x400400000000 ||| (svc.setWidth 64 <<< 43) ||| (hops.setWidth 64 <<< 37), if svc = 0 then 0x00 else 0x20,
    fl, none, 0, none⟩
def spanIn (u : List SpanUnit) (ok : Bool) (tag : Bool) : SpanFrameIn := ⟨0, 0, false, false, 0, false, ok, ok, tag, u⟩
/-- The message of such a unit on its way out of span port 2. -/
def passed (svc : BitVec 3) : SpanOut := ⟨2, 9, 1, svc, false, false, 2, if svc = 0 then 0x00 else 0x20, fl, none, none, 0, none⟩
theorem wit_SpanFramesAreTakenAndForwarded :
    6 ≤ (6 : BitVec 3).toNat ∧ SpanUp near 2 ∧ quietMailboxes near ∧ startQuiet (withHub near) ∧
    (∀ u, GoodSpanFrame (near.sp 2) (spanIn u true true)) ∧
    (∀ (d : Nat) (v : BitVec 3) (k : BitVec 4), (d = 9 ∨ d = near.num.toNat) → (v = 0 ∨ v = 2) → (k = 12 ∨ k = 1) →
      hdrSvc (unitTo d v k).header = v ∧ badUnit (unitTo d v k) = false ∧ answersReq (unitTo d v k) = false ∧
      hdrDest (unitTo d v k).header = BitVec.ofNat 9 d ∧ hdrHops (unitTo d v k).header = k ∧ hdrEpoch (unitTo d v k).header = false) ∧
    ((near.routeFor 9 false).extractLsb' 2 3 = 2 ∧ (near.routeFor 9 false).getLsbD 0 = true ∧ (2 : BitVec 3).toNat ≤ 5 ∧
      (near.sp 2).hopHeld.length < 64 ∧ near.dsetOut 2 (some (2, false)) = false ∧ (near.sp 2).mayGo (passed 0) = true ∧
      (near.sp 2).mayGo (passed 2) = true ∧ ((near2 fun p => { p with creds := [] }).sp 2).mayGo (passed 2) = false ∧
      64 ≤ ((near2 fun p => { p with hopHeld := (upTo 64).map fun _ => passed 0 }).sp 2).hopHeld.length) ∧
    ((spanIn [] false true).crcOk = false ∧ (near.sp 2).tagGood (spanIn [] true false) = false ∧
      (near.sp 2).tagBad.contains (spanIn [] true false).fseq = false ∧
      ((near2 fun p => { p with tagBad := [0] }).sp 2).tagBad.contains (spanIn [] true false).fseq = true ∧
      ∀ x, (near.onSp 3 fun _ => near.sp 2).routeValid x = true → (near.onSp 3 fun _ => near.sp 2).routePort x ≠ 3) := by
  refine ⟨by decide, ⟨by decide, rfl, rfl, by decide +kernel, by decide +kernel⟩, ⟨fun _ => rfl, rfl⟩, ⟨by decide +kernel, .inl rfl⟩,
    fun _ => ⟨rfl, rfl, (by decide +kernel : (near.sp 2).tagGood (spanIn [] true true) = true), rfl, rfl⟩, ?_, by decide +kernel, by decide +kernel⟩
  rintro d v k (rfl | rfl) (rfl | rfl) (rfl | rfl) <;> decide +kernel

/-- The link of span port 3, which no route uses, at a hub with an authority key; the same where hub 9 is lost. -/
def spare3 : Hub := { near.onSp 3 fun _ => { SpPort.init with trained := true } with core := { near.core with authority := 1 } }
def peer9 (ok : Bool) : KeyingPeer := ⟨9, 1, 0, 0, true, ok, 0, spare3.mapDigest⟩
theorem wit_SpanLinksKeyRekeyAndFail :
    (6 ≤ (7 : BitVec 3).toNat ∧ (3 : BitVec 3).toNat < 6) ∧
    (quietMailboxes spare3 ∧ (withHub spare3).dueBits = [] ∧ spare3.start.phase = .serving ∧ (spare3.sp 3).trained = true ∧
      (spare3.sp 3).keyed = false ∧ (spare3.sp 3).waits = []) ∧
    (spare3.peerOk 3 (peer9 true) = true ∧ spare3.peerOk 3 (peer9 false) = false ∧ spare3.lostHubs.contains 9 = false ∧
      ({ spare3 with lostHubs := [9] } : Hub).lostHubs.contains 9 = true ∧ spare3.routeAcks.contains 9 = false) ∧
    ((near2 fun p => { p with rekey := true }).sp 2).rekey = true ∧ ((near.sp 2).keyed = true ∧ (near.sp 2).rekey = false) ∧
    (∀ x, spare3.routeValid x = true → spare3.routePort x ≠ 3) ∧
    (near.routeValid 9 = true ∧ near.routePort 9 = 2 ∧ 9 ≠ near.num ∧ near.lostHubs.contains 9 = false ∧
      near.routeAcks.contains 9 = false ∧ (withHub near).dueBits = [] ∧ (near.sp 2).trained = true ∧ near.start.phase = .serving) := by
  refine ⟨by decide, ⟨⟨fun _ => rfl, rfl⟩, by decide +kernel, rfl, rfl, rfl, rfl⟩, ⟨?_, ?_, by decide +kernel, by decide +kernel, by decide +kernel⟩,
    rfl, ⟨rfl, rfl⟩, by decide +kernel, by decide +kernel⟩
  · simp only [Hub.peerOk, peer9, beq_self_eq_true, Bool.and_true]; decide +kernel
  · decide +kernel

def hopped : SpanOut := ⟨2, 9, near.num, 0, false, false, 1, 0x00, fl, none, none, 0, none⟩
def spanTxn3 : Txn := { txn3 with spanReq := true }
/-- `near` with a route change under way; with hub 9 lost, the change readmits it. -/
def changing (lost : List HubNo) (v : Word) : Hub := { near with routeNew := some [(0x409, v)], lostHubs := lost }
theorem wit_RouteChangesAndHopTicketsTakeEffect :
    (quietMailboxes near ∧ 9 ≠ near.num ∧ near.routeAcks.contains 9 = false ∧ near.routeNew = none) ∧
    (∀ h, h = changing [] 0x209 ∨ h = changing [9] 0x109 ∨ h = changing [] 0x10D →
      let k : Hub := { h with par := putAll (h.routeNew.getD []) h.par }
      quietMailboxes h ∧ h.routeAcks.contains 9 = false ∧ h.core.restart = false ∧ h.draining = false ∧
      (∀ y ∈ h.routeHubs, (y = 9 ∨ y ∈ h.routeAcks) ∧ (h.readmits y = true → h.walkedFor y = true)) ∧
      (∀ q : BitVec 3, q.toNat < 6 → (k.pw (0x188 + q.toNat)).getLsbD 0 = true ∨ (k.sp q).trained = false) ∧
      (∀ q : BitVec 3, q.toNat < 6 → (k.sp q).keyed = true ∨ (k.sp q).waits = []) ∧ (∀ y, h.reachable y = true → k.reachable y = true)) ∧
    ((changing [9] 0x109).readmits 9 = true ∧ ∃ y ∈ { changing [9] 0x109 with slices := [(5, { Slice.init with hubWalk := [9] })] }.routeHubs,
      ({ changing [9] 0x109 with slices := [(5, { Slice.init with hubWalk := [9] })] } : Hub).walkedFor y = false) ∧
    (((near2 fun p => { p with queue := [hopped] }).sp 2).queue.find? (fun y => y.isReq gaid3 7) = some hopped ∧
      ((near2 fun p => { p with queue := [hopped] }).findTxn gaid3 7 hopped.flit.line = none)) ∧
    (let h := (near2 fun p => { p with queue := [hopped] }).onSlice 5 fun s => { s with txns := [spanTxn3] }
     h.findTxn gaid3 7 hopped.flit.line = some spanTxn3 ∧ h.txn (h.homeHs hopped.flit.line) spanTxn3.tid = some spanTxn3 ∧
      spanTxn3.spanReq = true ∧ spanTxn3.req.span = false) ∧
    (let m := { hopped with until_ := some 100 }
     let h := near2 fun p => { p with hopHeld := [m] }
     m ∈ (h.sp 2).hopHeld ∧ m.isReq gaid3 7 = true ∧ m.until_ = some h.round ∧ m.svc = 0 ∧
      (∀ y ∈ (h.sp 2).hopHeld, y.isReq gaid3 7 = true → y = m) ∧ (h.sp 2).keyed = true) := by
  refine ⟨⟨⟨fun _ => rfl, rfl⟩, by decide +kernel, by decide +kernel, rfl⟩, ?_, by decide +kernel, by decide +kernel, by decide +kernel,
    by decide +kernel⟩
  rintro h (rfl | rfl | rfl) <;> exact ⟨⟨fun _ => rfl, rfl⟩, by decide +kernel, by decide +kernel, by decide +kernel, by decide +kernel,
    by decide +kernel, by decide +kernel, by decide +kernel⟩

/-! ### Witnesses: span messages -/

/-- Agent 3 of hub 9, its flit for line 5, and a line whose home is hub 9. -/
def gaid9 : Gaid := Gaid.mk 9 3
def fl9 : Flit := Flit.plain gaid9 7 5 0
def msg9 (low : BitVec 29) : SpanMsg := ⟨9, { fl9 with low := low }⟩
def far : Line := 0x2000000005
/-- `near` with the slice of a line changed. -/
def nearOn (l : Line) (f : Slice → Slice) : State := withHub (near.onSlice (near.homeHs l) f)
def sparse : WrData := ⟨0, 0, true, false, true⟩
def rep9 : SpanRep := ⟨spanReq .wrFull fl9 0, some whole, 101⟩
theorem wit_arrives (f : Flit) (op : ReqOp) (d : Option WrData) (hb : f.spanBad op.spanOpc = false) (hd : ∀ w, d = some w → w.sound = true)
    (hc : near.classify f.line = .home 0) (hf : near.badForm f op = false) : SpanArrives near f op d :=
  ⟨rfl, hb, hd, ⟨0, hc⟩, hf⟩
theorem wit_goes : spanGoes near 9 := ⟨by decide +kernel, by decide +kernel⟩
theorem wit_SpanRequestsArePresentedAtTheHome :
    (∀ o ∈ [ReqOp.rdShared, .rdAny, .rdOwn, .upgrade, .rdOnce], SpanArrives near (msg9 0).flit o none) ∧ (msg9 0).flit.b28 = false ∧
    SpanArrives near (msg9 (lowField 28 1)).flit .rsvLoad none ∧ (msg9 (lowField 28 1)).flit.b28 = true ∧
    SpanArrives near (msg9 0).flit .wrFull (some whole) ∧ whole.beValid = false ∧
    SpanArrives near (msg9 0).flit .wrPart (some sparse) ∧ sparse.beValid = true ∧
    SpanArrives near (msg9 (lowField 28 1)).flit .rsvStore (some whole) ∧ SpanArrives near (msg9 (lowField 21 2)).flit .atom none ∧
    (near.start.phase = .serving ∧ near.classify (0x1000000000 : Line) = .unmapped ∧ near.reachable gaid9.hub = true ∧
      (∀ o ∈ [ReqOp.rdShared, .rdAny, .rdOwn, .upgrade, .rdOnce, .atom], { fl9 with line := 0x1000000000 }.spanBad o.spanOpc = false)) ∧
    spanGoes near 9 ∧
    (let h : Hub := { near with spanReps := [rep9] }
     h.spanReps.find? (fun y => y.req.gaid == gaid9 && y.req.txid == 7 && y.at_ != 0) = some rep9 ∧ rep9.at_ ≤ h.round + 1) := by
  have hn : ∀ w : WrData, (none : Option WrData) = some w → w.sound = true := fun _ h => (nomatch h)
  have hw : ∀ v : WrData, v.sound = true → ∀ w, some v = some w → w.sound = true := fun v h w e => by cases e; exact h
  refine ⟨?_, by decide, wit_arrives _ _ _ (by decide +kernel) hn (by decide +kernel) (by decide +kernel), by decide,
    wit_arrives _ _ _ (by decide +kernel) (hw _ rfl) (by decide +kernel) (by decide +kernel), rfl,
    wit_arrives _ _ _ (by decide +kernel) (hw _ rfl) (by decide +kernel) (by decide +kernel), rfl,
    wit_arrives _ _ _ (by decide +kernel) (hw _ rfl) (by decide +kernel) (by decide +kernel),
    wit_arrives _ _ _ (by decide +kernel) hn (by decide +kernel) (by decide +kernel), by decide +kernel, wit_goes, by decide +kernel⟩
  have hb : ∀ o ∈ [ReqOp.rdShared, .rdAny, .rdOwn, .upgrade, .rdOnce],
    (msg9 0).flit.spanBad o.spanOpc = false ∧ near.badForm (msg9 0).flit o = false := by decide +kernel
  exact fun o m => wit_arrives _ _ _ (hb o m).1 hn (by decide +kernel) (hb o m).2

def nearDev : Hub := { devHub true with
  par := (0x201, 0x13) :: (0x409, 0x109) :: (devHub true).par
  prot := { (devHub true).prot with agents := [] } }
theorem wit_SpanDeviceRequestsAreServed :
    nearDev.start.phase = .serving ∧ (nearDev.classify flDev.line = .device 0 ∧ (nearDev.access 0xFF).dev.getLsbD 0 = true ∧
      nearDev.isOnline (nearDev.drtTarget 0) = true ∧ (nearDev.agent (nearDev.drtTarget 0)).dead = false ∧ whole.sound = true ∧
      nearDev.postNext = none ∧ (nearDev.dev.reqs.filter fun x => x.posted && !x.irq).length < 512) ∧
    ({ fl9 with line := flDev.line }.spanBad 0x0C = false ∧ { fl9 with line := flDev.line }.spanBad 0x0D = false ∧
      { fl9 with line := (flWin 0x2000).line }.spanBad 0x0C = false) ∧ spanGoes near 9 ∧
    (near.classify (flWin 0x2000).line = .window near.num ∧ wholeWords (wordMask 7) = some [7] ∧ near.reachable gaid9.hub = true) := by
  refine ⟨rfl, by decide +kernel, by decide +kernel, wit_goes, by decide +kernel⟩

def hubViewed (v : HView) : Slice → Slice := fun s => { s with sd := [(sdKey (5 : Line).sdSet 0, v.word (5 : Line).sdTag)] }
def wbFar : WbLine := { wb5 with line := far, ls := far.ls, home := false, sent := true }
theorem wit_clean9 (h : Hub) (hw : (h.slice (h.homeHs 5)).badWays (5 : Line).sfSet = 0) (hd : (h.slice (h.homeHs 5)).badHubWays (5 : Line).sdSet = 0)
    (hc : (h.slice (h.homeHs 5)).badHcWays (5 : Line).hcSet = 0) : cleanLookup h 5 .none :=
  ⟨⟨rfl, rfl, rfl, hw⟩, rfl, rfl, hd, rfl, rfl, rfl, rfl, rfl, hc⟩
theorem wit_SpanWritebacksReachTheDirectory :
    near.takesAnswers = true ∧ spanGoes near 9 ∧
    (∀ v, v = .own 9 ∨ v = .shr [4, 9] ∨ v = .brd ∨ v = .own 8 →
      let h := (nearOn 5 (hubViewed v)).hub
      cleanLookup h 5 .none ∧ h.isHome 5 = true ∧ h.reachable 9 = true ∧ (h.slice 5).lookupDue 5 = false ∧ (h.slice 5).lookedOn 5 = none ∧
        (h.slice 5).healthySd 5 = [0] ∧ HView.ofWord ((h.slice 5).sdAt (5 : Line).sdSet 0) = some v ∧ h.lineDown 5 = false ∧
        h.wbFind 5 5 = none) ∧
    (let h := (nearOn 5 fun s => { hubViewed (.own 9) s with txns := [coming], wb := [wb5] }).hub
     cleanLookup h 5 .none ∧ (h.slice 5).lookupDue 5 = true ∧ (h.slice 5).lookedOn 5 = none ∧ h.wbFind 5 5 = some wb5) ∧
    ((msg9 0).flit.spanBad 0x10 = false ∧ (msg9 (lowField 28 1)).flit.spanBad 0x10 = false ∧ (msg9 0).flit.spanBad 0x11 = false ∧
      whole.sound = true) ∧
    (let h := (nearOn far fun s => { s with wb := [wbFar] }).hub
     { fl9 with line := far }.spanBad 0x2B = false ∧ (7 : Txid) ≠ evictTx far ∧ h.wbFind (h.homeHs far) far = some wbFar ∧
       wbFar.home = false ∧ wbFar.sent = true ∧ wbFar.again = false) := by
  refine ⟨by decide +kernel, wit_goes, ?_, ⟨wit_clean9 _ (by decide +kernel) (by decide +kernel) (by decide +kernel), by decide +kernel⟩,
    by decide +kernel, by decide +kernel⟩
  rintro v (rfl | rfl | rfl | rfl) <;> exact ⟨wit_clean9 _ (by decide +kernel) (by decide +kernel) (by decide +kernel), by decide +kernel⟩

def snpMsg : SpanMsg := ⟨9, { fl9 with line := far }⟩
def waiting9 : WaitSnoop := ⟨far.ls, .inv, snpMsg, 99⟩
def heldAt (k : BitVec 4) : HeldSnoop := ⟨k, .inv, false, 9, gaid9, 7, far, .unc, [], [], [], [], none, false, 90⟩
def farViewed (v : SView) : Slice → Slice := fun s => { s with sf := [(sfKey far.sfSet 0, v.word far.sfTag)] }
/-- A transaction of this hub for that line, whose gate holds forwarded data. -/
def unreleasedFar : Txn := { txn3 with
  req := { req3 with line := far }
  spanReq := true
  gate := { Gate.init with expect := [4], fwd := some pay, fwdFrom := some 4, need := true } }
theorem wit_SpanSnoopsAreServedAtTheHolder :
    (near.start.phase = .serving ∧ near.reachable snpMsg.flit.gaid.hub = true ∧ near.reachable snpMsg.src = true ∧
      near.wbFind (near.homeHs far) far = none ∧ ∀ o ∈ [SnpOp.fwdS, .fwdO, .inv, .data], snpMsg.flit.spanBad o.spanOpc = false) ∧
    spanGoes near 9 ∧ cleanRead near far .none ∧ cleanRead (nearOn far (farViewed (.own 4))).hub far .none ∧
    (near.freeHeld (near.homeHs far) = some 0 ∧ near.waitSnoops = [] ∧ (near.slice (near.homeHs far)).homeView far = .unc ∧
      (near.slice (near.homeHs far)).unreleased far = none) ∧
    (let h := (nearOn far (farViewed (.own 4))).hub
     (h.slice (h.homeHs far)).homeView far = .own 4 ∧ (h.slice (h.homeHs far)).txnOn far = none ∧ h.freeHeld (h.homeHs far) = some 0) ∧
    (let h := (nearOn far fun s => { farViewed (.own 4) s with txns := [unreleasedFar] }).hub
     (h.slice (h.homeHs far)).unreleased far = some unreleasedFar ∧ h.txn (h.homeHs far) 1 = some unreleasedFar ∧
       h.freeHeld (h.homeHs far) = some 0) ∧
    snoopable near 4 ∧ hears near 4 ∧
    ((nearOn far fun s => { s with helds := (upTo 16).map fun k => heldAt (BitVec.ofNat 4 k) }).hub.freeHeld (near.homeHs far) = none ∧
      ∃ y ∈ ({ near with waitSnoops := [waiting9] } : Hub).waitSnoops, y.ls = snpMsg.flit.line.ls) ∧
    (let h : Hub := { near with waitSnoops := [waiting9] }
     h.waitSnoops.find? (fun y => y.ls == snpMsg.flit.line.ls) = some waiting9 ∧ waiting9.op = .inv ∧ waiting9.msg = snpMsg ∧
      h.freeHeld (h.homeHs far) = some 0 ∧ (h.slice (h.homeHs far)).homeView far = .unc ∧ (h.slice (h.homeHs far)).unreleased far = none) := by
  refine ⟨by decide +kernel, wit_goes, ⟨rfl, rfl, rfl, by decide +kernel⟩, ⟨rfl, rfl, rfl, by decide +kernel⟩, by decide +kernel, by decide +kernel,
    by decide +kernel, ⟨rfl, rfl, rfl, rfl⟩, ⟨rfl, rfl, rfl, by decide +kernel, by decide +kernel, by decide +kernel⟩, by decide +kernel, by decide +kernel⟩

/-- A transaction of hub 9's agent at its home here, which waits for hub 9 and for a further copy, and one of this hub's at hub 9's slice. -/
def txn9 : Txn := { txn3 with
  req := spanReq .rdOwn fl9 0
  copies := [9, 4]
  gate := { txn3.gate with
    spanCmp := true
    spanGrant := 2 } }
def reqFar : Req := { req3 with line := far }
def txnFar : Txn := { txn3 with
  req := reqFar
  spanReq := true
  gate := { Gate.init with expect := [4] } }
def flFar (low : BitVec 29) : SpanMsg := ⟨9, { fl with line := far, low := low }⟩
def farOpen (x : Txn) : State := nearOn far fun s => { s with txns := [x] }
theorem wit_HolderAnswersCountAtHomeAndRequester :
    near.takesAnswers = true ∧
    (let h := (nearOn 5 fun s => { s with txns := [txn9] }).hub
     h.findTxn gaid9 7 5 = some txn9 ∧ h.txn (h.homeHs 5) txn9.tid = some txn9 ∧ txn9.copies.contains 9 = true ∧ h.isHome 5 = true ∧
      h.lineDown 5 = false ∧ h.reachable txn9.req.gaid.hub = true) ∧
    AwaitsHubs txn9 9 ∧ (msg9 (lowField 26 1)).flit.b26 = true ∧ spanGoes near 9 ∧
    (∀ o ∈ [(0x20 : BitVec 6), 0x21, 0x22], (msg9 (lowField 26 1)).flit.spanBad o = false ∧ (flFar 0).flit.spanBad o = false) ∧
    ((msg9 0).flit.spanBad 0x24 = false ∧ (flFar 0).flit.spanBad 0x30 = false ∧ txnFar.spanReq = true) ∧
    ((farOpen txnFar).hub.findTxn gaid3 7 far = some txnFar ∧
      (farOpen txnFar).hub.txn ((farOpen txnFar).hub.homeHs far) txnFar.tid = some txnFar) ∧
    AwaitsAnswers txnFar ∧ Sourced txnFar ∧ (flFar 0).flit.b26 = false := by
  refine ⟨by decide +kernel, by decide +kernel, ⟨rfl, rfl, rfl, rfl, rfl, ⟨rfl, rfl, rfl⟩, .inl ⟨4, by decide, by decide⟩⟩, by decide,
    wit_goes, by decide +kernel, by decide +kernel, by decide +kernel, ⟨rfl, rfl, rfl, rfl, by decide⟩, .inl rfl, by decide⟩

def upgradeFar : Txn := { txnFar with
  req := { reqFar with op := .upgrade }
  gate := { Gate.init with
    judged := true
    grant := gE
    spanGot := 2 } }
def devFar (got : Option Payload) : DevReq := ⟨9, gaid3, 7, far, 64, 0, false, 0, 0, 0, false, false, false, none, false, some 100, none, got⟩
theorem wit_SpanCompletionsReachTheirRequests :
    near.takesAnswers = true ∧
    ((farOpen txnFar).hub.findTxn gaid3 7 far = some txnFar ∧
      (farOpen txnFar).hub.txn ((farOpen txnFar).hub.homeHs far) txnFar.tid = some txnFar ∧ txnFar.spanReq = true ∧
      txnFar.gate.spanCmp = false ∧ txnFar.acked = none ∧ (flFar 0).flit.kept ≠ oMalformed ∧ txnFar.gate.released = false ∧
      txnFar.req.op ≠ .rdAny) ∧
    AwaitsAnswers txnFar ∧
    (let h := (farOpen upgradeFar).hub
     h.findTxn gaid3 7 far = some upgradeFar ∧ h.txn (h.homeHs far) upgradeFar.tid = some upgradeFar ∧ upgradeFar.phase = .looked ∧
      upgradeFar.req.span = false ∧ upgradeFar.hentry = none ∧ upgradeFar.baseDue = false ∧ upgradeFar.deadReq = false ∧
      upgradeFar.req.op = .upgrade ∧ upgradeFar.gate.judged = true ∧ upgradeFar.gate.released = false ∧ upgradeFar.gate.need = false ∧
      upgradeFar.gate.acks = 0 ∧ upgradeFar.gate.pullWait = false ∧ upgradeFar.gate.spanFwd = false ∧ upgradeFar.gate.spanCmp = false ∧
      (flFar (lowField 15 2)).flit.ackCnt.toNat ≤ upgradeFar.gate.spanGot ∧ upgradeFar.gate.grant = gE ∧
      (flFar (lowField 15 2)).flit.kept = oDone ∧ (flFar (lowField 15 2)).flit.spanBad 0x28 = false ∧ (flFar 0).flit.spanBad 0x28 = false ∧
      (flFar 0).flit.spanBad 0x30 = false) ∧ hears near upgradeFar.req.gaid.la ∧
    (∀ g, g = none ∨ g = some pay →
      let h : Hub := { near with dev := { near.dev with reqs := [devFar g] } }
      h.findTxn gaid3 7 far = none ∧ h.remoteDev (flFar 0).flit = some (devFar g)) ∧
    ((devFar none).rsp = none ∧ (devFar (some pay)).got = some pay ∧ (devFar none).span = none ∧ (flFar 0).flit.kept ≠ oNoRsv) := by
  refine ⟨by decide +kernel, by decide +kernel, ⟨rfl, rfl, rfl, rfl, by decide⟩, by decide +kernel,
    ⟨rfl, rfl, rfl, by decide +kernel, by decide +kernel, by decide +kernel⟩, ?_, by decide +kernel⟩
  rintro g (rfl | rfl) <;> decide +kernel

def done9 : Txn := { txn9 with copies := [], hview := .none }
def pending9 : Txn := { txn9 with copies := [9] }
/-- A span back-invalidation that waits for hub 9, overdue. -/
def backAt9 : BackInv := ⟨0, .spanRunAhead, 5, 10, .unc, [], [9], false, 90, none⟩
def back3 : SpanBack := ⟨gaid3, 7, far, 100⟩
theorem wit_SpanDelaysAcknowledgementsAndLosses :
    near.takesAnswers = true ∧ (txnFar.spanReq = true ∧ txnFar.req.span = false ∧ txnFar.gate.spanCmp = false) ∧
    (∀ x, x = done9 ∨ x = pending9 → let h := (nearOn 5 fun s => { s with txns := [x] }).hub
      h.findTxn gaid9 7 5 = some x ∧ h.txn (h.homeHs 5) x.tid = some x ∧ x.req.span = true ∧ x.gate.spanGrant ≠ 0 ∧ x.acked = none ∧
        x.deadReq = false ∧ h.isHome 5 = true ∧ (h.slice (h.homeHs 5)).acksDue.contains (gaid9, 7, 5) = false) ∧
    (done9.closable = true ∧ pending9.closable = false) ∧
    ((nearOn 5 fun s => { s with acksDue := [(gaid9, 7, 5)] }).hub.slice (near.homeHs 5)).acksDue.contains (gaid9, 7, 5) = true ∧
    (let h : Hub := { (farOpen txnFar).hub with spanBacks := [back3] }
     back3 ∈ h.spanBacks ∧ (∀ k ∈ h.spanBacks, k.gaid = back3.gaid → k.txid = back3.txid → k = back3) ∧ back3.at_ ≤ h.round ∧
      h.findTxn back3.gaid back3.txid back3.line = some txnFar ∧ txnFar.wdata = none ∧ txnFar.req.op.staged = false ∧
      h.remoteHome back3.line = some 9 ∧ h.reachable 9 = true) ∧
    (let h := (nearOn 5 fun s => { s with txns := [pending9] }).hub
     9 ≠ h.num ∧ h.lostHubs.contains 9 = false ∧ h.txn (h.hsOf (5 : Line).ls) pending9.tid = some pending9 ∧
      pending9.copies.contains 9 = true ∧ pending9.copyDue ≤ h.round) ∧
    (let h := (nearOn 5 fun s => { s with backs := [backAt9] }).hub
     ∃ k ∈ (h.slice (h.hsOf 5)).backs, k.hubs.contains 9 = true ∧ k.due ≤ h.round) ∧
    (∀ o ∈ [(0x29 : BitVec 6), 0x2A, 0x2C, 0x2D], (flFar 0).flit.spanBad o = false ∧ (msg9 0).flit.spanBad o = false) := by
  refine ⟨by decide +kernel, by decide +kernel, ?_, by decide +kernel, by decide +kernel, by decide +kernel, by decide +kernel, by decide +kernel, by decide +kernel⟩
  rintro x (rfl | rfl) <;> decide +kernel

/-! ### Witnesses: rotation and test -/

def rotated (f : Rot → Rot) : State := withHub { hub with rot := f { Rot.init with newt := some 64, outHs := 63, ls := 63 } }
theorem wit_RotationStepsCopyDrainAndHandOver :
    (let h := (rotated id).hub
     h.start.phase = .serving ∧ h.rot.phase = 0 ∧ h.core.restart = false ∧ h.p 0x980 = 1 ∧ h.rot.noNewt = false ∧ h.rot.slotDue h.round = true ∧
      h.rot.newt = some 64 ∧ h.rot.retests = [] ∧ h.rot.front = [] ∧ h.rot.passOpen = false ∧ (64 : BitVec 7).toNat < 65) ∧
    (let h := (rotated fun r => { r with passOpen := true, slotsUsed := 1, tested := 1#65 <<< 63 }).hub
     h.rot.slotDue h.round = true ∧ h.rot.passOpen = true ∧ h.rot.nextOut 64 = some 62) ∧
    (let h := (rotated fun r => { r with retests := [64] }).hub
     h.rot.slotDue h.round = true ∧ h.rot.retests = [64] ∧ h.rot.newt = some 64) ∧
    (∀ g, g = 0 ∨ g = 4095 →
      let h := (rotated fun r => { r with phase := 1, pointer := g }).hub
      h.rot.phase = 1 ∧ h.rot.pointer = g ∧ g < 4096 ∧ (h.slice 63).walk = none ∧ (h.slice 64).walk = none ∧
        (∀ i < 4, (h.slice 63).badWays (BitVec.ofNat 14 (4 * g + i)) = 0) ∧
        (∀ w < 8, (HView.ofWord ((h.slice 63).sdAt (BitVec.ofNat 12 g) w)).isSome = true) ∧
        (h.slice 64).wayDis = 0 ∧ (h.slice 64).wayMark = 0 ∧ (h.slice 63).badHcWays (BitVec.ofNat 10 (g / 4)) = 0) ∧
    ((rotated fun r => { r with phase := 2 }).hub.rot.phase = 2 ∧ ((rotated fun r => { r with phase := 2 }).hub.slice 63).drained = true ∧
      (let h := (rotated fun r => { r with phase := 2 }).hub.onSlice 63 fun s => { s with fills := [fill5 none], wb := [{ wb5 with line := 63, ls := 63 }] }
       (h.slice 63).drained = true ∧ ∃ f ∈ (h.slice 63).fills, f.kind ≠ .chain)) ∧
    (let h := (rotated fun r => { r with phase := 3, ended := true }).hub
     h.rot.phase = 3 ∧ h.rot.markerIn = false ∧ h.epoch.loaded = none ∧ h.epoch.draining = false ∧ h.rot.newt = some 64 ∧ h.rot.outHs = 63) ∧
    (let h : Hub := { (rotated fun r => { r with phase := 3, ended := true, markerIn := true }).hub with map := [(63, 64)] }
     h.rot.phase = 3 ∧ h.rot.markerIn = true ∧ h.map.getD h.rot.ls.toNat h.rot.ls.toNat = 64 ∧ h.epoch.loaded = none ∧
      h.epoch.draining = false) ∧
    (let h := (rotated fun r => { r with phase := 1, drainAt := some 100 }).hub
     h.rot.phase = 1 ∧ h.rot.drainAt = some 100 ∧ 100 ≤ h.round) := by
  refine ⟨by decide +kernel, by decide +kernel, by decide +kernel, ?_, by decide +kernel, by decide +kernel, by decide +kernel,
    by decide +kernel⟩
  rintro g (rfl | rfl) <;> decide +kernel

def repair7 : Repair := ⟨7, 2, 3, 1, 0⟩
theorem wit_TestsEndInResultsRepairsAndRetirement :
    (let h := (rotated fun r => { r with phase := 4, testing := some 63 }).hub
     (63 : BitVec 7).toNat < 65 ∧ h.rot.testing = some 63 ∧ h.rot.phase = 4 ∧ h.rot.failedOnce.contains 63 = false) ∧
    (let h := (rotated fun r => { r with phase := 6, testing := some 64, failedOnce := [64] }).hub
     h.rot.testing = some 64 ∧ h.rot.phase = 6 ∧ h.rot.failedOnce.contains 64 = true) ∧
    (let h := { (rotated fun r => { r with fuseReq := [(7, 2, 3)] }).hub.onSlice 7 fun s => { s with role := .underTest } with
       aon := { hub.aon with repairs := [(0, repair7)] } }
     quietMailboxes h ∧ h.rot.fuseReq.contains (7, 2, 3) = true ∧ (h.slice 7).role = .underTest ∧ h.core.restart = false ∧
      h.aon.repairAt 7 2 3 = some (0, repair7) ∧ st.otp.fusesOf 7 < 32) ∧
    65 ≤ (65 : BitVec 7).toNat ∧ (rotated fun r => { r with phase := 5 }).hub.rot.outHs = 63 ∧
    (let h := (rotated fun r => { r with passOpen := true, passStart := 1, interval := 0 }).hub
     h.rot.passOpen = true ∧ h.rot.late = false ∧ h.rot.passStart + h.rot.span < h.round) := by
  refine ⟨by decide +kernel, by decide +kernel, ⟨⟨fun _ => rfl, rfl⟩, by decide +kernel⟩, by decide, rfl, by decide +kernel⟩

def armed : State := withHub (coreHub (fun c => { c with armed := true }) id)
def opened : State := withHub (coreHub id fun x => { x with access := true })
def pass7 : Raise := rz evTestPass 7
def logging (l : List LogRec) : Hub := { coreHub (fun c => { c with image := true }) id with events := { hub.events with
  queue := [pass7]
  log := l } }
theorem wit_TestAccessOtpLogAndWindows :
    (st.hub.core.armed = false ∧ armed.hub.core.armed = true ∧ ({ st with otp := { st.otp with lifecycle := 1 } } : State).otp.lifecycle ≠ 0 ∧
      armed.hub.start.fatal = false) ∧
    (st.hub.start.access = false ∧ opened.hub.start.access = true ∧ opened.otp.gens.look 1 = none) ∧
    (({ opened with otp := { opened.otp with gens := [(1, ⟨[], true⟩)] } } : State).otp.gens.look 1 ≠ none ∧
      ({ opened with otp := { opened.otp with keyHash := 0 } } : State).otp.keyHash = 0) ∧
    (let h := logging []
     h.core.image = true ∧ h.core.restart = false ∧ h.events.queue = [pass7] ∧ h.events.lost = 0 ∧
      mergeNewest pass7 h.events.log.reverse = none ∧ h.events.log.length < 512) ∧
    (let h := logging [⟨1, pass7, 0, 0⟩]
     mergeNewest pass7 h.events.log.reverse = some [⟨1, pass7, 1, 0⟩]) ∧
    (let h : Hub := { hub with pmc := { hub.pmc with winStart := 0, winLog := 6 } }
     h.pmc.winStart + 2 ^ h.pmc.winLog ≤ h.round) := by
  decide +kernel

/-! ### Witnesses: the register window and the mailboxes -/

/-- That hub with agent 3 as an owner of mailbox 0, which is enabled at level 3. -/
def owned : Hub := { hub with prot := { hub.prot with mbx := [(0, ⟨3, false, true, 1#128 <<< 3⟩)] } }
def ownMb (f : Mbx → Mbx) : Hub := owned.onMb 0 f
theorem wit_WindowWritesReachTheirRegisters :
    (∀ k ∈ [0x400, 0x418, 0x1000, 0x10F8, 0x1100, 0x11F8, 0x2000, 0x2008, 0x2010, 0x2100, 0x21F8, 0x500, 0x1200, 0x1208, 0x2018,
        0x4000, 0xBFF8], owned.mayWrite gaid3 k = true ∨ 0x4000 ≤ k) ∧
    (owned.mayWrite gaid3 0x4000 = true ∧ (∀ k ∈ [0x400, 0x418, 0x1000, 0x1100, 0x2000, 0x2100, 0x4000, 0], owned.mayWrite gaid4 k = false)) ∧
    ({ owned with prot := { owned.prot with mbx := [(7, ⟨3, false, true, 1#128 <<< 3⟩)] } } : Hub).mayWrite gaid3 0xBFF8 = true ∧
    (((64 : Word) &&& 0xFFFFFFFFFFFFFF80 = 0) ∧ ringCount ((64 : Word).setWidth 7) (owned.mb 0).cmdHead ≤ 64 ∧
      64 < ringCount ((65 : Word).setWidth 7) (owned.mb 0).cmdHead) ∧
    (ringCount ((0 : Word).setWidth 7) (owned.mb 0).rspHead ≤ ringCount (owned.mb 0).rspTail (owned.mb 0).rspHead ∧
      ringCount (owned.mb 0).rspTail (owned.mb 0).rspHead < ringCount ((1 : Word).setWidth 7) (owned.mb 0).rspHead) ∧
    ((0x1FFFFFFFF : Word) &&& 0xFFFFFFFE00000000 = 0 ∧ (0xFFFFFFFF : Word) &&& 0xFFFFFFFF00000000 = 0 ∧
      (0xFFFFFFFFFFFF : Word) &&& 0xFFFF000000000000 = 0 ∧ owned.pmc.bank.toNat < 12 ∧ (0xF : Word) &&& 0xFFFFFFFFFFFFFFF0 = 0 ∧
      (0x10000 : Word) &&& 0xFFFFFFFFFFFF0000 ≠ 0) := by
  decide +kernel

/-- A state with a hub and a descriptor in mailbox 0's first command slot. -/
def descIn (h : Hub) (l : List Word) : State := { withHub (h.onMb 0 fun m => { m with cmdTail := 1 }) with
  ring := ((upTo l.length).map fun k => (k, List.nth l k 0)).foldl (fun m e => m.writeWord (cmdSlot 0 0 + 8 * e.1) e.2) [] }
/-- W0 of a command. -/
def w0 (cmd : Nat) : Word := BitVec.ofNat 64 (cmd * 2 ^ 48 + 2 ^ 32)
/-- What `Takes` asks, as one test. -/
def takes (s : State) (cmd level : Nat) : Bool :=
  s.hub.mbReady 0 && !s.hub.bootRom && decide ((s.desc 0).cmd.toNat = cmd) && decide (level ≤ (s.hub.priv 0).level.toNat) && s.ring.wf &&
    s.hub.core.resps.isEmpty && match cmdRow cmd with
      | some (l, masks) => l == level && (s.desc 0).badWord masks == none
      | none => false
theorem takes_of (s : State) (cmd level : Nat) (h : takes s cmd level = true) : Takes s 0 cmd level (s.desc 0) := by
  unfold takes at h
  simp only [Bool.and_eq_true, Bool.not_eq_true', decide_eq_true_eq, List.isEmpty_iff] at h
  obtain ⟨⟨⟨⟨⟨⟨a, b⟩, c⟩, e⟩, f⟩, g⟩, k⟩ := h
  refine ⟨a, b, rfl, c, e, ?_, f, g⟩
  split at k
  · rename_i l masks hr
    simp only [Bool.and_eq_true, beq_iff_eq] at k
    exact ⟨masks, by rw [hr, k.1], k.2⟩
  · cases k

def softRepaired : Hub := { owned with aon := { owned.aon with repairs := [(0, repair7)] } }
def fuses (n : Nat) : State := { descIn softRepaired [w0 0x51, 0x300020007] with
  otp := { st.otp with fuses := (upTo n).map fun _ => (7, 0, 0, 0) } }
theorem wit_MailboxCommandsAreCheckedAndAnswered :
    owned.mbReady 0 = false ∧
    (takes (descIn owned [w0 0x01]) 0x01 0 = true ∧ takes (descIn owned [w0 0x02]) 0x02 0 = true ∧
      takes (descIn owned [w0 0x60, 0x300000000]) 0x60 0 = true ∧ takes (descIn owned [w0 0x61]) 0x61 0 = true ∧
      takes (descIn owned [w0 0x70, 1]) 0x70 3 = true ∧ takes (descIn owned [w0 0x50, 1]) 0x50 3 = true ∧
      takes (descIn owned [w0 0x52, 64]) 0x52 1 = true ∧ takes (descIn owned [w0 0x71]) 0x71 3 = true ∧
      takes (fuses 31) 0x51 3 = true ∧ takes (fuses 32) 0x51 3 = true) ∧
    ((descIn owned [w0 0x99]).hub.mbReady 0 = true ∧ cmdRow ((descIn owned [w0 0x99]).desc 0).cmd.toNat = none ∧
      cmdRow ((descIn owned [w0 0x01]).desc 0).cmd.toNat ≠ none ∧ ((descIn owned [w0 0x01]).desc 0).cmd ≠ 2) ∧
    (let s := descIn { owned with prot := { owned.prot with mbx := [(0, ⟨2, false, true, 8⟩)] } } [w0 0x71]
     s.hub.mbReady 0 = true ∧ (s.desc 0).cmd = 0x71 ∧ (s.hub.priv 0).level ≠ 3) ∧
    (let s := descIn owned [w0 0x02, 0, 1]
     s.hub.mbReady 0 = true ∧ (s.desc 0).cmd = 0x02 ∧ s.hub.bootRom = false ∧ (s.desc 0).badWord [] = some 2) ∧
    (3 ≤ ((descIn owned [w0 0x60, 0x300000000]).desc 0).field 1 32 4 ∧ ((descIn owned [w0 0x60, 0x200000001]).desc 0).field 1 32 4 ≤ 2 ∧
      (owned.events.log.find? fun y => y.seq.toNat == 1) = none ∧
      ((logging [⟨1, pass7, 0, 0⟩]).events.log.find? fun y => y.seq.toNat == 1) = some ⟨1, pass7, 0, 0⟩) ∧
    (((descIn owned [w0 0x52, 64]).desc 0).field 1 0 7 = 64 ∧ ((descIn owned [w0 0x52, 65]).desc 0).field 1 0 7 = 65 ∧
      (owned.slice 64).role ≠ .substituted ∧ ((owned.onSlice 3 fun s => { s with role := .substituted }).slice 3).role = .substituted) ∧
    owned.start.phase = .serving ∧
    (let d := (fuses 31).desc 0
     d.field 1 0 7 = 7 ∧ d.field 1 16 16 = 2 ∧ d.field 1 32 8 = 3 ∧ (fuses 31).hub.aon.repairAt 7 2 3 = some (0, repair7) ∧
      (fuses 31).otp.fusesOf 7 < 32 ∧ 32 ≤ (fuses 32).otp.fusesOf 7 ∧ owned.aon.repairAt 7 2 3 = none) := by
  decide +kernel

/-! ### Witnesses: parameters, protection, maintenance, keys and measurements -/

def cmdIn (l : List Word) : State := descIn owned l
def staged0 (l : List StageItem) : Hub := owned.onMb 0 fun m => { m with stage := l }
def item40 : StageItem := ⟨0x40, false, 5⟩
def readOf (p : Nat) (stagedOnes : Bool) : List Word := [w0 0x10, BitVec.ofNat 64 (p * 2 ^ 32), 1 ||| (if stagedOnes then 0x100 else 0)]
def stageOf (p v : Nat) : List Word := [w0 0x11, BitVec.ofNat 64 (p * 2 ^ 48), BitVec.ofNat 64 v, 0, 0, 0, 1]
def committing (prot : Bool) (items : List StageItem) (tabs : List ProtItem) : Hub :=
  { owned.onMb 0 fun m => { m with busy := some ⟨0x12, 1, false, .commit⟩, stage := items } with
    core := { owned.core with commits := [⟨0, prot, 0, items, tabs, some 100⟩] } }
theorem wit_ParameterCommandsReadStageAndCommit :
    (∀ p ∈ [0x41, 0x910, 0x1800], takes (cmdIn (readOf p false)) 0x10 0 = true ∧
      ((cmdIn (readOf p false)).desc 0).field 2 0 2 = 1 ∧ ((cmdIn (readOf p false)).desc 0).pids 32 3 = [p, 0, 0] ∧
      ((cmdIn (readOf p false)).desc 0).field 2 8 1 = 0 ∧ Param.wide p = false) ∧
    (owned.readBad 0 0x1800 = some ccNotPresent ∧ owned.readBad 0 0x41 = none ∧ owned.readBad 0 0x910 = none ∧ Param.access 0x41 = .rw ∧
      Param.access 0x910 = .rc) ∧
    (let s := descIn (staged0 [item40]) (readOf 0x40 true)
     takes s 0x10 0 = true ∧ (s.desc 0).field 2 8 1 = 1 ∧ (s.desc 0).pids 32 3 = [0x40, 0, 0] ∧ s.hub.readBad 0 0x40 = none ∧
      (s.hub.mb 0).stage.find? (fun x => x.pid.toNat == 0x40 && x.hi == false) = some item40) ∧
    (takes (cmdIn (stageOf 0x1800 5)) 0x11 1 = true ∧ owned.stageBad 0 0x1800 5 = some ccNotPresent ∧
      takes (cmdIn (stageOf 0x40 5)) 0x11 1 = true ∧ ((cmdIn (stageOf 0x40 5)).desc 0).field 6 0 3 = 1 ∧
      ((cmdIn (stageOf 0x40 5)).desc 0).pids 48 4 = [0x40, 0, 0, 0] ∧ ((cmdIn (stageOf 0x40 5)).desc 0).word 2 = 5 ∧
      ((cmdIn (stageOf 0x40 5)).desc 0).word 3 = 0 ∧ owned.stageBad 0 0x40 5 = none ∧ Param.wide 0x40 = false) ∧
    (256 ≤ ((staged0 ((upTo 256).map fun k => ⟨BitVec.ofNat 16 (0x100 + k), false, 0⟩)).mb 0).stage.length ∧
      ((staged0 [item40]).mb 0).stage = [] ++ item40 :: []) ∧
    (takes (cmdIn [w0 0x13]) 0x13 1 = true ∧ takes (cmdIn [w0 0x12]) 0x12 1 = true ∧ owned.core.commits = [] ∧
      ({ owned with mbx := [(0, { Mbx.init with discarded := true })] } : Hub).mb 0 = { Mbx.init with discarded := true } ∧
      (staged0 [item40]).commitBad ⟨0, false, 0, [], [], none⟩ = none ∧
      (staged0 [⟨0x40, false, 0xFFFFFFFF⟩]).commitBad ⟨0, false, 0, [], [], none⟩ = some (ccBadArg, 0, 0)) ∧
    quietMailboxes owned ∧
    (let h := committing false [item40] []
     h.core.commits = [⟨0, false, 0, [item40], [], some 100⟩] ∧ 100 ≤ h.round ∧ h.core.restart = false ∧ h.core.resps = [] ∧
      h.inForce 0x40 item40.val = some item40.val ∧ Param.routed 0x40 = false ∧ within 0x40 0x680 0x68F = false ∧
      within 0x40 0x7A0 0x7A7 = false) := by
  refine ⟨by decide +kernel, by decide +kernel, by decide +kernel, by decide +kernel, by decide +kernel, by decide +kernel,
    ⟨?_, rfl⟩, by decide +kernel⟩
  decide +kernel

def pitem : ProtItem := .mbx 1 ⟨1, false, false, 0⟩
def lastSteward : ProtItem := .mbx 0 ⟨0, false, true, 8⟩
def protStaged (l : List ProtItem) : Hub := { owned with core := { owned.core with protStage := l } }
theorem wit_ProtectionCommandsStageReadAndCommit :
    (takes (cmdIn [w0 0x20, 0x101, 8, 0]) 0x20 3 = true ∧ takes (cmdIn [w0 0x24]) 0x24 3 = true) ∧
    (∀ a ∈ [127, 128, 255], takes (cmdIn [w0 0x21, BitVec.ofNat 64 a, 0, 0]) 0x21 3 = true ∧
      ((cmdIn [w0 0x21, BitVec.ofNat 64 a, 0, 0]).desc 0).field 1 0 8 = a) ∧
    (takes (cmdIn [w0 0x22, 0x0040004100000005]) 0x22 3 = true ∧ takes (cmdIn [w0 0x22, 0x0041004000000005]) 0x22 3 = true ∧
      ((cmdIn [w0 0x22, 0x0041004000000005]).desc 0).field 1 48 16 = 0x41 ∧
      ((cmdIn [w0 0x22, 0x0041004000000005]).desc 0).field 1 32 16 = 0x40) ∧
    (takes (cmdIn [w0 0x25, 0x70000]) 0x25 0 = true ∧ owned.prot.readEntry 0 7 ≠ none ∧ owned.prot.readEntry 0 8 = none ∧
      owned.prot.readEntry 1 0xFF ≠ none ∧ owned.prot.readEntry 1 0x80 = none ∧ owned.prot.readEntry 2 0x17FF ≠ none ∧
      owned.prot.readEntry 2 0x1800 = none) ∧
    (takes (cmdIn [w0 0x23]) 0x23 3 = true ∧ owned.core.protLost = false ∧ owned.core.commits = [] ∧
      (protStaged [pitem]).refusesProt [pitem] = none ∧ (protStaged [lastSteward]).refusesProt [lastSteward] = some 0) ∧
    quietMailboxes owned ∧
    (let h := committing true [] [pitem]
     h.core.commits = [⟨0, true, 0, [], [pitem], some 100⟩] ∧ 100 ≤ h.round ∧ h.core.restart = false ∧ h.core.resps = [] ∧
      (h.mb 0).busy = some ⟨0x12, 1, false, .commit⟩) := by
  refine ⟨by decide +kernel, by decide +kernel, by decide +kernel, by decide +kernel, by decide +kernel, ⟨?_, rfl⟩, by decide +kernel⟩
  decide +kernel

def maintOf (op w1 : Nat) (addr : Nat) (a2 : Nat) : List Word :=
  [w0 0x30, BitVec.ofNat 64 (w1 + op), BitVec.ofNat 64 addr, BitVec.ofNat 64 a2]
/-- Line 5 in way 2 of the hub cache: locked, or pinned by a chain. -/
def cached (locked chain : Bool) : Hub := owned.onSlice 5 fun s => { s with
  hcTag := [(hcKey (5 : Line).hcSet 2, hcWord (5 : Line).hcTag true locked false false chain false)] }
def cleaning : Hub := (cached false true).onSlice 5 fun s => { s with wb := [wb5] }
def walkingRange (set : Nat) : Hub := owned.onMb 0 fun m => { m with busy := some ⟨0x30, 1, false, .maint 1 64 128 set [] []⟩ }
def readEntryOf (cmd w1 : Nat) : List Word := [w0 cmd, BitVec.ofNat 64 w1]
/-- A hub cache that lists nothing, and no fill or read: a range walk finds no line. -/
theorem no_lines (set : Nat) (k : BitVec 10) (hs : Nat) : (walkingRange set).linesOfSet hs k = [] := by
  have h : (walkingRange set).slice hs = Slice.init := rfl
  have hr : (walkingRange set).reads = [] := rfl
  have ht : Slice.init.hcTag = [] := rfl
  have hf : Slice.init.fills = [] := rfl
  simp [Hub.linesOfSet, h, hr, hf, Slice.hcAt, ht, Tbl.getD, Tbl.look]
  intros
  rfl

theorem wit_MaintenanceCommandsActOnTheHubCache :
    (∀ op ∈ [0, 1, 2, 3, 4], takes (cmdIn (maintOf op 0 320 0)) 0x30 2 = true ∧ ((cmdIn (maintOf op 0 320 0)).desc 0).field 1 0 3 = op ∧
      ((cmdIn (maintOf op 0 320 0)).desc 0).maintScope (op == 3) = .inl (.line 5) ∧
      ((cmdIn (maintOf op 0 321 0)).desc 0).maintScope (op == 3) = .inr 2) ∧
    (((cmdIn (maintOf 1 0x10 4096 8192)).desc 0).maintScope false = .inl (.range 64 128) ∧
      ((cmdIn (maintOf 3 0x300000000 320 0)).desc 0).field 1 32 4 = 3 ∧ owned.isHome 5 = true ∧ owned.isHome 0x1000000 = false) ∧
    quietMailboxes owned ∧ (∀ x ∈ owned.slices, x.2.walk = none) ∧ (∀ x ∈ (cached false false).slices, x.2.walk = none) ∧
    (cleaning.cleanWaits (.line 5) = [5] ∧ cleaning.writePending 5 = true ∧ cleaning.chainPins 5 = true ∧ owned.cleanWaits (.line 5) = []) ∧
    (let h := cached false false
     h.homeHs 5 = 5 ∧ h.cleanWaits (.line 5) = [] ∧ h.chainPins 5 = false ∧ (h.slice 5).fillOf 5 = none ∧ (h.slice 5).hcWay 5 = some 2 ∧
      hcLocked ((h.slice 5).hcAt (5 : Line).hcSet 2) = false ∧ (h.slice 5).wayMark.getLsbD 2 = false) ∧
    ((cached false true).chainPins 5 = true ∧ ((cached true false).slice 5).hcWay 5 = some 2 ∧
      hcLocked (((cached true false).slice 5).hcAt (5 : Line).hcSet 2) = true ∧ (cached true false).isLocked 5 = true) ∧
    (owned.isLocked 5 = false ∧ owned.lockRefused 5 3 = none ∧ owned.wbFind 5 5 = none ∧ (owned.slice 5).hcWay 5 = none ∧
      owned.readChan 5 = some 0 ∧ (owned.onSlice 5 fun s => { s with wayDis := 8 }).lockRefused 5 3 = some hcWayDisabled) ∧
    (takes (cmdIn (readEntryOf 0x31 0x100050005)) 0x31 1 = true ∧ takes (cmdIn (readEntryOf 0x32 0x100050005)) 0x32 1 = true ∧
      takes (cmdIn (readEntryOf 0x33 0x100050005)) 0x33 1 = true ∧ owned.hsOf 5 = 5 ∧ (owned.slice 5).viewAt 5 1 ≠ none ∧
      (owned.slice 5).txnOn ((owned.slice 5).lineAt 5 1) = none ∧ (owned.slice 5).backOn ((owned.slice 5).lineAt 5 1) = none ∧
      (owned.slice 5).chained ((owned.slice 5).lineAt 5 1) = false ∧ (owned.slice 5).held ((owned.slice 5).lineAt 5 1) owned.round = false ∧
      HView.ofWord ((owned.slice 5).sdAt 5 1) ≠ none ∧ (owned.slice 5).txnOn ((owned.slice 5).hlineAt 5 1) = none ∧
      (owned.slice 5).backOn ((owned.slice 5).hlineAt 5 1) = none ∧ (owned.slice 5).chained ((owned.slice 5).hlineAt 5 1) = false ∧
      (owned.slice 5).held ((owned.slice 5).hlineAt 5 1) owned.round = false ∧ hcMalformed ((owned.slice 5).hcAt 5 1) 1 = false ∧
      hcLocked ((owned.slice 5).hcAt 5 1) = false ∧ (owned.slice 5).wayMark.getLsbD 1 = false) := by
  refine ⟨by decide +kernel, by decide +kernel, ⟨by decide +kernel, rfl⟩, by decide +kernel, by decide +kernel, by decide +kernel, by decide +kernel,
    by decide +kernel, by decide +kernel, by decide +kernel⟩
theorem wit_MaintenanceCommandsActOnTheHubCache_range (set : Nat) (hset : set = 0 ∨ set = 1023) :
    (∀ x ∈ (walkingRange set).slices, x.2.walk = none) ∧ (∀ m, m ≠ 0 → ((walkingRange set).mb m).busy = none) ∧
    (walkingRange set).core.resps = [] ∧ st.ring.wf = true ∧
    ((walkingRange set).mb 0).busy = some ⟨0x30, 1, false, .maint 1 64 128 set [] []⟩ ∧ (walkingRange set).core.restart = false ∧
    (∀ ls : BitVec 6, ∀ x ∈ (walkingRange set).linesOfSet ((walkingRange set).hsOf ls) (BitVec.ofNat 10 set),
      within x.toNat 64 128 = false) := by
  refine ⟨fun x hx => absurd hx (List.not_mem_nil), ?_, rfl, rfl, rfl, rfl, fun ls x hx => ?_⟩
  · rcases hset with rfl | rfl <;> decide +kernel
  · rw [no_lines] at hx
    cases hx

/-- That hub with mailbox 0 on the management path. -/
def pathed (tail : BitVec 7) : Hub := { owned.onMb 0 fun m => { m with cmdTail := tail } with
  prot := { owned.prot with mbx := [(0, ⟨3, true, true, 0⟩)] } }
def body (mb : Byte) (kind : Byte) (vendor : BitVec 32) : MctpBody := ⟨vendor, kind, mb, 0, (upTo 8).map fun k => BitVec.ofNat 64 k⟩
theorem wit_SpanKeysCertificatesAndMctpCommands :
    takes (cmdIn [w0 0x40, 1]) 0x40 3 = true ∧
    (∀ w ∈ [(0, 2049), (1, 100), (2064, 2048), (96, 96), (48, 96)], takes (cmdIn [w0 0x41, BitVec.ofNat 64 (w.1 + w.2 * 65536)]) 0x41 3 = true ∧
      ((cmdIn [w0 0x41, BitVec.ofNat 64 (w.1 + w.2 * 65536)]).desc 0).field 1 0 16 = w.1 ∧
      ((cmdIn [w0 0x41, BitVec.ofNat 64 (w.1 + w.2 * 65536)]).desc 0).field 1 16 16 = w.2) ∧
    (takes (cmdIn [w0 0x42, 6]) 0x42 3 = true ∧ takes (cmdIn [w0 0x42, 5]) 0x42 3 = true ∧
      ((cmdIn [w0 0x42, 6]).desc 0).field 1 0 3 = 6 ∧ ((cmdIn [w0 0x42, 5]).desc 0).field 1 0 3 = (5 : BitVec 3).toNat ∧
      (owned.sp 5).keyed = false ∧ ((owned.onSp 5 fun p => { p with keyed := true }).sp 5).keyed = true) ∧
    (State.reset.hub.mgmtUp = false ∧ owned.mgmtUp = true ∧ owned.core.restart = false ∧ (body 0 1 0).words.length = 8) ∧
    ((body 0 2 0).kind ≠ 1 ∧ (body 0 3 0).kind ≠ 1 ∧ (body 0 3 0).kind ≠ 2 ∧ 7 < (body 8 1 0).mailbox.toNat ∧ (owned.priv 0).path = false) ∧
    ((pathed 0).mgmtUp = true ∧ ((pathed 0).priv 0).path = true ∧ (body 0 1 0).mailbox = (0 : BitVec 3).setWidth 8 ∧
      64 ≤ ringCount ((pathed 64).mb 0).cmdTail ((pathed 64).mb 0).cmdHead ∧
      ringCount ((pathed 63).mb 0).cmdTail ((pathed 63).mb 0).cmdHead < 64 ∧ st.ring.wf = true) ∧
    (body 0 1 st.otp.vendor).vendor = st.otp.vendor := by
  refine ⟨by decide +kernel, by decide +kernel, by decide +kernel, by decide +kernel, by decide +kernel, by decide +kernel, rfl⟩

/-- A hub whose MB3 is on the management path, with its image loaded. -/
def measured (f : Core → Core) : Hub := { coreHub (fun c => f { c with image := true }) id with
  prot := { owned.prot with mbx := [(3, ⟨3, true, true, 0⟩)] } }
theorem wit_SpdmRequestsAreAnsweredInTheirOrder :
    owned.spdmUp = false ∧ (measured id).spdmUp = true ∧ (measured fun c => { c with spdmVersion := true }).core.spdmVersion = true ∧
    (measured id).core.spdmVersion = false ∧ (measured id).core.spdmAlgo = false ∧
    (measured fun c => { c with spdmAlgo := true }).core.spdmAlgo = true ∧
    (measured fun c => { c with attestOpen := false }).core.attestOpen = false ∧
    (measured fun c => { c with attestOpen := true }).core.attestOpen = true ∧ ((withHub (measured id)).measurements 5).isSome = true ∧
    ((withHub (measured id)).measurements 6).isSome = false := by
  refine ⟨by decide +kernel, by decide +kernel, by decide +kernel, by decide +kernel, by decide +kernel, by decide +kernel,
    by decide +kernel, by decide +kernel, ?_, ?_⟩
  · rfl
  · rfl

/-! ### Ill-formed commands name no unit of the hub -/

/-- Terms that break each check of `Instr.wf`: a physical slice, a scrub's slice and mesh stop, a pass's and a comparison's stop, both ends
of an overrun, a span port as the port of a parallel frame, and span port 6 in each place that takes one. -/
def illFormed : List Instr :=
  [.reclaimWalkVisit 65 .none false, .fuseBurn 65 0 0, .scrubRead (.sf 65 0 0 0) .clean, .scrubRead (.passEnd 65) .clean,
   .scrubRead (.configWord 96 0 0) .clean, .scrubRead (.stopState 96) .clean, .scrubPassLate 96, .roundCompare 96 0,
   .meshBudgetOverrun 96 0 0, .meshBudgetOverrun 0 96 0, .apFrame (.sp 0) (frame1 true), .linkTraining (.sp 6) .full,
   .startStepLimit (.sp 6), .pointOfNoReturn (.sp 6), .powerDownComplete (.sp 6), .domainServe (.sp 6),
   .wakeRequest (.sp 6) ⟨0, false, 0⟩, .wakeRequest (.ap 0) ⟨96, false, 0⟩, .lockExpired (.egress 65), .lockExpired (.spanPort 6),
   .spanFrame 6 (spanIn [] true true), .spanLinkDown 6, .spanKeying 6 (peer9 true), .spanRekeyCount 6, .rekeyDeadline 6,
   .hopTicket 6 gaid3 7 0, .hopTicketResend 6 gaid3 7]
theorem test_ill_formed : ∀ c ∈ illFormed, c.wf = false := by decide
theorem test_ill_formed_faults : exec (.spanLinkDown 6) st = .fault .noSuchUnit ∧ exec (.lockExpired (.egress 65)) st = .fault .noSuchUnit :=
  ⟨rfl, rfl⟩
/-- The last unit of each kind is a unit. -/
theorem test_well_formed : ∀ c ∈ [Instr.reclaimWalkVisit 64 .none false, .scrubPassLate 95, .meshBudgetOverrun 95 95 0, .spanLinkDown 5,
    .lockExpired (.spanPort 5), .domainServe (.mp 7), .linkTraining (.ap 15) .full, .roundTick], c.wf = true := by decide

/-! ### The queue -/

theorem test_queue_in_order : step { st with pending := [.roundTick, .drainRound] } = exec .roundTick { st with pending := [.drainRound] } := rfl
theorem test_queue_empty : step st = .next st := rfl
theorem test_no_word_spells_a_command : decodeTableWord 64 0 = none ∧ st.withFetchWord 64 0 = st := ⟨rfl, rfl⟩

/-! ### Worked examples of the spec -/

/-- The line of the examples of R78 and R286, PA 0x0_0012_3456_7840. -/
def lineX : Line := BitVec.ofNat 46 (0x1234567840 / 64)
theorem test_place_of_line : lineX.sfTag = 0x12345 ∧ lineX.sfSet = 0x3AA0 ∧ lineX.ls = 46 ∧ sfLine 0x12345 0x3AA0 = lineX ∧
    lineX.hcSet = 0x13B ∧ lineX.hcTag = 0x123456 := by decide
/-- The example of chapter 1: agent 37 of hub 300. -/
theorem test_gaid : Gaid.mk 300 37 = 0x9625 := by decide
/-- The example of R267: PA 0x0_0010_0003_5040 lies on channel 7 at channel address 0x4_0000_8040. -/
theorem test_channel_of_line :
    winMap 0x0000001000000001 0x00027C03F0004100 (BitVec.ofNat 46 (0x1000035040 / 64)) = ([7], 0x400008040, 53) := by decide
/-- The example of R475: with HS39 as newt, `HUB_SLICE_MAP_5` reads 0x0060_BD72_D58A_D529. -/
def shifted : Hub := { hub with map := (upTo 25).map fun k => (39 + k, 40 + k) }
theorem test_slice_map : shifted.readWord st.otp st.ring gaid3 0x128 = 0x0060BD72D58AD529 ∧ shifted.hsOf 46 = 47 := by decide +kernel
/-- The example of R410: steps of 14 A, 12 A and 15 A under 34 A from round 10,000 start at 10,008, 10,008 and 10,307. -/
theorem test_three_steps :
    let d1 : Change := ⟨56, 10008, 10057, false⟩
    let d2 : Change := ⟨48, 10008, 10057, false⟩
    placeRound [] false 136 56 50 10008 = some 10008 ∧ placeRound [d1] false 136 48 50 10008 = some 10008 ∧
      placeRound [d1, d2] false 136 60 50 10008 = some 10307 := by decide
/-- The example of chapter 19: at θ = 115 °C a reading of 120.6 °C leaves three slots. -/
theorem test_hot_slots : slotsFor (8 * 115) 964 4 = 3 ∧ slotsFor (8 * 115) 951 4 = 4 ∧ slotsFor (8 * 115) 968 4 = 2 := by decide
/-- The example of R451: a write of 0x8 to `EVT_STATUS_6` in the cycle of a second raise of bit 3 leaves 0x0000_0001_0000_0008. -/
def evented : Hub := { owned with events := { owned.events with status := [(6, 8)] } }
theorem test_event_again :
    (match exec (.evtStatusWrite gaid3 6 8 8) (withHub evented) with
     | .next t => t.hub.readWord t.otp t.ring gaid3 0x1030
     | _ => 0) = 0x0000000100000008 := by decide +kernel
/-- The example of chapter 12: bytes 8–15 are written, the base arrives with word 2 uncorrectable, and bytes 16–23 are written later. -/
def partX : WbLine := (WbLine.fresh 5 5 .general true 0).putWritten 0 0xFF00 0
theorem test_damaged_base : partX.wmask = 0xFF00 ∧ (partX.putBase 0 (enterPoison false 4)).pois = 0xFF0000 ∧
    ((partX.putBase 0 (enterPoison false 4)).putWritten 0 0xFF0000 0).poison = false := by decide +kernel
/-- Chapter 13: HS18 is the newt, so the next outgoing slice is HS17. -/
theorem test_next_outgoing : Rot.init.nextOut 18 = some 17 ∧ Rot.init.nextOut 0 = some 64 := by decide +kernel
/-- R7: before service the round count reads zero, and ticks leave it; in service each tick adds one. -/
theorem test_round_count : exec .roundTick State.reset = .next State.reset := rfl
/-- R331: the (13,8) code corrects one flipped bit of a byte and detects two. -/
theorem test_byte_code : decode13 (encode13 0x5A) = .clean 0x5A ∧ decode13 (encode13 0x5A ^^^ 1) = .corrected 0x5A ∧
    decode13 (encode13 0x5A ^^^ 3) = .uncorrectable ∧ decode13 (encodePoison 0x5A) = .poisoned := by decide +kernel
/-- The example of chapter 8: the header of a forwarded line with its high half first, written and read. -/
theorem test_data_header : headerWord 0x31 0x1A3 0x0205 true false true 2 false = 0xC468C0816C000000 ∧ headOpc 0xC468C0816C000000 = opDatFwd ∧
    headTxid 0xC468C0816C000000 = 0x1A3 ∧ headGaid 0xC468C0816C000000 = 0x0205 ∧ headDirty 0xC468C0816C000000 = true ∧
    headFirst 0xC468C0816C000000 = true ∧ headBeats 0xC468C0816C000000 = 2 := by decide
/-- The example of chapter 11: from HS36 to the edge router of AP15 a snoop crosses seven links. -/
theorem test_links : meshLinks 36 (epAp 15) = 7 := by decide
/-- A word of ring memory is little-endian (the word of the example of R256 serves as a value). -/
theorem test_ring_word : (Memory.writeWord [] 0x4000 0xC468C0816C000000).word 0x4000 = 0xC468C0816C000000 ∧
    (Memory.writeWord [] 0x4000 0xC468C0816C000000).read 0x4007 = 0xC4 ∧ (Memory.writeWord [] 0x4000 0xC468C0816C000000).wf = true := by
  decide +kernel

/-! ### Witnesses: the queue and the invariants -/

def ticking : State := { st with pending := [.roundTick] }
theorem wit_StepRunsTheFrontCommand : st.pending = [] := rfl
theorem wit_WellFormedCommandsComplete : Instr.roundTick.wf = true ∧ (Instr.spanLinkDown 6).wf = false := by decide
theorem wit_RingMemoryFormIsKept : ticking.ring.wf = true ∧ ∃ t, step ticking = .next t := ⟨by decide, _, rfl⟩
theorem wit_OtpIsWrittenOnce :
    (∃ t, step ticking = .next t) ∧ ({ ticking with otp := { ticking.otp with lifecycle := 1, gens := [(1, ⟨[], true⟩)] } } : State).otp.lifecycle = 1 ∧
    ({ ticking with otp := { ticking.otp with gens := [(1, ⟨[], true⟩)] } } : State).otp.gens.look 1 = some ⟨[], true⟩ :=
  ⟨⟨_, rfl⟩, rfl, rfl⟩

end Sys2Proof.Tests
end

section
/-!
SUPPORT. Frames: how the named parts of two steps combine.
-/
namespace Sys2Proof.Machine
open Sys2Proof.Safety

theorem onlyIn_refl (ps : List Part) (s : State) : onlyIn ps s s := by
  intro q _
  cases q <;> rfl

theorem onlyIn_mono {ps qs : List Part} {s t : State} (sub : ∀ q ∈ ps, q ∈ qs) (H : onlyIn ps s t) : onlyIn qs s t :=
  fun q hq => H q fun hp => hq (sub q hp)

theorem onlyIn_trans {ps : List Part} {s t u : State} (H : onlyIn ps s t) (K : onlyIn ps t u) : onlyIn ps s u := by
  intro q hq
  have h := H q hq
  have k := K q hq
  cases q <;> exact k.trans h

/-! ### Events (R450) -/

theorem onlyIn_raise (s : State) (r : Hub → Raise) : onlyIn eventParts s (s.withHub fun h => h.raise (r h)) := by
  intro q hq
  cases q <;> simp [Part.same, eventParts] at hq ⊢

/-- The capture of a raise leaves the status. -/
@[simp] theorem Events.capture_status (e : Events) (r : Raise) : (e.capture r).status = e.status := by
  unfold Events.capture
  split <;> rfl

/-- A raise sets the bit of its source and no other (R450). -/
theorem evStatus_raise (h : Hub) (r : Raise) (g : Nat) : (h.raise r).evStatus g =
    if g = r.src.toNat / 32 then h.evStatus g ||| 1#32 <<< (r.src.toNat % 32) else h.evStatus g := by
  have marked : (h.raise r).events.status = (h.events.mark r.src).status := by
    simp only [Hub.raise, Hub.deliver_keeps]
    split <;> simp
  rw [Hub.evStatus, marked, Events.mark, Tbl.getD_upd]
  split
  · next e => subst e; rfl
  · rfl

theorem raised_raise (h : Hub) (r : Raise) : raised (h.raise r) r.src := by
  rw [raised, evStatus_raise, if_pos rfl]
  have lt := Nat.mod_lt r.src.toNat (show 0 < 32 by decide)
  simp [lt]

end Sys2Proof.Machine
end

section
/-!
CERTIFICATE. One step of the queue (R1, R7).
-/
namespace Sys2Proof.Machine

/-- Settles O1: both clauses are the equations of `step`. -/
theorem stepRunsTheFrontCommand : Obligations.StepRunsTheFrontCommand := by
  refine ⟨fun s c rest => rfl, fun s empty => ?_⟩
  rw [step, empty]

end Sys2Proof.Machine
end
section
/-!
CERTIFICATE. Writes of the register window (R12–R14, R382, R385, R449, R451, R455, R457, R462, R468, R469).
-/
namespace Sys2Proof.Machine
open Sys2Proof.Safety

/-! ### The ring memory, without its canonical form -/

/-- The byte at another key is untouched by a write, whatever the form of the memory. -/
theorem Memory.read_write_ne (m : Memory) {a c : Nat} (b : Byte) (ne : c ≠ a) : (m.write a b).read c = m.read c := by
  induction m with
  | nil =>
    unfold Memory.write
    split <;> simp [Memory.read, ne.symm]
  | cons x t ih =>
    unfold Memory.write
    split
    · split <;> simp [Memory.read, ne.symm]
    · split
      · next e => split <;> simp [Memory.read, ← e, ne.symm]
      · simp [Memory.read, ih]

theorem Memory.read_writeBytes_outside (l : List Byte) (m : Memory) (a : Nat) {c : Nat} (out : c < a ∨ a + l.length ≤ c) :
    (m.writeBytes a l).read c = m.read c := by
  induction l generalizing m a with
  | nil => rfl
  | cons b t ih =>
    rw [List.length_cons] at out
    rw [Memory.writeBytes, ih _ _ (by omega), Memory.read_write_ne _ _ (by omega)]

theorem Memory.read_writeWord_outside (m : Memory) (a : Nat) (v : Word) {c : Nat} (out : c < a ∨ a + 8 ≤ c) :
    (m.writeWord a v).read c = m.read c :=
  Memory.read_writeBytes_outside (wordBytes v) m a out

/-! ### The directory at the registers of the rows -/

theorem regAt_cmdTail : ∀ n : BitVec 3, regAt (0x400 + 0x20 * n.toNat) = some (.mb n .cmdTail) := by decide
theorem regAt_rspHead : ∀ n : BitVec 3, regAt (0x418 + 0x20 * n.toNat) = some (.mb n .rspHead) := by decide
theorem regAt_evMask : ∀ g : BitVec 5, regAt (0x1100 + 8 * g.toNat) = some (.evMask g.toNat) := by decide
theorem regAt_win : ∀ i : BitVec 5, regAt (0x2100 + 8 * i.toNat) = some (.win i.toNat) := by decide

/-! ### A permitted write reaches its register -/

/-- A write that sets no reserved bit is not refused. -/
theorem reservedClear {v m : Word} (ok : v &&& m = 0) : ¬(v &&& m != 0) = true := by simp [ok]

theorem writeReg_cmdTail (h : Hub) (a : Gaid) (n : BitVec 3) (v : Word) (ok : v &&& 0xFFFFFFFFFFFFFF80 = 0) :
    h.writeReg a (0x400 + 0x20 * n.toNat) v = h.ringTail n v := by
  simp only [Hub.writeReg, regAt_cmdTail, Reg.reserved]
  exact if_neg (reservedClear ok)

theorem writeReg_rspHead (h : Hub) (a : Gaid) (n : BitVec 3) (v : Word) (ok : v &&& 0xFFFFFFFFFFFFFF80 = 0) :
    h.writeReg a (0x418 + 0x20 * n.toNat) v = h.freeSlots n v := by
  simp only [Hub.writeReg, regAt_rspHead, Reg.reserved]
  exact if_neg (reservedClear ok)

theorem writeReg_evMask (h : Hub) (a : Gaid) (g : BitVec 5) (v : Word) (ok : v &&& 0xFFFFFFFF00000000 = 0) :
    h.writeReg a (0x1100 + 8 * g.toNat) v = h.putMask g.toNat v := by
  simp only [Hub.writeReg, regAt_evMask, Reg.reserved]
  exact if_neg (reservedClear ok)

theorem writeReg_win (h : Hub) (a : Gaid) (i : BitVec 5) (v : Word) (ok : v &&& 0xFFFF000000000000 = 0) :
    h.writeReg a (0x2100 + 8 * i.toNat) v = h.preset i.toNat v := by
  simp only [Hub.writeReg, regAt_win, Reg.reserved]
  exact if_neg (reservedClear ok)

theorem writeReg_bankSel (h : Hub) (a : Gaid) (v : Word) (ok : v &&& 0xFFFFFFFFFFFFFFF0 = 0) :
    h.writeReg a 0x2008 v = { h with pmc := { h.pmc with bank := v.setWidth 4 } } := by
  have at_ : regAt 0x2008 = some .bankSel := by decide
  simp only [Hub.writeReg, at_, Reg.reserved]
  exact if_neg (reservedClear ok)

/-- A read-only register ignores a write of zero (R12). -/
theorem writeReg_readOnly (h : Hub) (a : Gaid) {o : Nat} (ro : o = 0x500 ∨ o = 0x1200 ∨ o = 0x1208) : h.writeReg a o 0 = h := by
  have at_ : regAt 0x500 = some .mbStatus ∧ regAt 0x1200 = some .evSummary ∧ regAt 0x1208 = some .logSeq := by decide
  obtain rfl | rfl | rfl := ro <;> simp [Hub.writeReg, at_]

/-- An offset without a register, or a reserved bit, raises `EVT_HUB_REG_RSVD` (R13, R469). -/
theorem writeReg_reserved (h : Hub) (a : Gaid) {o : Nat} {v : Word}
    (bad : o = 0x2018 ∨ (o = 0x2010 ∧ v &&& 0xFFFFFFFFFFFF0000 ≠ 0)) : h.writeReg a o v = h.reservedWrite a o := by
  have at_ : regAt 0x2018 = none ∧ regAt 0x2010 = some .statSel := by decide
  obtain rfl | ⟨rfl, bit⟩ := bad
  · simp only [Hub.writeReg, at_]
  · simp only [Hub.writeReg, at_, Reg.reserved]
    exact if_pos (bne_iff_ne.mpr bit)

theorem onlyIn_reservedWrite (s : State) (a : Gaid) (o : Nat) : onlyIn eventParts s (s.withHub fun h => h.reservedWrite a o) :=
  onlyIn_raise s fun _ => _

theorem raised_reservedWrite (h : Hub) (a : Gaid) (o : Nat) : raised (h.reservedWrite a o) evRegRsvd := raised_raise h _

/-! ### The access check (R385, R468) -/

theorem windowWrite_permitted {s : State} {a : Gaid} {o : Nat} (may : s.hub.mayWrite a o = true) (f : Hub → Hub) :
    s.windowWrite a o f = s.withHub f := if_pos may

/-- A refused write raises `EVT_MB_DENIED` and changes nothing else. -/
theorem windowWrite_denied {s : State} {a : Gaid} {o : Nat} (may : s.hub.mayWrite a o = false) (f : Hub → Hub) :
    onlyIn eventParts s (s.windowWrite a o f) ∧ raised (s.windowWrite a o f).hub evMbDenied := by
  rw [State.windowWrite, may, if_neg Bool.false_ne_true]
  exact ⟨onlyIn_raise s fun _ => _, raised_raise s.hub _⟩

/-! ### What each permitted write leaves -/

theorem onlyIn_onMb (s : State) (n : BitVec 3) (f : Mbx → Mbx) : onlyIn [.mbx] s (s.withHub fun h => h.onMb n f) := by
  intro q hq
  cases q <;> simp [Part.same] at hq ⊢

/-- A write that names the statistics and counters alone. -/
theorem onlyIn_pmc (s : State) (p : Hub → Pmc) : onlyIn [.pmc] s (s.withHub fun h => { h with pmc := p h }) := by
  intro q hq
  cases q <;> simp [Part.same] at hq ⊢

@[simp] theorem Hub.mb_onMb_self (h : Hub) (n : BitVec 3) (f : Mbx → Mbx) : (h.onMb n f).mb n = f (h.mb n) := by
  simp [Hub.mb, Hub.onMb]

theorem Hub.mb_onMb_ne (h : Hub) (n m : BitVec 3) (f : Mbx → Mbx) (ne : m ≠ n) : (h.onMb n f).mb m = h.mb m :=
  Tbl.getD_upd_ne _ _ _ _ _ fun e => ne (BitVec.eq_of_toNat_eq e)

/-- A doorbell within the ring's places moves the tail; one beyond them raises `EVT_MB_RING_ERROR` (R382). -/
theorem ringTail_effect (s : State) (n : BitVec 3) (v : Word) :
    (ringCount (v.setWidth 7) (s.hub.mb n).cmdHead ≤ 64 →
      s.withHub (·.ringTail n v) = s.withHub (·.onMb n fun m => { m with cmdTail := v.setWidth 7 })) ∧
    (64 < ringCount (v.setWidth 7) (s.hub.mb n).cmdHead →
      s.withHub (·.ringTail n v) = s.withHub (·.raise (rz evMbRingError n.toNat))) := by
  constructor
  · intro fits
    simp only [State.withHub, Hub.ringTail, if_neg (Nat.not_lt.mpr fits)]
  · intro beyond
    simp only [State.withHub, Hub.ringTail, if_pos (show _ > _ from beyond)]

/-- The owner frees slots up to the tail; a head beyond it raises `EVT_MB_RING_ERROR` (R382). -/
theorem freeSlots_effect (s : State) (n : BitVec 3) (v : Word) :
    (ringCount (v.setWidth 7) (s.hub.mb n).rspHead ≤ ringCount (s.hub.mb n).rspTail (s.hub.mb n).rspHead →
      s.withHub (·.freeSlots n v) = s.withHub (·.onMb n fun m => { m with rspHead := v.setWidth 7 })) ∧
    (ringCount (s.hub.mb n).rspTail (s.hub.mb n).rspHead < ringCount (v.setWidth 7) (s.hub.mb n).rspHead →
      s.withHub (·.freeSlots n v) = s.withHub (·.raise (rz evMbRingError n.toNat))) := by
  constructor
  · intro fits
    simp only [State.withHub, Hub.freeSlots, if_neg (Nat.not_lt.mpr fits)]
  · intro beyond
    simp only [State.withHub, Hub.freeSlots, if_pos (show _ > _ from beyond)]

/-- What the clearing of a group's status leaves in the event unit (R14, R449). -/
theorem clearStatus_events (h : Hub) (g : Nat) (v : Word) (raised : BitVec 32) : (h.clearStatus g v raised).events = { h.events with
    status := h.events.status.set g 0 ((h.evStatus g &&& ~~~(v.setWidth 32)) ||| raised)
    again := if v.setWidth 32 &&& raised != 0 then h.events.again ||| 1#32 <<< g
      else if v.getLsbD 32 then h.events.again &&& ~~~(1#32 <<< g) else h.events.again } := by
  simp only [Hub.clearStatus, Hub.redeliver_keeps]

theorem onlyIn_clearStatus (s : State) (g : Nat) (v : Word) (raised : BitVec 32) :
    onlyIn eventParts s (s.withHub fun h => h.clearStatus g v raised) := by
  intro q hq
  cases q <;> simp [Part.same, eventParts] at hq ⊢

theorem onlyIn_putMask (s : State) (g : Nat) (v : Word) : onlyIn eventParts s (s.withHub fun h => h.putMask g v) := by
  intro q hq
  cases q <;> simp [Part.same, eventParts] at hq ⊢

/-- The mask that a write leaves, and the status, which it leaves as it was (R451). -/
theorem putMask_events (h : Hub) (g : Nat) (v : Word) :
    (h.putMask g v).evMask g = v.setWidth 32 ∧ ∀ k, (h.putMask g v).evStatus k = h.evStatus k := by
  simp only [Hub.evMask, Hub.evStatus, Hub.putMask, Hub.redeliver_keeps, Tbl.getD_set_self, implies_true, and_self]

/-- Raises beside a write of the status leave everything that no event writes. -/
theorem onlyIn_raises (s : State) (r : Nat → Raise) (l : List Nat) :
    onlyIn eventParts s (s.withHub fun h => l.foldl (fun h i => h.raise (r i)) h) := by
  intro q hq
  cases q <;> simp [Part.same, eventParts] at hq ⊢ <;> exact foldl_same _ _ (fun h i => by simp) l _

/-- With no source raised beside it, a write of the status is a window write alone. -/
theorem evtStatusWrite_alone (s : State) (a : Gaid) (g : BitVec 5) (v : Word) : exec (.evtStatusWrite a g v 0) s =
    .next (s.windowWrite a (0x1000 + 8 * g.toNat) fun h =>
      if v &&& Reg.reserved (.evStatus g.toNat) != 0 then h.reservedWrite a (0x1000 + 8 * g.toNat) else h.clearStatus g.toNat v 0) := by
  have none_ : ((upTo 32).filter fun i => (0#32).getLsbD i) = [] := by decide
  show execEvtStatusWrite a g v 0#32 s = _
  rw [execEvtStatusWrite, none_]
  rfl

/-! ### The clauses -/

/-- A row of one register, its write denied. -/
theorem window_denied {s : State} {a : Gaid} {k : Nat} (may : s.hub.mayWrite a k = false) (f : Hub → Hub) (c : Instr)
    (row : exec c s = .next (s.windowWrite a k f)) : ∃ t, exec c s = .next t ∧ onlyIn eventParts s t ∧ raised t.hub evMbDenied :=
  ⟨_, row, windowWrite_denied may f⟩

/-- A row of one register, its write permitted. -/
theorem window_permitted {s : State} {a : Gaid} {k : Nat} (may : s.hub.mayWrite a k = true) (f : Hub → Hub) (c : Instr)
    (row : exec c s = .next (s.windowWrite a k f)) : exec c s = .next (s.withHub f) := by
  rw [row, windowWrite_permitted may]

theorem registerWrite_permitted {s : State} {a : Gaid} {off : BitVec 16} (may : s.hub.mayWrite a (off.toNat / 8 * 8) = true)
    (v : Word) : exec (.registerWrite a off v) s = .next (s.writeWord a (off.toNat / 8 * 8) v) := if_pos may

theorem registerWrite_denied {s : State} {a : Gaid} {off : BitVec 16} (may : s.hub.mayWrite a (off.toNat / 8 * 8) = false)
    (v : Word) : ∃ t, exec (.registerWrite a off v) s = .next t ∧ onlyIn eventParts s t ∧ raised t.hub evMbDenied := by
  refine ⟨_, if_neg (Bool.eq_false_iff.mp may), onlyIn_raise s fun _ => _, raised_raise s.hub _⟩

/-- A write beside the rings goes to the hub's registers. -/
theorem writeWord_register (s : State) (a : Gaid) {o : Nat} (v : Word) (low : o < 0x4000) :
    s.writeWord a o v = s.withHub fun h => h.writeReg a o v := by
  rw [State.writeWord, if_neg]
  simp [within]
  omega

/-- A permitted write of a doorbell (R382). -/
theorem cmdTailWrite_effect (s : State) (a : Gaid) (n : BitVec 3) (v : Word)
    (may : s.hub.mayWrite a (0x400 + 0x20 * n.toNat) = true) (ok : v &&& 0xFFFFFFFFFFFFFF80 = 0) :
    (ringCount (v.setWidth 7) (s.hub.mb n).cmdHead ≤ 64 →
      ∃ t, exec (.mbCmdTailWrite a n v) s = .next t ∧ onlyIn [.mbx] s t ∧ t.hub.mb n = { s.hub.mb n with cmdTail := v.setWidth 7 } ∧
        ∀ k, k ≠ n → t.hub.mb k = s.hub.mb k) ∧
    (64 < ringCount (v.setWidth 7) (s.hub.mb n).cmdHead →
      ∃ t, exec (.mbCmdTailWrite a n v) s = .next t ∧ onlyIn eventParts s t ∧ raised t.hub evMbRingError) := by
  have row := window_permitted may _ (.mbCmdTailWrite a n v) rfl
  simp only [writeReg_cmdTail _ _ _ _ ok] at row
  obtain ⟨fits, beyond⟩ := ringTail_effect s n v
  refine ⟨fun le => ⟨_, row.trans (congrArg _ (fits le)), onlyIn_onMb s n _, s.hub.mb_onMb_self n _, fun k => s.hub.mb_onMb_ne n k _⟩, fun lt => ?_⟩
  exact ⟨_, row.trans (congrArg _ (beyond lt)), onlyIn_raise s fun _ => _, raised_raise s.hub _⟩

/-- A permitted write of a response head (R382). -/
theorem rspHeadWrite_effect (s : State) (a : Gaid) (n : BitVec 3) (v : Word)
    (may : s.hub.mayWrite a (0x418 + 0x20 * n.toNat) = true) (ok : v &&& 0xFFFFFFFFFFFFFF80 = 0) :
    (ringCount (v.setWidth 7) (s.hub.mb n).rspHead ≤ ringCount (s.hub.mb n).rspTail (s.hub.mb n).rspHead →
      ∃ t, exec (.mbRspHeadWrite a n v) s = .next t ∧ onlyIn [.mbx] s t ∧ t.hub.mb n = { s.hub.mb n with rspHead := v.setWidth 7 } ∧
        ∀ k, k ≠ n → t.hub.mb k = s.hub.mb k) ∧
    (ringCount (s.hub.mb n).rspTail (s.hub.mb n).rspHead < ringCount (v.setWidth 7) (s.hub.mb n).rspHead →
      ∃ t, exec (.mbRspHeadWrite a n v) s = .next t ∧ onlyIn eventParts s t ∧ raised t.hub evMbRingError) := by
  have row := window_permitted may _ (.mbRspHeadWrite a n v) rfl
  simp only [writeReg_rspHead _ _ _ _ ok] at row
  obtain ⟨fits, beyond⟩ := freeSlots_effect s n v
  refine ⟨fun le => ⟨_, row.trans (congrArg _ (fits le)), onlyIn_onMb s n _, s.hub.mb_onMb_self n _, fun k => s.hub.mb_onMb_ne n k _⟩, fun lt => ?_⟩
  exact ⟨_, row.trans (congrArg _ (beyond lt)), onlyIn_raise s fun _ => _, raised_raise s.hub _⟩

/-- A permitted clearing of status bits, with no source raised beside it (R14, R449). -/
theorem evtStatusWrite_effect (s : State) (a : Gaid) (g : BitVec 5) (v : Word)
    (may : s.hub.mayWrite a (0x1000 + 8 * g.toNat) = true) (ok : v &&& 0xFFFFFFFE00000000 = 0) :
    ∃ t, exec (.evtStatusWrite a g v 0) s = .next t ∧ onlyIn eventParts s t ∧
      t.hub.evStatus g.toNat = s.hub.evStatus g.toNat &&& ~~~(v.setWidth 32) ∧
      ∀ k, k ≠ g.toNat → t.hub.evStatus k = s.hub.evStatus k := by
  have row := window_permitted may _ _ (evtStatusWrite_alone s a g v)
  simp only [if_neg (reservedClear (m := Reg.reserved (.evStatus g.toNat)) ok)] at row
  refine ⟨_, row, onlyIn_clearStatus s g.toNat v 0, ?_, fun k ne => ?_⟩
  · simp [Hub.evStatus, clearStatus_events]
  · simp [Hub.evStatus, clearStatus_events, Tbl.getD_set_ne _ _ _ _ _ ne]

/-- Who may write depends on the tables and the parameters in force alone. -/
theorem mayWrite_congr {h k : Hub} {a : Gaid} {o : Nat} (prot : k.prot = h.prot) (par : k.par = h.par) :
    k.mayWrite a o = h.mayWrite a o := by
  have priv : k.priv = h.priv := by funext n; rw [Hub.priv, Hub.priv, prot]
  have owns : k.owns = h.owns := by funext g n; rw [Hub.owns, Hub.owns, priv, Hub.num, Hub.num, Hub.p, Hub.p, Hub.pw, Hub.pw, par]
  rw [Hub.mayWrite, Hub.mayWrite, priv, owns]

/-- A permitted clearing of status bits of which hardware raises one in the same cycle: it stays set, and `AGAIN` with it (R14). -/
theorem evtStatusWrite_raised (s : State) (a : Gaid) (g : BitVec 5) (v : Word) (k : BitVec 5)
    (may : s.hub.mayWrite a (0x1000 + 8 * g.toNat) = true) (ok : v &&& 0xFFFFFFFE00000000 = 0) :
    ∃ t, exec (.evtStatusWrite a g v (1#32 <<< k.toNat)) s = .next t ∧ onlyIn eventParts s t ∧
      (t.hub.evStatus g.toNat).getLsbD k.toNat = true ∧
      (v.getLsbD k.toNat = true → (t.hub.events.again).getLsbD g.toNat = true) := by
  have pre := onlyIn_raises s (fun i => rz (src g.toNat i) noInst.toNat) ((upTo 32).filter fun i => (1#32 <<< k.toNat).getLsbD i)
  generalize hu : (s.withHub fun h => _) = u at pre
  have may' : u.hub.mayWrite a (0x1000 + 8 * g.toNat) = true := by
    rw [mayWrite_congr (pre .prot (by decide)) (pre .par (by decide)), may]
  have row : exec (.evtStatusWrite a g v (1#32 <<< k.toNat)) s = .next (u.withHub fun h => h.clearStatus g.toNat v (1#32 <<< k.toNat)) := by
    show execEvtStatusWrite _ _ _ _ _ = _
    rw [execEvtStatusWrite, hu, windowWrite_permitted may']
    simp only [if_neg (reservedClear (m := Reg.reserved (.evStatus g.toNat)) ok)]
  refine ⟨_, row, onlyIn_trans pre (onlyIn_clearStatus u g.toNat v _), ?_, fun set => ?_⟩
  · simp [Hub.evStatus, clearStatus_events, k.isLt]
  · have clash : v.setWidth 32 &&& 1#32 <<< k.toNat ≠ 0 := by
      intro zero
      have bit := congrArg (·.getLsbD k.toNat) zero
      simp [set, k.isLt] at bit
    simp only [State.withHub_hub, clearStatus_events]
    rw [if_pos (bne_iff_ne.mpr clash)]
    simp [g.isLt]

/-- A permitted write of a mask (R451). -/
theorem evtMaskWrite_effect (s : State) (a : Gaid) (g : BitVec 5) (v : Word)
    (may : s.hub.mayWrite a (0x1100 + 8 * g.toNat) = true) (ok : v &&& 0xFFFFFFFF00000000 = 0) :
    ∃ t, exec (.evtMaskWrite a g v) s = .next t ∧ onlyIn eventParts s t ∧ t.hub.evMask g.toNat = v.setWidth 32 ∧
      ∀ k, t.hub.evStatus k = s.hub.evStatus k := by
  have row := window_permitted may _ (.evtMaskWrite a g v) rfl
  simp only [writeReg_evMask _ _ _ _ ok] at row
  exact ⟨_, row, onlyIn_putMask s g.toNat v, putMask_events s.hub g.toNat v⟩

/-- A permitted preset of the counter that a window position shows (R455, R462). -/
theorem pmcWinPreset_effect (s : State) (a : Gaid) (i : BitVec 5) (v : Word)
    (may : s.hub.mayWrite a (0x2100 + 8 * i.toNat) = true) (ok : v &&& 0xFFFF000000000000 = 0) (bank : s.hub.pmc.bank.toNat < 12) :
    ∃ t, exec (.pmcWinPreset a i v) s = .next t ∧ onlyIn [.pmc] s t ∧ t.hub.pmc = { s.hub.pmc with
      ctrs := s.hub.pmc.ctrs.set (s.hub.pmc.bank.toNat * 32 + i.toNat) 0 (v.setWidth 48) } := by
  have row := window_permitted may _ (.pmcWinPreset a i v) rfl
  simp only [writeReg_win _ _ _ _ ok, State.withHub, Hub.preset, if_neg (Nat.not_le.mpr bank)] at row
  exact ⟨_, row, onlyIn_pmc s fun _ => _, rfl⟩

/-- A permitted write of the control of the counters (R457). -/
theorem pmcCtl_effect (s : State) (a : Gaid) (b : Bool) (may : s.hub.mayWrite a 0x2000 = true) :
    (∃ t, exec (.statClr a) s = .next t ∧ onlyIn [.pmc] s t ∧ t.hub.pmc = { s.hub.pmc with
      latCtl := []
      latDat := []
      bytes := []
      winBase := []
      winLast := []
      spanHist := []
      resHist := [] }) ∧
    (∃ t, exec (.freeze a b) s = .next t ∧ onlyIn [.pmc] s t ∧ t.hub.pmc = { s.hub.pmc with freeze := b }) ∧
    ∃ t, exec (.pmcReset a) s = .next t ∧ onlyIn [.pmc] s t ∧ t.hub.pmc = { s.hub.pmc with ctrs := [] } :=
  ⟨⟨_, window_permitted may _ _ rfl, onlyIn_pmc s fun _ => _, rfl⟩, ⟨_, window_permitted may _ _ rfl, onlyIn_pmc s fun _ => _, rfl⟩,
    ⟨_, window_permitted may _ _ rfl, onlyIn_pmc s fun _ => _, rfl⟩⟩

/-- A permitted write of a word of a command ring (R380). -/
theorem ringWrite_effect (s : State) (a : Gaid) (off : BitVec 16) (v : Word) (may : s.hub.mayWrite a (off.toNat / 8 * 8) = true)
    (low : 0x4000 ≤ off.toNat / 8 * 8) (high : off.toNat / 8 * 8 ≤ 0xBFF8) :
    ∃ t, exec (.registerWrite a off v) s = .next t ∧ onlyIn [.ring] s t ∧
      (s.ring.wf = true → t.ring.word (off.toNat / 8 * 8) = v) ∧
      ∀ x, (x < off.toNat / 8 * 8 ∨ off.toNat / 8 * 8 + 8 ≤ x) → t.ring.read x = s.ring.read x := by
  have row : exec (.registerWrite a off v) s = .next { s with ring := s.ring.writeWord (off.toNat / 8 * 8) v } := by
    rw [registerWrite_permitted may, State.writeWord, if_pos (by simp [within, low, high])]
  refine ⟨_, row, ?_, Memory.word_writeWord_same _ v, fun x out => Memory.read_writeWord_outside _ _ _ out⟩
  intro q hq
  cases q <;> simp [Part.same] at hq ⊢

/-- A permitted write of a register without a row of its own (R13, R468, R469). -/
theorem registerWrite_effect (s : State) (a : Gaid) (off : BitVec 16) (v : Word) (o : Nat) (ho : o = off.toNat / 8 * 8)
    (may : s.hub.mayWrite a o = true) :
    (o = 0x2008 → v &&& 0xFFFFFFFFFFFFFFF0 = 0 →
      ∃ t, exec (.registerWrite a off v) s = .next t ∧ onlyIn [.pmc] s t ∧ t.hub.pmc = { s.hub.pmc with bank := v.setWidth 4 }) ∧
    ((o = 0x500 ∨ o = 0x1200 ∨ o = 0x1208) → v = 0 → exec (.registerWrite a off v) s = .next s) ∧
    ((o = 0x2018 ∨ (o = 0x2010 ∧ v &&& 0xFFFFFFFFFFFF0000 ≠ 0)) →
      ∃ t, exec (.registerWrite a off v) s = .next t ∧ onlyIn eventParts s t ∧ raised t.hub evRegRsvd) := by
  have row : o < 0x4000 → exec (.registerWrite a off v) s = .next (s.withHub fun h => h.writeReg a o v) := by
    intro low
    subst ho
    rw [registerWrite_permitted may, writeWord_register s a v low]
  refine ⟨fun at_ ok => ?_, fun at_ zero => ?_, fun bad => ?_⟩
  · subst at_
    simp only [writeReg_bankSel _ _ _ ok] at row
    exact ⟨_, row (by decide), onlyIn_pmc s fun _ => _, rfl⟩
  · subst zero
    rw [row (by omega), State.withHub, writeReg_readOnly _ _ at_]
  · simp only [writeReg_reserved _ _ bad] at row
    exact ⟨_, row (by omega), onlyIn_reservedWrite s a o, raised_reservedWrite s.hub a o⟩

/-- A write that is not permitted raises `EVT_MB_DENIED` and changes nothing else, whatever its row (R385, R468). -/
theorem windowRows_denied (s : State) (a : Gaid) (n : BitVec 3) (g i : BitVec 5) (v : Word) (b : Bool) (off : BitVec 16)
    (c : Instr) (k : Nat)
    (mem : (c, k) ∈ [(Instr.mbCmdTailWrite a n v, 0x400 + 0x20 * n.toNat), (.mbRspHeadWrite a n v, 0x418 + 0x20 * n.toNat),
        (.evtStatusWrite a g v 0, 0x1000 + 8 * g.toNat), (.evtMaskWrite a g v, 0x1100 + 8 * g.toNat),
        (.pmcWinPreset a i v, 0x2100 + 8 * i.toNat), (.statClr a, 0x2000), (.freeze a b, 0x2000), (.pmcReset a, 0x2000),
        (.registerWrite a off v, off.toNat / 8 * 8)])
    (may : s.hub.mayWrite a k = false) : ∃ t, exec c s = .next t ∧ onlyIn eventParts s t ∧ raised t.hub evMbDenied := by
  simp only [List.mem_cons, Prod.mk.injEq, List.not_mem_nil, or_false] at mem
  obtain ⟨rfl, rfl⟩ | ⟨rfl, rfl⟩ | ⟨rfl, rfl⟩ | ⟨rfl, rfl⟩ | ⟨rfl, rfl⟩ | ⟨rfl, rfl⟩ | ⟨rfl, rfl⟩ | ⟨rfl, rfl⟩ | ⟨rfl, rfl⟩ := mem
  · exact window_denied may _ _ rfl
  · exact window_denied may _ _ rfl
  · exact window_denied may _ _ (evtStatusWrite_alone s a g v)
  · exact window_denied may _ _ rfl
  · exact window_denied may _ _ rfl
  · exact window_denied may _ _ rfl
  · exact window_denied may _ _ rfl
  · exact window_denied may _ _ rfl
  · exact registerWrite_denied may v

/-- Settles O54, register by register: what the directory names at a row's offset, and what a write of that register does. -/
theorem windowWritesReachTheirRegisters : Obligations.WindowWritesReachTheirRegisters := by
  intro s a n g i v b off o ho
  refine ⟨?_, cmdTailWrite_effect s a n v, rspHeadWrite_effect s a n v,
    fun may ok => ⟨evtStatusWrite_effect s a g v may ok, fun k => evtStatusWrite_raised s a g v k may ok⟩,
    evtMaskWrite_effect s a g v, pmcWinPreset_effect s a i v, pmcCtl_effect s a b, ?_⟩
  · subst ho
    exact windowRows_denied s a n g i v b off
  · intro may
    refine ⟨?_, registerWrite_effect s a off v o ho may⟩
    subst ho
    exact ringWrite_effect s a off v may

end Sys2Proof.Machine
end

section
/-!
CERTIFICATE. Parameters through the mailboxes (R12, R390, R395–R397, R405, R477, R478).
-/
namespace Sys2Proof.Machine
open Sys2Proof.Safety

/-- The staged item that lowers `HUB_CE_STORM` (0x902) from its default 1,024 to 16. -/
def lowerStorm : StageItem := ⟨0x902, false, 16⟩

/-- A hub in service in round 100 whose slice HS5 holds a count of 20 corrections, with the commit of `lowerStorm` from mailbox 0 at its
round C. -/
def stormHub : Hub := { Hub.cold with
  round := 100
  start := { Start.init with phase := .serving }
  slices := [(5, { Slice.init with storm := (20, 100) })]
  mbx := [(0, { Mbx.init with busy := some ⟨0x12, 1, false, .commit⟩, stage := [lowerStorm] })]
  core := { Core.init with commits := [⟨0, false, 0, [lowerStorm], [], some 100⟩] } }

/-- The machine with that hub and nothing else. -/
def stormState : State := ⟨[], Otp.shipped, [], stormHub⟩

/-- The lower threshold applies to the count that HS5 holds (R353): its storm moves the slice to the front of the rotation (R345). -/
theorem stormCommit_moves_slice (t : State) (row : exec .commitRound stormState = .next t) : t.hub.rot.front = [5] := by
  obtain rfl : _ = t := Host.Outcome.next.inj row
  decide +kernel

/-- Refutes O56: a commit of `HUB_CE_STORM` may move a slice to the front of the rotation, and its last clause lets no part of the
rotation change. -/
theorem not_parameterCommandsReadStageAndCommit : ¬Obligations.ParameterCommandsReadStageAndCommit := by
  intro claim
  obtain ⟨-, -, -, -, commitRound⟩ := claim stormState 0 ⟨0, []⟩ 0x902 0 100 0 0 lowerStorm ⟨0x12, 1, false, .commit⟩ 0 0
  have idle : ∀ m : BitVec 3, m ≠ 0 → (stormState.hub.mb m).busy = none := by decide +kernel
  obtain ⟨t, row, frame, -⟩ := commitRound rfl (by decide) rfl rfl rfl rfl rfl idle rfl rfl (by decide +kernel) rfl rfl rfl
    (by decide) (by decide) (by decide)
  have kept : t.hub.rot = stormState.hub.rot := frame .rot (by decide)
  have moved := stormCommit_moves_slice t row
  rw [kept] at moved
  exact absurd moved (by decide)

end Sys2Proof.Machine
end

section
/-!
CERTIFICATE. The bring-up of agent ports (R3, R26, R27, R248, R251, R252) and memory ports (R252, R259, R264).
-/
namespace Sys2Proof.Machine
open Sys2Proof.Safety

/-! ### What follows a settled port (R426, R433) -/

theorem dueBits_congr {s u : State} (otp : u.otp = s.otp) (counts : u.hub.aon.counts = s.hub.aon.counts) : u.dueBits = s.dueBits := by
  rw [State.dueBits, State.dueBits, otp, counts]

/-- Nothing follows a settled port where no exception bit is due and no start waits for nothing more. -/
theorem settlePorts_quiet {u : State} (quiet : startQuiet u) : u.settlePorts = u := by
  obtain ⟨bits, phase⟩ := quiet
  have shut : u.hub.tryOpen = u.hub := by
    rw [Hub.tryOpen, if_neg]
    rintro ⟨starting, -, -, none_⟩
    obtain serving | waits := phase
    · simp [serving] at starting
    · exact waits (List.isEmpty_iff.mp none_)
  rw [State.settlePorts, State.escalate, bits, List.foldl_nil, State.withHub, shut]

/-- A message that leaves the start as it is leaves it quiet. -/
theorem startQuiet_of_start {s u : State} (otp : u.otp = s.otp) (counts : u.hub.aon.counts = s.hub.aon.counts)
    (start : u.hub.start = s.hub.start) (quiet : startQuiet s) : startQuiet u := by
  rw [startQuiet, dueBits_congr otp counts, start]
  exact quiet

/-- In service, a message that leaves the phase as it is leaves the start quiet. -/
theorem startQuiet_of_serving {s u : State} (otp : u.otp = s.otp) (counts : u.hub.aon.counts = s.hub.aon.counts)
    (phase : u.hub.start.phase = s.hub.start.phase) (quiet : startQuiet s) (serving : s.hub.start.phase = .serving) : startQuiet u :=
  ⟨(dueBits_congr otp counts).trans quiet.1, .inl (phase.trans serving)⟩

/-! ### The ledger's outcome records -/

theorem freeWords_hub (n : Nat) (h : Hub) : (Hub.freeWords n h).2 = { h with freeCtr := h.freeCtr + n } := by
  induction n generalizing h with
  | zero => rfl
  | succ n ih => rw [Hub.freeWords, ih, Nat.add_right_comm]; rfl

/-- An outcome record is written to its place of the ledger; nothing else changes but the free values that it takes. -/
theorem record_form (h : Hub) (step inst outcome detail : Nat) : ∃ outs place, h.record step inst outcome detail = { h with
    freeCtr := h.freeCtr + 6
    aon := { h.aon with
      outcomes := outs
      nextOut := place } } := by
  refine ⟨h.aon.outcomes.put h.aon.nextPlace ([outcomeW0 h.aon.startNo step inst outcome detail, Config.dieId] ++ [] ++ (Hub.freeWords 6 h).1),
    (h.aon.nextPlace + 1) % 32, ?_⟩
  simp only [Hub.record, Hub.recordWith, freeWords_hub]
  rfl

/-! ### Units after a change of one -/

theorem List.nth_mem {α : Type} (d : α) : ∀ (l : List α) (i : Nat), i < l.length → List.nth l i d ∈ l
  | _ :: _, 0, _ => List.mem_cons_self
  | _ :: t, i + 1, lt => List.mem_cons_of_mem _ (List.nth_mem d t i (Nat.lt_of_succ_lt_succ lt))

/-- A change of every listed value changes what is looked up. -/
theorem Tbl.look_map {α : Type} (f : α → α) (t : Tbl α) (i : Nat) : Tbl.look (List.map (fun e => (e.1, f e.2)) t) i = (t.look i).map f := by
  induction t with
  | nil => rfl
  | cons e t ih =>
    rw [List.map_cons, Tbl.look, Tbl.look]
    split
    · rfl
    · exact ih

/-! ### `AP_DECLARE` -/

theorem apDeclare_kept (s : State) (p : BitVec 4) (w : Word) (brings : s.hub.bringsUp = true) (offline : (s.hub.ap p).online = false)
    (trained : (s.hub.ap p).trained = true) (first : (s.hub.ap p).decl = none) (ok : sbOk 0x01 w = true) (good : (apDeclOf w).cause = 0) :
    exec (.apDeclare p w) s = .next (s.withHub fun h => h.onAp p fun a => { a with decl := some (apDeclOf w) }).settlePorts := by
  show execApDeclare p w s = _
  unfold execApDeclare
  simp only [State.withHub, brings, offline, trained, first, ok, good, Bool.not_true, Bool.or_self, Bool.false_eq_true, if_false,
    Option.isSome_none]

/-- A well-formed declaration of a trained port is kept (R3, R251). -/
theorem apDeclare_effect (s : State) (p : BitVec 4) (w : Word) (brings : s.hub.bringsUp = true) (offline : (s.hub.ap p).online = false)
    (trained : (s.hub.ap p).trained = true) (first : (s.hub.ap p).decl = none) (ok : sbOk 0x01 w = true) (good : (apDeclOf w).cause = 0) :
    ∃ t u, exec (.apDeclare p w) s = .next t ∧ t = u.settlePorts ∧ (startQuiet s → t = u) ∧ onlyIn [.aps] s u ∧
      otherPorts s.hub u.hub p ∧ u.hub.ap p = { s.hub.ap p with decl := some (apDeclOf w) } := by
  refine ⟨_, s.withHub fun h => h.onAp p fun a => { a with decl := some (apDeclOf w) },
    apDeclare_kept s p w brings offline trained first ok good, rfl, fun quiet => settlePorts_quiet ?_, ?_, fun q ne => ?_, ?_⟩
  · exact startQuiet_of_start (s := s) rfl rfl rfl quiet
  · intro q hq
    cases q <;> simp [Part.same] at hq ⊢
  · exact s.hub.ap_onAp_ne p q _ ne
  · exact s.hub.ap_onAp_self p _

/-! ### `AP_AGENT` -/

/-- With no number free an agent is refused with cause 2, which the ledger records (R26). -/
theorem admitAgent_refused (h : Hub) (p : BitVec 4) (pos : BitVec 5) (c d : Bool) (full : h.freeNumbers = []) :
    ∃ outs place, h.admitAgent p pos c d = { h with
      out := h.out ++ [.sideband (.ap p) (sbWord 0x03 (fld 48 pos.toNat ||| fld 32 2))]
      freeCtr := h.freeCtr + 6
      aon := { h.aon with
        outcomes := outs
        nextOut := place } } := by
  rw [Hub.admitAgent, full]
  exact record_form _ _ _ _ _

/-- An agent is admitted under a free number, which the die is told (R27). -/
theorem admitAgent_admitted (h : Hub) (p : BitVec 4) (pos : BitVec 5) (c d : Bool) (free : h.freeNumbers ≠ []) :
    ∃ la ∈ h.freeNumbers, h.admitAgent p pos c d = { h with
      freeCtr := h.freeCtr + 1
      agents := h.agents.put la.toNat ⟨true, false, c, d, p, pos, false, false, false⟩
      out := h.out ++ [.sideband (.ap p) (agentIdWord h pos.toNat la)] } := by
  refine ⟨List.nth h.freeNumbers (h.takeFree.1 % h.freeNumbers.length) 0,
    List.nth_mem 0 h.freeNumbers _ (Nat.mod_lt _ (List.length_pos_iff.mpr free)), ?_⟩
  unfold Hub.admitAgent
  split
  · contradiction
  · rfl

/-- What the declaration of an agent enters: its admission, and the next position of the port's declaration. -/
def Hub.agentEntered (h : Hub) (p : BitVec 4) (w : Word) (d : ApDecl) : Hub :=
  (h.admitAgent p (w.extractLsb' 48 5) (w.getLsbD 0) (w.getLsbD 1)).onAp p fun a => { a with decl := some { d with next := d.next + 1 } }

theorem apAgent_entered (s : State) (p : BitVec 4) (w : Word) (d : ApDecl) (declared : (s.hub.ap p).decl = some d) (ok : sbOk 0x02 w = true)
    (turn : (w.extractLsb' 48 5).toNat = d.next) :
    exec (.apAgent p w) s = .next (s.withHub fun h =>
      if d.next + 1 = d.count.toNat then (h.agentEntered p w d).apOnline p d else h.agentEntered p w d).settlePorts := by
  show execApAgent p w s = _
  unfold execApAgent
  simp only [State.withHub, declared, ok, turn, Bool.not_true, Bool.false_eq_true, if_false, ne_eq, not_true_eq_false]
  rfl

/-- What an agent's declaration does before the last one (R26, R27). -/
theorem apAgent_effect (s : State) (p : BitVec 4) (w : Word) (d : ApDecl) (declared : (s.hub.ap p).decl = some d) (ok : sbOk 0x02 w = true)
    (turn : (w.extractLsb' 48 5).toNat = d.next) (more : d.next + 1 ≠ d.count.toNat) :
    ∃ t u, exec (.apAgent p w) s = .next t ∧ t = u.settlePorts ∧ (startQuiet s → t = u) ∧ otherPorts s.hub u.hub p ∧
      u.hub.ap p = { s.hub.ap p with decl := some { d with next := d.next + 1 } } ∧
      (s.hub.freeNumbers = [] → onlyIn [.aps, .aon, .out, .freeCtr] s u ∧ u.hub.out = s.hub.out ++
        [OutMsg.sideband (.ap p) (sbWord 0x03 (fld 48 (w.extractLsb' 48 5).toNat ||| fld 32 2))]) ∧
      (s.hub.freeNumbers ≠ [] → onlyIn [.aps, .agents, .out, .freeCtr] s u ∧
        ∃ la ∈ s.hub.freeNumbers,
          u.hub.agent la = ⟨true, false, w.getLsbD 0, w.getLsbD 1, p, w.extractLsb' 48 5, false, false, false⟩ ∧
          (∀ a, a ≠ la → u.hub.agent a = s.hub.agent a) ∧
          u.hub.out = s.hub.out ++ [OutMsg.sideband (.ap p) (agentIdWord s.hub (w.extractLsb' 48 5).toNat la)]) := by
  have run := apAgent_entered s p w d declared ok turn
  simp only [if_neg more] at run
  refine ⟨_, s.withHub fun h => h.agentEntered p w d, run, rfl, ?_⟩
  by_cases full : s.hub.freeNumbers = []
  · obtain ⟨outs, place, form⟩ := admitAgent_refused s.hub p (w.extractLsb' 48 5) (w.getLsbD 0) (w.getLsbD 1) full
    simp only [State.withHub, Hub.agentEntered, form]
    refine ⟨fun quiet => settlePorts_quiet (startQuiet_of_start (s := s) rfl rfl rfl quiet), fun q ne => ?_, ?_, fun _ => ⟨?_, rfl⟩,
      fun free => absurd full free⟩
    · exact Hub.ap_onAp_ne _ p q _ ne
    · exact Hub.ap_onAp_self _ p _
    · intro q hq
      cases q <;> simp [Part.same] at hq ⊢
  · obtain ⟨la, mem, form⟩ := admitAgent_admitted s.hub p (w.extractLsb' 48 5) (w.getLsbD 0) (w.getLsbD 1) full
    simp only [State.withHub, Hub.agentEntered, form]
    refine ⟨fun quiet => settlePorts_quiet (startQuiet_of_start (s := s) rfl rfl rfl quiet), fun q ne => ?_, ?_, fun none_ => absurd none_ full,
      fun _ => ⟨?_, la, mem, ?_, fun a ne => ?_, rfl⟩⟩
    · exact Hub.ap_onAp_ne _ p q _ ne
    · exact Hub.ap_onAp_self _ p _
    · intro q hq
      cases q <;> simp [Part.same] at hq ⊢
    · exact Tbl.getD_put_self _ _ _ _
    · exact Tbl.getD_put_ne _ _ _ _ _ fun e => ne (BitVec.eq_of_toNat_eq e)

/-- An agent of a port that comes online is online, where it is not dead. -/
def Agent.broughtUp (p : BitVec 4) (a : Agent) : Agent := if a.port == p && a.valid && !a.dead then { a with online := true } else a

theorem Agent.broughtUp_online (p : BitVec 4) (a : Agent) (valid : (a.broughtUp p).valid = true) (port : (a.broughtUp p).port = p)
    (alive : (a.broughtUp p).dead = false) : (a.broughtUp p).online = true := by
  unfold Agent.broughtUp at *
  split
  · rfl
  · next none_ =>
    rw [if_neg none_] at valid port alive
    simp [valid, port, alive] at none_

theorem Agent.broughtUp_init (p : BitVec 4) : Agent.init.broughtUp p = Agent.init := by
  simp [Agent.broughtUp, Agent.init]

/-- An agent port that comes online, with the credits declared (R251). -/
def ApPort.broughtOnline (d : ApDecl) (a : ApPort) : ApPort := { a with
  link := .online
  online := true
  decl := none
  frame := FrameState.init
  reqCred := d.reqC.toNat
  snpCred := d.snpC.toNat
  rspCred := d.rspC.toNat
  datCred := d.datC.toNat
  stalled := []
  stallDue := false
  parked := false }

/-- A port that comes online sends the hub's credits, brings its agents up and is waited for no longer (R248, R251). -/
theorem apOnline_form (h : Hub) (p : BitVec 4) (d : ApDecl) : h.apOnline p d = { h with
    aps := h.aps.upd p.toNat ApPort.init (ApPort.broughtOnline d)
    agents := List.map (fun e => (e.1, e.2.broughtUp p)) h.agents
    start := (h.portDone (.ap p)).start
    out := h.out ++ [.sideband (.ap p) (sbWord 0x04 (fld 24 128 ||| fld 16 64 ||| fld 8 128 ||| fld 0 128)), .sideband (.ap p) (sbWord 0x06 0)]
    } := by
  have agents : (h.apOnline p d).agents = List.map (fun e => (e.1, e.2.broughtUp p)) h.agents := by
    refine List.map_congr_left fun e _ => ?_
    unfold Agent.broughtUp
    split <;> rfl
  rw [← agents]
  simp only [Hub.apOnline, Hub.emit, List.append_assoc]
  rfl

/-- What the last agent's declaration of a port leaves, of an agent that is admitted. -/
theorem entered_online_form (h : Hub) (p : BitVec 4) (w : Word) (d : ApDecl) (free : h.freeNumbers ≠ []) :
    ∃ la ∈ h.freeNumbers, (h.agentEntered p w d).apOnline p d = { h with
      freeCtr := h.freeCtr + 1
      aps := (h.agentEntered p w d).aps.upd p.toNat ApPort.init (ApPort.broughtOnline d)
      agents := List.map (fun e => (e.1, e.2.broughtUp p)) (h.agentEntered p w d).agents
      start := (h.portDone (.ap p)).start
      out := h.out ++ [.sideband (.ap p) (agentIdWord h (w.extractLsb' 48 5).toNat la),
         .sideband (.ap p) (sbWord 0x04 (fld 24 128 ||| fld 16 64 ||| fld 8 128 ||| fld 0 128)), .sideband (.ap p) (sbWord 0x06 0)] } := by
  obtain ⟨la, mem, form⟩ := admitAgent_admitted h p (w.extractLsb' 48 5) (w.getLsbD 0) (w.getLsbD 1) free
  refine ⟨la, mem, ?_⟩
  rw [apOnline_form, Hub.agentEntered, form]
  simp only [Hub.onAp, Hub.portDone, List.append_assoc, List.cons_append, List.nil_append]
  rfl

/-- A change of every listed agent changes every agent, where it leaves an unlisted one as it is. -/
theorem broughtUp_look (t : Tbl Agent) (p : BitVec 4) (i : Nat) :
    Tbl.getD (List.map (fun e => (e.1, e.2.broughtUp p)) t) i Agent.init = (t.getD i Agent.init).broughtUp p := by
  rw [Tbl.getD, Tbl.getD, Tbl.look_map]
  cases t.look i with
  | none => exact (Agent.broughtUp_init p).symm
  | some _ => rfl

theorem agentEntered_ap (h : Hub) (p : BitVec 4) (w : Word) (d : ApDecl) (q : BitVec 4) :
    (h.agentEntered p w d).ap q = if q = p then { h.ap p with decl := some { d with next := d.next + 1 } } else h.ap q := by
  have keeps : (h.admitAgent p (w.extractLsb' 48 5) (w.getLsbD 0) (w.getLsbD 1)).aps = h.aps := by
    by_cases free : h.freeNumbers = []
    · obtain ⟨_, _, form⟩ := admitAgent_refused h p (w.extractLsb' 48 5) (w.getLsbD 0) (w.getLsbD 1) free
      rw [form]
    · obtain ⟨_, _, form⟩ := admitAgent_admitted h p (w.extractLsb' 48 5) (w.getLsbD 0) (w.getLsbD 1) free
      rw [form]
  have same (q : BitVec 4) : (h.admitAgent p (w.extractLsb' 48 5) (w.getLsbD 0) (w.getLsbD 1)).ap q = h.ap q := by rw [Hub.ap, keeps, Hub.ap]
  split
  · next here => rw [here, Hub.agentEntered, Hub.ap_onAp_self, same]
  · next ne => rw [Hub.agentEntered, Hub.ap_onAp_ne _ p q _ ne, same]

/-- The last declaration brings the port online with the credits declared (R248, R251). -/
theorem apAgent_last (s : State) (p : BitVec 4) (w : Word) (d : ApDecl) (declared : (s.hub.ap p).decl = some d) (ok : sbOk 0x02 w = true)
    (turn : (w.extractLsb' 48 5).toNat = d.next) (last : d.next + 1 = d.count.toNat) (free : s.hub.freeNumbers ≠ []) :
    ∃ t u, exec (.apAgent p w) s = .next t ∧ t = u.settlePorts ∧ (startQuiet s → s.hub.start.phase = .serving → t = u) ∧
      onlyIn [.aps, .agents, .out, .freeCtr, .start] s u ∧ otherPorts s.hub u.hub p ∧
      (u.hub.ap p).online = true ∧ (u.hub.ap p).link = .online ∧ (u.hub.ap p).decl = none ∧ (u.hub.ap p).frame = FrameState.init ∧
      (u.hub.ap p).reqCred = d.reqC.toNat ∧ (u.hub.ap p).snpCred = d.snpC.toNat ∧ (u.hub.ap p).rspCred = d.rspC.toNat ∧
      (u.hub.ap p).datCred = d.datC.toNat ∧
      (∃ la ∈ s.hub.freeNumbers, u.hub.out = s.hub.out ++
        [OutMsg.sideband (.ap p) (agentIdWord s.hub (w.extractLsb' 48 5).toNat la),
         .sideband (.ap p) (sbWord 0x04 (fld 24 128 ||| fld 16 64 ||| fld 8 128 ||| fld 0 128)), .sideband (.ap p) (sbWord 0x06 0)]) ∧
      ∀ a, (u.hub.agent a).valid = true → (u.hub.agent a).port = p → (u.hub.agent a).dead = false → (u.hub.agent a).online = true := by
  have run := apAgent_entered s p w d declared ok turn
  simp only [if_pos last] at run
  refine ⟨_, s.withHub fun h => (h.agentEntered p w d).apOnline p d, run, rfl, ?_⟩
  obtain ⟨la, mem, form⟩ := entered_online_form s.hub p w d free
  have port : ((s.hub.agentEntered p w d).apOnline p d).ap p = ApPort.broughtOnline d ((s.hub.agentEntered p w d).ap p) := by
    rw [form]
    exact Tbl.getD_upd_self _ _ _ _
  have others (q : BitVec 4) (ne : q ≠ p) : ((s.hub.agentEntered p w d).apOnline p d).ap q = s.hub.ap q := by
    rw [form]
    refine (Tbl.getD_upd_ne _ _ _ _ _ fun e => ne (BitVec.eq_of_toNat_eq e)).trans ?_
    rw [← Hub.ap, agentEntered_ap, if_neg ne]
  have agents (a : La) : ((s.hub.agentEntered p w d).apOnline p d).agent a = ((s.hub.agentEntered p w d).agent a).broughtUp p := by
    rw [form]
    exact broughtUp_look _ p _
  have up (a : La) := (s.hub.agentEntered p w d |>.agent a).broughtUp_online p
  simp only [← agents] at up
  simp only [State.withHub, port]
  refine ⟨?_, ?_, others, rfl, rfl, rfl, rfl, rfl, rfl, rfl, rfl, ⟨la, mem, by rw [form]⟩, up⟩
  · rw [form]
    exact fun quiet serving => settlePorts_quiet (startQuiet_of_serving (s := s) rfl rfl rfl quiet serving)
  · rw [form]
    intro q hq
    cases q <;> simp [Part.same] at hq ⊢

/-! ### `MP_DECLARE` -/

/-- A memory port whose declaration of version 1 is kept. -/
def Hub.mpDeclared (h : Hub) (m : BitVec 3) : Hub := { h with mps := h.mps.put m.toNat { h.mp m.toNat with declared := true } }

/-- A well-formed declaration of a trained memory port is kept (R3, R252). -/
theorem mpDeclare_effect (s : State) (m : BitVec 3) (w : Word) (brings : s.hub.bringsUp = true) (offline : (s.hub.mp m.toNat).online = false)
    (trained : (s.hub.mp m.toNat).trained = true) (first : (s.hub.mp m.toNat).declared = false) (ok : sbOk 0x20 w = true)
    (version : (w.extractLsb' 48 8).toNat = 1) :
    ∃ t u, exec (.mpDeclare m w) s = .next t ∧ t = u.settlePorts ∧ (startQuiet s → t = u) ∧ onlyIn [.mps] s u ∧
      u.hub.mp m.toNat = { s.hub.mp m.toNat with declared := true } ∧ ∀ k, k ≠ m.toNat → u.hub.mp k = s.hub.mp k := by
  have run : exec (.mpDeclare m w) s = .next (s.withHub fun h => h.mpDeclared m).settlePorts := by
    show execMpDeclare m w s = _
    unfold execMpDeclare
    simp only [State.withHub, brings, offline, trained, first, ok, version, Bool.not_true, Bool.or_self, Bool.false_eq_true, if_false,
      ne_eq, not_true_eq_false, Hub.mpDeclared]
  refine ⟨_, s.withHub fun h => h.mpDeclared m, run, rfl, fun quiet => settlePorts_quiet ?_, ?_, ?_, fun k ne => ?_⟩
  · exact startQuiet_of_start (s := s) rfl rfl rfl quiet
  · intro q hq
    cases q <;> simp [Part.same, State.withHub, Hub.mpDeclared] at hq ⊢
  · exact Tbl.getD_put_self _ _ _ _
  · exact Tbl.getD_put_ne _ _ _ _ _ ne

/-! ### `MP_CHAN_GEOM` and `MP_CHAN_FLOW` -/

/-- A message of a channel's declaration that comes in its turn is entered, and the port is judged (R264). -/
theorem mpDeclares_entered (h : Hub) (m : BitVec 3) (id : Byte) (w : Word) (f : Chan → Chan) (brings : h.mpBringing m = true)
    (declared : (h.mp m.toNat).declared = true) (ok : sbOk id w = true) :
    h.mpDeclares m id w f = (h.onChan (2 * m.toNat + (if w.getLsbD 55 then 1 else 0)) f).mpJudge m := by
  rw [Hub.mpDeclares, brings, ok, declared]
  rfl

theorem onChan_congr (h : Hub) (c : Nat) (f g : Chan → Chan) (same : f (h.chan c) = g (h.chan c)) : h.onChan c f = h.onChan c g := by
  rw [Hub.onChan, Hub.onChan, Tbl.upd, Tbl.upd, ← Hub.chan, same]

theorem mpChanGeom_entered (s : State) (m : BitVec 3) (w : Word) (c : Nat) (here : c = 2 * m.toNat + (if w.getLsbD 55 then 1 else 0))
    (first : (s.hub.chan c).geom = false) (brings : s.hub.mpBringing m = true) (declared : (s.hub.mp m.toNat).declared = true)
    (ok : sbOk 0x21 w = true) : exec (.mpChanGeom m w) s = .next (s.withHub fun h => (h.onChan c (geomOf w)).mpJudge m).settlePorts := by
  show execMpChanGeom m w s = _
  rw [execMpChanGeom, State.withHub, mpDeclares_entered _ _ _ _ _ brings declared ok, ← here, onChan_congr s.hub c _ (geomOf w)]
  · rfl
  · rw [if_neg (by simp [first])]
    rfl

theorem mpChanFlow_entered (s : State) (m : BitVec 3) (w : Word) (c : Nat) (here : c = 2 * m.toNat + (if w.getLsbD 55 then 1 else 0))
    (first : (s.hub.chan c).flow = false) (brings : s.hub.mpBringing m = true) (declared : (s.hub.mp m.toNat).declared = true)
    (ok : sbOk 0x22 w = true) : exec (.mpChanFlow m w) s = .next (s.withHub fun h => (h.onChan c (flowOf w)).mpJudge m).settlePorts := by
  show execMpChanFlow m w s = _
  rw [execMpChanFlow, State.withHub, mpDeclares_entered _ _ _ _ _ brings declared ok, ← here, onChan_congr s.hub c _ (flowOf w)]
  · rfl
  · rw [if_neg (by simp [first])]
    rfl

theorem wholePort_iff (h : Hub) (m : BitVec 3) :
    (((h.chan (2 * m.toNat)).geom && (h.chan (2 * m.toNat)).flow) &&
      ((h.chan (2 * m.toNat + 1)).geom && (h.chan (2 * m.toNat + 1)).flow)) = true ↔ wholePort h m := by
  simp [wholePort]

theorem mpJudge_open (h : Hub) (m : BitVec 3) (part : ¬wholePort h m) : h.mpJudge m = h := if_neg (mt (wholePort_iff h m).mp part)

theorem mpJudge_accepts (h : Hub) (m : BitVec 3) (whole : wholePort h m) (low : h.chanOk (2 * m.toNat) = true)
    (high : h.chanOk (2 * m.toNat + 1) = true) : h.mpJudge m = h.mpAccept m :=
  (if_pos ((wholePort_iff h m).mpr whole)).trans (if_pos (by rw [low, high]; rfl))

theorem mpJudge_refuses (h : Hub) (m : BitVec 3) (whole : wholePort h m)
    (bad : h.chanOk (2 * m.toNat) = false ∨ h.chanOk (2 * m.toNat + 1) = false) : h.mpJudge m = h.mpRefuse m 3 :=
  (if_pos ((wholePort_iff h m).mpr whole)).trans (if_neg (by obtain low | high := bad <;> simp [*]))

/-- A channel that comes into service changes the channels and tells the slices (R280). -/
theorem chanUp_form (h : Hub) (c : Nat) : ∃ cs ns, h.chanUp c = { h with
    chans := cs
    notices := ns } := by
  unfold Hub.chanUp
  dsimp only
  split
  · exact ⟨h.chans, h.notices, rfl⟩
  · split <;> split <;> exact ⟨_, _, rfl⟩

theorem chanUp_chanUp_form (h : Hub) (c d : Nat) : ∃ cs ns, (h.chanUp c).chanUp d = { h with
    chans := cs
    notices := ns } := by
  obtain ⟨_, _, one⟩ := chanUp_form h c
  obtain ⟨cs, ns, two⟩ := chanUp_form (h.chanUp c) d
  exact ⟨cs, ns, by rw [two, one]⟩

/-- A memory port that Lupin accepts is online, and its die is told (R252). -/
def Hub.mpOnline (h : Hub) (m : BitVec 3) : Hub := { h with
  out := h.out ++ [.sideband (.mp m) (sbWord 0x23 0)]
  mps := h.mps.put m.toNat { h.mp m.toNat with
    link := .online
    online := true
    frame := FrameState.init } }

/-- `MP_ACCEPT` brings the port and its channels into service, and no start waits for the port any longer (R252, R280). -/
theorem mpAccept_form (h : Hub) (m : BitVec 3) : ∃ cs ns, h.mpAccept m = { h.mpOnline m with
    chans := cs
    notices := ns
    start := (h.portDone (.mp m)).start } := by
  have steps : h.mpAccept m = Hub.portDone (if ((h.mpOnline m).chan (2 * m.toNat)).stale
      then ((h.mpOnline m).chanUp (2 * m.toNat + 1)).chanUp (2 * m.toNat)
      else ((h.mpOnline m).chanUp (2 * m.toNat)).chanUp (2 * m.toNat + 1)) (.mp m) := rfl
  rw [steps]
  split
  · obtain ⟨cs, ns, form⟩ := chanUp_chanUp_form (h.mpOnline m) (2 * m.toNat + 1) (2 * m.toNat)
    exact ⟨cs, ns, by rw [form]; rfl⟩
  · obtain ⟨cs, ns, form⟩ := chanUp_chanUp_form (h.mpOnline m) (2 * m.toNat) (2 * m.toNat + 1)
    exact ⟨cs, ns, by rw [form]; rfl⟩

/-- A memory port that Lupin refuses stays unused, and no start waits for it any longer (R252, R264, R426). -/
theorem mpRefuse_form (h : Hub) (m : BitVec 3) (cause : Nat) : ∃ outs place doms, h.mpRefuse m cause = { h with
    out := h.out ++ [.sideband (.mp m) (sbWord 0x24 (fld 0 cause))]
    freeCtr := h.freeCtr + 6
    aon := { h.aon with
      outcomes := outs
      nextOut := place }
    mps := h.mps.put m.toNat { h.mp m.toNat with
      link := .down
      trained := false
      declared := false
      unused := true }
    power := { h.power with doms := doms }
    start := (h.portDone (.mp m)).start } := by
  obtain ⟨outs, place, form⟩ := record_form (h.emit (.sideband (.mp m) (sbWord 0x24 (fld 0 cause)))) stMpUp m.toNat outRefused cause
  refine ⟨outs, place, h.power.doms.put (domKey (.mp m)) .asleep, ?_⟩
  rw [Hub.mpRefuse, form]
  rfl

/-- What the message of a channel's declaration does, whether the port is declared whole by it or not (R264). -/
theorem mpJudge_effect (s : State) (m : BitVec 3) (c : Nat) (f : Chan → Chan) (i : Instr) (offline : (s.hub.mp m.toNat).online = false)
    (run : exec i s = .next (s.withHub fun h => (h.onChan c f).mpJudge m).settlePorts) :
    ∃ t u, exec i s = .next t ∧ t = u.settlePorts ∧
      (¬wholePort (s.hub.onChan c f) m → (startQuiet s → t = u) ∧ onlyIn [.chans] s u ∧ u.hub.chan c = f (s.hub.chan c) ∧
        ∀ k, k ≠ c → u.hub.chan k = s.hub.chan k) ∧
      (wholePort (s.hub.onChan c f) m → (s.hub.onChan c f).chanOk (2 * m.toNat) = true →
        (s.hub.onChan c f).chanOk (2 * m.toNat + 1) = true →
        (startQuiet s → s.hub.start.phase = .serving → t = u) ∧ onlyIn [.chans, .mps, .out, .notices, .start] s u ∧
        u.hub.out = s.hub.out ++ [OutMsg.sideband (.mp m) (sbWord 0x23 0)] ∧
        (u.hub.mp m.toNat).online = true ∧ (u.hub.mp m.toNat).link = .online) ∧
      (wholePort (s.hub.onChan c f) m →
        ((s.hub.onChan c f).chanOk (2 * m.toNat) = false ∨ (s.hub.onChan c f).chanOk (2 * m.toNat + 1) = false) →
        (startQuiet s → s.hub.start.phase = .serving → t = u) ∧ onlyIn [.chans, .mps, .out, .aon, .power, .start, .freeCtr] s u ∧
        u.hub.out = s.hub.out ++ [OutMsg.sideband (.mp m) (sbWord 0x24 (fld 0 3))] ∧
        (u.hub.mp m.toNat).online = false ∧ (u.hub.mp m.toNat).trained = false ∧ (u.hub.mp m.toNat).unused = true) := by
  refine ⟨_, s.withHub fun h => (h.onChan c f).mpJudge m, run, rfl, fun part => ?_, fun whole low high => ?_, fun whole bad => ?_⟩
  · simp only [State.withHub, mpJudge_open _ m part]
    refine ⟨fun quiet => settlePorts_quiet (startQuiet_of_start (s := s) rfl rfl rfl quiet), ?_, Tbl.getD_upd_self _ _ _ _,
      fun k ne => Tbl.getD_upd_ne _ _ _ _ _ ne⟩
    intro q hq
    cases q <;> simp [Part.same, Hub.onChan] at hq ⊢
  · obtain ⟨cs, ns, form⟩ := mpAccept_form (s.hub.onChan c f) m
    have port : { (s.hub.onChan c f).mpOnline m with
        chans := cs
        notices := ns
        start := ((s.hub.onChan c f).portDone (.mp m)).start }.mp m.toNat = { s.hub.mp m.toNat with
          link := .online
          online := true
          frame := FrameState.init } := Tbl.getD_put_self _ _ _ _
    simp only [State.withHub, mpJudge_accepts _ m whole low high, form, port]
    refine ⟨fun quiet serving => settlePorts_quiet (startQuiet_of_serving (s := s) rfl rfl rfl quiet serving), ?_, rfl, trivial, trivial⟩
    intro q hq
    cases q <;> simp [Part.same, Hub.onChan, Hub.mpOnline] at hq ⊢
  · obtain ⟨outs, place, doms, form⟩ := mpRefuse_form (s.hub.onChan c f) m 3
    simp only [State.withHub, mpJudge_refuses _ m whole bad, form]
    refine ⟨fun quiet serving => settlePorts_quiet (startQuiet_of_serving (s := s) rfl rfl rfl quiet serving), ?_, rfl, ?_⟩
    · intro q hq
      cases q <;> simp [Part.same, Hub.onChan] at hq ⊢
    · simp only [Hub.mp, Tbl.getD_put_self]
      exact ⟨offline, trivial, trivial⟩

/-- Settles O28: each message of a bring-up is the equation of its own meaning, and a settled port is followed by nothing while a start is
quiet. -/
theorem portsAreDeclaredAndComeOnline : Obligations.PortsAreDeclaredAndComeOnline := by
  intro s p m w d
  refine ⟨apDeclare_effect s p w, fun declared ok turn => ⟨apAgent_effect s p w d declared ok turn, apAgent_last s p w d declared ok turn⟩,
    mpDeclare_effect s m w, ?_⟩
  rintro c i id f h here message rfl brings declared ok
  have offline : (s.hub.mp m.toNat).online = false := by
    simp only [Hub.mpBringing, Bool.and_eq_true, Bool.not_eq_true'] at brings
    exact brings.2
  refine mpJudge_effect s m c f i offline ?_
  obtain ⟨rfl, rfl, rfl, first⟩ | ⟨rfl, rfl, rfl, first⟩ := message
  · exact mpChanGeom_entered s m w c here first brings declared ok
  · exact mpChanFlow_entered s m w c here first brings declared ok

end Sys2Proof.Machine
end

section
/-!
CERTIFICATE. What the operations of a round leave as it was: the snoop credits that wait for their return (R43).
-/
namespace Sys2Proof.Machine
open Sys2Proof.Safety

/-- The snoop credits of every listed slice's lookups that return with the round (R43). -/
def Tbl.backs (t : Tbl Slice) (n : Nat) : List (BitVec 4) := (t.getD n Slice.init).snpBack

/-! ### Changes of a slice -/

@[simp] theorem Slice.snpBack_ite (c : Prop) [Decidable c] (s t : Slice) : (if c then s else t).snpBack = if c then s.snpBack else t.snpBack :=
  apply_ite Slice.snpBack c s t

@[simp] theorem Slice.countPresence_snpBack (s : Slice) (l : Line) (set : BitVec 12) (up : Bool) :
    (s.countPresence l set up).snpBack = s.snpBack := by simp [Slice.countPresence]
@[simp] theorem Slice.putSd_snpBack (s : Slice) (set : BitVec 12) (way : Nat) (w : Word) : (s.putSd set way w).snpBack = s.snpBack := by
  simp [Slice.putSd]
@[simp] theorem Slice.touchNru_snpBack (s : Slice) (set : BitVec 14) (way n : Nat) : (s.touchNru set way n).snpBack = s.snpBack := by
  simp [Slice.touchNru]
@[simp] theorem Slice.reserveWay_snpBack (s : Slice) (l : Line) (w : Nat) : (s.reserveWay l w).snpBack = s.snpBack := by simp [Slice.reserveWay]
@[simp] theorem Slice.dropWay_snpBack (s : Slice) (l : Line) : (s.dropWay l).snpBack = s.snpBack := by simp [Slice.dropWay]
@[simp] theorem Slice.reserveHWay_snpBack (s : Slice) (l : Line) (w : Nat) : (s.reserveHWay l w).snpBack = s.snpBack := by simp [Slice.reserveHWay]
@[simp] theorem Slice.dropHWay_snpBack (s : Slice) (l : Line) : (s.dropHWay l).snpBack = s.snpBack := by simp [Slice.dropHWay]
@[simp] theorem Slice.checkSdRun_snpBack (s : Slice) (set : BitVec 12) : (s.checkSdRun set).snpBack = s.snpBack := by simp [Slice.checkSdRun]
@[simp] theorem Slice.dropSweep_snpBack (s : Slice) (span : Bool) (set : BitVec 14) (way : Nat) :
    (s.dropSweep span set way).snpBack = s.snpBack := by simp [Slice.dropSweep]
@[simp] theorem Slice.unskip_snpBack (s : Slice) (l : Line) : (s.unskip l).snpBack = s.snpBack := by simp [Slice.unskip]
@[simp] theorem Slice.unskipHub_snpBack (s : Slice) (l : Line) : (s.unskipHub l).snpBack = s.snpBack := by simp [Slice.unskipHub]
@[simp] theorem Slice.putAge_snpBack (s : Slice) (set : BitVec 10) (way : Nat) (a : BitVec 2) : (s.putAge set way a).snpBack = s.snpBack := by
  simp [Slice.putAge]
@[simp] theorem Slice.onFill_snpBack (s : Slice) (l : Line) (f : Fill → Fill) : (s.onFill l f).snpBack = s.snpBack := by simp [Slice.onFill]
@[simp] theorem Slice.pushWrite_snpBack (s : Slice) (l : Line) : (s.pushWrite l).snpBack = s.snpBack := by simp [Slice.pushWrite]
@[simp] theorem Slice.dropRsv_snpBack (s : Slice) (g : Gaid) (anchor : Line) : (s.dropRsv g anchor).snpBack = s.snpBack := by simp [Slice.dropRsv]
@[simp] theorem Slice.wakeNext_snpBack (s : Slice) (l : Line) (n : Nat) : (s.wakeNext l n).snpBack = s.snpBack := by simp [Slice.wakeNext]
@[simp] theorem Slice.endPlace_snpBack (s : Slice) (r : Req) : (s.endPlace r).snpBack = s.snpBack := by simp [Slice.endPlace]

@[simp] theorem Slice.queueSweep_snpBack (s : Slice) (span : Bool) (set : BitVec 14) (way : Nat) :
    (s.queueSweep span set way).snpBack = s.snpBack := by
  unfold Slice.queueSweep
  dsimp only
  split <;> simp

@[simp] theorem Slice.dropFill_snpBack (s : Slice) (l : Line) : (s.dropFill l).snpBack = s.snpBack := by
  unfold Slice.dropFill
  split <;> rfl

@[simp] theorem Slice.sweepLess_snpBack (s : Slice) (k : BackKind) : (s.sweepLess k).snpBack = s.snpBack := by
  cases k <;> rfl

@[simp] theorem Slice.notePlace_snpBack (s : Slice) (r : Req) (n : Nat) (line : Option (Option Line)) :
    (s.notePlace r n line).snpBack = s.snpBack := by
  cases line <;> simp [Slice.notePlace]

@[simp] theorem Slice.holdHWay_snpBack (s : Slice) (r : Req) : (s.holdHWay r).snpBack = s.snpBack := by
  unfold Slice.holdHWay
  split
  · split <;> rfl
  · rfl

@[simp] theorem Slice.serveClaims_snpBack (n : Nat) (set : BitVec 14) (fuel : Nat) (s : Slice) :
    (Slice.serveClaims n set fuel s).snpBack = s.snpBack := by
  induction fuel generalizing s with
  | zero => rfl
  | succ fuel ih =>
    unfold Slice.serveClaims
    split
    · exact ih _
    · rfl

@[simp] theorem Slice.serveHubClaims_snpBack (n : Nat) (set : BitVec 12) (fuel : Nat) (s : Slice) :
    (Slice.serveHubClaims n set fuel s).snpBack = s.snpBack := by
  induction fuel generalizing s with
  | zero => rfl
  | succ fuel ih =>
    unfold Slice.serveHubClaims
    split
    · exact ih _
    · rfl

/-- The ages of a set's ways change one by one. -/
theorem Slice.foldl_putAge_snpBack (set : BitVec 10) (a : Slice → Nat → BitVec 2) (ways : List Nat) (s : Slice) :
    (ways.foldl (fun s w => s.putAge set w (a s w)) s).snpBack = s.snpBack := by
  induction ways generalizing s with
  | nil => rfl
  | cons w ways ih => exact ih _

@[simp] theorem Slice.hcVictim_snpBack (s : Slice) (set : BitVec 10) (ways : List Nat) (demand : Bool) :
    (s.hcVictim set ways demand).2.snpBack = s.snpBack := by
  unfold Slice.hcVictim
  split
  · rfl
  · split
    · rfl
    · split
      · exact Slice.foldl_putAge_snpBack set _ ways s
      · rfl

/-! ### Changes of the hub -/

@[simp] theorem Hub.slices_ite (c : Prop) [Decidable c] (h k : Hub) :
    (if c then h else k).slices.backs = if c then h.slices.backs else k.slices.backs := apply_ite (fun h => h.slices.backs) c h k

@[simp] theorem Hub.onSlice_backs (h : Hub) (n : Nat) (f : Slice → Slice) (keeps : (f (h.slice n)).snpBack = (h.slice n).snpBack) :
    (h.onSlice n f).slices.backs = h.slices.backs := by
  funext m
  show ((h.onSlice n f).slice m).snpBack = (h.slice m).snpBack
  rw [Hub.slice_onSlice]
  split
  · next here => rw [here, keeps]
  · rfl

@[simp] theorem Hub.onTxn_backs (h : Hub) (hs : Nat) (tid : Byte) (f : Txn → Txn) : (h.onTxn hs tid f).slices.backs = h.slices.backs := by
  simp [Hub.onTxn]

theorem foldl_backs {α : Type} (l : List α) (g : Hub → α → Hub) (h : Hub) (H : ∀ h x, (g h x).slices.backs = h.slices.backs) :
    (l.foldl g h).slices.backs = h.slices.backs := foldl_same (·.slices.backs) g H l h

/-! ### Messages to other hubs leave a change of the slice map as it is -/

@[simp] theorem Hub.toHubWith_epoch (h : Hub) (dest : HubNo) (opc : BitVec 6) (f : Flit) (d : Option Payload)
    (operand : Option (BitVec 256)) (be : ByteMask) : (h.toHubWith dest opc f d operand be).epoch = h.epoch := by
  unfold Hub.toHubWith
  split <;> simp

@[simp] theorem Hub.toHub_epoch (h : Hub) (dest : HubNo) (opc : BitVec 6) (f : Flit) (d : Option Payload) (operand : Option (BitVec 256)) :
    (h.toHub dest opc f d operand).epoch = h.epoch := by
  simp [Hub.toHub]

@[simp] theorem Hub.sendRsvRelease_epoch (h : Hub) (home : HubNo) (g : Gaid) (anchor : Line) (seq : BitVec 12) :
    (h.sendRsvRelease home g anchor seq).epoch = h.epoch := by
  simp [Hub.sendRsvRelease]

@[simp] theorem Hub.keepSpan_epoch (h : Hub) (r : Req) (n t : Nat) (opc : BitVec 6) : (h.keepSpan r n t opc).epoch = h.epoch := by
  unfold Hub.keepSpan
  dsimp only
  split <;> simp

@[simp] theorem Hub.endReq_epoch (h : Hub) (hs : Nat) (r : Req) (outcome : BitVec 2) : (h.endReq hs r outcome).epoch = h.epoch := by
  unfold Hub.endReq
  split <;> simp

@[simp] theorem Hub.devFinish_epoch (h : Hub) (r : DevReq) (outcome : BitVec 2) (d : Option Payload) :
    (h.devFinish r outcome d).epoch = h.epoch := by
  unfold Hub.devFinish
  dsimp only
  repeat' split
  all_goals simp

/-! ### Snoop credits -/

@[simp] theorem Hub.onMirrored_backs (h : Hub) (hs grp : Nat) (f : Slice → Slice) (keeps : ∀ s, (f s).snpBack = s.snpBack) :
    (h.onMirrored hs grp f).slices.backs = h.slices.backs := by
  unfold Hub.onMirrored
  split <;> simp [keeps]

@[simp] theorem Hub.putSf_backs (h : Hub) (hs : Nat) (set : BitVec 14) (way : Nat) (w : Word) :
    (h.putSf hs set way w).slices.backs = h.slices.backs := by simp [Hub.putSf]

@[simp] theorem Hub.putSd_backs (h : Hub) (hs : Nat) (set : BitVec 12) (way : Nat) (w : Word) :
    (h.putSd hs set way w).slices.backs = h.slices.backs := by simp [Hub.putSd]

@[simp] theorem Hub.checkRun_backs (h : Hub) (hs : Nat) (set : BitVec 14) : (h.checkRun hs set).slices.backs = h.slices.backs := by
  simp [Hub.checkRun]

@[simp] theorem Hub.settleWay_backs (h : Hub) (hs : Nat) (l : Line) : (h.settleWay hs l).slices.backs = h.slices.backs := by simp [Hub.settleWay]

@[simp] theorem Hub.putEntry_backs (h : Hub) (hs : Nat) (l : Line) (w : Nat) (v : SView) : (h.putEntry hs l w v).slices.backs = h.slices.backs := by
  unfold Hub.putEntry
  have written : (h.putSf hs l.sfSet w (v.word l.sfTag)).slices.backs = h.slices.backs := by simp
  generalize h.putSf hs l.sfSet w (v.word l.sfTag) = k at written
  dsimp only
  split <;> simp [written]

@[simp] theorem Hub.putHub_backs (h : Hub) (hs : Nat) (l : Line) (w : Nat) (v : HView) : (h.putHub hs l w v).slices.backs = h.slices.backs := by
  simp [Hub.putHub]

@[simp] theorem Hub.setHub_backs (h : Hub) (hs : Nat) (l : Line) (v : HView) : (h.setHub hs l v).slices.backs = h.slices.backs := by
  unfold Hub.setHub
  split
  · simp
  · split
    · rfl
    · split <;> simp

@[simp] theorem Hub.putHc_backs (h : Hub) (hs : Nat) (set : BitVec 10) (way : Nat) (w : Word) (bytes : LineBits) :
    (h.putHc hs set way w bytes).slices.backs = h.slices.backs := by
  unfold Hub.putHc
  dsimp only
  split <;> simp

@[simp] theorem Hub.tryDisable_backs (h : Hub) (hs way : Nat) : (h.tryDisable hs way).slices.backs = h.slices.backs := by simp [Hub.tryDisable]

@[simp] theorem Hub.hcInvalidateWay_backs (h : Hub) (hs : Nat) (set : BitVec 10) (way : Nat) :
    (h.hcInvalidateWay hs set way).slices.backs = h.slices.backs := by simp [Hub.hcInvalidateWay]

@[simp] theorem Hub.hcInvalidateLine_backs (h : Hub) (hs : Nat) (l : Line) : (h.hcInvalidateLine hs l).slices.backs = h.slices.backs := by
  unfold Hub.hcInvalidateLine
  split <;> simp

@[simp] theorem Hub.takeVictim_backs (h : Hub) (hs : Nat) (set : BitVec 10) (way : Nat) :
    (h.takeVictim hs set way).1.slices.backs = h.slices.backs := by
  unfold Hub.takeVictim
  dsimp only
  repeat' split
  all_goals simp

@[simp] theorem Hub.installFill_backs (h : Hub) (hs : Nat) (f : Fill) : (h.installFill hs f).slices.backs = h.slices.backs := by
  unfold Hub.installFill
  split
  · simp
  · rfl

@[simp] theorem Hub.hcUpdate_backs (h : Hub) (hs : Nat) (l : Line) (bytes : LineBits) (mask : ByteMask) (poison : Bool) (down : Bool) :
    (h.hcUpdate hs l bytes mask poison down).slices.backs = h.slices.backs := by
  unfold Hub.hcUpdate
  dsimp only
  split <;> simp

@[simp] theorem Hub.chainMark_backs (h : Hub) (hs : Nat) (l : Line) : (h.chainMark hs l).slices.backs = h.slices.backs := by
  unfold Hub.chainMark
  dsimp only
  split
  · simp
  · split
    · simp
    · split <;> simp

@[simp] theorem Hub.chainPut_backs (h : Hub) (hs : Nat) (l : Line) (d : LineBits) (poison : Bool) :
    (h.chainPut hs l d poison).slices.backs = h.slices.backs := by
  unfold Hub.chainPut
  dsimp only
  split
  · simp
  · split <;> simp

@[simp] theorem Hub.chainFill_backs (h : Hub) (hs : Nat) (l : Line) (d : LineBits) (poison : Bool) :
    (h.chainFill hs l d poison).slices.backs = h.slices.backs := by
  unfold Hub.chainFill
  dsimp only
  split <;> simp

@[simp] theorem Hub.chainEnd_backs (h : Hub) (hs : Nat) (l : Line) : (h.chainEnd hs l).slices.backs = h.slices.backs := by
  unfold Hub.chainEnd
  dsimp only
  split
  · rfl
  · split
    · simp
    · split
      · split
        · split <;> simp
        · rfl
      · rfl

@[simp] theorem Hub.refuseWay_backs (h : Hub) (hs : Nat) (f : Fill) : (h.refuseWay hs f).slices.backs = h.slices.backs := by
  unfold Hub.refuseWay
  dsimp only
  split
  · simp
  · split <;> simp

@[simp] theorem Hub.markWay_backs (h : Hub) (hs way : Nat) : (h.markWay hs way).slices.backs = h.slices.backs := by
  simp [Hub.markWay, foldl_backs]

@[simp] theorem Hub.onWb_backs (h : Hub) (hs : Nat) (l : Line) (f : WbLine → WbLine) : (h.onWb hs l f).slices.backs = h.slices.backs := by
  simp [Hub.onWb]

@[simp] theorem Hub.dropWb_backs (h : Hub) (hs : Nat) (l : Line) : (h.dropWb hs l).slices.backs = h.slices.backs := by simp [Hub.dropWb]

@[simp] theorem Hub.wbEnsure_backs (h : Hub) (hs : Nat) (l : Line) (who : Entering) (home : Bool) :
    (h.wbEnsure hs l who home).slices.backs = h.slices.backs := by
  unfold Hub.wbEnsure
  dsimp only
  repeat' split
  all_goals simp

@[simp] theorem Hub.dropIfDown_backs (h : Hub) (hs : Nat) (l : Line) : (h.dropIfDown hs l).slices.backs = h.slices.backs := by
  unfold Hub.dropIfDown
  split <;> simp

@[simp] theorem Hub.staleFills_backs (h : Hub) (hs : Nat) (l : Line) : (h.staleFills hs l).slices.backs = h.slices.backs := by
  unfold Hub.staleFills
  dsimp only
  split <;> simp

@[simp] theorem Hub.enterWb_backs (h : Hub) (hs : Nat) (l : Line) (who : Entering) (home : Bool) (bytes : LineBits) (mask : ByteMask)
    (f : WbLine → WbLine) :
    (h.enterWb hs l who home bytes mask f).slices.backs = h.slices.backs := by
  unfold Hub.enterWb
  dsimp only
  repeat' split
  all_goals simp

@[simp] theorem Hub.enterValue_backs (h : Hub) (hs : Nat) (l : Line) (who : Entering) (home : Bool) (bytes : LineBits) (pois : ByteMask)
    (from_ : Option Gaid) :
    (h.enterValue hs l who home bytes pois from_).slices.backs = h.slices.backs := by simp [Hub.enterValue]

@[simp] theorem Hub.enterBase_backs (h : Hub) (hs : Nat) (l : Line) (bytes : LineBits) (poison : Bool) :
    (h.enterBase hs l bytes poison).slices.backs = h.slices.backs := by simp [Hub.enterBase]

@[simp] theorem Hub.enterWritten_backs (h : Hub) (hs : Nat) (l : Line) (home : Bool) (bytes : LineBits) (mask pois : ByteMask) :
    (h.enterWritten hs l home bytes mask pois).slices.backs = h.slices.backs := by simp [Hub.enterWritten]

@[simp] theorem Hub.poisonMark_backs (h : Hub) (hs : Nat) (l : Line) (home : Bool) : (h.poisonMark hs l home).slices.backs = h.slices.backs := by
  simp [Hub.poisonMark]

@[simp] theorem Hub.clearMasks_backs (h : Hub) (hs : Nat) (l : Line) : (h.clearMasks hs l).slices.backs = h.slices.backs := by simp [Hub.clearMasks]

@[simp] theorem Hub.proxyFlush_rest (h : Hub) (hs : Nat) (l : Line) (becameUnc : Bool) :
    (h.proxyFlush hs l becameUnc).epoch = h.epoch ∧ (h.proxyFlush hs l becameUnc).slices.backs = h.slices.backs := by
  unfold Hub.proxyFlush
  dsimp only
  repeat' split
  all_goals simp

@[simp] theorem Hub.endRsv_backs (h : Hub) (hs : Nat) (tid : Byte) (l : Line) (g : Gaid) (t : Txid) (write : Bool) :
    (h.endRsv hs tid l g t write).slices.backs = h.slices.backs := by simp [Hub.endRsv]

@[simp] theorem Hub.lineLost_backs (h : Hub) (hs : Nat) (t : Txn) (la : La) (case_ : Nat) :
    (h.lineLost hs t la case_).slices.backs = h.slices.backs := by simp [Hub.lineLost]

@[simp] theorem Hub.ownerLost_backs (h : Hub) (hs : Nat) (l : Line) (a : La) : (h.ownerLost hs l a).slices.backs = h.slices.backs := by
  simp [Hub.ownerLost]

@[simp] theorem Hub.endExact_backs (h : Hub) (hs : Nat) (l : Line) (w : Nat) : (h.endExact hs l w).slices.backs = h.slices.backs := by
  simp [Hub.endExact]

@[simp] theorem Hub.atomUnit_backs (h : Hub) (hs : Nat) (t : Txn) (value : LineBits) (poison : Bool) :
    (h.atomUnit hs t value poison).slices.backs = h.slices.backs := by simp [Hub.atomUnit]

@[simp] theorem Hub.baseWritten_backs (h : Hub) (hs : Nat) (t : Txn) : (h.baseWritten hs t).slices.backs = h.slices.backs := by
  unfold Hub.baseWritten
  dsimp only
  repeat' split
  all_goals simp

@[simp] theorem Hub.settleBase_backs (h : Hub) (hs : Nat) (tid : Byte) : (h.settleBase hs tid).slices.backs = h.slices.backs := by
  unfold Hub.settleBase
  split
  · rfl
  · split
    · rfl
    · split
      · simp
      · split <;> simp

@[simp] theorem Hub.release_rest (h : Hub) (hs : Nat) (t : Txn) :
    (h.release hs t).epoch = h.epoch ∧ (h.release hs t).slices.backs = h.slices.backs := by
  unfold Hub.release
  extract_lets g r c src grant outcome marked ended sent noted
  have kept : ended.epoch = h.epoch ∧ ended.slices.backs = h.slices.backs := by
    simp only [ended, marked]
    repeat' split
    all_goals simp
  clear_value ended c
  have gave : sent.epoch = h.epoch ∧ sent.slices.backs = h.slices.backs := by
    simp only [sent]
    cases c with
    | none => split <;> exact kept
    | some c => split <;> simp [kept]
  have told : noted.epoch = h.epoch ∧ noted.slices.backs = h.slices.backs := by
    simp only [noted]
    split <;> simp [gave]
  clear_value noted
  split
  · cases c with
    | none => exact kept
    | some c =>
      obtain ⟨d, fwd, k⟩ := c
      dsimp only
      split <;> simp [kept]
  · simp [told]

@[simp] theorem Hub.serveHub_rest (h : Hub) (hs : Nat) (tid : Byte) :
    (h.serveHub hs tid).epoch = h.epoch ∧ (h.serveHub hs tid).slices.backs = h.slices.backs := by
  unfold Hub.serveHub
  split
  · simp
  · extract_lets g r to_ cmpDue out dropped marked completed a answered released counted
    have unheld : dropped.epoch = h.epoch ∧ dropped.slices.backs = h.slices.backs := by
      simp only [dropped]
      split <;> simp
    have kept : completed.epoch = h.epoch ∧ completed.slices.backs = h.slices.backs := by
      simp only [completed, marked]
      split <;> simp [unheld]
    have told : answered.epoch = h.epoch ∧ answered.slices.backs = h.slices.backs := by
      simp only [answered]
      split <;> simp [kept]
    have given : counted.epoch = h.epoch ∧ counted.slices.backs = h.slices.backs := by simp [counted, released, told]
    clear_value answered counted
    split
    · split
      · split <;> simp [given]
      · exact given
    · exact told

@[simp] theorem Hub.fixEntry_backs (h : Hub) (hs : Nat) (t : Txn) : (h.fixEntry hs t).slices.backs = h.slices.backs := by
  unfold Hub.fixEntry
  dsimp only
  repeat' split
  all_goals simp

@[simp] theorem Hub.closeTxn_rest (h : Hub) (hs : Nat) (t : Txn) (start : Option Nat) :
    (h.closeTxn hs t start).epoch = h.epoch ∧ (h.closeTxn hs t start).slices.backs = h.slices.backs := by
  simp [Hub.closeTxn]

@[simp] theorem Hub.tryClose_rest (h : Hub) (hs : Nat) (tid : Byte) :
    (h.tryClose hs tid).epoch = h.epoch ∧ (h.tryClose hs tid).slices.backs = h.slices.backs := by
  unfold Hub.tryClose
  dsimp only
  repeat' split
  all_goals simp

@[simp] theorem Hub.fillPrep_backs (h : Hub) (hs : Nat) (tid : Byte) : (h.fillPrep hs tid).slices.backs = h.slices.backs := by
  unfold Hub.fillPrep
  dsimp only
  repeat' split
  all_goals simp

@[simp] theorem Hub.trimQueues_backs (h : Hub) (hs : Nat) : (h.trimQueues hs).slices.backs = h.slices.backs := by simp [Hub.trimQueues]

@[simp] theorem Hub.maintInvalidate_backs (h : Hub) (l : Line) : (h.maintInvalidate l).slices.backs = h.slices.backs := by
  simp [Hub.maintInvalidate]

@[simp] theorem Hub.deferReq_rest (h : Hub) (hs : Nat) (r : Req) (n : Nat) (place : Option (Option Line)) :
    (h.deferReq hs r n place).epoch = h.epoch ∧ (h.deferReq hs r n place).slices.backs = h.slices.backs := by
  unfold Hub.deferReq
  dsimp only
  split <;> simp

@[simp] theorem Hub.lapse_backs (h : Hub) (hs : Nat) (p : Ticket → Bool) : (h.lapse hs p).slices.backs = h.slices.backs := by
  simp [Hub.lapse, foldl_backs]

@[simp] theorem Hub.lockedResult_backs (h : Hub) (hs : Nat) (r : MemRead) (t : Txid) (bytes : LineBits) (poison : Bool) :
    (h.lockedResult hs r t bytes poison).slices.backs = h.slices.backs := by simp [Hub.lockedResult]

end Sys2Proof.Machine
end

section
/-!
CERTIFICATE. What the operations of a round leave as it was: all that commits, route changes and commands alone change (R7, R38, R43, R397).
-/
namespace Sys2Proof.Machine
open Sys2Proof.Safety

/-- Two hubs agree on what a round leaves to its own counters, to commands and to commits of a protection table. -/
@[simp] abbrev Hub.sameFixed (h k : Hub) : Prop :=
  k.round = h.round ∧ k.pointer = h.pointer ∧ k.pins = h.pins ∧ k.start = h.start ∧ k.mirror = h.mirror ∧ k.master = h.master ∧
  k.map = h.map ∧ k.waitSnoops = h.waitSnoops ∧ k.epoch = h.epoch ∧ k.prefetchNotes = h.prefetchNotes ∧ k.prot = h.prot

/-- Two hubs agree on the parameters in force and on what a route change gives (R202, R228). -/
@[simp] abbrev Hub.sameRoutes (h k : Hub) : Prop :=
  k.par = h.par ∧ k.routeNew = h.routeNew ∧ k.routeOld = h.routeOld ∧ k.spanEpoch = h.spanEpoch ∧ k.lostHubs = h.lostHubs

/-- Two hubs agree on all this, and on the snoop credits that wait for their return (R43). -/
@[simp] abbrev Hub.sameRound (h k : Hub) : Prop :=
  Hub.sameFixed h k ∧ Hub.sameRoutes h k ∧ k.slices.backs = h.slices.backs

theorem Hub.sameFixed.trans {h k m : Hub} (first : Hub.sameFixed h k) (second : Hub.sameFixed k m) : Hub.sameFixed h m := by
  simp only [Hub.sameFixed] at first second ⊢
  simp only [first, second, and_self]

theorem Hub.sameRoutes.trans {h k m : Hub} (first : Hub.sameRoutes h k) (second : Hub.sameRoutes k m) : Hub.sameRoutes h m := by
  simp only [Hub.sameRoutes] at first second ⊢
  simp only [first, second, and_self]

theorem Hub.sameRound.trans {h k m : Hub} (first : Hub.sameRound h k) (second : Hub.sameRound k m) : Hub.sameRound h m :=
  ⟨first.1.trans second.1, first.2.1.trans second.2.1, second.2.2.trans first.2.2⟩

/-- A fold of operations that leave these parts as they are leaves them as they are. -/
theorem foldl_sameRound {α : Type} (g : Hub → α → Hub) (H : ∀ h x, Hub.sameRound h (g h x)) (l : List α) (h : Hub) :
    Hub.sameRound h (l.foldl g h) := by
  induction l generalizing h with
  | nil => simp
  | cons a t ih => exact Hub.sameRound.trans (H h a) (ih (g h a))

/-! ### Lines, fills and snoops -/

@[simp] theorem Hub.devAdd_sameRound (h : Hub) (r : DevReq) : Hub.sameRound h (h.devAdd r) := by
  simp [Hub.devAdd]

@[simp] theorem Hub.checkLine_sameRound (h : Hub) (hs : Nat) (l : Line) : Hub.sameRound h (h.checkLine hs l) := by
  simp [Hub.checkLine]

@[simp] theorem Hub.fillArrive_sameRound (h : Hub) (hs : Nat) (l : Line) (kind : FillKind) (d : LineBits) (poison : Bool) :
    Hub.sameRound h (h.fillArrive hs l kind d poison) := by
  unfold Hub.fillArrive
  dsimp only
  repeat' split
  all_goals simp

@[simp] theorem Hub.markWays_sameRound (h : Hub) : Hub.sameRound h h.markWays := by
  refine foldl_sameRound _ (fun h e => ?_) _ h
  exact foldl_sameRound _ (fun h w => by simp) _ h

@[simp] theorem Hub.newerData_sameRound (h : Hub) (hs : Nat) (l : Line) (bytes : LineBits) (pois : ByteMask) :
    Hub.sameRound h (h.newerData hs l bytes pois) := by
  simp [Hub.newerData]

@[simp] theorem Hub.snoopOne_sameRound (h : Hub) (hs : Nat) (sn : Snoop) (crit : Bool) (la : La) :
    Hub.sameRound h (h.snoopOne hs sn crit la).1 := by
  unfold Hub.snoopOne
  dsimp only
  repeat' split
  all_goals simp

/-- Snoops are sent to one agent after the other. -/
@[simp] theorem Hub.snoopEach_sameRound (hs : Nat) (sn : Snoop) (crit : Bool) (las : List La) (h : Hub) :
    Hub.sameRound h (Hub.snoopEach hs sn crit las h).1 := by
  induction las generalizing h with
  | nil => simp [Hub.snoopEach]
  | cons la las ih =>
    refine Hub.sameRound.trans (h.snoopOne_sameRound hs sn crit la) ?_
    unfold Hub.snoopEach
    dsimp only
    split <;> exact ih _

@[simp] theorem Hub.multicast_sameRound (h : Hub) (hs : Nat) (las : List La) : Hub.sameRound h (h.multicast hs las) := by
  unfold Hub.multicast
  dsimp only
  split
  · simp
  · exact Hub.sameRound.trans (by simp) (foldl_sameRound _ (fun h q => by simp) _ _)

@[simp] theorem Hub.snoopAll_sameRound (hs : Nat) (sn : Snoop) (crit : Bool) (las : List La) (h : Hub) :
    Hub.sameRound h (Hub.snoopAll hs sn crit las h).1 :=
  Hub.sameRound.trans (Hub.snoopEach_sameRound hs sn crit las h) (Hub.multicast_sameRound _ hs las)

/-! ### The gate, sweeps and back-invalidations (R93, R94, R211) -/

@[simp] theorem Hub.rebuild_sameRound (h : Hub) (hs : Nat) (t : Txn) : Hub.sameRound h (h.rebuild hs t) := by
  unfold Hub.rebuild
  split
  · simp
  · next w _ =>
    extract_lets l exact_ swept raised left base v put
    split
    · simp [swept]
    · have ended : Hub.sameRound h left := by
        refine Hub.sameRound.trans (k := raised) ?_ (foldl_sameRound _ (fun h k => ?_) _ _)
        · simp only [raised]
          split <;> simp
        · split <;> simp
      exact ended.trans (by simp [put])

@[simp] theorem Hub.judge_sameRound (h : Hub) (hs : Nat) (tid : Byte) : Hub.sameRound h (h.judge hs tid) := by
  unfold Hub.judge
  split
  · simp
  · extract_lets g isDeg keeps alone marked lost ended
    have marks : Hub.sameRound h marked := by simp [marked]
    have losses : Hub.sameRound marked lost := by
      simp only [lost]
      split <;> simp
    have ends : Hub.sameRound lost ended := by
      simp only [ended]
      split <;> simp
    clear_value ended isDeg
    split
    · simp
    · refine marks.trans (losses.trans (ends.trans ?_))
      split <;> simp

@[simp] theorem Hub.rebuildHub_sameRound (h : Hub) (hs : Nat) (tid : Byte) : Hub.sameRound h (h.rebuildHub hs tid) := by
  unfold Hub.rebuildHub
  split
  · simp
  · split
    · simp
    · split
      · simp
      · extract_lets l sharers e keep left
        have ended : Hub.sameRound h left := foldl_sameRound _ (fun h w => by split <;> simp) _ h
        exact ended.trans (by simp)

@[simp] theorem Hub.settle_sameRound (h : Hub) (hs : Nat) (tid : Byte) : Hub.sameRound h (h.settle hs tid) := by
  unfold Hub.settle
  extract_lets based released
  have judged : Hub.sameRound h based := by simp [based]
  have given : Hub.sameRound based released := by
    simp only [released]
    repeat' split
    all_goals simp
  exact judged.trans (given.trans (by simp))

@[simp] theorem Hub.endSweeps_sameRound (h : Hub) (hs : Nat) : Hub.sameRound h (h.endSweeps hs) := by
  refine foldl_sameRound _ (fun h x => ?_) _ h
  dsimp only
  split <;> simp

@[simp] theorem Hub.finishBack_sameRound (h : Hub) (hs : Nat) (b : BackInv) : Hub.sameRound h (h.finishBack hs b) := by
  unfold Hub.finishBack
  extract_lets l home lost ended entered woken flushed
  have raised : Hub.sameRound h lost := by
    simp only [lost]
    split <;> simp
  have answered : Hub.sameRound lost ended := by simp [ended]
  have cleared : Hub.sameRound ended entered := by
    simp only [entered]
    repeat' split
    all_goals simp
  have next : Hub.sameRound entered woken := by simp [woken]
  have sent : Hub.sameRound woken flushed := by
    simp only [flushed]
    repeat' split
    all_goals simp
  exact raised.trans (answered.trans (cleared.trans (next.trans (sent.trans (by simp)))))

@[simp] theorem Hub.tryBack_sameRound (h : Hub) (hs : Nat) (l : Line) : Hub.sameRound h (h.tryBack hs l) := by
  unfold Hub.tryBack
  split
  · split <;> simp
  · simp

@[simp] theorem Hub.backAnswer_sameRound (h : Hub) (hs : Nat) (idx : BitVec 2) (l : Line) (a : Answer) (d : Option (LineBits × ByteMask)) :
    Hub.sameRound h (h.backAnswer hs idx l a d) := by
  unfold Hub.backAnswer
  dsimp only
  repeat' split
  all_goals simp

@[simp] theorem Hub.startBack_sameRound (h : Hub) (hs : Nat) (idx : BitVec 2) (kind : BackKind) (l : Line) (v : SView) :
    Hub.sameRound h (h.startBack hs idx kind l v) := by
  unfold Hub.startBack
  extract_lets t b entered ls g x sn r
  have snooped : Hub.sameRound h r.1 := by simp [r, entered]
  have answered : Hub.sameRound r.1 (r.2.foldl (fun h a => h.backAnswer hs idx l a none) r.1) := foldl_sameRound _ (fun h a => by simp) _ _
  exact snooped.trans (answered.trans (by simp))

@[simp] theorem Hub.backHub_sameRound (h : Hub) (hs : Nat) (l : Line) (from_ : HubNo) (d : Option Payload) :
    Hub.sameRound h (h.backHub hs l from_ d) := by
  unfold Hub.backHub
  dsimp only
  repeat' split
  all_goals simp

@[simp] theorem Hub.endWhere_sameRound (h : Hub) (p : Long → Bool) (code : Byte) : Hub.sameRound h (h.endWhere p code) := by
  refine foldl_sameRound _ (fun h n => ?_) _ h
  repeat' split
  all_goals simp

/-! ### Arbitration (R36, R40, R46, R47) -/

@[simp] theorem Hub.chainCopy_sameRound (h : Hub) (hs : Nat) (l : Line) : Hub.sameRound h (h.chainCopy hs l) := by
  unfold Hub.chainCopy
  dsimp only
  repeat' split
  all_goals simp

@[simp] theorem Hub.issueTicket_sameRound (h : Hub) (hs : Nat) (r : Req) (n t span g : Nat) : Hub.sameRound h (h.issueTicket hs r n t span g) := by
  unfold Hub.issueTicket
  extract_lets s l home first way free claim tk entered counted copied
  have ticketed : Hub.sameRound h entered := by
    simp only [entered]
    cases free <;> simp
  have checked : Hub.sameRound entered counted := by simp [counted]
  have filled : Hub.sameRound counted copied := by
    simp only [copied]
    split <;> simp
  refine ticketed.trans (checked.trans (filled.trans ?_))
  split <;> simp

@[simp] theorem Hub.sampled_slices (h : Hub) (r : Req) : (h.sampled r).2.slices = h.slices := by
  unfold Hub.sampled
  dsimp only
  split <;> rfl

@[simp] theorem Hub.sampled_sameRound (h : Hub) (r : Req) : Hub.sameRound h (h.sampled r).2 := by
  unfold Hub.sampled
  dsimp only
  split <;> simp

@[simp] theorem Hub.take_sameRound (h : Hub) (hs : Nat) (r : Req) (n span : Nat) (rep : Bool) : Hub.sameRound h (h.take hs r n span rep) := by
  unfold Hub.take
  extract_lets s l home open_ tid fewer ended way reserved found held ports phase smp t taken entered told counted
  have kept : ended.snpBack = s.snpBack := by simp [ended, fewer]
  have ways : reserved.snpBack = s.snpBack := by
    rw [← kept]
    simp only [reserved]
    clear_value ended way
    cases way with
    | some _ => rfl
    | none =>
      dsimp only
      split <;> simp
  have placed : taken.snpBack = (smp.2.slice hs).snpBack := by
    have same : smp.2.slice hs = s := Hub.slice_congr _ _ hs (h.sampled_slices r)
    rw [same, ← ways]
    exact reserved.holdHWay_snpBack r
  have sampled : Hub.sameRound h smp.2 := h.sampled_sameRound r
  have opened : Hub.sameRound smp.2 entered := by
    clear_value taken smp
    simp [entered, placed]
  exact sampled.trans (opened.trans (by simp [told, counted]))

@[simp] theorem Hub.ticketOr_sameRound (h : Hub) (hs : Nat) (r : Req) (n : Nat) : Hub.sameRound h (h.ticketOr hs r n) := by
  unfold Hub.ticketOr
  extract_lets s l home behind g span needRead byRead setFail bySet byHub counted woken
  have failed : Hub.sameRound h counted := by
    simp only [counted]
    split <;> simp
  have asked : Hub.sameRound counted woken := by
    simp only [woken]
    repeat' split
    all_goals simp
  refine failed.trans (asked.trans ?_)
  clear_value woken bySet byHub
  split
  · split
    · simp
    · split <;> simp
  · simp

theorem recall_sameRound {h k : Hub} {hs n : Nat} {l : Line} (recalled : h.recall hs l n = some k) : Hub.sameRound h k := by
  unfold Hub.recall at recalled
  dsimp only at recalled
  split at recalled
  · cases recalled
    simp
  · split at recalled
    · cases recalled
      simp
    · cases recalled

@[simp] theorem Hub.refuse_sameRound (h : Hub) (hs : Nat) (r : Req) (n : Nat) : Hub.sameRound h (h.refuse hs r n) := by
  unfold Hub.refuse
  split
  · split
    · next recalled => exact (recall_sameRound recalled).trans (by simp)
    · simp
  · simp

@[simp] theorem Hub.judgeNew_sameRound (h : Hub) (hs : Nat) (r : Req) (n : Nat) : Hub.sameRound h (h.judgeNew hs r n) := by
  unfold Hub.judgeNew
  extract_lets lapsed span waiting
  have gone : Hub.sameRound h lapsed := by simp [lapsed]
  clear_value lapsed waiting
  refine gone.trans ?_
  split
  · simp
  · split
    · simp
    · split
      · simp
      · split <;> simp

@[simp] theorem Hub.arbitrateOne_sameRound (h : Hub) (hs n : Nat) (p : Pres) : Hub.sameRound h (h.arbitrateOne hs n p) := by
  unfold Hub.arbitrateOne
  split
  · simp
  · split <;> simp

@[simp] theorem Hub.arbitrate_sameRound (h : Hub) (n hs : Nat) : Hub.sameRound h (h.arbitrate n hs) := by
  exact Hub.sameRound.trans (by simp) (foldl_sameRound _ (fun h p => by simp) _ _)

/-! ### Data of reads (R290, R291, R338) -/

@[simp] theorem Hub.fillFrom_sameRound (h : Hub) (hs : Nat) (r : MemRead) (kind : FillKind) (bytes : LineBits) (poison own : Bool) :
    Hub.sameRound h (h.fillFrom hs r kind bytes poison own) := by
  unfold Hub.fillFrom
  repeat' split
  all_goals simp

@[simp] theorem Hub.lockTake_sameRound (h : Hub) (hs : Nat) (f : Fill) (w : BitVec 4) : Hub.sameRound h (h.lockTake hs f w) := by
  unfold Hub.lockTake
  dsimp only
  repeat' split
  all_goals simp

@[simp] theorem Hub.lockArrive_sameRound (h : Hub) (hs : Nat) (l : Line) (w : BitVec 4) (mb : BitVec 3) (bytes : LineBits) (poison : Bool) :
    Hub.sameRound h (h.lockArrive hs l w mb bytes poison) := by
  unfold Hub.lockArrive
  dsimp only
  repeat' split
  all_goals simp

@[simp] theorem Hub.lockedDone_sameRound (h : Hub) (hs : Nat) (r : MemRead) (q : Req) (d : Payload) (own : Bool) :
    Hub.sameRound h (h.lockedDone hs r q d own) := by
  unfold Hub.lockedDone
  extract_lets raised new tagged sent locked filled old
  have raises : Hub.sameRound h raised := by
    simp only [raised]
    split <;> simp
  have writes : Hub.sameRound raised locked := by simp [locked, sent, tagged]
  have fills : Hub.sameRound locked filled := by simp [filled]
  refine raises.trans (writes.trans (fills.trans ?_))
  split <;> simp

@[simp] theorem Hub.orphanBase_sameRound (h : Hub) (hs : Nat) (l : Line) (d : Payload) : Hub.sameRound h (h.orphanBase hs l d) := by
  unfold Hub.orphanBase
  split
  · simp
  · split
    · simp
    · dsimp only
      split <;> simp

@[simp] theorem Hub.orphanRead_sameRound (h : Hub) (hs : Nat) (r : MemRead) (d : Payload) (own : Bool) :
    Hub.sameRound h (h.orphanRead hs r d own) := by
  unfold Hub.orphanRead
  dsimp only
  split
  · simp
  · split <;> simp

@[simp] theorem Hub.txnRead_sameRound (h : Hub) (hs : Nat) (r : MemRead) (tid : Byte) (d : Payload) (own : Bool) :
    Hub.sameRound h (h.txnRead hs r tid d own) := by
  unfold Hub.txnRead
  split
  · simp
  · extract_lets marked settled
    have settles : Hub.sameRound h settled := by simp [settled, marked]
    refine settles.trans ?_
    clear_value settled
    split
    · split <;> simp
    · split
      · split
        · split <;> simp
        · split <;> simp
      · simp

@[simp] theorem Hub.readDone_sameRound (h : Hub) (r : MemRead) (d : Payload) (own : Bool) : Hub.sameRound h (h.readDone r d own) := by
  unfold Hub.readDone
  extract_lets hs moved
  have moves : Hub.sameRound h moved := by simp [moved]
  refine moves.trans ?_
  split
  · simp
  · split
    · simp
    · simp
    · simp
    · split <;> simp
    · split <;> simp
    · split <;> simp

@[simp] theorem Hub.flushHeld_sameRound (h : Hub) : Hub.sameRound h h.flushHeld := by
  refine foldl_sameRound _ (fun h r => ?_) _ h
  split <;> simp

/-! ### Power and grants (R319, R320) -/

@[simp] theorem Hub.addChange_sameRound (h : Hub) (di first len : Nat) (hub : Bool) : Hub.sameRound h (h.addChange di first len hub) := by
  simp [Hub.addChange]

@[simp] theorem Hub.pruneChanges_sameRound (h : Hub) : Hub.sameRound h h.pruneChanges := by
  simp [Hub.pruneChanges]

@[simp] theorem Hub.wakeServed_sameRound (h : Hub) (d : Domain) : Hub.sameRound h (h.wakeServed d) := by
  simp [Hub.wakeServed]

@[simp] theorem Hub.placeWake_sameRound (h : Hub) (d : Domain) : Hub.sameRound h (h.placeWake d) := by
  unfold Hub.placeWake
  dsimp only
  repeat' split
  all_goals simp

@[simp] theorem Hub.placeWakes_sameRound (h : Hub) : Hub.sameRound h h.placeWakes :=
  foldl_sameRound _ (fun h x => by simp) _ h

@[simp] theorem Hub.tellGrants_sameRound (h : Hub) : Hub.sameRound h h.tellGrants := by
  refine foldl_sameRound _ (fun h e => ?_) _ h
  dsimp only
  split
  · split <;> simp
  · simp

theorem placeGrant_sameRound {h k : Hub} {p : BitVec 4} {op : Nat} {lowered : Bool} (placed : h.placeGrant p op lowered = some k) :
    Hub.sameRound h k := by
  unfold Hub.placeGrant at placed
  dsimp only at placed
  split at placed
  · cases placed
  · split at placed
    · cases placed
    · cases placed
      split <;> simp

theorem placeWaiting_sameRound (h : Hub) (l : List (BitVec 4 × Nat × Bool)) : Hub.sameRound h (h.placeWaiting l) := by
  induction l generalizing h with
  | nil => simp [Hub.placeWaiting]
  | cons w t ih =>
    unfold Hub.placeWaiting
    split
    · next placed => exact (placeGrant_sameRound placed).trans (ih _)
    · exact Hub.sameRound.trans (by simp) (ih _)

@[simp] theorem Hub.runGrants_sameRound (h : Hub) : Hub.sameRound h h.runGrants := by
  unfold Hub.runGrants
  split
  · simp
  · have placed := placeWaiting_sameRound { h with power := { h.power with waiting := [] } } h.power.waiting
    exact Hub.sameRound.trans placed (Hub.tellGrants_sameRound _)

@[simp] theorem Hub.startDown_sameRound (h : Hub) (d : Domain) : Hub.sameRound h (h.startDown d) := by
  unfold Hub.startDown
  dsimp only
  repeat' split
  all_goals simp

/-! ### Hubs that are unreachable (R228) -/

@[simp] theorem Hub.holderAnswer_sameRound (h : Hub) (hs : Nat) (tid : Byte) (fwd : Bool) : Hub.sameRound h (h.holderAnswer hs tid fwd) := by
  simp [Hub.holderAnswer]

@[simp] theorem Hub.homeCopyIn_sameRound (h : Hub) (hs : Nat) (t : Txn) (x : HubNo) (kept : BitVec 2) (d : Option Payload) :
    Hub.sameRound h (h.homeCopyIn hs t x kept d) := by
  unfold Hub.homeCopyIn
  split <;> simp

@[simp] theorem Hub.answerFor_sameRound (h : Hub) (hs : Nat) (t : Txn) : Hub.sameRound h (h.answerFor hs t) := by
  unfold Hub.answerFor
  split <;> simp

@[simp] theorem Hub.smgtAll_sameRound (h : Hub) (code : BitVec 8) (arg : Word) : Hub.sameRound h (h.smgtAll code arg) :=
  foldl_sameRound _ (fun h x => by simp) _ h

@[simp] theorem Hub.skipHub_sameRound (h : Hub) (x : HubNo) (hs : Nat) : Hub.sameRound h (h.skipHub x hs) := by
  exact Hub.sameRound.trans (foldl_sameRound _ (fun h t => by simp) _ h) (foldl_sameRound _ (fun h b => by simp) _ _)

@[simp] theorem Hub.visitHubWay_sameRound (h : Hub) (hs : Nat) (x : HubNo) (set : BitVec 12) (way : Nat) :
    Hub.sameRound h (h.visitHubWay hs x set way) := by
  unfold Hub.visitHubWay
  dsimp only
  repeat' split
  all_goals simp

theorem startLost_sameRound (hs : Nat) (lines : List (Line × SView)) (h : Hub) : Hub.sameRound h (Hub.startLost hs lines h) := by
  induction lines generalizing h with
  | nil => simp [Hub.startLost]
  | cons e lines ih =>
    unfold Hub.startLost
    split
    · split
      · exact ih h
      · exact Hub.sameRound.trans (by simp) (ih _)
    · simp

@[simp] theorem Hub.walkHub_sameRound (h : Hub) (x : HubNo) (hs : Nat) : Hub.sameRound h (h.walkHub x hs) := by
  unfold Hub.walkHub
  extract_lets visited lines started done
  have walked : Hub.sameRound h visited := foldl_sameRound _ (fun h e => by simp) _ h
  have lost : Hub.sameRound visited started := by
    simp only [started]
    split
    · simp
    · exact startLost_sameRound hs lines visited
  refine walked.trans (lost.trans ?_)
  split <;> simp

@[simp] theorem Hub.walkHubs_sameRound (h : Hub) : Hub.sameRound h h.walkHubs := by
  refine foldl_sameRound _ (fun h hs => ?_) _ h
  exact foldl_sameRound _ (fun h x => by simp) _ h

@[simp] theorem Hub.endLost_sameRound (h : Hub) (hs : Nat) (t : Txn) : Hub.sameRound h (h.endLost hs t) := by
  simp [Hub.endLost]

@[simp] theorem Hub.dropHome_sameRound (h : Hub) (x : HubNo) : Hub.sameRound h (h.dropHome x) := by
  unfold Hub.dropHome
  extract_lets swept dropped mine
  have ended : Hub.sameRound h swept := by
    refine foldl_sameRound _ (fun h hs => ?_) _ h
    extract_lets mine lost
    have gone : Hub.sameRound h lost := foldl_sameRound _ (fun h t => by simp) _ h
    exact gone.trans (by simp)
  have cleared : Hub.sameRound swept dropped := by simp [dropped]
  exact ended.trans (cleared.trans (foldl_sameRound _ (fun h r => by simp) _ _))

/-! ### Notices, arbiters and counters (R38, R322, R455) -/

@[simp] theorem Hub.noteBusy_sameRound (h : Hub) (c first last : Nat) : Hub.sameRound h (h.noteBusy c first last) := by
  simp [Hub.noteBusy]

@[simp] theorem Hub.applyNotice_sameRound (h : Hub) (n : Notice) : Hub.sameRound h (h.applyNotice n) := by
  cases n <;> simp [Hub.applyNotice]

@[simp] theorem Hub.applyNotices_sameRound (h : Hub) : Hub.sameRound h h.applyNotices := by
  unfold Hub.applyNotices
  extract_lets applied keep
  have heard : Hub.sameRound { h with notices := [] } applied := foldl_sameRound _ (fun h n => by simp) _ _
  exact Hub.sameRound.trans (k := applied) heard (by simp)

@[simp] theorem Hub.runArb_sameRound (h : Hub) (key pid : Nat) (asks costs : List Nat) (cap : Nat) :
    Hub.sameRound h (h.runArb key pid asks costs cap) := by
  unfold Hub.runArb
  dsimp only
  split <;> simp

@[simp] theorem Hub.runEgress_sameRound (h : Hub) (hs : Nat) : Hub.sameRound h (h.runEgress hs) := by
  simp [Hub.runEgress]

@[simp] theorem Hub.runMemPort_sameRound (h : Hub) (mp : Nat) : Hub.sameRound h (h.runMemPort mp) := by
  unfold Hub.runMemPort
  dsimp only
  split <;> simp

@[simp] theorem Hub.runSpanPort_sameRound (h : Hub) (n : Nat) : Hub.sameRound h (h.runSpanPort n) := by
  simp [Hub.runSpanPort]

@[simp] theorem Hub.runArbiters_sameRound (h : Hub) : Hub.sameRound h h.runArbiters := by
  exact Hub.sameRound.trans (foldl_sameRound _ (fun h hs => by simp) _ h)
    (Hub.sameRound.trans (foldl_sameRound _ (fun h mp => by simp) _ _) (foldl_sameRound _ (fun h n => by simp) _ _))

@[simp] theorem Hub.advance_sameRound (h : Hub) (c carry : Nat) : Hub.sameRound h (h.advance c carry).1 := by
  unfold Hub.advance
  dsimp only
  repeat' split
  all_goals simp

/-- Counters advance one by one, each with its lower neighbour's carry. -/
theorem foldl_advance_sameRound (cs : List Nat) (k : Hub × Nat × Nat) : Hub.sameRound k.1 (cs.foldl (fun (k : Hub × Nat × Nat) c =>
    let r := k.1.advance c (if k.2.1 + 1 = c then k.2.2 else 0)
    (r.1, c, r.2)) k).1 := by
  induction cs generalizing k with
  | nil => simp
  | cons c cs ih => exact Hub.sameRound.trans (k.1.advance_sameRound c _) (ih _)

@[simp] theorem Hub.runCounters_sameRound (h : Hub) : Hub.sameRound h h.runCounters := by
  unfold Hub.runCounters
  split
  · simp
  · exact Hub.sameRound.trans (foldl_advance_sameRound h.counters (h, 0, 0)) (by simp)

@[simp] theorem Hub.unpinMaint_sameRound (h : Hub) (n : BitVec 3) : Hub.sameRound h (h.unpinMaint n) := by
  unfold Hub.unpinMaint
  split
  · split
    · next b _ op first last set waitW pins _ =>
      dsimp only
      split
      · simp
      · have freed := foldl_sameRound (fun (h : Hub) l => h.maintInvalidate l) (fun h l => by simp) (pins.filter fun l => !h.chainPins l) h
        exact freed.trans (by simp)
    · simp
  · simp

@[simp] theorem Hub.reportStalls_sameRound (h : Hub) : Hub.sameRound h h.reportStalls := by
  refine foldl_sameRound _ (fun h p => ?_) _ h
  split <;> simp

@[simp] theorem Hub.countPauses_sameRound (h : Hub) : Hub.sameRound h h.countPauses := by
  refine foldl_sameRound _ (fun h c => ?_) _ h
  split <;> simp

@[simp] theorem Hub.spanDown_sameRound (h : Hub) (n : BitVec 3) : Hub.sameRound h (h.spanDown n) := by
  simp [Hub.spanDown]

@[simp] theorem Hub.resendWaits_sameRound (h : Hub) (n : BitVec 3) : Hub.sameRound h (h.resendWaits n) := by
  unfold Hub.resendWaits
  split
  · simp
  · refine Hub.sameRound.trans (by simp) (foldl_sameRound _ (fun h m => ?_) _ _)
    split <;> simp

@[simp] theorem Hub.routeDomain_sameRound (h : Hub) (was : Bool) (n : BitVec 3) : Hub.sameRound h (h.routeDomain was n) := by
  unfold Hub.routeDomain
  dsimp only
  repeat' split
  all_goals simp

@[simp] theorem Hub.sendFrames_sameRound (h : Hub) : Hub.sameRound h h.sendFrames := by
  simp [Hub.sendFrames]

@[simp] theorem Hub.sleepSpans_sameRound (h : Hub) : Hub.sameRound h h.sleepSpans := by
  refine foldl_sameRound _ (fun h n => ?_) _ h
  dsimp only
  split <;> simp

end Sys2Proof.Machine
end

section
/-!
CERTIFICATE. The round boundary (R7, R38, R43), the change of routes (R202, R228) and commits at their round C (R397).
-/
namespace Sys2Proof.Machine
open Sys2Proof.Safety

/-! ### A route change -/

@[simp] theorem Hub.loseHub_sameFixed (h : Hub) (x : HubNo) : Hub.sameFixed h (h.loseHub x) ∧ (h.loseHub x).slices.backs = h.slices.backs := by
  unfold Hub.loseHub
  split
  · simp
  · extract_lets left skipped dropped walking
    have skips : Hub.sameRound left skipped := foldl_sameRound _ (fun h hs => by simp) _ left
    have walks : Hub.sameRound dropped walking := foldl_sameRound _ (fun h hs => by simp) _ dropped
    have whole : Hub.sameRound left walking.walkHubs := skips.trans (Hub.sameRound.trans (by simp [dropped]) (walks.trans (by simp)))
    exact ⟨whole.1, whole.2.2⟩

@[simp] theorem Hub.declareLost_sameFixed (h : Hub) (x : HubNo) :
    Hub.sameFixed h (h.declareLost x) ∧ (h.declareLost x).slices.backs = h.slices.backs := by
  unfold Hub.declareLost
  split <;> simp

/-- A fold of operations that a route change may hold. -/
theorem foldl_sameFixed {α : Type} (g : Hub → α → Hub) (H : ∀ h x, Hub.sameFixed h (g h x) ∧ (g h x).slices.backs = h.slices.backs)
    (l : List α) (h : Hub) : Hub.sameFixed h (l.foldl g h) ∧ (l.foldl g h).slices.backs = h.slices.backs := by
  induction l generalizing h with
  | nil => simp
  | cons a t ih => exact ⟨(H h a).1.trans (ih (g h a)).1, (ih (g h a)).2.trans (H h a).2⟩

@[simp] theorem Hub.flipRoutes_sameFixed (h : Hub) (words : Tbl Word) :
    Hub.sameFixed h (h.flipRoutes words) ∧ (h.flipRoutes words).slices.backs = h.slices.backs := by
  unfold Hub.flipRoutes
  extract_lets before acked old ports was flipped downed lost sent
  have downs : Hub.sameRound flipped downed := foldl_sameRound _ (fun h n => by split <;> simp) _ flipped
  have loses := foldl_sameFixed (fun (h : Hub) x => h.declareLost x) (fun h x => by simp) (before.filter fun x => !downed.reachable x) downed
  have sends : Hub.sameRound lost sent := foldl_sameRound _ (fun h n => (h.resendWaits_sameRound n).trans (by simp)) _ lost
  have flips : Hub.sameFixed h flipped ∧ flipped.slices.backs = h.slices.backs := by simp [flipped]
  have whole : Hub.sameFixed h sent ∧ sent.slices.backs = h.slices.backs :=
    ⟨flips.1.trans (downs.1.trans (loses.1.trans sends.1)), sends.2.2.trans (loses.2.trans (downs.2.2.trans flips.2))⟩
  clear_value sent
  exact whole

@[simp] theorem Hub.tryRoutes_sameFixed (h : Hub) : Hub.sameFixed h h.tryRoutes ∧ h.tryRoutes.slices.backs = h.slices.backs := by
  unfold Hub.tryRoutes
  split
  · simp
  · dsimp only
    split <;> simp

/-- With no route change loaded nothing comes into force. -/
theorem Hub.tryRoutes_none (h : Hub) (unloaded : h.routeNew = none) : h.tryRoutes = h := by rw [Hub.tryRoutes, unloaded]

/-! ### Snoop credits return (R43) -/

theorem Tbl.mem_of_look {α : Type} {i : Nat} {x : α} : ∀ {t : Tbl α}, t.look i = some x → (i, x) ∈ t
  | (k, v) :: t, found => by
    rw [Tbl.look] at found
    split at found
    · next here => cases found; rw [here]; exact List.mem_cons_self
    · exact List.mem_cons_of_mem _ (Tbl.mem_of_look found)

theorem foldl_offer_backs (keys : List Nat) (h : Hub) (n : Nat) :
    ((keys.foldl (fun h hs => h.onSlice hs Slice.offerSnoops) h).slice n).snpBack = if n ∈ keys then [] else (h.slice n).snpBack := by
  induction keys generalizing h with
  | nil => rfl
  | cons k keys ih =>
    rw [List.foldl_cons, ih, Hub.slice_onSlice]
    by_cases later : n ∈ keys
    · simp [later]
    · by_cases here : n = k
      · simp [here, Slice.offerSnoops]
      · simp [later, here]

/-- No lookup's credits are held back any longer. -/
theorem offerSnoops_backs (h : Hub) (n : Nat) : h.offerSnoops.slices.backs n = [] := by
  refine (foldl_offer_backs _ h n).trans ?_
  split
  · rfl
  · next none_ =>
    rw [Hub.slice, Tbl.getD]
    cases found : h.slices.look n with
    | none => rfl
    | some s =>
      by_contra held
      refine none_ (List.mem_map.mpr ⟨(n, s), List.mem_filter.mpr ⟨Tbl.mem_of_look found, ?_⟩, rfl⟩)
      simpa using held

theorem offerSnoops_keeps (h : Hub) : Hub.sameFixed h h.offerSnoops ∧ Hub.sameRoutes h h.offerSnoops := by
  unfold Hub.offerSnoops
  generalize (h.slices.filter fun e => !e.2.snpBack.isEmpty).map (fun e => e.1) = keys
  induction keys generalizing h with
  | nil => simp
  | cons k keys ih => exact ⟨Hub.sameFixed.trans (by simp) (ih _).1, Hub.sameRoutes.trans (by simp) (ih _).2⟩

/-! ### Commits at their round C (R397) -/

/-- The round's start: the next round, whose slices apply what was told them in the round before (R38). -/
def Hub.begun (h : Hub) : Hub := ({ h with round := h.round + 1 }).applyNotices

theorem begun_sameRound (h : Hub) : Hub.sameRound { h with round := h.round + 1 } h.begun := Hub.applyNotices_sameRound _

theorem applyNotice_rest (h : Hub) (n : Notice) : (h.applyNotice n).core = h.core ∧ (h.applyNotice n).mps = h.mps := by
  cases n <;> simp [Hub.applyNotice, Hub.noteBusy]

theorem begun_core (h : Hub) : h.begun.core = h.core := foldl_same (·.core) _ (fun h n => (applyNotice_rest h n).1) h.notices _
theorem begun_mps (h : Hub) : h.begun.mps = h.mps := foldl_same (·.mps) _ (fun h n => (applyNotice_rest h n).2) h.notices _

theorem putForce_form (t : Tbl Word) (h : Hub) : ∃ par, h.putForce t = { h with par := par } := by
  induction t generalizing h with
  | nil => exact ⟨h.par, rfl⟩
  | cons e t ih =>
    unfold Hub.putForce
    split
    · exact ih _
    · exact ih h

/-- A commit that is due changes the protection tables or the parameters in force. -/
theorem forceDue_form (h : Hub) : ∃ par prot, h.forceDue = { h with
    par := par
    prot := prot } := by
  unfold Hub.forceDue
  split
  · exact ⟨h.par, h.prot, rfl⟩
  · split
    · exact ⟨h.par, h.prot, rfl⟩
    · split
      · exact ⟨h.par, h.prot, rfl⟩
      · split
        · exact ⟨h.par, _, rfl⟩
        · obtain ⟨par, form⟩ := putForce_form ((stagedWords _).filter fun e => !Param.acts e.1) h
          exact ⟨par, h.prot, form⟩

theorem forceDue_idle (h : Hub) (none_ : h.core.commits = []) : h.forceDue = h := by rw [Hub.forceDue, none_]

theorem forceDue_early (h : Hub) (c : Commit) (k : Nat) (front : h.core.commits = [c]) (due : c.c = some k) (early : h.round < k) :
    h.forceDue = h := by
  simp only [Hub.forceDue, front, due, if_pos early]

/-- At its round C a commit of tables puts its set in force. -/
theorem forceDue_prot (h : Hub) (c : Commit) (k : Nat) (front : h.core.commits = [c]) (due : c.c = some k) (late : k ≤ h.round)
    (tables : c.prot = true) : h.forceDue = { h with prot := h.prot.with c.tabs } := by
  simp only [Hub.forceDue, front, due, if_neg (Nat.not_lt.mpr late), tables, if_true]

/-- At its round C a commit of one parameter, whose effect is its value alone, puts the value in force. -/
theorem forceDue_value (h : Hub) (c : Commit) (y : StageItem) (k : Nat) (front : h.core.commits = [c]) (due : c.c = some k)
    (late : k ≤ h.round) (param : c.prot = false) (items : c.items = [y]) (low : y.hi = false) (plain : Param.acts y.pid.toNat = false)
    (now : h.inForce y.pid.toNat y.val = some y.val) : h.forceDue = { h with par := h.par.put y.pid.toNat y.val } := by
  simp [Hub.forceDue, front, due, Nat.not_lt.mpr late, param, items, low, plain, stagedWords, Tbl.put, Hub.putForce, now]

/-- Whether a value is in force at once depends on the memory ports and the parameters in force. -/
theorem inForce_congr {h k : Hub} (mps : k.mps = h.mps) (par : k.par = h.par) (p : Nat) (w : Word) : k.inForce p w = h.inForce p w := by
  simp only [Hub.inForce, Hub.mp, Hub.pw, mps, par]
  rfl

/-! ### A round -/

/-- What a round `n` does once its commits are in force: arbitration, the snoops of the last round's lookups, and the work of the round. -/
def Hub.worked (h : Hub) (n : Nat) : Hub :=
  let h := h.reportStalls.markWays
  let h := if h.start.phase == .serving then (h.servingSlices.filter fun hs => h.mayArbitrate hs).foldl (fun h hs => h.arbitrate n hs) h else h
  let h := { h.offerSnoops with pointer := h.pointer + 1 }
  let h := (h.walkHubs.tryRoutes.runArbiters.pruneChanges.sleepSpans.placeWakes.runGrants.countPauses).flushHeld
  let h := ((upTo 8).map (BitVec.ofNat 3)).foldl (fun h k => h.unpinMaint k) h
  h.sendFrames.runCounters

theorem tick_eq (h : Hub) : h.tick = h.begun.forceDue.worked (h.round + 1) := by
  unfold Hub.begun
  rfl

/-- After its commit, a round leaves what only commands, route changes and its own counters change, and returns the snoop credits. -/
theorem worked_frame (h : Hub) (n : Nat) :
    Hub.sameFixed { h with pointer := h.pointer + 1 } (h.worked n) ∧ (h.routeNew = none → Hub.sameRoutes h (h.worked n)) ∧
    ∀ m, (h.worked n).slices.backs m = [] := by
  unfold Hub.worked
  extract_lets stalled arbitrated returned offered walked unpinned
  have stalls : Hub.sameRound h stalled := by simp [stalled]
  have arbitrates : Hub.sameRound stalled arbitrated := by
    simp only [arbitrated]
    split
    · exact foldl_sameRound _ (fun h hs => by simp) _ stalled
    · simp
  have begins : Hub.sameRound h arbitrated := stalls.trans arbitrates
  have returns : Hub.sameFixed arbitrated returned ∧ Hub.sameRoutes arbitrated returned := offerSnoops_keeps arbitrated
  have empty : ∀ m, returned.slices.backs m = [] := offerSnoops_backs arbitrated
  have walks : Hub.sameRound offered offered.walkHubs := Hub.walkHubs_sameRound _
  have routed := offered.walkHubs.tryRoutes_sameFixed
  have unrouted := offered.walkHubs.tryRoutes_none
  have rounds : Hub.sameRound offered.walkHubs.tryRoutes walked := by simp [walked]
  have unpins : Hub.sameRound walked unpinned := foldl_sameRound _ (fun h k => by simp) _ walked
  have ends : Hub.sameRound offered.walkHubs.tryRoutes unpinned.sendFrames.runCounters := rounds.trans (unpins.trans (by simp))
  clear_value stalled arbitrated returned walked unpinned
  have points : Hub.sameFixed { h with pointer := h.pointer + 1 } offered := by
    have fixed : Hub.sameFixed h returned := begins.1.trans returns.1
    simp only [Hub.sameFixed] at begins fixed ⊢
    simp only [offered, begins, fixed, and_self]
  have routes : Hub.sameRoutes h offered := begins.2.1.trans returns.2
  have credits : offered.slices = returned.slices := rfl
  clear_value offered
  refine ⟨points.trans (walks.1.trans (routed.1.trans ends.1)), fun unloaded => ?_, fun m => ?_⟩
  · have still : offered.walkHubs.tryRoutes = offered.walkHubs := unrouted (by rw [walks.2.1.2.1, routes.2.1, unloaded])
    rw [still] at ends
    exact routes.trans (walks.2.1.trans ends.2.1)
  · rw [ends.2.2, routed.2, walks.2.2, credits, empty]

/-! ### `ROUND_TICK` -/

/-- The round at which service has begun, and what its commit gives, decide what the round gives. -/
theorem roundTick_next (s : State) (serving : s.hub.round ≠ 0) : exec .roundTick s = .next (s.withHubR fun h => h.tick) := by
  show execRoundTick s = _
  rw [execRoundTick, if_neg serving]

/-- Before service `ROUND_TICK` does nothing (R7). -/
theorem roundTick_before (s : State) (closed : s.hub.round = 0) : exec .roundTick s = .next s := by
  show execRoundTick s = _
  rw [execRoundTick, if_pos closed]

/-- What a round writes, after the commits that are due (R7, R38, R43). -/
theorem tick_frame (h : Hub) :
    Hub.sameFixed { h with
      round := h.round + 1
      pointer := h.pointer + 1
      prot := h.begun.forceDue.prot } h.tick ∧ (∀ m, h.tick.slices.backs m = []) ∧
    (h.routeNew = none → Hub.sameRoutes { h with par := h.begun.forceDue.par } h.tick) := by
  obtain ⟨par, prot, form⟩ := forceDue_form h.begun
  obtain ⟨fixed, routes, empty⟩ := worked_frame h.begun.forceDue (h.round + 1)
  have begins := begun_sameRound h
  rw [tick_eq]
  refine ⟨Hub.sameFixed.trans ?_ fixed, empty, fun unloaded => Hub.sameRoutes.trans ?_ (routes ?_)⟩
  · simp [form, begins]
  · simp [form, begins]
  · simp [form, begins, unloaded]

/-- The hub that a round's commits meet: the next round, with the commits, memory ports and parameters of the round before. -/
theorem begun_parts (h : Hub) : h.begun.round = h.round + 1 ∧ h.begun.core = h.core ∧ h.begun.mps = h.mps ∧ h.begun.par = h.par ∧
    h.begun.prot = h.prot := by
  have begins := begun_sameRound h
  exact ⟨by simp [begins], begun_core h, begun_mps h, by simp [begins], by simp [begins]⟩

theorem tick_commits_idle (h : Hub) (idle : h.core.commits = []) : h.begun.forceDue.prot = h.prot ∧ h.begun.forceDue.par = h.par := by
  obtain ⟨-, core, -, par, prot⟩ := begun_parts h
  rw [forceDue_idle _ (by rw [core, idle])]
  exact ⟨prot, par⟩

theorem tick_commits_early (h : Hub) (c : Commit) (k : Nat) (front : h.core.commits = [c]) (due : c.c = some k) (early : h.round + 1 < k) :
    h.begun.forceDue.prot = h.prot := by
  obtain ⟨round, core, -, -, prot⟩ := begun_parts h
  rw [forceDue_early _ c k (by rw [core, front]) due (by rw [round]; exact early), prot]

theorem tick_commits_prot (h : Hub) (c : Commit) (k : Nat) (front : h.core.commits = [c]) (due : c.c = some k) (late : k ≤ h.round + 1)
    (tables : c.prot = true) : h.begun.forceDue.prot = h.prot.with c.tabs := by
  obtain ⟨round, core, -, -, prot⟩ := begun_parts h
  rw [forceDue_prot _ c k (by rw [core, front]) due (by rw [round]; exact late) tables]
  simp only [prot]

theorem tick_commits_value (h : Hub) (c : Commit) (y : StageItem) (k : Nat) (front : h.core.commits = [c]) (due : c.c = some k)
    (late : k ≤ h.round + 1) (param : c.prot = false) (items : c.items = [y]) (low : y.hi = false) (plain : Param.acts y.pid.toNat = false)
    (now : h.inForce y.pid.toNat y.val = some y.val) : h.begun.forceDue.par = h.par.put y.pid.toNat y.val := by
  obtain ⟨round, core, mps, par, -⟩ := begun_parts h
  rw [forceDue_value _ c y k (by rw [core, front]) due (by rw [round]; exact late) param items low plain
    ((inForce_congr mps par _ _).trans now)]
  simp only [par]

/-- Settles O43: after its commit at round C a round leaves everything that its parts do not write, and every part of it is shown to write
only what a round may. -/
theorem roundsAdvanceByTicksAlone : Obligations.RoundsAdvanceByTicksAlone := by
  intro s n acks k p tabs y
  refine ⟨fun serving => ⟨_, roundTick_next s serving, ?_⟩, roundTick_before s⟩
  obtain ⟨fixed, empty, routes⟩ := tick_frame s.hub
  refine ⟨?_, by simp [fixed], by simp [fixed], fun hs => ?_, fun unloaded => ?_, fun idle => ⟨?_, fun unloaded => ?_⟩,
    fun front => ⟨fun late => ?_, fun early => ?_⟩, fun front late low here now plain unloaded => ?_⟩
  · intro q hq
    cases q <;> simp [Part.same, eventParts, fixed] at hq ⊢
  · have same : (s.withHubR fun h => h.tick).hub.slices = s.hub.tick.slices := by simp
    rw [Hub.slice, same]
    exact empty hs
  · simp [routes unloaded, unloaded]
  · simp [fixed, tick_commits_idle s.hub idle]
  · simp [routes unloaded, tick_commits_idle s.hub idle]
  · simp only [State.withHubR_keeps, fixed, tick_commits_prot s.hub _ k front rfl late rfl]
    rfl
  · simp [fixed, tick_commits_early s.hub _ k front rfl early]
  · subst here
    have value := tick_commits_value s.hub _ y k front rfl late rfl rfl low plain now
    simp [Hub.pw, routes unloaded, value]

end Sys2Proof.Machine
end

section
/-!
CERTIFICATE. Every command of units that the hub has runs, and leaves the queue of the commands that follow (R17, R22, R308).
-/
namespace Sys2Proof.Machine

/-! ### What becomes of a command -/

/-- What becomes of a command on a state: where it is well formed a next state with the queue as before, else the fault `noSuchUnit`. -/
def Settles (ok : Bool) (s : State) (o : Host.Outcome State Fault Refusal) : Prop :=
  (ok = true → ∃ t, o = .next t ∧ t.pending = s.pending) ∧ (ok = false → o = .fault .noSuchUnit)

theorem Settles.next {s t : State} (kept : t.pending = s.pending) : Settles true s (.next t) :=
  ⟨fun _ => ⟨t, rfl, kept⟩, nofun⟩

theorem Settles.onUnit {ok : Bool} {s t : State} (kept : t.pending = s.pending) : Settles ok s (onUnit ok t) := by
  cases ok with
  | true => exact .next kept
  | false => exact ⟨nofun, fun _ => rfl⟩

theorem Settles.withHub (s : State) (f : Hub → Hub) : Settles true s (.next (s.withHub f)) := .next (s.withHub_pending f)

theorem Settles.withHubR (s : State) (f : Hub → Hub) : Settles true s (.next (s.withHubR f)) :=
  .next (s.withHubR_keeps f).1

theorem Settles.unitHub (ok : Bool) (s : State) (f : Hub → Hub) : Settles ok s (Machine.onUnit ok (s.withHub f)) :=
  .onUnit (s.withHub_pending f)

/-- A command of a unit that the hub has, run as part of another one, leaves the queue. -/
theorem Settles.outcomeOr_pending {s : State} {o : Host.Outcome State Fault Refusal} (H : Settles true s o) :
    (outcomeOr s o).pending = s.pending := by
  obtain ⟨t, rfl, kept⟩ := H.1 rfl
  exact kept

/-- A fold of operations that leave the queue leaves it. -/
theorem foldl_pending {α : Type} {g : State → α → State} (H : ∀ s x, (g s x).pending = s.pending) (l : List α) (s : State) :
    (l.foldl g s).pending = s.pending := by
  induction l generalizing s with
  | nil => rfl
  | cons x l ih => exact (ih _).trans (H s x)

/-! ### The end of a port's bring-up (R426, R433) -/

@[simp] theorem programBit_pending (s : State) (b : Nat) : (s.programBit b).pending = s.pending := rfl

@[simp] theorem escalate_pending (s : State) : s.escalate.pending = s.pending := foldl_pending programBit_pending _ s

@[simp] theorem settlePorts_pending (s : State) : s.settlePorts.pending = s.pending :=
  (s.escalate.withHub_pending _).trans (escalate_pending s)

theorem Settles.ports (s : State) (f : Hub → Hub) : Settles true s (.next (s.withHub f).settlePorts) :=
  .next ((settlePorts_pending _).trans (s.withHub_pending f))

theorem Settles.unitPorts (ok : Bool) (s : State) (f : Hub → Hub) : Settles ok s (Machine.onUnit ok (s.withHub f).settlePorts) :=
  .onUnit ((settlePorts_pending _).trans (s.withHub_pending f))

theorem Settles.unitPortsR (ok : Bool) (s : State) (f : Hub → Hub) : Settles ok s (Machine.onUnit ok (s.withHubR f).settlePorts) :=
  .onUnit ((settlePorts_pending _).trans (s.withHubR_keeps f).1)

theorem Settles.sideband (id : Byte) (p : BitVec 4) (w : Word) (s : State) (f : Hub → Hub) :
    Settles true s (onSideband id p w s f) := by
  unfold onSideband
  split
  · exact .withHub s f
  · exact .ports s _

/-! ### The register window and device requests (R182, R385, R468) -/

@[simp] theorem writeWord_pending (s : State) (g : Gaid) (off : Nat) (v : Word) : (s.writeWord g off v).pending = s.pending := by
  unfold State.writeWord
  split <;> rfl

@[simp] theorem windowWrite_pending (s : State) (g : Gaid) (off : Nat) (f : Hub → Hub) :
    (s.windowWrite g off f).pending = s.pending := by
  unfold State.windowWrite
  split <;> rfl

@[simp] theorem serveWindow_pending (s : State) (r : DevReq) : (s.serveWindow r).pending = s.pending := by
  unfold State.serveWindow
  split
  · unfold State.serveWrite
    split
    · simp
    · dsimp only
      split
      · simp
      · exact foldl_pending (fun s k => writeWord_pending s _ _ _) _ s
  · unfold State.serveRead
    split <;> simp

theorem device_pending (s : State) (p : BitVec 4) (f : Flit) (d : Option WrData) (be : ByteMask) :
    (s.device p f d be).pending = s.pending := by
  unfold State.device
  dsimp only
  repeat' split
  all_goals simp

theorem spanDevice_pending (s : State) (m : SpanMsg) (d : Option WrData) (be : ByteMask) :
    (s.spanDevice m d be).pending = s.pending := by
  unfold State.spanDevice
  dsimp only
  repeat' split
  all_goals simp

theorem registerWrite_settles (gaid : Gaid) (off : BitVec 16) (v : Word) (s : State) :
    Settles true s (execRegisterWrite gaid off v s) := by
  unfold execRegisterWrite
  dsimp only
  split
  · exact .next (writeWord_pending s _ _ v)
  · exact .withHub s _

/-! ### Mailbox commands (R387–R389) -/

@[simp] theorem State.answer_pending (s : State) (d : Desc) (code : Byte) (detail : Nat) (w1 w2 w3 : Word) :
    (s.answer d code detail w1 w2 w3).pending = s.pending := by
  simp [State.answer]

@[simp] theorem State.reject_pending (s : State) (d : Desc) (code : Byte) (detail : Nat) : (s.reject d code detail).pending = s.pending :=
  s.answer_pending d code detail 0 0 0

@[simp] theorem State.ok_pending (s : State) (d : Desc) : (s.ok d).pending = s.pending := s.answer_pending d ccOk 0 0 0 0

@[simp] theorem State.maintFails_pending (s : State) (d : Desc) (res : Byte) : (s.maintFails d res).pending = s.pending :=
  s.reject_pending d ccFailed res.toNat

/-- Taking a command leaves the queue where running it does. -/
theorem takeCmd_pending (s : State) (n : BitVec 3) (mine : Desc → Bool) {run : Desc → State → State}
    (H : ∀ d s, (run d s).pending = s.pending) : (s.takeCmd n mine run).pending = s.pending := by
  unfold State.takeCmd
  split
  · rfl
  · dsimp only
    split
    · simp [State.advanceHead]
    · split
      · rfl
      · split
        · simp [State.advanceHead]
        · split
          · simp [State.advanceHead]
          · exact H _ _

theorem Settles.takeOf (s : State) (n : BitVec 3) (cmd : Nat) {run : Desc → State → State}
    (H : ∀ d s, (run d s).pending = s.pending) : Settles true s (.next (s.takeOf n cmd run)) :=
  .next (takeCmd_pending s n _ H)

theorem Settles.takeMaint (s : State) (n : BitVec 3) (op : Nat) {run : Desc → State → State}
    (H : ∀ d s, (run d s).pending = s.pending) : Settles true s (.next (s.takeMaint n op run)) :=
  .next (takeCmd_pending s n _ fun d s => by
    split
    · exact s.reject_pending d ccBadArg 1
    · exact H d s)

/-! ### Resets (R421–R425) -/

@[simp] theorem hold_pending (s : State) (kind : BitVec 2) : (s.hold kind).pending = s.pending := rfl

@[simp] theorem takeReset_pending (s : State) (kind : BitVec 2) : (s.takeReset kind).pending = s.pending := by
  unfold State.takeReset
  split <;> simp

theorem resetNTakenLow_settles (s : State) : Settles true s (execResetNTakenLow s) := by
  refine .next ?_
  dsimp only
  split <;> simp

theorem warmResetDrainEnd_settles (s : State) : Settles true s (execWarmResetDrainEnd s) := by
  refine .next ?_
  split <;> simp

theorem pwrgoodRise_settles (s : State) : Settles true s (execPwrgoodRise s) := by
  refine .next ?_
  split <;> rfl

theorem restartDone_settles (masterFound : BitVec 384) (s : State) : Settles true s (execUluhivaRestartDone masterFound s) := by
  refine .next ?_
  repeat' split
  all_goals simp

/-! ### Tests, fuses and the OTP (R366, R370, R371, R374, R442) -/

@[simp] theorem burn_pending (s : State) (hs : BitVec 7) (mac : BitVec 16) (el : BitVec 8) (spare : BitVec 3) :
    (s.burn hs mac el spare).pending = s.pending := by
  simp [State.burn]

@[simp] theorem retire_pending (s : State) (hs : BitVec 7) : (s.retire hs).pending = s.pending := by
  unfold State.retire
  dsimp only
  split <;> simp

@[simp] theorem testEnds_pending (s : State) (hs : BitVec 7) (r : BistOutcome) : (s.testEnds hs r).pending = s.pending := by
  unfold State.testEnds
  dsimp only
  repeat' split
  all_goals simp

theorem bistComplete_settles (r : BistOutcome) (s : State) : Settles true s (execBistComplete r s) := by
  refine .next ?_
  repeat' split
  all_goals simp

theorem fuseBurn_settles (hs : BitVec 7) (mac : BitVec 16) (element : BitVec 8) (s : State) :
    Settles (hsExists hs) s (execFuseBurn hs mac element s) := by
  refine .onUnit ?_
  dsimp only
  repeat' split
  all_goals simp

theorem testAccessMode_settles (t : TapLoad) (s : State) : Settles true s (execTestAccessMode t s) := by
  refine .next ?_
  cases t with
  | accessMode => dsimp only; split <;> simp
  | _ => rfl

theorem otpProgram_settles (w : OtpWrite) (s : State) : Settles true s (execOtpProgram w s) := by
  refine .next ?_
  repeat' split
  all_goals rfl

/-! ### The start (R426) -/

@[simp] theorem atStep_pending (s : State) (code : Nat) {f : State → State} (H : ∀ s, (f s).pending = s.pending) :
    (s.atStep code f).pending = s.pending := by
  unfold State.atStep
  split
  · exact H _
  · rfl

@[simp] theorem stop_pending (s : State) : s.stop.pending = s.pending :=
  (s.escalate.withHub_pending _).trans (escalate_pending s)

@[simp] theorem failStop_pending (s : State) (code : Nat) : (s.failStop code).pending = s.pending :=
  (stop_pending _).trans (s.withHub_pending _)

theorem stepOtp_pending (s : State) (env : StartEnv) : (s.stepOtp env).pending = s.pending := by
  unfold State.stepOtp
  split <;> simp

theorem stepRail_pending (s : State) (env : StartEnv) : (s.stepRail env).pending = s.pending := by
  unfold State.stepRail
  split <;> simp

theorem stepCheck_pending (s : State) (env : StartEnv) : (s.stepCheck env).pending = s.pending := by
  unfold State.stepCheck
  dsimp only
  split <;> simp

theorem startBurns_pending (s : State) (env : StartEnv) : (s.startBurns env).pending = s.pending := by
  unfold State.startBurns
  split
  · refine foldl_pending (fun s x => ?_) _ s
    repeat' split
    all_goals simp
  · rfl

theorem stepRepair_pending (s : State) (env : StartEnv) : (s.stepRepair env).pending = s.pending :=
  (startBurns_pending _ env).trans (s.withHub_pending _)

theorem stepBistStop_pending (s : State) (env : StartEnv) : (s.stepBistStop env).pending = s.pending := by
  unfold State.stepBistStop
  dsimp only
  repeat' split
  all_goals simp

theorem stepBistSlice_pending (s : State) (env : StartEnv) : (s.stepBistSlice env).pending = s.pending := by
  unfold State.stepBistSlice
  dsimp only
  split <;> simp

theorem stepImage_pending (s : State) (env : StartEnv) : (s.stepImage env).pending = s.pending := by
  unfold State.stepImage
  dsimp only
  repeat' split
  all_goals simp

theorem stepConfig_pending (s : State) (env : StartEnv) (kept : Bool) : (s.stepConfig env kept).pending = s.pending := by
  unfold State.stepConfig State.applyGen
  repeat' split
  all_goals simp

theorem runStart_pending (s : State) (env : StartEnv) : (s.runStart env).pending = s.pending := by
  unfold State.runStart
  dsimp only
  rw [atStep_pending _ _ fun s => s.withHub_pending _, atStep_pending _ _ fun s => stepConfig_pending s env _,
    atStep_pending _ _ fun s => stepImage_pending s env, atStep_pending _ _ fun s => stepBistSlice_pending s env,
    atStep_pending _ _ fun s => stepBistStop_pending s env, atStep_pending _ _ fun s => stepRepair_pending s env,
    atStep_pending _ _ fun s => stepCheck_pending s env, atStep_pending _ _ fun s => stepRail_pending s env,
    atStep_pending _ _ fun s => stepOtp_pending s env, atStep_pending, atStep_pending _ _ fun s => s.withHub_pending _]
  · rfl
  · intro s
    split <;> simp

theorem startBegin_settles (env : StartEnv) (s : State) : Settles true s (execStartBegin env s) := by
  refine .next ?_
  dsimp only
  split
  · exact (settlePorts_pending _).trans (runStart_pending s env)
  · rfl

/-! ### Frames (R237–R247, R262) -/

/-- The command that a message of a frame is has a meaning in every state. -/
theorem runMsg_settles (s : State) (p : BitVec 4) (m : RxMsg) (x : RxHdr) (ok : Bool) : Settles true s (s.runMsg p m x ok) := by
  unfold State.runMsg
  dsimp only
  repeat' split
  case h_11 => exact .next (device_pending s p _ none _)
  case h_12 => exact .next (device_pending s p _ _ 0)
  all_goals exact .withHub s _

@[simp] theorem onPart_pending (s : State) (p : BitVec 4) (f : FrameState → FrameState) : (s.onPart p f).pending = s.pending := rfl

theorem takeMsg_pending (s : State) (p : BitVec 4) (m : RxMsg) (x : Option RxHdr) (ok : Bool) :
    (s.takeMsg p m x ok).pending = s.pending := by
  unfold State.takeMsg
  dsimp only
  split
  · exact (runMsg_settles _ p m _ ok).outcomeOr_pending
  · rfl

theorem offerMsg_pending (p : BitVec 4) (s : State) (m : RxMsg) : (s.offerMsg p m).pending = s.pending := by
  unfold State.offerMsg
  split
  · exact takeMsg_pending s p m none true
  · dsimp only
    repeat' split
    all_goals simp [takeMsg_pending]

theorem takeFwd_pending (s : State) (p : BitVec 4) (x : RxHdr) (ok : Bool) : (s.takeFwd p x ok).pending = s.pending := by
  unfold State.takeFwd
  dsimp only
  split
  · exact (Settles.withHub s _).outcomeOr_pending
  · rfl

theorem offerHdr_pending (p : BitVec 4) (fseq : BitVec 16) (s : State) (x : RxHdr) : (s.offerHdr p fseq x).pending = s.pending := by
  unfold State.offerHdr
  dsimp only
  repeat' split
  all_goals simp [takeFwd_pending]

theorem takeUnit_pending (p : BitVec 4) (s : State) (u : BitVec 32 × RxUnit) : (s.takeUnit p u).pending = s.pending := by
  unfold State.takeUnit
  dsimp only
  split <;> simp

theorem unpackAp_pending (s : State) (p : BitVec 4) (hd : FrameHdr) : (s.unpackAp p hd).pending = s.pending := by
  unfold State.unpackAp
  dsimp only
  rw [onPart_pending, foldl_pending (offerHdr_pending p hd.fseq), foldl_pending (offerMsg_pending p),
    foldl_pending (takeUnit_pending p)]

@[simp] theorem onMpPart_pending (s : State) (m : BitVec 3) (f : FrameState → FrameState) : (s.onMpPart m f).pending = s.pending := rfl

theorem memMsg_pending (mp : BitVec 3) (s : State) (w : BitVec 128) : (s.memMsg mp w).pending = s.pending := by
  unfold State.memMsg
  dsimp only
  split
  · exact (Settles.withHubR _ _).outcomeOr_pending
  · exact (Settles.withHub _ _).outcomeOr_pending
  · exact (Settles.withHubR _ _).outcomeOr_pending
  · exact (Settles.withHub _ _).outcomeOr_pending
  · rfl

theorem memUnit_pending (mp : BitVec 3) (s : State) (u : BitVec 32 × RxUnit) : (s.memUnit mp u).pending = s.pending := by
  unfold State.memUnit
  split
  · exact memMsg_pending mp s _
  · rfl

theorem memHdr_pending (mp : BitVec 3) (s : State) (x : RxHdr) : (s.memHdr mp x).pending = s.pending := by
  unfold State.memHdr
  dsimp only
  split
  · rfl
  · split
    · exact (Settles.withHubR _ _).outcomeOr_pending
    · rfl

theorem unpackMp_pending (s : State) (mp : BitVec 3) (hd : FrameHdr) : (s.unpackMp mp hd).pending = s.pending := by
  unfold State.unpackMp
  dsimp only
  rw [foldl_pending (memHdr_pending mp), foldl_pending (memUnit_pending mp)]

theorem apFrame_settles (port : PortId) (hd : FrameHdr) (s : State) : Settles port.parallel s (execApFrame port hd s) := by
  cases port with
  | ap p =>
    refine .next ?_
    split
    · rw [unpackAp_pending]; simp
    · simp
  | mp m =>
    refine .next ?_
    split
    · rw [unpackMp_pending]; simp
    · simp
  | sp n => exact .onUnit rfl

/-! ### Rounds and the management path (R7, R401) -/

theorem roundTick_settles (s : State) : Settles true s (execRoundTick s) := by
  refine .next ?_
  split <;> simp

theorem mctpMessage_settles (b : MctpBody) (s : State) : Settles true s (execMctpMessage b s) := by
  refine .next ?_
  unfold State.mctpPlace
  dsimp only
  repeat' split
  all_goals simp

/-! ### Every row -/

theorem exec_settles (i : Instr) (s : State) : Settles i.wf s (exec i s) := by
  cases i with
  | memDat | memWcmp | memPauseEnd | memDown | readLost | fillInstall | fillVictimWaitExpiry | apLinkDown | routeChangeAck
  | fatalPostedWriteDrop | lockstepMismatch | watchdogExpiry | commitRound | maintRangeWalk | mpLinkDown => exact .withHubR s _
  | reclaimWalkVisit | scrubRead | scrubPassLate | pointOfNoReturn | powerDownComplete | wakeRequest | domainServe | lockExpired
  | meshBudgetOverrun | roundCompare | spanRekeyCount | hopTicket | hopTicketResend => exact .unitHub _ s _
  | apDeclare | apAgent | mpDeclare | mpChanGeom | mpChanFlow => exact .ports s _
  | linkTraining | startStepLimit => exact .unitPorts _ s _
  | spanFrame | spanLinkDown | spanKeying | rekeyDeadline => exact .unitPortsR _ s _
  | pwrDeclare | pwrReq | pwrStepDone | pwrTelem | pwrSleepReq | pwrWakeReq => exact .sideband _ _ _ s _
  | mbCmdTailWrite | mbRspHeadWrite | evtMaskWrite | pmcWinPreset | statClr | freeze | pmcReset =>
    exact .next (windowWrite_pending s _ _ _)
  | evtStatusWrite => exact .next (windowWrite_pending _ _ _ _)
  | registerWrite gaid off v => exact registerWrite_settles gaid off v s
  | devRd p f be => exact .next (device_pending s p f none be)
  | devWr p f d => exact .next (device_pending s p f (some d) 0)
  | spanDevRd m be => exact .next (spanDevice_pending s m none be)
  | spanDevWr m d => exact .next (spanDevice_pending s m (some d) 0)
  | hubGetId | mbNop | paramRead | paramStage | paramCommit | paramDiscard | protStageMbx | protStageAgent | protStagePmask
  | protCommit | protDiscard | protRead | sfReadEntry | sdReadEntry | hcReadTag | spanSetAuthority | spanSetCert | spanRekey
  | testArmAccess | testFuseBurn | testRetest | evtLogRead | ledgerRead | fwSelect | hubReset =>
    refine .takeOf s _ _ fun d s => ?_
    dsimp -failIfUnchanged only
    repeat' split
    all_goals simp
  | hcClean | hcInvalidate | hcCleanInvalidate | hcUnlock | hcFillAndLock =>
    refine .takeMaint s _ _ fun d s => ?_
    dsimp -failIfUnchanged only
    repeat' split
    all_goals simp
  | resetNTakenLow => exact resetNTakenLow_settles s
  | warmResetDrainEnd => exact warmResetDrainEnd_settles s
  | pwrgoodRise => exact pwrgoodRise_settles s
  | pwrgoodFall => exact .next rfl
  | uluhivaRestartDone masterFound => exact restartDone_settles masterFound s
  | bistComplete r => exact bistComplete_settles r s
  | fuseBurn hs mac element => exact fuseBurn_settles hs mac element s
  | testAccessMode t => exact testAccessMode_settles t s
  | otpProgram w => exact otpProgram_settles w s
  | startBegin env => exact startBegin_settles env s
  | apFrame port hd => exact apFrame_settles port hd s
  | roundTick => exact roundTick_settles s
  | mctpMessage b => exact mctpMessage_settles b s
  | _ => exact .withHub s _

/-- Settles O2: every row leaves the queue, and a row of a unit that may not exist faults where it does not. -/
theorem wellFormedCommandsComplete : Obligations.WellFormedCommandsComplete := exec_settles

end Sys2Proof.Machine
end

section
/-!
CERTIFICATE. Starts (R421, R426–R428, R438, R486) and the opening of service (R19, R24, R427).
-/
namespace Sys2Proof.Machine
open Sys2Proof.Safety

/-! ### What the steps of a start leave -/

/-- Two hubs agree on what a start that goes on has settled: the pins, its phase, the image that runs, the image preference and the
substituted slices. -/
structure Hub.SameStart (h k : Hub) : Prop where
  pins : k.pins = h.pins
  phase : k.start.phase = h.start.phase
  image : k.start.image = h.start.image
  loaded : k.core.image = h.core.image
  fw : k.core.fw = h.core.fw
  pref : k.aon.pref = h.aon.pref
  subst : k.aon.subst = h.aon.subst

/-- Two hubs agree on this and on the parameters: what the ledger, the failure counters and the events leave. -/
structure Hub.Noted (h k : Hub) : Prop extends Hub.SameStart h k where
  par : k.par = h.par
  master : k.master = h.master

theorem Hub.SameStart.trans {h k m : Hub} (one : h.SameStart k) (two : k.SameStart m) : h.SameStart m where
  pins := two.pins.trans one.pins
  phase := two.phase.trans one.phase
  image := two.image.trans one.image
  loaded := two.loaded.trans one.loaded
  fw := two.fw.trans one.fw
  pref := two.pref.trans one.pref
  subst := two.subst.trans one.subst

theorem Hub.SameStart.refl (h : Hub) : h.SameStart h := ⟨rfl, rfl, rfl, rfl, rfl, rfl, rfl⟩

theorem Hub.Noted.trans {h k m : Hub} (one : h.Noted k) (two : k.Noted m) : h.Noted m where
  toSameStart := one.toSameStart.trans two.toSameStart
  par := two.par.trans one.par
  master := two.master.trans one.master

theorem Hub.Noted.refl (h : Hub) : h.Noted h := ⟨.refl h, rfl, rfl⟩

theorem recordWith_noted (h : Hub) (step inst outcome detail : Nat) (words : List Word) :
    h.Noted (h.recordWith step inst outcome detail words) := by
  simp only [Hub.recordWith, freeWords_hub]
  exact ⟨⟨rfl, rfl, rfl, rfl, rfl, rfl, rfl⟩, rfl, rfl⟩

theorem record_noted (h : Hub) (step inst outcome detail : Nat) : h.Noted (h.record step inst outcome detail) :=
  recordWith_noted h step inst outcome detail []

theorem countStep_noted (h : Hub) (bit : Nat) (ok : Bool) : h.Noted (h.countStep bit ok) := by
  unfold Hub.countStep
  split
  · exact .refl h
  · extract_lets old new
    split
    · exact .refl h
    · exact ⟨⟨rfl, rfl, rfl, rfl, rfl, rfl, rfl⟩, rfl, rfl⟩

/-- A raise may add to the fatal record and leaves the rest of the ledger. -/
theorem raise_noted (h : Hub) (r : Raise) : h.Noted (h.raise r) := by
  have ledger : (h.raise r).aon = h.aon.follow h.start.fatal r.src := by simp [Hub.raise]
  have follow : (h.aon.follow h.start.fatal r.src).pref = h.aon.pref ∧ (h.aon.follow h.start.fatal r.src).subst = h.aon.subst := by
    unfold Aon.follow
    split <;> exact ⟨rfl, rfl⟩
  constructor
  · constructor <;> simp [ledger, follow]
  · simp
  · simp

/-! ### The steps up to the image -/

theorem stepAon_noted (h : Hub) (env : StartEnv) : h.Noted (h.stepAon env) := by
  have lost : ∀ l : List (BitVec 6), (l.foldl (fun (a : Aon) n => a.loseRecord n.toNat) h.aon).pref = h.aon.pref ∧
      (l.foldl (fun (a : Aon) n => a.loseRecord n.toNat) h.aon).subst = h.aon.subst := fun l =>
    List.foldlRecOn l _ (motive := fun (a : Aon) => a.pref = h.aon.pref ∧ a.subst = h.aon.subst) ⟨rfl, rfl⟩ fun a same n _ => by
      unfold Aon.loseRecord
      split <;> exact same
  unfold Hub.stepAon
  extract_lets aon read prior
  have reads : h.Noted read := by
    simp only [read]
    split
    · exact .refl h
    · have cleared : h.Noted { h with aon := aon } := ⟨⟨rfl, rfl, rfl, rfl, rfl, (lost _).1, (lost _).2⟩, rfl, rfl⟩
      exact cleared.trans ((record_noted _ _ _ _ _).trans (raise_noted _ _))
  have copies : read.Noted prior := by
    simp only [prior]
    split
    · exact recordWith_noted _ _ _ _ _ _
    · exact .refl read
  exact reads.trans (copies.trans ⟨⟨rfl, rfl, rfl, rfl, rfl, rfl, rfl⟩, rfl, rfl⟩)

/-- A start of `s` that has not failed, before its image: as `s` it has no substituted slice and no exception bit, and the same images
verify. -/
structure GoesOn (s t : State) : Prop where
  phase : t.hub.start.phase = .starting
  pins : t.hub.pins = { s.hub.pins with faultN := true }
  pref : t.hub.aon.pref = s.hub.aon.pref
  subst : t.hub.aon.subst = []
  ring : t.ring = s.ring
  except : t.otp.except = 0
  verifies : t.otp.verifies = s.otp.verifies

theorem GoesOn.hub {s t : State} {f : Hub → Hub} (on : GoesOn s t) (same : t.hub.SameStart (f t.hub)) : GoesOn s (t.withHub f) where
  phase := same.phase.trans on.phase
  pins := same.pins.trans on.pins
  pref := same.pref.trans on.pref
  subst := same.subst.trans on.subst
  ring := on.ring
  except := on.except
  verifies := on.verifies

theorem GoesOn.atStep {s t : State} {f : State → State} (on : GoesOn s t) (code : Nat) (H : ∀ u, GoesOn s u → GoesOn s (f u)) :
    GoesOn s (t.atStep code f) := by
  rw [State.atStep, if_pos on.phase]
  exact H _ (on.hub ⟨rfl, rfl, rfl, rfl, rfl, rfl, rfl⟩)

theorem beginStart_goesOn (s : State) (subst : s.hub.aon.subst = []) (except : s.otp.except = 0) :
    GoesOn s (s.withHub fun h => h.beginStart) := ⟨rfl, rfl, rfl, subst, rfl, except, rfl⟩

theorem stepOtp_goesOn {s t : State} {env : StartEnv} (readable : env.otpReadable = true) (on : GoesOn s t) :
    GoesOn s (t.stepOtp env) := by
  rw [State.stepOtp, if_pos readable]
  exact on.hub ⟨rfl, rfl, rfl, rfl, rfl, rfl, rfl⟩

theorem stepRail_goesOn {s t : State} {env : StartEnv} (rails : env.railsOk = true) (on : GoesOn s t) : GoesOn s (t.stepRail env) := by
  rw [State.stepRail, if_pos rails]
  exact on.hub ⟨rfl, rfl, rfl, rfl, rfl, rfl, rfl⟩

/-- Without exception bits no slice is substituted before a start (R434). -/
theorem preSubst_none {o : Otp} (except : o.except = 0) : o.preSubst = [] := by simp [Otp.preSubst, except]

theorem stepCheck_goesOn {s t : State} {env : StartEnv} (slices : env.checkSlices = []) (ports : env.checkPorts = [])
    (other : env.checkOther = none) (on : GoesOn s t) : GoesOn s (t.stepCheck env) := by
  simp only [State.stepCheck, preSubst_none on.except, slices, ports, other]
  exact on.hub (.refl _)

/-- A start whose mirror is not to be read clears the repairs and the counts (R432). -/
theorem restore_noted (h : Hub) (env : StartEnv) (lost : env.mirrorOk = false) : h.Noted (h.restore env) := by
  have cleared : h.Noted { h with aon := { h.aon with
      repairs := []
      counts := [] } } := ⟨⟨rfl, rfl, rfl, rfl, rfl, rfl, rfl⟩, rfl, rfl⟩
  unfold Hub.restore
  split
  · rw [lost, Bool.and_false, Bool.false_and, if_neg Bool.false_ne_true]
    exact cleared.trans (record_noted _ _ _ _ _)
  · exact cleared.trans (record_noted _ _ _ _ _)

theorem burn_goesOn {s t : State} (hs : BitVec 7) (mac : BitVec 16) (el : BitVec 8) (spare : BitVec 3) (on : GoesOn s t) :
    GoesOn s (t.burn hs mac el spare) := by
  have burned : GoesOn s { t with otp := { t.otp with fuses := t.otp.fuses ++ [(hs, mac, el, spare)] } } :=
    ⟨on.phase, on.pins, on.pref, on.subst, on.ring, on.except, on.verifies⟩
  refine burned.hub (Hub.SameStart.trans ?_ (raise_noted _ _).toSameStart)
  exact ⟨rfl, rfl, rfl, rfl, rfl, rfl, rfl⟩

theorem startBurns_goesOn {s t : State} (env : StartEnv) (on : GoesOn s t) : GoesOn s (t.startBurns env) := by
  unfold State.startBurns
  split
  · refine List.foldlRecOn _ _ on fun u on x _ => ?_
    split
    · exact on.hub (record_noted _ _ _ _ _).toSameStart
    · split
      · exact on
      · exact burn_goesOn _ _ _ _ on
  · exact on

theorem stepRepair_goesOn {s t : State} {env : StartEnv} (slices : env.checkSlices = []) (lost : env.mirrorOk = false)
    (on : GoesOn s t) : GoesOn s (t.stepRepair env) := by
  refine startBurns_goesOn env (on.hub ?_)
  simp only [slices, List.filter_nil, List.foldl_nil]
  split
  · exact (restore_noted _ env lost).toSameStart
  · exact .refl _

theorem stepBistStop_goesOn {s t : State} {env : StartEnv} (ports : env.bistPorts = []) (passes : env.stopBist = true)
    (on : GoesOn s t) : GoesOn s (t.stepBistStop env) := by
  unfold State.stepBistStop
  split
  · exact on
  · simp only [ports]
    exact on.hub (.refl _)

theorem stepBistSlice_goesOn {s t : State} {env : StartEnv} (slices : env.bistSlices = []) (on : GoesOn s t) :
    GoesOn s (t.stepBistSlice env) := by
  unfold State.stepBistSlice
  split
  · exact on
  · simp only [preSubst_none on.except, slices, List.foldl_nil, List.find?_nil, Option.map_none, Hub.bistSlice]
    exact on.hub (List.foldlRecOn _ _ (.refl _) fun h same hs _ => same.trans (countStep_noted _ _ _).toSameStart)

/-! ### The image and the configuration -/

/-- The preferred image of `s` runs, with `FAULT_N` released (R436, R486). -/
structure Loaded (s : State) (img : ImageHdr) (t : State) : Prop where
  ring : t.ring = s.ring
  loaded : t.hub.core.image = true
  image : t.hub.start.image = s.hub.aon.pref
  fw : t.hub.core.fw = img.release
  pins : t.hub.pins = { s.hub.pins with faultN := true }

/-- A start of `s` that has not failed and whose image runs. -/
structure RunsImage (s : State) (img : ImageHdr) (t : State) : Prop extends Loaded s img t where
  phase : t.hub.start.phase = .starting
  subst : t.hub.aon.subst = []

theorem RunsImage.hub {s t : State} {img : ImageHdr} {f : Hub → Hub} (run : RunsImage s img t) (same : t.hub.SameStart (f t.hub)) :
    RunsImage s img (t.withHub f) where
  phase := same.phase.trans run.phase
  pins := same.pins.trans run.pins
  subst := same.subst.trans run.subst
  ring := run.ring
  loaded := same.loaded.trans run.loaded
  fw := same.fw.trans run.fw
  image := same.image.trans run.image

theorem RunsImage.atStep {s t : State} {img : ImageHdr} {f : State → State} (run : RunsImage s img t) (code : Nat)
    (H : ∀ u, RunsImage s img u → RunsImage s img (f u)) : RunsImage s img (t.atStep code f) := by
  rw [State.atStep, if_pos run.phase]
  exact H _ (run.hub ⟨rfl, rfl, rfl, rfl, rfl, rfl, rfl⟩)

/-- Without exception bits the preferred image is tried first, and runs where it verifies (R436, R438). -/
theorem stepImage_runs {s t : State} {env : StartEnv} (on : GoesOn s t) (flash : env.flashOk = true)
    (a : s.otp.verifies env.imageA = true) (b : s.otp.verifies env.imageB = true) :
    RunsImage s (if s.hub.aon.pref then env.imageB else env.imageA) (t.stepImage env) := by
  have first : t.firstImage = s.hub.aon.pref := by simp [State.firstImage, on.except, on.pref]
  have good : t.otp.verifies (if s.hub.aon.pref then env.imageB else env.imageA) = true := by
    rw [on.verifies]
    split
    · exact b
    · exact a
  unfold State.stepImage
  dsimp only
  simp only [first, flash, good, Bool.and_self, if_true]
  have counted := (countStep_noted t.hub (bitImage s.hub.aon.pref) true).toSameStart
  exact ⟨⟨on.ring, rfl, rfl, rfl, counted.pins.trans on.pins⟩, counted.phase.trans on.phase, counted.subst.trans on.subst⟩

theorem imageStep_runs {s t : State} {env : StartEnv} (on : GoesOn s t) (flash : env.flashOk = true)
    (a : s.otp.verifies env.imageA = true) (b : s.otp.verifies env.imageB = true) :
    RunsImage s (if s.hub.aon.pref then env.imageB else env.imageA) (t.atStep stImage fun s => s.stepImage env) := by
  rw [State.atStep, if_pos on.phase]
  exact stepImage_runs (on.hub ⟨rfl, rfl, rfl, rfl, rfl, rfl, rfl⟩) flash a b

theorem genEntry_same (h : Hub) (e : Nat × Word) : h.SameStart (h.genEntry e) := by
  unfold Hub.genEntry
  dsimp only
  split
  · exact ⟨rfl, rfl, rfl, rfl, rfl, rfl, rfl⟩
  · exact (record_noted _ _ _ _ _).toSameStart

theorem applyGen_runs {s t : State} {img : ImageHdr} (run : RunsImage s img t) : RunsImage s img t.applyGen := by
  refine run.hub ?_
  have entered : t.hub.SameStart ((genEntries (t.otp.genWords t.otp.ruling)).foldl (fun h e => h.genEntry e) { t.hub with
      par := []
      master := [] }) :=
    List.foldlRecOn _ _ ⟨rfl, rfl, rfl, rfl, rfl, rfl, rfl⟩ fun h same e _ => same.trans (genEntry_same h e)
  exact entered.trans ⟨rfl, rfl, rfl, rfl, rfl, rfl, rfl⟩

theorem stepConfig_runs {s t : State} {img : ImageHdr} (env : StartEnv) (kept : Bool) (run : RunsImage s img t) :
    RunsImage s img (t.stepConfig env kept) := by
  unfold State.stepConfig
  split
  · exact applyGen_runs run
  · split
    · exact run.hub ⟨rfl, rfl, rfl, rfl, rfl, rfl, rfl⟩
    · exact applyGen_runs (run.hub (record_noted _ _ _ _ _).toSameStart)

theorem portUnused_same (h : Hub) (p : PortId) : h.SameStart (h.portUnused p) := by
  cases p <;> exact ⟨rfl, rfl, rfl, rfl, rfl, rfl, rfl⟩

theorem bringPorts_same (h : Hub) (out : List PortId) : h.SameStart (h.bringPorts out) := by
  unfold Hub.bringPorts
  extract_lets marked aps mps sps onAps onMps onSps
  have marks : h.SameStart marked := List.foldlRecOn _ _ (.refl h) fun k same p _ => same.trans (portUnused_same k p)
  have agents : marked.SameStart onAps :=
    List.foldlRecOn _ _ (.refl _) fun k same n _ => same.trans ⟨rfl, rfl, rfl, rfl, rfl, rfl, rfl⟩
  have memory : onAps.SameStart onMps :=
    List.foldlRecOn _ _ (.refl _) fun k same n _ => same.trans ⟨rfl, rfl, rfl, rfl, rfl, rfl, rfl⟩
  have spans : onMps.SameStart onSps :=
    List.foldlRecOn _ _ (.refl _) fun k same n _ => same.trans ⟨rfl, rfl, rfl, rfl, rfl, rfl, rfl⟩
  exact marks.trans (agents.trans (memory.trans (spans.trans ⟨rfl, rfl, rfl, rfl, rfl, rfl, rfl⟩)))

/-! ### The opening of service -/

theorem sleepUnused_form (h : Hub) : ∃ power, h.sleepUnused = { h with power := power } := by
  unfold Hub.sleepUnused
  dsimp only
  refine List.foldlRecOn _ _ (motive := fun k => ∃ power, k = { h with power := power }) ?_ ?_
  · refine List.foldlRecOn _ _ (motive := fun k => ∃ power, k = { h with power := power }) ⟨h.power, rfl⟩ ?_
    rintro _ ⟨power, rfl⟩ n -
    split <;> exact ⟨_, rfl⟩
  · rintro _ ⟨power, rfl⟩ n -
    split <;> exact ⟨_, rfl⟩

/-- What the opening of service leaves and gives where no slice is substituted (R7, R19, R427). -/
structure Hub.Opened (h k : Hub) : Prop where
  phase : k.start.phase = .serving
  round : k.round = 1
  image : k.start.image = h.start.image
  pins : k.pins = h.pins
  core : k.core = h.core
  par : k.par = h.par
  master : k.master = h.master
  agents : k.agents = h.agents
  map : k.map = (upTo 64).map fun n => (n, startHs h.aon.leftOut n)
  newt : k.rot.newt = some (BitVec.ofNat 7 (h.aon.leftOut.getD 64))
  ended : k.rot.ended = false

theorem openService_opened (h : Hub) (subst : h.aon.subst = []) : h.Opened h.openService := by
  obtain ⟨power, asleep⟩ := sleepUnused_form { h with start := { h.start with step := 0x0F } }
  simp only [Hub.openService, Hub.summarise, asleep, subst]
  obtain ⟨outs, place, form⟩ := record_form { h with
    start := { h.start with step := 0x0F }
    power := power } 0x0F 0xFF outOk 0
  simp only [form]
  exact ⟨rfl, rfl, rfl, rfl, rfl, rfl, rfl, rfl, rfl, rfl, rfl⟩

/-- A start either waits on or opens service. -/
theorem tryOpen_cases (h : Hub) (subst : h.aon.subst = []) : h.tryOpen = h ∨ h.Opened h.tryOpen := by
  unfold Hub.tryOpen
  split
  · exact .inr (openService_opened h subst)
  · exact .inl rfl

/-- With no slice left out each logical slice is on the physical slice of its number (R19). -/
theorem Hub.Opened.hsOf {h k : Hub} (opened : h.Opened k) (whole : h.aon.leftOut = none) (ls : BitVec 6) : k.hsOf ls = ls.toNat := by
  have numbered : k.map.getD ls.toNat ls.toNat = ls.toNat := by
    rw [opened.map, whole, Tbl.getD]
    cases found : Tbl.look ((upTo 64).map fun n => (n, startHs none n)) ls.toNat with
    | none => rfl
    | some x =>
      obtain ⟨n, -, same⟩ := List.mem_map.mp (Tbl.mem_of_look found)
      obtain ⟨rfl, rfl⟩ := Prod.mk.inj same
      rfl
  simp [Hub.hsOf, opened.newt, opened.ended, numbered]

theorem escalate_runs {s t : State} {img : ImageHdr} (run : RunsImage s img t) : RunsImage s img t.escalate :=
  List.foldlRecOn _ _ run fun u run b _ => by
    obtain ⟨⟨ring, loaded, image, fw, pins⟩, phase, subst⟩ := run.hub
      (f := fun h => h.record h.start.step.toNat b outEscalated 0) (record_noted _ _ _ _ _).toSameStart
    exact ⟨⟨ring, loaded, image, fw, pins⟩, phase, subst⟩

/-! ### `START_BEGIN` -/

/-- What the surroundings present to a start all of whose steps succeed, without a mirror to restore. -/
structure GoodStart (env : StartEnv) : Prop where
  pll : env.pllLocks = true
  otp : env.otpReadable = true
  rails : env.railsOk = true
  slices : env.checkSlices = []
  ports : env.checkPorts = []
  other : env.checkOther = none
  stops : env.stopBist = true
  routers : env.bistPorts = []
  bist : env.bistSlices = []
  flash : env.flashOk = true
  lost : env.mirrorOk = false

/-- Every step of a start that nothing stops has its part: the image runs, and the ports are brought up. -/
theorem runStart_runs {s : State} {env : StartEnv} (good : GoodStart env) (subst : s.hub.aon.subst = []) (except : s.otp.except = 0)
    (a : s.otp.verifies env.imageA = true) (b : s.otp.verifies env.imageB = true) :
    RunsImage s (if s.hub.aon.pref then env.imageB else env.imageA) (s.runStart env) := by
  unfold State.runStart
  dsimp only
  refine .atStep ?_ _ fun u run => run.hub (bringPorts_same u.hub _)
  refine .atStep ?_ _ fun u run => stepConfig_runs env _ run
  refine imageStep_runs ?_ good.flash a b
  refine .atStep ?_ _ fun u on => stepBistSlice_goesOn good.bist on
  refine .atStep ?_ _ fun u on => stepBistStop_goesOn good.routers good.stops on
  refine .atStep ?_ _ fun u on => stepRepair_goesOn good.slices good.lost on
  refine .atStep ?_ _ fun u on => stepCheck_goesOn good.slices good.ports good.other on
  refine .atStep ?_ _ fun u on => stepRail_goesOn good.rails on
  refine .atStep ?_ _ fun u on => stepOtp_goesOn good.otp on
  refine .atStep ?_ _ fun u on => by rw [if_pos good.pll]; exact on
  refine .atStep ?_ _ fun u on => on.hub (stepAon_noted u.hub env).toSameStart
  exact beginStart_goesOn s subst except

theorem startBegin_eq (s : State) (env : StartEnv) (power : s.hub.pins.pwrgood = true) (reset : s.hub.pins.resetN = true)
    (cool : s.hub.pins.thermtripN = true) (phase : s.hub.start.phase = .reset) :
    exec (.startBegin env) s = .next (s.runStart env).settlePorts := by
  show execStartBegin env s = _
  simp [execStartBegin, power, reset, cool, phase]

/-- What follows a start whose image runs: it waits for its ports, or opens service in round 1. -/
theorem settlePorts_runs {s t : State} {img : ImageHdr} (run : RunsImage s img t) :
    (t.settlePorts.hub.start.phase = .starting ∨ t.settlePorts.hub.start.phase = .serving ∧ t.settlePorts.hub.round = 1) ∧
    Loaded s img t.settlePorts := by
  have run := escalate_runs run
  obtain waits | opened := tryOpen_cases t.escalate.hub run.subst
  · have same : t.settlePorts = t.escalate := by rw [State.settlePorts, State.withHub, waits]
    rw [same]
    exact ⟨.inl run.phase, run.toLoaded⟩
  · exact ⟨.inr ⟨opened.phase, opened.round⟩, run.ring, (congrArg Core.image opened.core).trans run.loaded,
      opened.image.trans run.image, (congrArg Core.fw opened.core).trans run.fw, opened.pins.trans run.pins⟩

/-! ### A start whose PLL does not lock (R428) -/

/-- A start that has stopped, with the parameters of `s`. -/
structure Stopped (s t : State) : Prop where
  phase : t.hub.start.phase = .stopped
  pins : t.hub.pins = { s.hub.pins with faultN := false }
  par : t.hub.par = s.hub.par
  master : t.hub.master = s.hub.master

/-- No further step of a start that has stopped is taken. -/
theorem Stopped.atStep {s t : State} (stopped : Stopped s t) (code : Nat) (f : State → State) : Stopped s (t.atStep code f) := by
  rw [State.atStep, if_neg (by simp [stopped.phase])]
  exact stopped

theorem escalate_noted (s : State) : s.hub.Noted s.escalate.hub :=
  List.foldlRecOn (motive := fun (t : State) => s.hub.Noted t.hub) _ _ (.refl _) fun t same b _ =>
    same.trans (record_noted t.hub t.hub.start.step.toNat b outEscalated 0)

theorem failStop_stopped {s t : State} (code : Nat) (noted : s.hub.beginStart.Noted t.hub) : Stopped s (t.failStop code) := by
  have failed : s.hub.beginStart.Noted (t.withHub fun h => h.record code 0xFF outFail 0).escalate.hub :=
    noted.trans ((record_noted t.hub code 0xFF outFail 0).trans (escalate_noted (t.withHub fun h => h.record code 0xFF outFail 0)))
  unfold State.failStop State.stop
  generalize (t.withHub fun h => h.record code 0xFF outFail 0).escalate = u at failed
  have summed := failed.trans (record_noted u.hub u.hub.start.step.toNat 0xFF outStop 0)
  exact ⟨rfl, by simp only [State.withHub_hub, Hub.stopStart, Hub.summarise, summed.pins]; rfl, summed.par, summed.master⟩

theorem aonStep_noted {h : Hub} {t : State} (env : StartEnv) (noted : h.beginStart.Noted t.hub) :
    h.beginStart.Noted (t.atStep stAon fun s => s.withHub fun h => h.stepAon env).hub := by
  have phase : t.hub.start.phase = .starting := noted.phase
  have stepped : t.hub.Noted (t.withHub fun h => { h with start := { h.start with step := BitVec.ofNat 8 stAon } }).hub :=
    ⟨⟨rfl, rfl, rfl, rfl, rfl, rfl, rfl⟩, rfl, rfl⟩
  rw [State.atStep, if_pos phase]
  exact noted.trans (stepped.trans (stepAon_noted _ env))

theorem clockStep_stopped {s t : State} {env : StartEnv} (pll : env.pllLocks = false) (noted : s.hub.beginStart.Noted t.hub) :
    Stopped s (t.atStep stClock fun s => if env.pllLocks then s else s.failStop stClock) := by
  have phase : t.hub.start.phase = .starting := noted.phase
  rw [State.atStep, if_pos phase, pll, if_neg Bool.false_ne_true]
  exact failStop_stopped stClock (noted.trans ⟨⟨rfl, rfl, rfl, rfl, rfl, rfl, rfl⟩, rfl, rfl⟩)

theorem runStart_stopped (s : State) (env : StartEnv) (pll : env.pllLocks = false) : Stopped s (s.runStart env) := by
  unfold State.runStart
  dsimp only
  iterate 9 refine .atStep ?_ _ _
  exact clockStep_stopped pll (aonStep_noted env (.refl _))

/-- Nothing follows a start that has stopped but the exception bits that are due (R428, R433). -/
theorem settlePorts_stopped {s t : State} (stopped : Stopped s t) : Stopped s t.settlePorts := by
  have noted := escalate_noted t
  have phase := noted.phase.trans stopped.phase
  have shut : t.settlePorts.hub = t.escalate.hub := if_neg (by simp [phase])
  exact ⟨by rw [shut, phase], by rw [shut, noted.pins, stopped.pins], by rw [shut, noted.par, stopped.par],
    by rw [shut, noted.master, stopped.master]⟩

/-! ### `START_STEP_LIMIT` of a memory port (R264, R426) -/

/-- A memory port whose training has not ended by its limit stays unused, and is waited for no longer. -/
theorem mpLate_form (h : Hub) (m : BitVec 3) : ∃ outs place doms, (h.record stMpUp m.toNat outFail 0).mpUnused m = { h with
    freeCtr := h.freeCtr + 6
    aon := { h.aon with
      outcomes := outs
      nextOut := place }
    mps := h.mps.put m.toNat { h.mp m.toNat with
      link := .down
      trained := false
      declared := false
      unused := true }
    power := { h.power with doms := doms }
    start := (h.portDone (.mp m)).start } := by
  obtain ⟨outs, place, form⟩ := record_form h stMpUp m.toNat outFail 0
  exact ⟨outs, place, h.power.doms.put (domKey (.mp m)) .asleep, by rw [form]; rfl⟩

theorem startStepLimit_mp (s : State) (m : BitVec 3) (phase : s.hub.start.phase = .starting) (waits : .mp m ∈ s.hub.start.waiting)
    (untrained : (s.hub.mp m.toNat).trained = false) : exec (.startStepLimit (.mp m)) s =
      .next (s.withHub fun h => (h.record stMpUp m.toNat outFail 0).mpUnused m).settlePorts := by
  show execStartStepLimit (.mp m) s = _
  simp [execStartStepLimit, onUnit, PortId.wf, State.withHub, phase, waits, untrained]

theorem mem_portDone (h : Hub) (p q : PortId) : q ∈ (h.portDone p).start.waiting ↔ q ∈ h.start.waiting ∧ q ≠ p := by
  simp [Hub.portDone]

/-- The step of a start whose last port is settled stays. -/
theorem portDone_last (h : Hub) (p : PortId) (last : ∀ q ∈ h.start.waiting, q = p) :
    (h.portDone p).start = { h.start with waiting := [] } := by
  have none_ : (h.start.waiting.filter fun x => x != p) = [] := by simpa using last
  simp [Hub.portDone, none_]

/-- A memory port that exceeds its limit while the start waits for another (R264, R426). -/
theorem mpLimit_waits (s : State) (m : BitVec 3) (quiet : startQuiet s) (phase : s.hub.start.phase = .starting)
    (waits : .mp m ∈ s.hub.start.waiting) (untrained : (s.hub.mp m.toNat).trained = false)
    (other : ∃ q ∈ s.hub.start.waiting, q ≠ .mp m) :
    ∃ t, exec (.startStepLimit (.mp m)) s = .next t ∧ onlyIn [.start, .mps, .power, .aon, .freeCtr] s t ∧
      (∀ q, q ∈ t.hub.start.waiting ↔ q ∈ s.hub.start.waiting ∧ q ≠ .mp m) ∧ (t.hub.mp m.toNat).link = .down := by
  obtain ⟨outs, place, doms, form⟩ := mpLate_form s.hub m
  refine ⟨_, startStepLimit_mp s m phase waits untrained, ?_⟩
  simp only [State.withHub, form]
  rw [settlePorts_quiet]
  · refine ⟨fun q hq => ?_, mem_portDone s.hub (.mp m), congrArg MpPort.link (Tbl.getD_put_self _ _ _ _)⟩
    cases q <;> simp [Part.same] at hq ⊢
  · obtain ⟨q, mem, ne⟩ := other
    exact ⟨(dueBits_congr rfl rfl).trans quiet.1, .inr (List.ne_nil_of_mem ((mem_portDone s.hub (.mp m) q).mpr ⟨mem, ne⟩))⟩

/-- A memory port that exceeds its limit as the last one: service opens (R7, R19, R427). -/
theorem mpLimit_opens (s : State) (m : BitVec 3) (quiet : startQuiet s) (phase : s.hub.start.phase = .starting)
    (waits : .mp m ∈ s.hub.start.waiting) (untrained : (s.hub.mp m.toNat).trained = false)
    (last : ∀ q ∈ s.hub.start.waiting, q = .mp m) (subst : s.hub.aon.subst = []) (carried : s.hub.aon.carried = none)
    (runs : s.hub.core.restart = false) (step : 0x0C ≤ s.hub.start.step.toNat) :
    ∃ t, exec (.startStepLimit (.mp m)) s = .next t ∧ t.hub.start.phase = .serving ∧ t.hub.round = 1 ∧
      (∀ ls, t.hub.hsOf ls = ls.toNat) ∧ t.hub.rot.newt = some 64 ∧ t.hub.par = s.hub.par ∧ t.hub.master = s.hub.master ∧
      t.hub.agents = s.hub.agents ∧ t.otp = s.otp := by
  obtain ⟨outs, place, doms, form⟩ := mpLate_form s.hub m
  refine ⟨_, startStepLimit_mp s m phase waits untrained, ?_⟩
  simp only [State.withHub, form, portDone_last s.hub _ last]
  generalize settled : ({ s with hub := _ } : State) = u
  have bits : u.dueBits = [] := by subst settled; exact (dueBits_congr rfl rfl).trans quiet.1
  have whole : u.hub.aon.leftOut = none := by subst settled; simp [Aon.leftOut, subst, carried]
  have opens : u.settlePorts = u.withHub Hub.openService := by
    rw [State.settlePorts, State.escalate, bits, List.foldl_nil, State.withHub, Hub.tryOpen, if_pos]
    · rfl
    · subst settled
      simp [phase, runs, step]
  have opened : u.hub.Opened u.hub.openService := openService_opened u.hub (by subst settled; exact subst)
  rw [opens, State.withHub_hub, opened.newt, opened.par, opened.master, opened.agents, whole]
  subst settled
  exact ⟨opened.phase, opened.round, opened.hsOf whole, rfl, rfl, rfl, rfl, rfl⟩

/-- Settles O48: the steps of a start keep what the next ones need, one that fails lets no other follow, and the last port that a start
waits for opens service. -/
theorem startsBringThePortsUpAndOpen : Obligations.StartsBringThePortsUpAndOpen := by
  intro s env m
  refine ⟨fun power reset cool phase => ⟨?_, fun pll _ => ?_⟩, fun quiet phase waits untrained =>
    ⟨mpLimit_waits s m quiet phase waits untrained, mpLimit_opens s m quiet phase waits untrained⟩⟩
  · intro _ subst except pll otp rails slices ports other stops routers bist flash lost a b
    have good : GoodStart env := ⟨pll, otp, rails, slices, ports, other, stops, routers, bist, flash, lost⟩
    obtain ⟨opens, ring, loaded, image, fw, pins⟩ := settlePorts_runs (runStart_runs good subst except a b)
    exact ⟨_, startBegin_eq s env power reset cool phase, (settlePorts_pending _).trans (runStart_pending s env), ring, opens, loaded,
      image, fw, pins⟩
  · obtain ⟨stopped, pins, par, master⟩ := settlePorts_stopped (runStart_stopped s env pll)
    exact ⟨_, startBegin_eq s env power reset cool phase, stopped, pins, par, master⟩

end Sys2Proof.Machine
end

section
/-!
CERTIFICATE. The last answer of a snooped agent, where two span snoops stand under one index (R59, R60, R226).
-/
namespace Sys2Proof.Machine
open Sys2Proof.Safety

/-! ### The hub of the counterexamples

The held span snoops of a slice are told apart by their index alone, and an answer that joins a transaction tries the held snoops of its own
line again. Here two of them share index 0: the later is of line 5 and still waits for agent 6, as `heldsWait` asks; the earlier is of line
69, waits for nothing, and its agent answered that it has lost the line. An answer on line 5 closes the earlier one, and its loss is raised. -/

/-- A live caching agent on port `p`. -/
def cachingOn (p : BitVec 4) : Agent := ⟨true, true, true, false, p, 0, false, false, false⟩

/-- A port in service with credits. -/
def readyPort : ApPort := { ApPort.init with
  online := true
  link := .online
  reqCred := 8
  snpCred := 8
  rspCred := 8
  datCred := 8 }

/-- The answer of agent 4 to its snoop for `TXID` 7 of agent 3 on line 5. -/
def answerOf4 : Flit := { Flit.plain (Gaid.mk Hub.cold.num 3) 7 5 0 with low := lowField 20 4 }

/-- The snoop of agent 4 for transaction 1 of slice HS5. -/
def snoopOf4 : Snoop := ⟨4, 1, 5, .inv, false, false, false, Gaid.mk Hub.cold.num 3, 7, 5, .txn 1, 99, false, none, false⟩

/-- A span snoop of hub 9 held under index 0, whose agent 4 answered that the line is gone. -/
def heldUnder0 (line : Line) (expect : List La) : HeldSnoop :=
  ⟨0, .fwdS, false, 9, Gaid.mk 9 0, 0, line, .own 4, expect, [], [], [⟨4, .i, 0, true⟩], none, true, 90⟩

/-- A looked-up home transaction of agent 3 on line 5. -/
def openOn5 (op : ReqOp) (v : SView) (g : Gate) : Txn :=
  ⟨1, Hub.cold.reqOf op (Flit.plain (Gaid.mk Hub.cold.num 3) 7 5 0) 0, 90, 100, .looked, v, .none, none, none, some 0, g, [], none, false,
    false, false, false, [], 0, 0, [], none, false, [], false, false, false, 0, false, true, true, false⟩

/-- The hub in service in round 100 with that transaction, agent 4's snoop and both held snoops. -/
def twinHub (x : Txn) : Hub := { Hub.cold with
  round := 100
  start := { Start.init with phase := .serving, step := 12 }
  agents := [(3, cachingOn 0), (4, cachingOn 1)]
  aps := [(0, readyPort), (1, { readyPort with snoops := [snoopOf4] })]
  slices := [(5, { Slice.init with txns := [x], helds := [heldUnder0 69 [], heldUnder0 5 [6]] })] }

/-- The machine with that hub and nothing else. -/
def twinState (x : Txn) : State := ⟨[], Otp.shipped, [], twinHub x⟩

theorem twinState_heldsWait (x : Txn) : heldsWait (twinState x).hub 5 5 := by
  intro k mem line
  have held : k = heldUnder0 69 [] ∨ k = heldUnder0 5 [6] := by
    have helds : ((twinState x).hub.slice 5).helds = [heldUnder0 69 [], heldUnder0 5 [6]] := rfl
    simpa [helds] using mem
  rcases held with rfl | rfl
  · exact absurd line (by decide)
  · exact .inl (by decide)

/-! ### O16 -/

/-- A read that waits for agents 4 and 6. -/
def readOfTwo : Txn := openOn5 .rdShared .unc { Gate.init with expect := [4, 6] }

theorem readOfTwo_answerDue : AnswerDue (twinState readOfTwo).hub 1 answerOf4 snoopOf4 1 readOfTwo :=
  ⟨⟨rfl, rfl, rfl, rfl⟩, by decide +kernel, rfl, by decide +kernel, ⟨rfl, rfl, rfl, rfl, by decide⟩, ⟨6, by decide, by decide⟩, .inl rfl,
    twinState_heldsWait readOfTwo, nofun⟩

/-- Agent 4's `RSP_I` raises `EVT_SF_LINE_LOST` for line 69 (R345). -/
theorem readOfTwo_answer_raisesLost (t : State) (row : exec (.rspI 1 answerOf4) (twinState readOfTwo) = .next t) :
    t.hub.evStatus (evSfLineLost.toNat / 32) = 8 := by
  obtain rfl : _ = t := Host.Outcome.next.inj row
  decide +kernel

/-- Refutes O16: `heldsWait` speaks of the held snoops of the answer's line alone. Where one of another line stands before them under the
same index and waits for nothing, `RSP_I` closes that one and raises its lost line, and the clause lets no event be raised. -/
theorem not_answersAreCollected : ¬Obligations.AnswersAreCollected := by
  intro claim
  obtain ⟨answers, -⟩ := claim (twinState readOfTwo) 1 answerOf4 snoopOf4 1 readOfTwo (payload 0 false false) ⟨payload 0 false false, 0⟩ 0 0 0
  obtain ⟨ends, -⟩ := answers readOfTwo_answerDue
  obtain ⟨t, row, frame, -⟩ := ends .i _ (.inl ⟨rfl, rfl⟩)
  have kept : t.hub.events = (twinState readOfTwo).hub.events := frame .events (by decide)
  have lost := readOfTwo_answer_raisesLost t row
  rw [Hub.evStatus, kept] at lost
  exact absurd lost (by decide)

/-! ### O17 -/

/-- An upgrade that waits for agent 4 alone, the other sharer. -/
def upgradeOfOne : Txn := openOn5 .upgrade (.shr [3, 4] none) { Gate.init with expect := [4], grant := gE }

theorem upgradeOfOne_answer_raisesLost (t : State) (row : exec (.rspI 1 answerOf4) (twinState upgradeOfOne) = .next t) :
    t.hub.evStatus (evSfLineLost.toNat / 32) = 8 := by
  obtain rfl : _ = t := Host.Outcome.next.inj row
  decide +kernel

/-- Refutes O17 by the same two held snoops: the answer that releases the upgrade's gate also closes the one of line 69 and raises its lost
line, and the statement lets no event be raised. -/
theorem not_upgradeCompletesWithItsLastAnswer : ¬Obligations.UpgradeCompletesWithItsLastAnswer := by
  intro claim
  obtain ⟨t, row, frame, -⟩ := claim (twinState upgradeOfOne) 1 answerOf4 snoopOf4 1 upgradeOfOne [3, 4] none ⟨rfl, rfl, rfl, rfl⟩
    (by decide +kernel) rfl (by decide +kernel) nofun (twinState_heldsWait upgradeOfOne) rfl rfl rfl rfl rfl rfl rfl rfl rfl rfl
    ⟨rfl, rfl, rfl, by decide +kernel, by decide +kernel, by decide +kernel⟩
  have kept : t.hub.events = (twinState upgradeOfOne).hub.events := frame .events (by decide)
  have lost := upgradeOfOne_answer_raisesLost t row
  rw [Hub.evStatus, kept] at lost
  exact absurd lost (by decide)

end Sys2Proof.Machine
end

section
/-!
CERTIFICATE. Coherent requests at the edge router (R36, R105, R114, R179, R253, R256).
-/
namespace Sys2Proof.Machine
open Sys2Proof.Safety

/-! ### A reservation load (R179) -/

@[simp] theorem Hub.releaseRsv_epoch (h : Hub) (la : La) : (h.releaseRsv la).epoch = h.epoch := by
  unfold Hub.releaseRsv
  dsimp only
  repeat' split
  all_goals simp

@[simp] theorem Hub.releaseOther_epoch (h : Hub) (r : Req) : (h.releaseOther r).epoch = h.epoch := by
  unfold Hub.releaseOther
  dsimp only
  split <;> simp

/-- The hub in which a new reservation load is presented: its agent's sequence has advanced, its edge router has noted it, and the release of
a recorded reservation with another anchor has gone out. -/
def Hub.loading (h : Hub) (p : BitVec 4) (f : Flit) : Hub :=
  let k := h.stepRsv f.gaid.la
  (k.onAp p fun a => a.note (k.reqOf .rsvLoad f 0)).releaseOther (k.reqOf .rsvLoad f 0)

/-- The message of a reservation load with the advanced sequence of its agent. -/
def Hub.loadReq (h : Hub) (f : Flit) : Req := { h.reqOf .rsvLoad f 0 with rsvSeq := (h.rsvRec f.gaid.la).seq + 1 }

theorem rsvRec_stepRsv (h : Hub) (la : La) : (h.stepRsv la).rsvRec la = { h.rsvRec la with seq := (h.rsvRec la).seq + 1 } := by
  simp [Hub.rsvRec, Hub.stepRsv]

theorem reqOf_stepRsv (h : Hub) (f : Flit) : (h.stepRsv f.gaid.la).reqOf .rsvLoad f 0 = h.loadReq f := by
  simp only [Hub.reqOf, Hub.loadReq, Hub.seqOf, rsvRec_stepRsv]
  rfl

theorem seqOf_stepRsv (h : Hub) (f : Flit) : (h.stepRsv f.gaid.la).seqOf .rsvLoad f.gaid.la = (h.loadReq f).rsvSeq := by
  simp [Hub.seqOf, rsvRec_stepRsv, Hub.loadReq]

theorem request_rsvLoad {h : Hub} {p : BitVec 4} {f : Flit} (n : NewRequest h p f .rsvLoad none) :
    h.request p f .rsvLoad none 0 = (h.loading p f).present (h.loadReq f) none := by
  have letIn : h.letIn p f .rsvLoad none 0 =
      ((h.stepRsv f.gaid.la).onAp p fun a => a.note ((h.stepRsv f.gaid.la).reqOf .rsvLoad f 0)).inject
        ((h.stepRsv f.gaid.la).reqOf .rsvLoad f 0) none := by
    simp only [Hub.letIn, n.fresh, Option.bind_none, repFate, Option.isSome_none, Bool.not_false, Bool.and_true, beq_self_eq_true, if_true]
  have stamped : { h.loadReq f with rsvSeq := (h.stepRsv f.gaid.la).seqOf .rsvLoad f.gaid.la } = h.loadReq f := by rw [seqOf_stepRsv]
  rw [request_new h p f .rsvLoad none 0 n, letIn, reqOf_stepRsv]
  show Hub.present _ { h.loadReq f with rsvSeq := (h.stepRsv f.gaid.la).seqOf .rsvLoad f.gaid.la } none = _
  rw [stamped, Hub.loading, reqOf_stepRsv]

theorem rsvLoad_only {s : State} {p : BitVec 4} {f : Flit} (n : NewRequest s.hub p f .rsvLoad none) :
    onlyIn (presentParts ++ [.rsvRecs, .rsvNotes, .sps, .out]) s (s.withHub fun h => h.request p f .rsvLoad none 0) := by
  simp only [State.withHub, request_rsvLoad n]
  intro q hq
  cases q <;> simp [presentParts] at hq <;> simp [Part.same, Hub.present, Hub.loading, Hub.stepRsv]

theorem rsvLoad_presented {s : State} {p : BitVec 4} {f : Flit} (n : NewRequest s.hub p f .rsvLoad none) :
    Presented s (s.withHub fun h => h.request p f .rsvLoad none 0) p (s.hub.loadReq f) none := by
  have slices : (s.hub.loading p f).slices = s.hub.slices := by simp [Hub.loading, Hub.stepRsv]
  have home : (s.hub.loading p f).homeHs f.line = s.hub.homeHs f.line :=
    homeHs_congr _ _ _ (by simp [Hub.loading, Hub.stepRsv]) (by simp [Hub.loading, Hub.stepRsv])
  have aps : ((s.hub.loading p f).present (s.hub.loadReq f) none).aps = (s.hub.onAp p fun a => a.note (s.hub.loadReq f)).aps := by
    rw [Hub.present_aps, Hub.loading, reqOf_stepRsv]
    simp [Hub.onAp, Hub.stepRsv]
  have round : (s.hub.loading p f).round = s.hub.round := by simp [Hub.loading, Hub.stepRsv]
  have age : (s.hub.loading p f).ageOf f.gaid s.hub.round = s.hub.ageOf f.gaid s.hub.round := by
    simp [Hub.ageOf, Hub.loading, Hub.stepRsv]
  simp only [State.withHub, request_rsvLoad n]
  refine ⟨?slice, ?others, ?ports, ?noted, ?staged⟩
  case slice =>
    show Hub.slice _ _ = _
    rw [Hub.present_slice, Hub.slice_congr _ _ _ slices, round]
    show (if s.hub.homeHs f.line = (s.hub.loading p f).homeHs f.line then _ else _) = _
    rw [if_pos home.symm]
    have aged : { s.hub.loadReq f with age := (s.hub.loading p f).ageOf (s.hub.loadReq f).gaid s.hub.round } = s.hub.loadReq f := by
      show { s.hub.loadReq f with age := (s.hub.loading p f).ageOf f.gaid s.hub.round } = _
      rw [age, Hub.loadReq, Hub.reqOf]
    rw [aged]
  case others =>
    intro m other
    show Hub.slice _ _ = _
    rw [Hub.present_slice, Hub.slice_congr _ _ _ slices]
    exact if_neg fun e => other (e.trans home)
  case ports =>
    intro q other
    show Hub.ap _ _ = _
    rw [Hub.ap_congr _ _ q aps, Hub.ap_onAp_ne _ _ _ _ other]
  case noted =>
    show _ ∈ (Hub.ap _ _).outst
    rw [Hub.ap_congr _ _ p aps, Hub.ap_onAp_self]
    simp [ApPort.note]
  case staged => simp

theorem rsvLoad_sequence {s : State} {p : BitVec 4} {f : Flit} (n : NewRequest s.hub p f .rsvLoad none) :
    (s.withHub fun h => h.request p f .rsvLoad none 0).hub.rsvRec f.gaid.la =
      { s.hub.rsvRec f.gaid.la with seq := (s.hub.rsvRec f.gaid.la).seq + 1 } := by
  have recs : ((s.hub.loading p f).present (s.hub.loadReq f) none).rsvRecs = (s.hub.stepRsv f.gaid.la).rsvRecs := by
    simp [Hub.present, Hub.loading]
  simp only [State.withHub, request_rsvLoad n]
  rw [Hub.rsvRec, recs]
  exact rsvRec_stepRsv _ _

/-! ### O6 -/

/-- Settles O6: a new request passes its edge router's checks, and its presentation then writes its slice and its port alone. -/
theorem coherentRequestsArePresented : Obligations.CoherentRequestsArePresented := by
  intro s p f d operand
  have plain {op : ReqOp} {w : Option WrData} {o : BitVec 256} (n : NewRequest s.hub p f op w) (other : op ≠ .rsvLoad) :
      ∃ t, (.next (s.withHub fun h => h.request p f op w o) : Host.Outcome State Fault Refusal) = .next t ∧ onlyIn presentParts s t ∧
        Presented s t p (s.hub.reqOf op f o) w :=
    ⟨_, rfl, present_only s p f _ _ _ n other, presented s p f _ _ _ n other⟩
  exact ⟨fun n => plain n nofun, fun n => plain n nofun, fun n => plain n nofun, fun n => plain n nofun, fun n => plain n nofun,
    fun n => ⟨_, rfl, rsvLoad_only n, rsvLoad_presented n, rsvLoad_sequence n⟩,
    fun n => plain n nofun, fun n => plain n nofun, fun n => plain n nofun, fun n => plain n nofun⟩

end Sys2Proof.Machine
end

section
/-!
SUPPORT. What the raise of an event leaves of the agents, of their ports and of what the hub has sent (R249, R320, R450–R452).
-/
namespace Sys2Proof.Machine
open Sys2Proof.Safety

/-! ### The relations -/

/-- An agent's record but for the power state of its port (R412). -/
def Agent.awake (a : Agent) : Agent := { a with parked := false }

/-- A port but for what a message of class `REQ` to its agent may change: the frame in the making, the credits that such a message takes,
and what waits for them (R248, R249). -/
def ApPort.still (a : ApPort) : ApPort := { a with
  frame := ApPort.init.frame
  reqCred := 0
  datCred := 0
  stalled := []
  stallDue := false
  parked := false }

/-- What nothing that a slice does takes back: the agents' records, the events raised, and the messages sent. -/
structure Hub.Calm (h k : Hub) : Prop where
  agent : ∀ a, (k.agent a).awake = (h.agent a).awake
  raised : ∀ e, raised h e → raised k e
  out : h.out <+: k.out

/-- `k` is `h` after reports of events: its ports are as they were but for messages of class `REQ`. -/
structure Hub.Reported (h k : Hub) : Prop extends Hub.Calm h k where
  port : ∀ p, (k.ap p).still = (h.ap p).still
  stalled : ∀ p, ∀ x ∈ (k.ap p).stalled, x ∈ (h.ap p).stalled ∨ x.2.cls = .req

theorem Hub.Calm.refl (h : Hub) : h.Calm h := ⟨fun _ => rfl, fun _ => id, List.prefix_rfl⟩

theorem Hub.Calm.trans {h k m : Hub} (first : h.Calm k) (second : k.Calm m) : h.Calm m :=
  ⟨fun a => (second.agent a).trans (first.agent a), fun e => second.raised e ∘ first.raised e, first.out.trans second.out⟩

theorem Hub.Reported.refl (h : Hub) : h.Reported h := ⟨Hub.Calm.refl h, fun _ => rfl, fun _ _ => .inl⟩

theorem Hub.Reported.trans {h k m : Hub} (first : h.Reported k) (second : k.Reported m) : h.Reported m :=
  ⟨first.toCalm.trans second.toCalm, fun p => (second.port p).trans (first.port p),
    fun p x mem => (second.stalled p x mem).elim (first.stalled p x) .inr⟩

/-- A change of parts that the relation does not speak of. -/
theorem Hub.Calm.of_eq {h k : Hub} (agents : k.agents = h.agents) (events : k.events = h.events) (out : k.out = h.out) : h.Calm k :=
  ⟨fun a => by rw [Hub.agent, agents, Hub.agent], fun e up => by simpa only [Safety.raised, Hub.evStatus, events] using up, out ▸ List.prefix_rfl⟩

theorem Hub.Reported.of_eq {h k : Hub} (agents : k.agents = h.agents) (events : k.events = h.events) (out : k.out = h.out)
    (aps : k.aps = h.aps) : h.Reported k :=
  ⟨.of_eq agents events out, fun p => by rw [Hub.ap_congr k h p aps], fun p x mem => .inl (by rwa [Hub.ap_congr h k p aps.symm])⟩

theorem Hub.Reported.after {h k m : Hub} (second : k.Reported m) (agents : k.agents = h.agents) (events : k.events = h.events)
    (out : k.out = h.out) (aps : k.aps = h.aps) : h.Reported m := (Hub.Reported.of_eq agents events out aps).trans second

/-! ### A message of class `REQ` to an agent -/

theorem still_spend {a : ApPort} {m : AgentMsg} (req : m.cls = .req) : (a.spend m).still = a.still := by
  simp [ApPort.spend, ApPort.still, req]

theorem still_sent {a : ApPort} {m : AgentMsg} (req : m.cls = .req) :
    ({ a.spend m with frame := a.frame.queue m.units } : ApPort).still = a.still := still_spend (a := a) req

theorem reqMsg_cls (r : DevReq) : r.reqMsg.cls = .req := by
  cases w : r.write
  · simp [DevReq.reqMsg, AgentMsg.cls, AgentMsg.takesDat, agentMsg, w]; decide
  · simp [DevReq.reqMsg, AgentMsg.cls, AgentMsg.takesDat, agentMsg, w]; decide

/-- A change of one port that leaves it still and lets only messages of class `REQ` wait. -/
theorem reported_onAp (h : Hub) (p : BitVec 4) (f : ApPort → ApPort) (still : (f (h.ap p)).still = (h.ap p).still)
    (stalled : ∀ x ∈ (f (h.ap p)).stalled, x ∈ (h.ap p).stalled ∨ x.2.cls = .req) : h.Reported (h.onAp p f) := by
  refine ⟨.of_eq rfl rfl rfl, fun q => ?_, fun q => ?_⟩
  · by_cases own : q = p
    · rw [own, Hub.ap_onAp_self, still]
    · rw [Hub.ap_onAp_ne _ _ _ _ own]
  · by_cases own : q = p
    · rw [own, Hub.ap_onAp_self]
      exact stalled
    · rw [Hub.ap_onAp_ne _ _ _ _ own]
      exact fun _ => .inl

theorem reported_emit (h : Hub) (m : OutMsg) : h.Reported (h.emit m) :=
  ⟨⟨fun _ => rfl, fun _ => id, List.prefix_append _ _⟩, fun _ => rfl, fun _ _ => .inl⟩

theorem reported_passOrStall (h : Hub) (p : BitVec 4) (src : Nat) (m : AgentMsg) (req : m.cls = .req) :
    h.Reported (h.passOrStall p src m).1 := by
  unfold Hub.passOrStall
  dsimp only
  split
  · have spent := reported_onAp h p (fun a => { a.spend m with frame := a.frame.queue m.units }) (still_sent req) fun _ => .inl
    have sent := spent.trans (reported_emit _ (.agent p m))
    unfold Hub.passMsg
    dsimp only
    split
    · exact sent
    · exact sent.trans (.of_eq (by simp) (by simp) (by simp) (by simp))
  · exact reported_onAp h p _ rfl fun x mem => (List.mem_append.1 mem).imp_right fun e => by rw [List.mem_singleton.1 e]; exact req

theorem reported_sendDev (h : Hub) (r : DevReq) : h.Reported (h.sendDev r) := by
  have sent := reported_passOrStall h (h.agent r.target).port epDev r.reqMsg (reqMsg_cls r)
  unfold Hub.sendDev
  dsimp only
  split
  · exact sent.trans (reported_onAp _ _ _ rfl fun _ => .inl)
  · exact sent

/-! ### A port that is asked to serve (R320) -/

theorem Tbl.look_change {α : Type} (t : Tbl α) (i j : Nat) (f : α → α) :
    (t.change i f).look j = if j = i then (t.look j).map f else t.look j := by
  induction t with
  | nil => simp [Tbl.change, Tbl.look]
  | cons e t ih =>
    obtain ⟨k, v⟩ := e
    simp only [Tbl.change, List.map_cons] at ih ⊢
    by_cases found : k = j
    · by_cases here : k = i
      · simp_all [Tbl.look]
      · simp_all [Tbl.look]
    · by_cases here : k = i
      · simp_all [Tbl.look]
      · simp_all [Tbl.look]

theorem reported_unpark (h : Hub) (d : Domain) : h.Reported (h.unpark d) := by
  cases d with
  | mp _ => exact .refl h
  | sp _ => exact .refl h
  | ap p =>
    have port : ∀ q, ((h.unpark (.ap p)).ap q) = h.ap q ∨ (h.unpark (.ap p)).ap q = { h.ap q with parked := false } := by
      intro q
      simp only [Hub.unpark, Hub.ap, Tbl.getD, Tbl.look_change]
      split
      · cases h.aps.look q.toNat
        · exact .inl rfl
        · exact .inr rfl
      · exact .inl rfl
    refine ⟨⟨fun a => ?_, fun _ => id, List.prefix_rfl⟩, fun q => ?_, fun q x mem => .inl ?_⟩
    · simp only [Hub.unpark, Hub.agent, Tbl.getD,
        Tbl.look_map (fun v : Agent => if v.port = p then { v with parked := false } else v)]
      cases h.agents.look a.toNat with
      | none => rfl
      | some v =>
      simp only [Option.map_some, Option.getD_some]
      split
      · rfl
      · rfl
    · rcases port q with e | e
      · rw [e]
      · rw [e]
        rfl
    · rcases port q with e | e
      · rwa [e] at mem
      · rwa [e] at mem

theorem reported_apReady (h : Hub) (p : BitVec 4) : h.Reported (h.apReady p).1 := by
  unfold Hub.apReady Hub.domReady
  split
  · exact .refl h
  · exact .refl h
  · exact (reported_unpark { h with power := { h.power with doms := h.power.doms.drop (domKey (.ap p)) } } (.ap p)).after rfl rfl rfl rfl
  · exact .of_eq rfl rfl rfl rfl

/-! ### Delivery (R451, R452) -/

theorem reported_devPumpList (l : List DevReq) : ∀ (b : List (Gaid × Nat)) (h : Hub), h.Reported (Hub.devPumpList l b h) := by
  induction l with
  | nil => exact fun _ h => .refl h
  | cons r l ih =>
    intro b h
    have ready := reported_apReady h (h.agent r.target).port
    unfold Hub.devPumpList
    dsimp only
    split
    · exact ih _ _
    · split
      · exact ih _ _
      · split
        · exact ready.trans (((reported_sendDev _ r).trans (ih _ _)).after rfl rfl rfl rfl)
        · exact ready.trans (ih _ _)

theorem reported_devAdd (h : Hub) (r : DevReq) : h.Reported (h.devAdd r) :=
  (reported_devPumpList _ [] _).after rfl rfl rfl rfl

theorem reported_sendIrq (h : Hub) (g : Nat) : h.Reported (h.sendIrq g) := by
  unfold Hub.sendIrq
  dsimp only
  split
  · exact .refl h
  · split
    · exact .refl h
    · split
      · exact reported_devAdd h _
      · exact .of_eq rfl rfl rfl rfl

theorem reported_deliver (h : Hub) (g : Nat) (old : BitVec 32) (sv : Sev) : h.Reported (h.deliver g old sv) := by
  unfold Hub.deliver
  dsimp only
  split <;> split
  · exact (reported_sendIrq h g).trans (reported_emit _ _)
  · exact (reported_emit _ _)
  · exact reported_sendIrq h g
  · exact .refl h

theorem raised_mono_raise (h : Hub) (r : Raise) (e : BitVec 10) (up : raised h e) : raised (h.raise r) e := by
  unfold raised at up ⊢
  rw [evStatus_raise]
  split <;> simp [up]

theorem reported_raise (h : Hub) (r : Raise) : h.Reported (h.raise r) := by
  have told := reported_deliver { h with
    events := if h.logs { r with round := h.round } then (h.events.mark r.src).capture { r with round := h.round } else h.events.mark r.src
    aon := h.aon.follow h.start.fatal r.src } (r.src.toNat / 32) (h.evStatus (r.src.toNat / 32)) (severity r.src)
  exact ⟨⟨told.agent, raised_mono_raise h r, told.out⟩, told.port, told.stalled⟩

theorem reported_foldl {α : Type} {g : Hub → α → Hub} (step : ∀ (h : Hub) x, h.Reported (g h x)) (l : List α) : ∀ h : Hub, h.Reported (l.foldl g h) := by
  induction l with
  | nil => exact .refl
  | cons x l ih => exact fun h => (step h x).trans (ih _)

theorem reported_count (h : Hub) (ev unit n : Nat) : h.Reported (h.count ev unit n) := .of_eq (by simp) (by simp) (by simp) (by simp)

theorem reported_onSlice (h : Hub) (hs : Nat) (f : Slice → Slice) : h.Reported (h.onSlice hs f) := .of_eq rfl rfl rfl rfl

/-! ### What an agent still hears -/

theorem Hub.Calm.online {h k : Hub} (c : h.Calm k) (a : La) : (k.agent a).online = (h.agent a).online := congrArg (·.online) (c.agent a)
theorem Hub.Calm.dead {h k : Hub} (c : h.Calm k) (a : La) : (k.agent a).dead = (h.agent a).dead := congrArg (·.dead) (c.agent a)
theorem Hub.Calm.agentPort {h k : Hub} (c : h.Calm k) (a : La) : (k.agent a).port = (h.agent a).port := congrArg (·.port) (c.agent a)

/-- A completion goes to its agent at once: the agent lives, and its port has a credit of class `RSP` and holds nothing of the classes `RSP`
and `DAT` up. -/
structure Hub.hearsCmp (h : Hub) (a : La) : Prop where
  online : (h.agent a).online = true
  alive : (h.agent a).dead = false
  credit : 1 ≤ (h.ap (h.agent a).port).rspCred
  free : ∀ x ∈ (h.ap (h.agent a).port).stalled, x.2.cls = .req

theorem hearsCmp_of_hears {h : Hub} {a : La} (H : hears h a) : h.hearsCmp a := by
  obtain ⟨online, alive, stalled, -, rsp, -⟩ := H
  exact ⟨online, alive, rsp, by simp [stalled]⟩

theorem Hub.Reported.hearsCmp {h k : Hub} {a : La} (rep : h.Reported k) (H : h.hearsCmp a) : k.hearsCmp a := by
  have port := rep.agentPort a
  refine ⟨(rep.online a).trans H.online, (rep.dead a).trans H.alive, ?_, fun x mem => ?_⟩
  · rw [port, show (k.ap _).rspCred = (h.ap _).rspCred from congrArg (·.rspCred) (rep.port (h.agent a).port)]
    exact H.credit
  · rw [port] at mem
    exact (rep.stalled _ x mem).elim (H.free x) id

/-- A completion without data that its agent hears is sent. -/
theorem toAgent_hearsCmp {h : Hub} {src : Nat} {m : AgentMsg} (H : h.hearsCmp m.dst) (op : m.opc = opCmp) (bare : m.data = none) :
    (h.toAgent src m).out = h.out ++ [.agent (h.agent m.dst).port m] := by
  have cls : m.cls = .rsp := by simp [AgentMsg.cls, op, opCmp, opDevRd, msgClass]
  have takes : m.takesDat = false := by simp [AgentMsg.takesDat, bare]
  have pass : (h.ap (h.agent m.dst).port).mayPass m = true := by
    have free : ((h.ap (h.agent m.dst).port).stalled.any fun x => x.2.holdsUp m) = false := by
      rw [List.any_eq_false]
      intro x mem
      simp [AgentMsg.holdsUp, H.free x mem, cls, takes]
    simp [ApPort.mayPass, ApPort.hasCredit, takes, cls, H.credit, free]
  simp [Hub.toAgent, H.online, H.alive, Hub.passOrStall, pass, Hub.passMsg, cls, Hub.emit]

end Sys2Proof.Machine
end

section
/-!
SUPPORT. What the upkeep of a slice leaves of it: the operations of its hub cache (R286–R304), and those that hold, free and hand on the ways
of its snoop filter (R83, R89, R92, R93).
-/
namespace Sys2Proof.Machine
open Sys2Proof.Safety

/-! ### Slices seen without what is kept up -/

/-- A buffered line but for its place in its write queue, which a fill that waits for it moves to the head (R293). -/
def WbLine.unpushed (x : WbLine) : WbLine := { x with front := false }

/-- A slice but for its hub cache, its fill buffer, and the heads of the write queues. -/
def Slice.uncached (s : Slice) : Slice := { s with
  hcTag := []
  hcData := []
  hcAge := []
  hcRsv := []
  fills := []
  wayErr := []
  wayMark := 0
  markDue := 0
  wayDis := 0
  wb := s.wb.map WbLine.unpushed }

/-- A ticket but for its claim on a way (R89). -/
def Ticket.unclaimed (t : Ticket) : Ticket := { t with claim := false }

/-- A slice but for its hub cache, its transactions, its claims, and the ways and the run-ahead queues of its filters. -/
def Slice.bare (s : Slice) : Slice := { s.uncached with
  txns := []
  tickets := s.tickets.map Ticket.unclaimed
  rsvWays := []
  rsvHWays := []
  sf := []
  nru := []
  runQ := []
  sdRunQ := [] }

/-- A transaction waits for its predecessor or for its way (R67, R92). -/
def Txn.Waits (t : Txn) : Prop := t.phase = .waitPred ∨ t.phase = .waitWay

/-- A transaction that has waited may have gone on; any other is as it was. -/
def Txn.Goes (t u : Txn) : Prop := u = t ∨ t.Waits ∧ u.tid = t.tid ∧ u.req = t.req

/-- The slice after operations of its hub cache. -/
def Slice.Cached (a b : Slice) : Prop := b.uncached = a.uncached

/-- The slice after its ways have been kept up. -/
structure Slice.Tended (a b : Slice) : Prop where
  bare : b.bare = a.bare
  txns : List.Forall₂ Txn.Goes a.txns b.txns

theorem Slice.Cached.refl (a : Slice) : a.Cached a := rfl
theorem Slice.Cached.trans {a b c : Slice} (first : a.Cached b) (second : b.Cached c) : a.Cached c := Eq.trans second first

theorem Txn.Goes.trans {t u v : Txn} (first : t.Goes u) (second : u.Goes v) : t.Goes v := by
  rcases first with rfl | ⟨waits, tid, req⟩
  · exact second
  · rcases second with rfl | ⟨-, tid', req'⟩
    · exact .inr ⟨waits, tid, req⟩
    · exact .inr ⟨waits, tid'.trans tid, req'.trans req⟩

theorem forall₂_goes_refl : ∀ l : List Txn, List.Forall₂ Txn.Goes l l
  | [] => .nil
  | _ :: l => .cons (.inl rfl) (forall₂_goes_refl l)

theorem forall₂_goes_trans : ∀ {a b c : List Txn}, List.Forall₂ Txn.Goes a b → List.Forall₂ Txn.Goes b c → List.Forall₂ Txn.Goes a c
  | _, _, _, .nil, .nil => .nil
  | _, _, _, .cons p first, .cons q second => .cons (p.trans q) (forall₂_goes_trans first second)

theorem Slice.Tended.refl (a : Slice) : a.Tended a := ⟨rfl, forall₂_goes_refl _⟩
theorem Slice.Tended.trans {a b c : Slice} (first : a.Tended b) (second : b.Tended c) : a.Tended c :=
  ⟨second.bare.trans first.bare, forall₂_goes_trans first.txns second.txns⟩

theorem Slice.Cached.txns {a b : Slice} (H : a.Cached b) : b.txns = a.txns := congrArg (fun s => s.txns) H
theorem Slice.Cached.tickets {a b : Slice} (H : a.Cached b) : b.tickets = a.tickets := congrArg (fun s => s.tickets) H
theorem Slice.Cached.sf {a b : Slice} (H : a.Cached b) : b.sf = a.sf := congrArg (fun s => s.sf) H

theorem Slice.Cached.tended {a b : Slice} (H : a.Cached b) : a.Tended b := by
  refine ⟨?_, by rw [H.txns]; exact forall₂_goes_refl _⟩
  unfold Slice.bare
  rw [H, H.tickets]

/-! ### Hubs -/

/-- The rotation but for the slices that it takes first (R345). -/
def Rot.unqueued (r : Rot) : Rot := { r with front := [] }

/-- Every slice is as `R` says, slices other than `hs` and the newt slice that mirrors it (R359) are as before, and agents and their ports have
had reports of events alone. -/
structure Hub.Tends (R : Slice → Slice → Prop) (hs : Nat) (h k : Hub) : Prop where
  slice : ∀ m, R (h.slice m) (k.slice m)
  others : otherArrays h k hs
  rot : k.rot.unqueued = h.rot.unqueued
  told : h.Reported k

theorem Hub.Tends.newt {R : Slice → Slice → Prop} {hs : Nat} {h k : Hub} (H : h.Tends R hs k) : k.rot.newt = h.rot.newt :=
  congrArg (fun r => r.newt) H.rot

theorem Hub.Tends.mono {R S : Slice → Slice → Prop} {hs : Nat} {h k : Hub} (sub : ∀ {a b}, R a b → S a b) (H : h.Tends R hs k) :
    h.Tends S hs k := ⟨fun m => sub (H.slice m), H.others, H.rot, H.told⟩

theorem otherArrays_trans {h k m : Hub} {hs : Nat} (newt : k.rot.newt = h.rot.newt) (first : otherArrays h k hs)
    (second : otherArrays k m hs) : otherArrays h m hs :=
  fun n other mirror => (second n other (by rwa [newt])).trans (first n other mirror)

theorem otherArrays_of_otherSlices {h k : Hub} {hs : Nat} (H : otherSlices h k hs) : otherArrays h k hs := fun m other _ => H m other

section
variable {R : Slice → Slice → Prop} (refl : ∀ a, R a a)
include refl

theorem tends_of_eq {hs : Nat} {h k : Hub} (slices : k.slices = h.slices) (rot : k.rot = h.rot) (told : h.Reported k) : h.Tends R hs k :=
  ⟨fun m => by rw [Hub.slice_congr k h m slices]; exact refl _, fun m _ _ => Hub.slice_congr k h m slices, by rw [rot], told⟩

theorem tends_onSlice {hs : Nat} (h : Hub) (f : Slice → Slice) (H : R (h.slice hs) (f (h.slice hs))) : h.Tends R hs (h.onSlice hs f) := by
  refine ⟨fun m => ?_, fun m other _ => Hub.slice_onSlice_ne h hs m f other, rfl, reported_onSlice h hs f⟩
  rw [Hub.slice_onSlice]
  split
  case isTrue e => exact e ▸ H
  case isFalse => exact refl _

theorem tends_onMirror {hs n grp : Nat} (h k : Hub) (f : Slice → Slice) (mirror : h.mirrorOf hs grp = some n) (rot : k.rot = h.rot)
    (H : R (k.slice n) (f (k.slice n))) : k.Tends R hs (k.onSlice n f) := by
  have newt : k.rot.newt.map (fun n => n.toNat) = some n := by
    unfold Hub.mirrorOf at mirror
    split at mirror
    · rwa [rot]
    · cases mirror
  refine ⟨fun m => ?_, fun m _ other => Hub.slice_onSlice_ne k n m f fun e => other (e ▸ newt), rfl, reported_onSlice k n f⟩
  rw [Hub.slice_onSlice]
  split
  case isTrue e => exact e ▸ H
  case isFalse => exact refl _

theorem tends_onMirrored {hs grp : Nat} (h : Hub) (f : Slice → Slice) (H : ∀ a, R a (f a)) (trans : ∀ {a b c}, R a b → R b c → R a c) :
    h.Tends R hs (h.onMirrored hs grp f) := by
  have own := tends_onSlice refl (hs := hs) h f (H _)
  unfold Hub.onMirrored
  split
  case h_1 n mirror =>
    have mir := tends_onMirror refl h (h.onSlice hs f) f mirror rfl (H _)
    exact ⟨fun m => trans (own.slice m) (mir.slice m), otherArrays_trans (k := h.onSlice hs f) rfl own.others mir.others, rfl,
      own.told.trans mir.told⟩
  case h_2 => exact own

end

/-- What the hub cache's operations leave. -/
abbrev Hub.Caches (hs : Nat) (h k : Hub) : Prop := h.Tends Slice.Cached hs k
/-- What the upkeep of a slice's ways leaves. -/
abbrev Hub.Keeps (hs : Nat) (h k : Hub) : Prop := h.Tends Slice.Tended hs k

theorem Hub.Caches.trans {hs : Nat} {h k m : Hub} (first : Hub.Caches hs h k) (second : Hub.Caches hs k m) : Hub.Caches hs h m :=
  ⟨fun n => (first.slice n).trans (second.slice n), otherArrays_trans first.newt first.others second.others, second.rot.trans first.rot,
    first.told.trans second.told⟩

theorem Hub.Keeps.trans {hs : Nat} {h k m : Hub} (first : Hub.Keeps hs h k) (second : Hub.Keeps hs k m) : Hub.Keeps hs h m :=
  ⟨fun n => (first.slice n).trans (second.slice n), otherArrays_trans first.newt first.others second.others, second.rot.trans first.rot,
    first.told.trans second.told⟩

theorem Hub.Caches.keeps {hs : Nat} {h k : Hub} (H : Hub.Caches hs h k) : Hub.Keeps hs h k := H.mono Slice.Cached.tended

theorem caches_refl (hs : Nat) (h : Hub) : Hub.Caches hs h h := tends_of_eq Slice.Cached.refl rfl rfl (.refl h)
theorem caches_onSlice {hs : Nat} (h : Hub) (f : Slice → Slice) (H : (h.slice hs).Cached (f (h.slice hs))) :
    Hub.Caches hs h (h.onSlice hs f) := tends_onSlice Slice.Cached.refl h f H
theorem caches_raise (hs : Nat) (h : Hub) (r : Raise) : Hub.Caches hs h (h.raise r) :=
  tends_of_eq Slice.Cached.refl (by simp) (by simp) (reported_raise h r)
theorem caches_count (hs : Nat) (h : Hub) (ev unit n : Nat) : Hub.Caches hs h (h.count ev unit n) :=
  tends_of_eq Slice.Cached.refl (by simp) (by simp) (reported_count h ev unit n)

/-! ### The hub cache (R286–R304) -/

theorem cached_putAges (ways : List Nat) (set : BitVec 10) (a : Slice → Nat → BitVec 2) :
    ∀ s : Slice, s.Cached (ways.foldl (fun s w => s.putAge set w (a s w)) s) := by
  induction ways with
  | nil => exact Slice.Cached.refl
  | cons w l ih => exact fun s => (show s.Cached (s.putAge set w (a s w)) from rfl).trans (ih _)

theorem cached_hcVictim (s : Slice) (set : BitVec 10) (ways : List Nat) (demand : Bool) : s.Cached (s.hcVictim set ways demand).2 := by
  unfold Slice.hcVictim
  split
  · rfl
  · split
    · rfl
    · split
      · exact cached_putAges ways set _ s
      · rfl

theorem cached_dropFill (s : Slice) (l : Line) : s.Cached (s.dropFill l) := by
  unfold Slice.dropFill
  split
  · rfl
  · rfl

theorem cached_dropOrChange (s : Slice) (c : Prop) [Decidable c] (l : Line) (f : Fill → Fill) :
    s.Cached (if c then s.dropFill l else s.onFill l f) := by
  split
  · exact cached_dropFill s l
  · rfl

theorem cached_pushWrite (s : Slice) (l : Line) : s.Cached (s.pushWrite l) := by
  have lines : (s.pushWrite l).wb.map WbLine.unpushed = s.wb.map WbLine.unpushed := by
    simp only [Slice.pushWrite, List.mapIf, List.map_map]
    refine List.map_congr_left fun x _ => ?_
    simp only [Function.comp_apply]
    split <;> rfl
  show (s.pushWrite l).uncached = s.uncached
  unfold Slice.uncached
  rw [lines]
  rfl

theorem caches_putHc (h : Hub) (hs : Nat) (set : BitVec 10) (way : Nat) (w : Word) (b : LineBits) :
    Hub.Caches hs h (h.putHc hs set way w b) := by
  unfold Hub.putHc
  dsimp only
  split
  · exact caches_onSlice h _ rfl
  case h_2 n mirror =>
    split
    · exact (caches_onSlice h _ (by exact rfl)).trans (tends_onMirror Slice.Cached.refl _ _ _ mirror rfl (by exact rfl))
    · split
      · exact (caches_onSlice h _ (by exact rfl)).trans (tends_onMirror Slice.Cached.refl _ _ _ mirror rfl (by exact rfl))
      · exact caches_onSlice h _ rfl

theorem caches_tryDisable (h : Hub) (hs way : Nat) : Hub.Caches hs h (h.tryDisable hs way) := by
  have down := (caches_onSlice (hs := hs) h (fun s => { s with
    wayMark := s.wayMark &&& ~~~(1#16 <<< way)
    wayDis := s.wayDis ||| (1#16 <<< way) }) rfl).trans (caches_raise hs _ { rz evHcWayDisabled hs with sw := some (0, BitVec.ofNat 4 way) })
  unfold Hub.tryDisable
  dsimp only
  split
  · split
    · exact ⟨down.slice, down.others, down.rot, down.told.trans (.of_eq rfl rfl rfl rfl)⟩
    · exact down
  · exact caches_refl hs h

theorem caches_hcInvalidateWay (h : Hub) (hs : Nat) (set : BitVec 10) (way : Nat) : Hub.Caches hs h (h.hcInvalidateWay hs set way) := by
  unfold Hub.hcInvalidateWay
  dsimp only
  refine Hub.Caches.trans ?_ (caches_tryDisable _ hs way)
  split
  · split
    · exact (caches_putHc ..).trans (caches_raise ..)
    · exact caches_putHc ..
  · exact caches_putHc ..

theorem caches_invalidateIf {h k : Hub} {hs : Nat} (c : Prop) [Decidable c] (set : BitVec 10) (way : Nat) (H : Hub.Caches hs h k) :
    Hub.Caches hs h (if c then k.hcInvalidateWay hs set way else k) := by
  split
  · exact H.trans (caches_hcInvalidateWay ..)
  · exact H

theorem caches_fillDropped (h : Hub) (hs : Nat) (l : Line) : Hub.Caches hs h (h.fillDropped hs l) :=
  (caches_raise hs h _).trans (caches_count hs _ _ _ _)

theorem caches_takeVictim (h : Hub) (hs : Nat) (set : BitVec 10) (way : Nat) : Hub.Caches hs h (h.takeVictim hs set way).1 := by
  unfold Hub.takeVictim
  extract_lets w v emptied reserved
  have empty : Hub.Caches hs h emptied := by
    unfold emptied
    split
    · exact caches_putHc ..
    · exact caches_refl hs h
  have kept : Hub.Caches hs h reserved := empty.trans (caches_onSlice emptied _ rfl)
  split
  · exact kept.trans (caches_onSlice _ _ (cached_pushWrite _ _))
  · exact kept

theorem caches_installFill (h : Hub) (hs : Nat) (f : Fill) : Hub.Caches hs h (h.installFill hs f) := by
  unfold Hub.installFill
  split
  · exact ((caches_onSlice h _ (cached_dropFill _ _)).trans (caches_putHc ..)).trans (caches_onSlice _ _ (by exact rfl))
  · exact caches_refl hs h

theorem caches_onFill (h : Hub) (hs : Nat) (l : Line) (f : Fill → Fill) : Hub.Caches hs h (h.onSlice hs fun s => s.onFill l f) :=
  caches_onSlice h _ rfl

/-- The fill that has joined the fill buffer is installed where nothing holds it up. -/
theorem caches_installUnless {h k : Hub} {hs : Nat} (c : Prop) [Decidable c] (f : Fill) (H : Hub.Caches hs h k) :
    Hub.Caches hs h (if c then k else k.installFill hs f) := by
  split
  · exact H
  · exact H.trans (caches_installFill ..)

/-- A victim is taken for a fill that joins the fill buffer. -/
theorem caches_joinFill (h : Hub) (hs : Nat) (v : Slice) (set : BitVec 10) (way : Nat) (g : Hub × Option Line → Fill)
    (same : (h.slice hs).Cached v) :
    Hub.Caches hs h (((h.onSlice hs fun _ => v).takeVictim hs set way).1.onSlice hs fun s => { s with
      fills := s.fills ++ [g ((h.onSlice hs fun _ => v).takeVictim hs set way)] }) :=
  ((caches_onSlice h _ same).trans (caches_takeVictim ..)).trans (caches_onSlice _ _ (by exact rfl))

theorem caches_fillArrive (h : Hub) (hs : Nat) (l : Line) (kind : FillKind) (d : LineBits) (poison : Bool) :
    Hub.Caches hs h (h.fillArrive hs l kind d poison) := by
  unfold Hub.fillArrive
  dsimp only
  split
  · exact caches_refl hs h
  · split
    · split
      · exact caches_refl hs h
      · exact caches_installUnless _ _ (caches_onFill ..)
    · split
      · exact caches_fillDropped ..
      · split
        case h_1 => exact (caches_onSlice h _ (cached_hcVictim ..)).trans (caches_fillDropped ..)
        case h_2 w _ =>
          exact caches_installUnless _ _ (caches_joinFill h hs _ l.hcSet w
            (fun t => ⟨l, kind, some d, poison, some (BitVec.ofNat 4 w), t.2, h.round⟩) (cached_hcVictim ..))

theorem caches_hcUpdate (h : Hub) (hs : Nat) (l : Line) (b : LineBits) (mask : ByteMask) (poison down : Bool) :
    Hub.Caches hs h (h.hcUpdate hs l b mask poison down) := by
  unfold Hub.hcUpdate
  dsimp only
  split
  · split
    · exact caches_hcInvalidateWay ..
    · exact caches_putHc ..
  · exact caches_refl hs h

theorem caches_chainMark (h : Hub) (hs : Nat) (l : Line) : Hub.Caches hs h (h.chainMark hs l) := by
  unfold Hub.chainMark
  dsimp only
  split
  · exact caches_putHc ..
  · split
    · exact caches_onFill ..
    · split
      case h_1 => exact caches_refl hs h
      case h_2 w _ =>
        exact caches_joinFill h hs _ l.hcSet w (fun t => ⟨l, .chain, none, false, some (BitVec.ofNat 4 w), t.2, h.round⟩) (cached_hcVictim ..)

theorem caches_chainPut (h : Hub) (hs : Nat) (l : Line) (d : LineBits) (poison : Bool) : Hub.Caches hs h (h.chainPut hs l d poison) := by
  unfold Hub.chainPut
  dsimp only
  split
  · split
    · exact caches_putHc ..
    · exact caches_refl hs h
  · split
    · split
      · exact caches_installUnless _ _ (caches_onFill ..)
      · exact caches_refl hs h
    · exact caches_refl hs h

theorem caches_chainFill (h : Hub) (hs : Nat) (l : Line) (d : LineBits) (poison : Bool) : Hub.Caches hs h (h.chainFill hs l d poison) := by
  unfold Hub.chainFill
  dsimp only
  split
  · exact (caches_chainMark ..).trans (caches_chainPut ..)
  · exact caches_chainPut ..

theorem caches_chainEnd (h : Hub) (hs : Nat) (l : Line) : Hub.Caches hs h (h.chainEnd hs l) := by
  unfold Hub.chainEnd
  dsimp only
  split
  · exact caches_refl hs h
  · split
    · split
      · exact caches_invalidateIf _ _ _ (caches_putHc ..)
      · exact caches_refl hs h
    · split
      · split
        · split
          · exact caches_onSlice h _ (cached_dropFill ..)
          · split
            · exact (caches_onSlice h _ (cached_dropFill ..)).trans (caches_fillDropped ..)
            · exact caches_onSlice h _ (cached_dropOrChange ..)
        · exact caches_refl hs h
      · exact caches_refl hs h

/-! ### Claims and ways (R89, R92, R224) -/

theorem tended_of_bare {a b : Slice} (bare : b.bare = a.bare) (txns : b.txns = a.txns) : a.Tended b :=
  ⟨bare, by rw [txns]; exact forall₂_goes_refl _⟩

/-- Transactions that a change touches only where they wait. -/
theorem forall₂_goes_mapIf (p : Txn → Bool) (f : Txn → Txn)
    (H : ∀ t, p t = true → t.Waits ∧ (f t).tid = t.tid ∧ (f t).req = t.req) :
    ∀ l : List Txn, List.Forall₂ Txn.Goes l (List.mapIf p f l)
  | [] => .nil
  | t :: l => by
    refine .cons ?_ (forall₂_goes_mapIf p f H l)
    dsimp only
    split
    case isTrue on => exact .inr (H t on)
    case isFalse => exact .inl rfl

theorem unclaimed_mapIf (p : Ticket → Bool) (l : List Ticket) :
    (List.mapIf p (fun t => { t with claim := false }) l).map Ticket.unclaimed = l.map Ticket.unclaimed := by
  simp only [List.mapIf, List.map_map]
  refine List.map_congr_left fun x _ => ?_
  simp only [Function.comp_apply]
  split <;> rfl

theorem tended_serveClaim (s : Slice) (l : Line) (w n : Nat) : s.Tended (s.serveClaim l w n) := by
  constructor
  · show (s.serveClaim l w n).bare = s.bare
    unfold Slice.bare Slice.serveClaim
    dsimp only
    rw [unclaimed_mapIf]
    rfl
  · refine forall₂_goes_mapIf _ _ (fun t on => ?_) _
    have waits : t.phase = .waitWay := by simpa using (Bool.and_eq_true_iff.1 on).2
    dsimp only
    split
    · exact ⟨.inr waits, rfl, rfl⟩
    · exact ⟨.inr waits, rfl, rfl⟩

theorem tended_serveClaims (n : Nat) (set : BitVec 14) : ∀ (fuel : Nat) (s : Slice), s.Tended (Slice.serveClaims n set fuel s)
  | 0, s => .refl s
  | fuel + 1, s => by
    unfold Slice.serveClaims
    split
    · exact (tended_serveClaim ..).trans (tended_serveClaims n set fuel _)
    · exact .refl s

theorem tended_serveHubClaim (s : Slice) (l : Line) (w n : Nat) : s.Tended (s.serveHubClaim l w n) := by
  refine ⟨rfl, forall₂_goes_mapIf _ _ (fun t on => ?_) _⟩
  have waits : t.phase = .waitWay := by simp at on; exact on.1.2
  exact ⟨.inr waits, rfl, rfl⟩

theorem tended_serveHubClaims (n : Nat) (set : BitVec 12) : ∀ (fuel : Nat) (s : Slice), s.Tended (Slice.serveHubClaims n set fuel s)
  | 0, s => .refl s
  | fuel + 1, s => by
    unfold Slice.serveHubClaims
    split
    · exact (tended_serveHubClaim ..).trans (tended_serveHubClaims n set fuel _)
    · exact .refl s

theorem tended_touchNru (s : Slice) (set : BitVec 14) (way n : Nat) : s.Tended (s.touchNru set way n) := tended_of_bare rfl rfl
theorem tended_dropWay (s : Slice) (l : Line) : s.Tended (s.dropWay l) := tended_of_bare rfl rfl
theorem tended_dropHWay (s : Slice) (l : Line) : s.Tended (s.dropHWay l) := tended_of_bare rfl rfl
theorem tended_reserveWay (s : Slice) (l : Line) (w : Nat) : s.Tended (s.reserveWay l w) := tended_of_bare rfl rfl

theorem tended_checkSdRun (s : Slice) (set : BitVec 12) : s.Tended (s.checkSdRun set) := by
  unfold Slice.checkSdRun
  split
  · exact .refl s
  · exact tended_of_bare rfl rfl

theorem keeps_refl (hs : Nat) (h : Hub) : Hub.Keeps hs h h := (caches_refl hs h).keeps
theorem keeps_onSlice {hs : Nat} (h : Hub) (f : Slice → Slice) (H : (h.slice hs).Tended (f (h.slice hs))) :
    Hub.Keeps hs h (h.onSlice hs f) := tends_onSlice Slice.Tended.refl h f H

theorem keeps_settleWay (h : Hub) (hs : Nat) (l : Line) : Hub.Keeps hs h (h.settleWay hs l) := by
  unfold Hub.settleWay
  extract_lets s freed served
  have ways : s.Tended freed := by
    unfold freed
    split
    · exact .refl s
    · exact tended_dropWay s l
  have hubWays : freed.Tended served := by
    unfold served
    split
    · exact .refl freed
    · exact tended_dropHWay freed l
  exact keeps_onSlice h _ (((ways.trans hubWays).trans (tended_serveClaims ..)).trans (tended_serveHubClaims ..))

theorem keeps_checkRun (h : Hub) (hs : Nat) (set : BitVec 14) : Hub.Keeps hs h (h.checkRun hs set) := by
  unfold Hub.checkRun
  dsimp only
  split
  · exact keeps_refl hs h
  · split
    · exact keeps_onSlice h _ (tended_of_bare rfl rfl)
    · exact (caches_raise hs h _).keeps

theorem keeps_checkLine (h : Hub) (hs : Nat) (l : Line) : Hub.Keeps hs h (h.checkLine hs l) :=
  (keeps_checkRun ..).trans (keeps_onSlice _ _ (tended_checkSdRun ..))

theorem keeps_putSf (h : Hub) (hs : Nat) (set : BitVec 14) (way : Nat) (w : Word) : Hub.Keeps hs h (h.putSf hs set way w) :=
  tends_onMirrored Slice.Tended.refl h _ (fun _ => tended_of_bare rfl rfl) Slice.Tended.trans

theorem keeps_putEntry (h : Hub) (hs : Nat) (l : Line) (w : Nat) (v : SView) : Hub.Keeps hs h (h.putEntry hs l w v) := by
  unfold Hub.putEntry
  dsimp only
  refine Hub.Keeps.trans (keeps_putSf h hs l.sfSet w (v.word l.sfTag)) ?_
  split
  · split
    · exact keeps_onSlice _ _ (tended_reserveWay ..)
    · exact keeps_onSlice _ _ ((tended_dropWay ..).trans (tended_serveClaims ..))
  · refine Hub.Keeps.trans (keeps_onSlice _ _ ?_) (keeps_checkRun ..)
    split
    · exact (tended_dropWay ..).trans (tended_touchNru ..)
    · exact tended_dropWay ..

/-! ### What a kept slice holds -/

section
variable {a b : Slice} (H : a.Tended b)
include H

theorem Slice.Tended.holds : b.holds = a.holds := congrArg (fun s => s.holds) H.bare
theorem Slice.Tended.acksDue : b.acksDue = a.acksDue := congrArg (fun s => s.acksDue) H.bare
theorem Slice.Tended.refused : b.refused = a.refused := congrArg (fun s => s.refused) H.bare
theorem Slice.Tended.wbWait : b.wbWait = a.wbWait := congrArg (fun s => s.wbWait) H.bare
theorem Slice.Tended.used : b.used = a.used := congrArg (fun s => s.used) H.bare
theorem Slice.Tended.lastC0 : b.lastC0 = a.lastC0 := congrArg (fun s => s.lastC0) H.bare
theorem Slice.Tended.places : b.places = a.places := congrArg (fun s => s.places) H.bare
theorem Slice.Tended.rsv : b.rsv = a.rsv := congrArg (fun s => s.rsv) H.bare
theorem Slice.Tended.walk : b.walk = a.walk := congrArg (fun s => s.walk) H.bare
theorem Slice.Tended.helds : b.helds = a.helds := congrArg (fun s => s.helds) H.bare
theorem Slice.Tended.unclaimed : b.tickets.map Ticket.unclaimed = a.tickets.map Ticket.unclaimed := congrArg (fun s => s.tickets) H.bare

/-- A ticket that is held was held before, with a claim or without. -/
theorem Slice.Tended.ticket {t : Ticket} (mem : t ∈ b.tickets) : ∃ u ∈ a.tickets, u.unclaimed = t.unclaimed := by
  have listed := List.mem_map_of_mem (f := Ticket.unclaimed) mem
  rw [H.unclaimed] at listed
  exact List.mem_map.1 listed

end

end Sys2Proof.Machine
end

section
/-!
SUPPORT. The lapse of tickets (R49).
-/
namespace Sys2Proof.Machine
open Sys2Proof.Safety

/-- The slice after tickets of it have lapsed: what stands in it but its tickets is as its upkeep leaves it, and no ticket is new. -/
structure Slice.Shed (a b : Slice) : Prop where
  bare : { b.bare with tickets := [] } = { a.bare with tickets := [] }
  txns : List.Forall₂ Txn.Goes a.txns b.txns
  tickets : ∀ t ∈ b.tickets, ∃ u ∈ a.tickets, u.unclaimed = t.unclaimed

theorem Slice.Shed.refl (a : Slice) : a.Shed a := ⟨rfl, forall₂_goes_refl _, fun t mem => ⟨t, mem, rfl⟩⟩

theorem Slice.Shed.trans {a b c : Slice} (first : a.Shed b) (second : b.Shed c) : a.Shed c := by
  refine ⟨second.bare.trans first.bare, forall₂_goes_trans first.txns second.txns, fun t mem => ?_⟩
  obtain ⟨u, mem', same⟩ := second.tickets t mem
  obtain ⟨v, mem'', same'⟩ := first.tickets u mem'
  exact ⟨v, mem'', same'.trans same⟩

theorem Slice.Tended.shed {a b : Slice} (H : a.Tended b) : a.Shed b := ⟨by rw [H.bare], H.txns, fun _ => H.ticket⟩

/-- What the lapse of tickets leaves. -/
abbrev Hub.Sheds (hs : Nat) (h k : Hub) : Prop := h.Tends Slice.Shed hs k

theorem Hub.Sheds.trans {hs : Nat} {h k m : Hub} (first : Hub.Sheds hs h k) (second : Hub.Sheds hs k m) : Hub.Sheds hs h m :=
  ⟨fun n => (first.slice n).trans (second.slice n), otherArrays_trans first.newt first.others second.others, second.rot.trans first.rot,
    first.told.trans second.told⟩

theorem Hub.Keeps.sheds {hs : Nat} {h k : Hub} (H : Hub.Keeps hs h k) : Hub.Sheds hs h k := H.mono Slice.Tended.shed

section
variable {a b : Slice} (H : a.Shed b)
include H

theorem Slice.Shed.holds : b.holds = a.holds := congrArg (fun s => s.holds) H.bare
theorem Slice.Shed.places : b.places = a.places := congrArg (fun s => s.places) H.bare
theorem Slice.Shed.rsv : b.rsv = a.rsv := congrArg (fun s => s.rsv) H.bare
theorem Slice.Shed.walk : b.walk = a.walk := congrArg (fun s => s.walk) H.bare

/-- Every ticket that is still held has what every ticket had, where that does not depend on claims. -/
theorem Slice.Shed.allTickets {P : Ticket → Prop} (stable : ∀ t : Ticket, P t ↔ P t.unclaimed) (all : ∀ t ∈ a.tickets, P t) :
    ∀ t ∈ b.tickets, P t := by
  intro t mem
  obtain ⟨u, mem', same⟩ := H.tickets t mem
  rw [stable, ← same, ← stable]
  exact all u mem'

end

/-- The lapse of one request's tickets. -/
def Hub.lapseOne (h : Hub) (hs : Nat) (t : Ticket) : Hub :=
  (((h.onSlice hs fun s => { s with tickets := s.tickets.filter fun x => !x.isFor t.req }).count 0x005 t.req.line.ls.toNat 1).settleWay hs
    t.req.line).chainEnd hs t.req.line

theorem lapse_eq (h : Hub) (hs : Nat) (p : Ticket → Bool) :
    h.lapse hs p = ((h.slice hs).tickets.filter p).foldl (fun h t => h.lapseOne hs t) h := rfl

theorem lapse_none {h : Hub} {hs : Nat} {p : Ticket → Bool} (none : ∀ t ∈ (h.slice hs).tickets, p t = false) : h.lapse hs p = h := by
  rw [lapse_eq, List.filter_eq_nil_iff.2 fun t mem => by simp [none t mem]]
  rfl

/-- The ways are kept up after a request's tickets are taken out. -/
theorem keeps_lapseOne (h : Hub) (hs : Nat) (t : Ticket) :
    Hub.Keeps hs (h.onSlice hs fun s => { s with tickets := s.tickets.filter fun x => !x.isFor t.req }) (h.lapseOne hs t) :=
  ((caches_count hs _ _ _ _).keeps.trans (keeps_settleWay ..)).trans (caches_chainEnd ..).keeps

theorem sheds_lapseOne (h : Hub) (hs : Nat) (t : Ticket) : Hub.Sheds hs h (h.lapseOne hs t) := by
  refine Hub.Sheds.trans (tends_onSlice Slice.Shed.refl h _ ⟨rfl, forall₂_goes_refl _, fun u mem => ⟨u, ?_, rfl⟩⟩) (keeps_lapseOne h hs t).sheds
  exact List.mem_of_mem_filter mem

theorem isFor_unclaimed (t : Ticket) (r : Req) : t.isFor r = t.unclaimed.isFor r := rfl

theorem lapseOne_gone (h : Hub) (hs : Nat) (t : Ticket) : ∀ u ∈ ((h.lapseOne hs t).slice hs).tickets, u.isFor t.req = false := by
  refine ((keeps_lapseOne h hs t).slice hs).shed.allTickets (P := fun u => u.isFor t.req = false) (fun u => Iff.rfl) fun u mem => ?_
  rw [Hub.slice_onSlice_self] at mem
  simpa using (List.mem_filter.1 mem).2

theorem sheds_foldl {α : Type} {hs : Nat} {g : Hub → α → Hub} (step : ∀ (h : Hub) (x : α), Hub.Sheds hs h (g h x)) (l : List α) :
    ∀ h : Hub, Hub.Sheds hs h (l.foldl g h) := by
  induction l with
  | nil => exact fun h => (keeps_refl hs h).sheds
  | cons x l ih => exact fun h => (step h x).trans (ih _)

theorem sheds_lapse (h : Hub) (hs : Nat) (p : Ticket → Bool) : Hub.Sheds hs h (h.lapse hs p) :=
  sheds_foldl (fun h t => sheds_lapseOne h hs t) _ h

/-- No ticket of the request of a ticket that lapses is left. -/
theorem lapse_gone {h : Hub} {hs : Nat} {p : Ticket → Bool} {t : Ticket} (mem : t ∈ (h.slice hs).tickets) (lapses : p t = true) :
    ∀ u ∈ ((h.lapse hs p).slice hs).tickets, u.isFor t.req = false := by
  rw [lapse_eq]
  generalize gone : (h.slice hs).tickets.filter p = l
  have listed : t ∈ l := gone ▸ List.mem_filter.2 ⟨mem, lapses⟩
  clear gone mem
  induction l generalizing h with
  | nil => cases listed
  | cons u l ih =>
    rcases List.mem_cons.1 listed with rfl | later
    · have rest := (sheds_foldl (fun h t => sheds_lapseOne h hs t) l (h.lapseOne hs t)).slice hs
      exact rest.allTickets (P := fun v => v.isFor t.req = false) (fun _ => Iff.rfl) (lapseOne_gone h hs t)
    · exact ih later

end Sys2Proof.Machine
end

section
/-!
CERTIFICATE. Held requests, and the ends of what a refused request leaves behind (R49, R50, R53, R55, R254).
-/
namespace Sys2Proof.Machine
open Sys2Proof.Safety

/-! ### A held re-presentation (R50, R254) -/

/-- The edge router of a re-presentation that is presented: it is outstanding again and no longer held. -/
def Hub.unheld (h : Hub) (p : BitVec 4) (gaid : Gaid) (txid : Txid) (r : Req) : Hub :=
  h.onAp p fun a => { a.note r with holds := a.holds.filter fun y => !(y.req.gaid == gaid && y.req.txid == txid) }

/-- An injected request stands last in its slice's input buffer, with the sequence and the age in force; the other slices are as before. -/
theorem inject_slice (h : Hub) (r : Req) (tkt : Option Nat) (m : Nat) :
    (h.inject r tkt).slice m = if m = h.homeHs r.line then
      { h.slice m with inbuf := (h.slice m).inbuf ++
        [⟨{ r with rsvSeq := h.seqOf r.op r.gaid.la, age := h.ageOf r.gaid h.round }, tkt, h.round + 1⟩] } else h.slice m := by
  have slice : (h.releaseOther r).slice m = h.slice m := Hub.slice_congr _ _ _ (by simp)
  have home : (h.releaseOther r).homeHs r.line = h.homeHs r.line := homeHs_congr _ _ _ (by simp) (by simp)
  have age : (h.releaseOther r).ageOf r.gaid h.round = h.ageOf r.gaid h.round := by simp [Hub.ageOf]
  have round : (h.releaseOther r).round = h.round := by simp
  rw [Hub.inject, Hub.present_slice, slice]
  dsimp only
  rw [home, round, age]

theorem inject_only (s : State) (r : Req) (tkt : Option Nat) :
    onlyIn (presentParts ++ [.rsvNotes, .sps, .out]) s (s.withHub fun h => h.inject r tkt) := by
  intro q hq
  cases q <;> simp [presentParts] at hq <;> simp [Part.same, Hub.inject, Hub.present]

theorem onlyIn_unheld (s : State) (p : BitVec 4) (gaid : Gaid) (txid : Txid) (r : Req) :
    onlyIn [.aps] s (s.withHub fun h => h.unheld p gaid txid r) := by
  intro q hq
  cases q <;> simp at hq <;> rfl

theorem heldRepresentation_row {s : State} {p : BitVec 4} {gaid : Gaid} {txid : Txid} {x : HeldRep}
    (found : (s.hub.ap p).holds.find? (fun x => x.req.gaid == gaid && x.req.txid == txid) = some x) (due : x.at_ ≤ s.hub.round + 1) :
    exec (.heldRepresentationPresent p gaid txid) s = .next (s.withHub fun h => (h.unheld p gaid txid x.req).inject x.req x.req.tkt) := by
  show execHeldRepresentationPresent p gaid txid s = _
  have now : ¬s.hub.round + 1 < x.at_ := by omega
  simp only [execHeldRepresentationPresent, State.withHub, found, if_neg now, Hub.unheld]

theorem heldRepresentation_presented {s : State} {p : BitVec 4} {gaid : Gaid} {txid : Txid} {x : HeldRep}
    (found : (s.hub.ap p).holds.find? (fun x => x.req.gaid == gaid && x.req.txid == txid) = some x) (due : x.at_ ≤ s.hub.round + 1) :
    ∃ t, exec (.heldRepresentationPresent p gaid txid) s = .next t ∧ onlyIn (presentParts ++ [.rsvNotes, .sps, .out]) s t ∧
      t.hub.slice (s.hub.homeHs x.req.line) = { s.hub.slice (s.hub.homeHs x.req.line) with
        inbuf := (s.hub.slice (s.hub.homeHs x.req.line)).inbuf ++
          [⟨{ x.req with
            rsvSeq := s.hub.seqOf x.req.op x.req.gaid.la
            age := s.hub.ageOf x.req.gaid s.hub.round }, x.req.tkt, s.hub.round + 1⟩] } ∧
      otherSlices s.hub t.hub (s.hub.homeHs x.req.line) ∧ otherPorts s.hub t.hub p ∧
      ∀ y ∈ (t.hub.ap p).holds, ¬(y.req.gaid = gaid ∧ y.req.txid = txid) := by
  have aps : ((s.hub.unheld p gaid txid x.req).inject x.req x.req.tkt).aps = (s.hub.unheld p gaid txid x.req).aps := by
    simp [Hub.inject]
  refine ⟨_, heldRepresentation_row found due, ?only, (inject_slice ..).trans (if_pos rfl), fun m other => (inject_slice ..).trans (if_neg other),
    fun q other => ?ports, ?gone⟩
  case only =>
    have first := onlyIn_mono (qs := presentParts ++ [.rsvNotes, .sps, .out]) (by decide) (onlyIn_unheld s p gaid txid x.req)
    exact onlyIn_trans first (inject_only _ x.req x.req.tkt)
  case ports =>
    exact (Hub.ap_congr _ _ q aps).trans (Hub.ap_onAp_ne _ _ _ _ other)
  case gone =>
    have holds := congrArg (·.holds) ((Hub.ap_congr _ _ p aps).trans (Hub.ap_onAp_self s.hub p _))
    intro y mem ⟨hg, ht⟩
    have kept := (List.mem_filter.1 (holds ▸ mem)).2
    simp [hg, ht] at kept

/-! ### A ticket that was not presented (R49, R53) -/

theorem onlyIn_lapse (s : State) (hs : Nat) (p : Ticket → Bool) :
    onlyIn ([.slices, .rot] ++ eventParts) s (s.withHub fun h => h.lapse hs p) := by
  intro q hq
  cases q <;> simp [eventParts] at hq <;> simp [Part.same]

/-- The tickets that `TICKET_LAPSE` of a request ends. -/
def Ticket.overdue (gaid : Gaid) (txid : Txid) (line : Line) (n : Nat) (t : Ticket) : Bool :=
  t.req.gaid == gaid && t.req.txid == txid && t.req.line == line && decide (t.round + 1 ≤ n)

/-- The start of the 64 rounds that a refusal record runs on after a lapse. -/
def Hub.startLapse (h : Hub) (gaid : Gaid) (txid : Txid) (line : Line) : Hub :=
  if (h.records.getD gaid.toNat []).any fun r => r.isOf txid line then
    { h with lapses := h.lapses.set gaid.toNat [] ((dropRefusal h.lapses gaid txid line).getD gaid.toNat [] ++ [⟨txid, line, h.round⟩]) }
  else h

theorem onlyIn_startLapse (s : State) (gaid : Gaid) (txid : Txid) (line : Line) :
    onlyIn [.lapses] s (s.withHub fun h => h.startLapse gaid txid line) := by
  intro q hq
  unfold Hub.startLapse State.withHub
  dsimp only
  split
  · cases q <;> simp at hq <;> rfl
  · cases q <;> rfl

theorem startLapse_slices (h : Hub) (gaid : Gaid) (txid : Txid) (line : Line) : (h.startLapse gaid txid line).slices = h.slices := by
  unfold Hub.startLapse
  split <;> rfl

theorem startLapse_recorded {h : Hub} {gaid : Gaid} {txid : Txid} {line : Line}
    (recorded : ∃ r ∈ h.records.getD gaid.toNat [], r.isOf txid line = true) :
    (⟨txid, line, h.round⟩ : Refused) ∈ (h.startLapse gaid txid line).lapses.getD gaid.toNat [] := by
  rw [Hub.startLapse, if_pos (List.any_eq_true.2 recorded)]
  simp

theorem ticketLapse_row {s : State} {ls : BitVec 6} {gaid : Gaid} {txid : Txid} {line : Line}
    (some_ : ∃ k ∈ (s.hub.slice (s.hub.hsOf ls)).tickets, k.overdue gaid txid line s.hub.round = true) :
    exec (.ticketLapse ls gaid txid line) s = .next (s.withHub fun h =>
      (h.lapse (h.hsOf ls) (Ticket.overdue gaid txid line h.round)).startLapse gaid txid line) := by
  have any : ((s.hub.slice (s.hub.hsOf ls)).tickets.any fun t => t.overdue gaid txid line s.hub.round) = true := List.any_eq_true.2 some_
  exact congrArg (fun h => Host.Outcome.next { s with hub := h }) (if_pos any)

theorem ticketLapse_ends {s : State} {ls : BitVec 6} {gaid : Gaid} {txid : Txid} {line : Line} {k : Ticket}
    (mem : k ∈ (s.hub.slice (s.hub.hsOf ls)).tickets) (hg : k.req.gaid = gaid) (ht : k.req.txid = txid) (hl : k.req.line = line)
    (past : k.round + 1 ≤ s.hub.round) :
    ∃ t, exec (.ticketLapse ls gaid txid line) s = .next t ∧ onlyIn ([Part.slices, .lapses, .rot] ++ eventParts) s t ∧
      otherArrays s.hub t.hub (s.hub.hsOf ls) ∧
      (∀ y ∈ (t.hub.slice (s.hub.hsOf ls)).tickets, ¬(y.req.gaid = gaid ∧ y.req.txid = txid ∧ y.req.line = line)) ∧
      ((∃ r ∈ s.hub.records.getD gaid.toNat [], r.isOf txid line = true) →
        (⟨txid, line, s.hub.round⟩ : Refused) ∈ t.hub.lapses.getD gaid.toNat []) := by
  subst hg ht hl
  have overdue : k.overdue k.req.gaid k.req.txid k.req.line s.hub.round = true := by simp [Ticket.overdue, past]
  have slice : ∀ m, ((s.hub.lapse (s.hub.hsOf ls) (Ticket.overdue k.req.gaid k.req.txid k.req.line s.hub.round)).startLapse k.req.gaid
      k.req.txid k.req.line).slice m = (s.hub.lapse (s.hub.hsOf ls) (Ticket.overdue k.req.gaid k.req.txid k.req.line s.hub.round)).slice m :=
    fun m => Hub.slice_congr _ _ m (startLapse_slices ..)
  refine ⟨_, ticketLapse_row ⟨k, mem, overdue⟩, ?only, fun m other mirror => ?others, fun y => ?gone, fun recorded => ?recorded⟩
  case only =>
    have lapsed := onlyIn_lapse s (s.hub.hsOf ls) (Ticket.overdue k.req.gaid k.req.txid k.req.line s.hub.round)
    exact onlyIn_trans (onlyIn_mono (by decide) lapsed) (onlyIn_mono (by decide) (onlyIn_startLapse _ k.req.gaid k.req.txid k.req.line))
  case others => exact (slice m).trans ((sheds_lapse ..).others m other mirror)
  case gone =>
    intro mem' same
    have gone := lapse_gone mem overdue y (by rw [← slice]; exact mem')
    simp [Ticket.isFor, same] at gone
  case recorded =>
    have started := startLapse_recorded (h := s.hub.lapse (s.hub.hsOf ls) (Ticket.overdue k.req.gaid k.req.txid k.req.line s.hub.round))
      (gaid := k.req.gaid) (txid := k.req.txid) (line := k.req.line) (by simpa using recorded)
    simpa using started

/-! ### Held places (R55) -/

theorem heldPlaceExpiry_ends (s : State) (ls : BitVec 6) (gaid : Gaid) (txid : Txid) :
    ∃ t, exec (.heldPlaceExpiry ls gaid txid) s = .next t ∧ onlyIn [.slices] s t ∧ otherSlices s.hub t.hub (s.hub.hsOf ls) ∧
      (∀ y ∈ (t.hub.slice (s.hub.hsOf ls)).places, y.gaid = gaid → y.txid = txid → s.hub.round < y.d + 80) ∧
      ∀ y ∈ (s.hub.slice (s.hub.hsOf ls)).places, (y.gaid ≠ gaid ∨ y.txid ≠ txid ∨ s.hub.round < y.d + 80) →
        y ∈ (t.hub.slice (s.hub.hsOf ls)).places := by
  refine ⟨_, rfl, ?_, fun m other => Hub.slice_onSlice_ne _ _ _ _ other, fun y => ?_, fun y => ?_⟩
  · intro q hq
    cases q <;> simp at hq <;> rfl
  · simp only [State.withHub, Hub.slice_onSlice_self]
    intro mem hg ht
    have kept := (List.mem_filter.1 mem).2
    simp only [hg, ht, beq_self_eq_true, Bool.true_and, Bool.not_eq_true', decide_eq_false_iff_not] at kept
    omega
  · simp only [State.withHub, Hub.slice_onSlice_self]
    intro mem other
    refine List.mem_filter.2 ⟨mem, ?_⟩
    rcases other with g | t | n
    · simp [g]
    · simp [t]
    · simp only [show ¬y.d + 80 ≤ s.hub.round by omega, decide_false, Bool.and_false, Bool.not_false]

/-! ### The end of a refusal's age (R53) -/

/-- The records of an agent after the records of some of its requests have ended. -/
theorem clearRefusals_records (l : List Refused) (g gaid : Gaid) : ∀ h : Hub,
    (l.foldl (fun h r => h.clearRefusal gaid r.txid r.line) h).records.getD g.toNat [] =
      if g = gaid then (h.records.getD g.toNat []).filter fun q => l.all fun r => !q.isOf r.txid r.line else h.records.getD g.toNat [] := by
  induction l with
  | nil => simp
  | cons r l ih =>
    intro h
    rw [List.foldl_cons, ih]
    by_cases own : g = gaid
    · subst own
      simp [Hub.clearRefusal, dropRefusal, List.filter_filter, Bool.and_comm]
    · have other : g.toNat ≠ gaid.toNat := fun e => own (BitVec.eq_of_toNat_eq e)
      simp [own, Hub.clearRefusal, dropRefusal, Tbl.getD_set_ne _ _ _ _ _ other]

theorem onlyIn_clearRefusals (l : List Refused) (gaid : Gaid) : ∀ s : State,
    onlyIn [.records, .lapses] s (s.withHub fun h => l.foldl (fun h r => h.clearRefusal gaid r.txid r.line) h) := by
  induction l with
  | nil => exact fun s => onlyIn_refl _ s
  | cons r l ih =>
    intro s
    refine onlyIn_trans (t := s.withHub fun h => h.clearRefusal gaid r.txid r.line) ?_ (ih _)
    intro q hq
    cases q <;> simp at hq <;> rfl

theorem ageOf_unrecorded {h : Hub} {g : Gaid} (none : h.records.getD g.toNat [] = []) (n : Nat) : h.ageOf g n = 0 := by
  simp [Hub.ageOf, none]

theorem refusalAgeClear_ends (s : State) (gaid : Gaid) :
    ∃ t, exec (.refusalAgeClear gaid) s = .next t ∧ onlyIn [.records, .lapses] s t ∧
      (∀ r ∈ s.hub.lapses.getD gaid.toNat [], r.round + 64 ≤ s.hub.round →
        ∀ q ∈ t.hub.records.getD gaid.toNat [], q.isOf r.txid r.line = false) ∧
      (∀ q ∈ s.hub.records.getD gaid.toNat [],
        (∀ r ∈ s.hub.lapses.getD gaid.toNat [], r.round + 64 ≤ s.hub.round → q.isOf r.txid r.line = false) →
          q ∈ t.hub.records.getD gaid.toNat []) ∧
      ((∀ q ∈ s.hub.records.getD gaid.toNat [], ∃ r ∈ s.hub.lapses.getD gaid.toNat [],
          r.round + 64 ≤ s.hub.round ∧ q.isOf r.txid r.line = true) → ∀ m, t.hub.ageOf gaid m = 0) ∧
      ∀ g, g ≠ gaid → t.hub.records.getD g.toNat [] = s.hub.records.getD g.toNat [] := by
  have records := fun g => clearRefusals_records ((s.hub.lapses.getD gaid.toNat []).filter fun r => decide (r.round + 64 ≤ s.hub.round))
    g gaid s.hub
  have own := records gaid
  rw [if_pos rfl] at own
  have only := onlyIn_clearRefusals ((s.hub.lapses.getD gaid.toNat []).filter fun r => decide (r.round + 64 ≤ s.hub.round)) gaid s
  refine ⟨_, rfl, only, fun r mem past q mem' => ?cleared, fun q mem kept => ?kept, fun all m => ?age, fun g other => ?others⟩
  case cleared =>
    have kept := (List.mem_filter.1 (own ▸ mem')).2
    simp only [List.all_eq_true, List.mem_filter, decide_eq_true_eq] at kept
    simpa using kept r ⟨mem, past⟩
  case kept =>
    refine own ▸ List.mem_filter.2 ⟨mem, ?_⟩
    simp only [List.all_eq_true, List.mem_filter, decide_eq_true_eq]
    exact fun r lapsed => by simp [kept r lapsed.1 lapsed.2]
  case age =>
    have none := own.trans (List.filter_eq_nil_iff.2 fun q mem => by
      obtain ⟨r, lapsed, past, same⟩ := all q mem
      simp only [List.all_eq_true, List.mem_filter, decide_eq_true_eq]
      exact fun other => by simpa [same] using other r ⟨lapsed, past⟩)
    exact ageOf_unrecorded none m
  case others => exact (records g).trans (if_neg other)

/-! ### O10 -/

/-- Settles O10, each clause by the lemma about its row. -/
theorem heldRequestsAndTheirRecordsEnd : Obligations.HeldRequestsAndTheirRecordsEnd :=
  fun s _ ls gaid txid _ _ _ => ⟨heldRepresentation_presented, ticketLapse_ends, heldPlaceExpiry_ends s ls gaid txid,
    refusalAgeClear_ends s gaid⟩

end Sys2Proof.Machine
end

section
/-!
SUPPORT. What a message to an agent leaves (R249).
-/
namespace Sys2Proof.Machine
open Sys2Proof.Safety

theorem Hub.Calm.after {h k m : Hub} (second : k.Calm m) (agents : k.agents = h.agents) (events : k.events = h.events)
    (out : k.out = h.out) : h.Calm m := (Hub.Calm.of_eq agents events out).trans second

theorem calm_emit (h : Hub) (m : OutMsg) : h.Calm (h.emit m) := (reported_emit h m).toCalm

theorem calm_raise (h : Hub) (r : Raise) : h.Calm (h.raise r) := (reported_raise h r).toCalm

theorem calm_passMsg (h : Hub) (p : BitVec 4) (src : Nat) (m : AgentMsg) : h.Calm (h.passMsg p src m) := by
  have sent : h.Calm ((h.onAp p fun a => { a.spend m with frame := a.frame.queue m.units }).emit (.agent p m)) :=
    (calm_emit (h.onAp p fun a => { a.spend m with frame := a.frame.queue m.units }) (.agent p m)).after rfl rfl rfl
  unfold Hub.passMsg
  dsimp only
  split
  · exact sent
  · exact sent.trans (.of_eq (by simp) (by simp) (by simp))

theorem calm_passOrStall (h : Hub) (p : BitVec 4) (src : Nat) (m : AgentMsg) : h.Calm (h.passOrStall p src m).1 := by
  unfold Hub.passOrStall
  dsimp only
  split
  · exact calm_passMsg h p src m
  · exact .of_eq rfl rfl rfl

theorem calm_toAgent (h : Hub) (src : Nat) (m : AgentMsg) : h.Calm (h.toAgent src m) := by
  unfold Hub.toAgent
  dsimp only
  split
  · exact .refl h
  · split
    · exact (calm_passOrStall ..).trans (calm_raise ..)
    · exact calm_passOrStall ..

/-- What a completion changes after it has been sent: its request is outstanding and refused no longer. -/
theorem sendCmp_parts (h : Hub) (src : Nat) (g : Gaid) (t : Txid) (l : Line) (grant : BitVec 3) (outcome : BitVec 2) :
    (h.sendCmp src g t l grant outcome).agents = (h.toAgent src { agentMsg opCmp g t l g.la with grant := grant, outcome := outcome }).agents ∧
    (h.sendCmp src g t l grant outcome).events = (h.toAgent src { agentMsg opCmp g t l g.la with grant := grant, outcome := outcome }).events ∧
    (h.sendCmp src g t l grant outcome).out = (h.toAgent src { agentMsg opCmp g t l g.la with grant := grant, outcome := outcome }).out :=
  ⟨rfl, rfl, rfl⟩

theorem calm_sendCmp (h : Hub) (src : Nat) (g : Gaid) (t : Txid) (l : Line) (grant : BitVec 3) (outcome : BitVec 2) :
    h.Calm (h.sendCmp src g t l grant outcome) :=
  (calm_toAgent h src _).trans (.of_eq rfl rfl rfl)

/-- A completion that its agent hears is sent. -/
theorem sendCmp_heard {h : Hub} {g : Gaid} (heard : h.hearsCmp g.la) (src : Nat) (t : Txid) (l : Line) (grant : BitVec 3)
    (outcome : BitVec 2) : (h.sendCmp src g t l grant outcome).out =
      h.out ++ [.agent (h.agent g.la).port { agentMsg opCmp g t l g.la with grant := grant, outcome := outcome }] :=
  toAgent_hearsCmp (m := { agentMsg opCmp g t l g.la with grant := grant, outcome := outcome }) heard rfl rfl

end Sys2Proof.Machine
end

section
/-!
CERTIFICATE. The arbitration of one presented request (R36, R40, R48, R63, R393).
-/
namespace Sys2Proof.Machine
open Sys2Proof.Safety

/-! ### Acceptance (R40) -/

theorem holdHWay_lists (s : Slice) (r : Req) : (s.holdHWay r).txns = s.txns ∧ (s.holdHWay r).tickets = s.tickets ∧
    (s.holdHWay r).used = s.used := by
  unfold Slice.holdHWay
  split
  · split
    · exact ⟨rfl, rfl, rfl⟩
    · exact ⟨rfl, rfl, rfl⟩
  · exact ⟨rfl, rfl, rfl⟩

/-- What stands open of a request once it is taken in round `n`. -/
structure Txn.TakenAs (t : Txn) (r : Req) (n span : Nat) : Prop where
  req : t.req = r
  acc : t.acc = n
  worst : t.worst = n + span

/-- The queueing of a line's sets for run-ahead leaves what is open and chained. -/
theorem checkLine_lists (h : Hub) (hs : Nat) (l : Line) (m : Nat) : ((h.checkLine hs l).slice m).txns = (h.slice m).txns ∧
    ((h.checkLine hs l).slice m).tickets = (h.slice m).tickets ∧ ((h.checkLine hs l).slice m).used = (h.slice m).used := by
  have run : ((h.checkRun hs l.sfSet).slice m).txns = (h.slice m).txns ∧ ((h.checkRun hs l.sfSet).slice m).tickets = (h.slice m).tickets ∧
      ((h.checkRun hs l.sfSet).slice m).used = (h.slice m).used := by
    unfold Hub.checkRun
    dsimp only
    split
    · exact ⟨rfl, rfl, rfl⟩
    · split
      · rw [Hub.slice_onSlice]
        split
        · simp_all
        · exact ⟨rfl, rfl, rfl⟩
      · rw [Hub.slice_congr _ _ m (Hub.raise_keeps h _).2.2.2.2.2.2.2.2.2.2.1]
        exact ⟨rfl, rfl, rfl⟩
  have sd : ∀ s : Slice, (s.checkSdRun l.sdSet).txns = s.txns ∧ (s.checkSdRun l.sdSet).tickets = s.tickets ∧
      (s.checkSdRun l.sdSet).used = s.used := by
    intro s
    unfold Slice.checkSdRun
    split
    · exact ⟨rfl, rfl, rfl⟩
    · exact ⟨rfl, rfl, rfl⟩
  unfold Hub.checkLine
  rw [Hub.slice_onSlice]
  split
  case isTrue e =>
    obtain ⟨txns, tickets, used⟩ := sd ((h.checkRun hs l.sfSet).slice hs)
    rw [txns, tickets, used]
    exact e ▸ run
  case isFalse => exact run

/-- What the taking of a request in round `n` leaves of what is open, chained and used in the slices. -/
structure Hub.Takes (h k : Hub) (hs : Nat) (r : Req) (n span : Nat) (t : Txn) : Prop where
  taken : t.TakenAs r n span
  phase : (h.slice hs).isOpen r.line = false → t.phase = .accepted ∨ t.phase = .waitWay
  txns : (k.slice hs).txns = (h.slice hs).txns ++ [t]
  tickets : (k.slice hs).tickets = (h.slice hs).tickets.filter fun t => !t.isFor r
  used : (k.slice hs).used = (h.slice hs).used + 1
  others : ∀ m, m ≠ hs → (k.slice m).txns = (h.slice m).txns

theorem take_takes (h : Hub) (hs : Nat) (r : Req) (n span : Nat) (rep : Bool) : ∃ t, h.Takes (h.take hs r n span rep) hs r n span t := by
  unfold Hub.take
  extract_lets s l home open_ tid ticketless placeless way0 ready way held ports phase smp t taken base k counted
  have waits : ready.txns = s.txns ∧ ready.tickets = ticketless.tickets ∧ ready.used = s.used := by
    unfold ready
    clear_value way0
    cases way0 with
    | some _ => exact ⟨rfl, rfl, rfl⟩
    | none =>
      dsimp only
      split
      · exact ⟨rfl, rfl, rfl⟩
      · exact ⟨rfl, rfl, rfl⟩
  obtain ⟨txns, tickets, used⟩ := holdHWay_lists ready r
  have sampled : smp.2.slices = h.slices := by
    unfold smp Hub.sampled
    dsimp only
    split
    · rfl
    · rfl
  have before : ∀ m, counted.slice m = (h.onSlice hs fun _ => taken).slice m := by
    have counts : counted.slices = k.slices := by simp only [counted, Hub.count_keeps]
    have slices : k.slices = (h.onSlice hs fun _ => taken).slices := by
      show (smp.2.onSlice hs fun _ => taken).slices = _
      simp only [Hub.onSlice, sampled]
    exact fun m => Hub.slice_congr _ _ m (counts.trans slices)
  have after : ∀ m, (((counted.checkLine hs l).chainEnd hs l).slice m).txns = (counted.slice m).txns ∧
      (((counted.checkLine hs l).chainEnd hs l).slice m).tickets = (counted.slice m).tickets ∧
      (((counted.checkLine hs l).chainEnd hs l).slice m).used = (counted.slice m).used := by
    intro m
    obtain ⟨txns, tickets, used⟩ := checkLine_lists counted hs l m
    have ends := (caches_chainEnd (counted.checkLine hs l) hs l).slice m
    exact ⟨ends.txns.trans txns, ends.tickets.trans tickets, ends.tended.used.trans used⟩
  obtain ⟨ownTxns, ownTickets, ownUsed⟩ := after hs
  rw [before, Hub.slice_onSlice_self] at ownTxns ownTickets ownUsed
  refine ⟨t, ⟨rfl, rfl, rfl⟩, fun closed => ?_, ?_, ?_, ?_, fun m other => ?_⟩
  · have shut : open_ = false := closed
    show phase = _ ∨ phase = _
    unfold phase
    rw [shut, if_neg (by decide)]
    split
    · exact .inr rfl
    · exact .inl rfl
  · refine ownTxns.trans ?_
    show held.txns ++ [t] = _
    rw [txns, waits.1]
  · refine ownTickets.trans ?_
    show held.tickets = _
    rw [tickets, waits.2.1]
  · refine ownUsed.trans ?_
    show held.used + 1 = _
    rw [used, waits.2.2]
  · rw [(after m).1, before, Hub.slice_onSlice_ne _ _ _ _ other]

theorem Hub.Takes.found {h k : Hub} {hs : Nat} {r : Req} {n span : Nat} {t : Txn} (H : h.Takes k hs r n span t) :
    t ∈ (k.slice hs).txns := by simp [H.txns]

/-! ### O42 -/

section
variable {h : Hub} {hs n at_ : Nat} {r : Req}

theorem validTicket_new (s : Slice) : s.validTicket ⟨r, none, at_⟩ n = none := rfl

/-- A request without a ticket that the access table allows is judged. -/
theorem arbitrateOne_new (allowed : h.allowed r = true) (open_ : ∀ y ∈ (h.slice hs).tickets, y.isFor r = false)
    (serves : h.drains hs n = false) (early : h.deferCheck hs r n = none) : h.arbitrateOne hs n ⟨r, none, at_⟩ =
      if h.passes hs r n (h.worstSpan hs r.line) then h.take hs r n (h.worstSpan hs r.line) false
      else if (match (h.slice hs).txnOn r.line with | some t => t.phase == TPhase.accepted | none => false) then
        h.onSlice hs fun s => { s with refused := s.refused ++ [⟨r, none, n⟩] }
      else h.refuse hs r n := by
  simp only [Hub.arbitrateOne, allowed, validTicket_new, Hub.judgeNew, lapse_none open_, serves, early]
  rfl

theorem arbitrateOne_accepts (allowed : h.allowed r = true) (open_ : ∀ y ∈ (h.slice hs).tickets, y.isFor r = false)
    (serves : h.drains hs n = false) (early : h.deferCheck hs r n = none) (passes : h.passes hs r n (h.worstSpan hs r.line) = true) :
    (∃ y ∈ ((h.arbitrateOne hs n ⟨r, none, at_⟩).slice hs).txns, y.req = r ∧ y.acc = n ∧ y.worst = n + h.worstSpan hs r.line ∧
      (y.phase = .accepted ∨ y.phase = .waitWay)) ∧
    ((h.arbitrateOne hs n ⟨r, none, at_⟩).slice hs).used = (h.slice hs).used + 1 ∧
    ∀ m, m ≠ hs → ((h.arbitrateOne hs n ⟨r, none, at_⟩).slice m).txns = (h.slice m).txns := by
  obtain ⟨t, takes⟩ := take_takes h hs r n (h.worstSpan hs r.line) false
  have closed : (h.slice hs).isOpen r.line = false := by
    simp only [Hub.passes, Bool.and_eq_true, Bool.not_eq_true'] at passes
    exact passes.1.1.1.1.1.1.1.2
  rw [arbitrateOne_new allowed open_ serves early, if_pos passes]
  exact ⟨⟨t, takes.found, takes.taken.req, takes.taken.acc, takes.taken.worst, takes.phase closed⟩, takes.used, takes.others⟩

theorem arbitrateOne_ticket {r0 : Nat} {k : Ticket} (allowed : h.allowed r = true)
    (valid : (h.slice hs).validTicket ⟨r, some r0, at_⟩ n = some k) :
    (∃ y ∈ ((h.arbitrateOne hs n ⟨r, some r0, at_⟩).slice hs).txns, y.req = r ∧ y.acc = n ∧ y.worst = n + (k.worst - k.round)) ∧
    (∀ y ∈ ((h.arbitrateOne hs n ⟨r, some r0, at_⟩).slice hs).tickets, y.isFor r = false) ∧
    ∀ m, m ≠ hs → ((h.arbitrateOne hs n ⟨r, some r0, at_⟩).slice m).txns = (h.slice m).txns := by
  obtain ⟨t, takes⟩ := take_takes h hs r n (k.worst - k.round) true
  have row : h.arbitrateOne hs n ⟨r, some r0, at_⟩ = h.take hs r n (k.worst - k.round) true := by
    simp [Hub.arbitrateOne, allowed, valid]
  rw [row]
  refine ⟨⟨t, takes.found, takes.taken.req, takes.taken.acc, takes.taken.worst⟩, fun y mem => ?_, takes.others⟩
  rw [takes.tickets] at mem
  simpa using (List.mem_filter.1 mem).2

/-- A refused request's event and its completion, which its agent hears. -/
theorem arbitrateOne_denied (denied : h.allowed r = false) (own : r.span = false) (open_ : ∀ y ∈ (h.slice hs).tickets, y.isFor r = false)
    (heard : hears h r.gaid.la) : raised (h.arbitrateOne hs n ⟨r, none, at_⟩) evAccessDenied ∧
      (∀ m, ((h.arbitrateOne hs n ⟨r, none, at_⟩).slice m).txns = (h.slice m).txns) ∧
      devCmp h r.gaid r.txid r.line oMalformed ∈ (h.arbitrateOne hs n ⟨r, none, at_⟩).out := by
  have row : h.arbitrateOne hs n ⟨r, none, at_⟩ =
      (h.raise (rzTx evAccessDenied hs r.line r.gaid r.txid)).sendCmp hs r.gaid r.txid r.line gNone oMalformed := by
    simp [Hub.arbitrateOne, denied, lapse_none open_, Hub.endReq, own]
  have told := reported_raise h (rzTx evAccessDenied hs r.line r.gaid r.txid)
  have up : raised (h.raise (rzTx evAccessDenied hs r.line r.gaid r.txid)) evAccessDenied := raised_raise h _
  have sent := sendCmp_heard (told.hearsCmp (hearsCmp_of_hears heard)) hs r.txid r.line gNone oMalformed
  rw [row]
  refine ⟨(calm_sendCmp ..).raised _ up, fun m => congrArg (·.txns) (Hub.slice_congr _ _ m (by simp)), ?_⟩
  rw [sent, told.agentPort]
  exact List.mem_append_right _ (List.mem_singleton_self _)

end

/-- Settles O42, each clause by the lemma about the branch of the arbitration that it names. -/
theorem requestsAreArbitrated : Obligations.RequestsAreArbitrated := by
  intro h hs n at_ r0 r k x
  refine ⟨arbitrateOne_accepts, arbitrateOne_ticket, arbitrateOne_denied, fun allowed open_ serves early found waiting => ?_⟩
  have busy : h.passes hs r n (h.worstSpan hs r.line) = false := by
    have isOpen : (h.slice hs).isOpen r.line = true := by simp [Slice.isOpen, found]
    simp [Hub.passes, isOpen]
  rw [arbitrateOne_new allowed open_ serves early, if_neg (by simp [busy]), found, if_pos (by simp [waiting])]

end Sys2Proof.Machine
end

section
/-!
SUPPORT. What the entry of data into the write buffer, a change of a line's entry and the close of a transaction leave of a slice
(R66, R116, R117, R144, R279, R294).
-/
namespace Sys2Proof.Machine
open Sys2Proof.Safety

/-! ### Slices seen without their lines -/

/-- A slice but for its lines: the hub cache and the write buffer, the filters' ways and sweeps, claims, and transactions. -/
def Slice.scant (s : Slice) : Slice := { s.bare with
  wb := []
  sweeps := [] }

/-- The slice after operations on its lines. -/
structure Slice.Steady (a b : Slice) : Prop where
  scant : b.scant = a.scant
  txns : List.Forall₂ Txn.Goes a.txns b.txns

theorem Slice.Steady.refl (a : Slice) : a.Steady a := ⟨rfl, forall₂_goes_refl _⟩
theorem Slice.Steady.trans {a b c : Slice} (first : a.Steady b) (second : b.Steady c) : a.Steady c :=
  ⟨second.scant.trans first.scant, forall₂_goes_trans first.txns second.txns⟩

theorem Slice.Tended.steady {a b : Slice} (H : a.Tended b) : a.Steady b := ⟨by rw [Slice.scant, H.bare, Slice.scant], H.txns⟩

theorem steady_of_eq {a b : Slice} (scant : b.scant = a.scant) (txns : b.txns = a.txns) : a.Steady b :=
  ⟨scant, by rw [txns]; exact forall₂_goes_refl _⟩

/-- What operations on the lines of a slice leave. -/
abbrev Hub.Steadies (hs : Nat) (h k : Hub) : Prop := h.Tends Slice.Steady hs k

theorem Hub.Steadies.trans {hs : Nat} {h k m : Hub} (first : Hub.Steadies hs h k) (second : Hub.Steadies hs k m) : Hub.Steadies hs h m :=
  ⟨fun n => (first.slice n).trans (second.slice n), otherArrays_trans first.newt first.others second.others, second.rot.trans first.rot,
    first.told.trans second.told⟩

theorem Hub.Keeps.steadies {hs : Nat} {h k : Hub} (H : Hub.Keeps hs h k) : Hub.Steadies hs h k := H.mono Slice.Tended.steady
theorem Hub.Caches.steadies {hs : Nat} {h k : Hub} (H : Hub.Caches hs h k) : Hub.Steadies hs h k := H.keeps.steadies

theorem steadies_of_eq {hs : Nat} {h k : Hub} (slices : k.slices = h.slices) (rot : k.rot = h.rot) (told : h.Reported k) :
    Hub.Steadies hs h k := tends_of_eq Slice.Steady.refl slices rot told
theorem steadies_refl (hs : Nat) (h : Hub) : Hub.Steadies hs h h := (caches_refl hs h).steadies
theorem steadies_onSlice {hs : Nat} (h : Hub) (f : Slice → Slice) (H : (h.slice hs).Steady (f (h.slice hs))) :
    Hub.Steadies hs h (h.onSlice hs f) := tends_onSlice Slice.Steady.refl h f H
theorem steadies_raise (hs : Nat) (h : Hub) (r : Raise) : Hub.Steadies hs h (h.raise r) := (caches_raise hs h r).steadies

/-- A change that follows parts which the relation does not speak of. -/
theorem Hub.Steadies.after {hs : Nat} {h k m : Hub} (second : Hub.Steadies hs k m) (slices : k.slices = h.slices) (rot : k.rot = h.rot)
    (told : h.Reported k) : Hub.Steadies hs h m := (steadies_of_eq slices rot told).trans second

/-! ### What a steady slice holds -/

section
variable {a b : Slice} (H : a.Steady b)
include H

theorem Slice.Steady.holds : b.holds = a.holds := congrArg (fun s => s.holds) H.scant
theorem Slice.Steady.acksDue : b.acksDue = a.acksDue := congrArg (fun s => s.acksDue) H.scant
theorem Slice.Steady.lastC0 : b.lastC0 = a.lastC0 := congrArg (fun s => s.lastC0) H.scant
theorem Slice.Steady.unclaimed : b.tickets.map Ticket.unclaimed = a.tickets.map Ticket.unclaimed := congrArg (fun s => s.tickets) H.scant

/-- No transaction of a steady slice is new. -/
theorem Slice.Steady.absent {tid : Byte} (none : ∀ t ∈ a.txns, t.tid ≠ tid) : ∀ t ∈ b.txns, t.tid ≠ tid := by
  have listed := H.txns
  generalize a.txns = l at none listed
  generalize b.txns = m at listed ⊢
  clear H
  induction listed with
  | nil =>
    intro t mem
    cases mem
  | @cons t u _ _ goes _ ih =>
    intro v mem
    rcases List.mem_cons.1 mem with rfl | later
    · rcases goes with rfl | ⟨-, same, -⟩
      · exact none v (List.mem_cons_self ..)
      · rw [same]
        exact none t (List.mem_cons_self ..)
    · exact ih (fun w mem => none w (List.mem_cons_of_mem _ mem)) v later

end

/-- The gecko hold that applies to a line does not depend on claims (R73). -/
theorem lineG_eq (s : Slice) (cur : Nat) (l : Line) :
    s.lineG cur l = (((s.tickets.map Ticket.unclaimed).find? fun t => t.req.line == l).map fun t => t.g).getD cur := by
  unfold Slice.lineG Slice.chain
  induction s.tickets with
  | nil => rfl
  | cons t l' ih =>
    by_cases mine : t.req.line = l
    · simp [Ticket.unclaimed, mine]
    · have other : t.unclaimed.req.line ≠ l := mine
      simpa [mine, other] using ih

theorem Slice.Steady.lineG {a b : Slice} (H : a.Steady b) (cur : Nat) (l : Line) : b.lineG cur l = a.lineG cur l := by
  rw [lineG_eq, lineG_eq, H.unclaimed]

theorem txn_none {h : Hub} {hs : Nat} {tid : Byte} (absent : ∀ t ∈ (h.slice hs).txns, t.tid ≠ tid) : h.txn hs tid = none :=
  List.find?_eq_none.2 fun t mem => by simpa using absent t mem

/-! ### The write buffer (R116, R275, R276, R279) -/

theorem steadies_onWb (h : Hub) (hs : Nat) (l : Line) (f : WbLine → WbLine) : Hub.Steadies hs h (h.onWb hs l f) := by
  have own := steadies_onSlice (hs := hs) h (fun s => { s with wb := List.mapIf (fun x => x.line == l) f s.wb }) (steady_of_eq rfl rfl)
  exact ⟨own.slice, own.others, own.rot, .of_eq rfl rfl rfl rfl⟩

theorem steadies_dropWb (h : Hub) (hs : Nat) (l : Line) : Hub.Steadies hs h (h.dropWb hs l) := by
  have own := steadies_onSlice (hs := hs) h (fun s => { s with wb := s.wb.filter fun x => x.line != l }) (steady_of_eq rfl rfl)
  exact ⟨own.slice, own.others, own.rot, .of_eq rfl rfl rfl rfl⟩

theorem steadies_addWb (h : Hub) (hs : Nat) (x : WbLine) : Hub.Steadies hs h (h.onSlice hs fun s => { s with wb := s.wb ++ [x] }) :=
  steadies_onSlice h _ (steady_of_eq rfl rfl)

theorem steadies_wbEnsure (h : Hub) (hs : Nat) (l : Line) (who : Entering) (home : Bool) : Hub.Steadies hs h (h.wbEnsure hs l who home) := by
  unfold Hub.wbEnsure
  dsimp only
  split
  · exact steadies_refl hs h
  · split
    · exact steadies_addWb h hs _
    · split
      · exact steadies_addWb h hs _
      · exact steadies_of_eq rfl rfl (.of_eq rfl rfl rfl rfl)
    · split
      · exact steadies_addWb h hs _
      · exact steadies_of_eq rfl rfl (.of_eq rfl rfl rfl rfl)

theorem steadies_dropIfDown (h : Hub) (hs : Nat) (l : Line) : Hub.Steadies hs h (h.dropIfDown hs l) := by
  unfold Hub.dropIfDown
  dsimp only
  split
  · split
    · exact (steadies_dropWb ..).trans (steadies_raise ..)
    · exact steadies_refl hs h
  · exact steadies_refl hs h

theorem steadies_staleFills (h : Hub) (hs : Nat) (l : Line) : Hub.Steadies hs h (h.staleFills hs l) := by
  unfold Hub.staleFills
  extract_lets k
  have same : Hub.Steadies hs h k := steadies_of_eq rfl rfl (.of_eq rfl rfl rfl rfl)
  split
  · split
    · exact same
    · exact same.trans ((caches_onSlice k _ (cached_dropFill ..)).trans (caches_fillDropped ..)).steadies
  · exact same

theorem steadies_enterWb (h : Hub) (hs : Nat) (l : Line) (who : Entering) (home : Bool) (bytes : LineBits) (mask : ByteMask)
    (f : WbLine → WbLine) : Hub.Steadies hs h (h.enterWb hs l who home bytes mask f) := by
  unfold Hub.enterWb
  extract_lets k m
  have entered : Hub.Steadies hs h k := (steadies_wbEnsure ..).trans (steadies_onWb ..)
  split
  · have stale := entered.trans (steadies_staleFills k hs l)
    split
    case h_1 x _ =>
      extract_lets updated filled
      have up : Hub.Steadies hs m updated := by
        unfold updated
        split
        · exact (caches_hcUpdate ..).steadies
        · exact (caches_hcUpdate ..).steadies
      have fill : Hub.Steadies hs updated filled := by
        unfold filled
        split
        · exact (caches_chainFill ..).steadies
        · exact steadies_refl hs updated
      exact ((stale.trans up).trans fill).trans (steadies_dropIfDown ..)
    case h_2 => exact stale
  · exact entered

theorem steadies_poisonMark (h : Hub) (hs : Nat) (l : Line) (home : Bool) : Hub.Steadies hs h (h.poisonMark hs l home) :=
  (steadies_enterWb { h with freeCtr := h.freeCtr + 1 } hs l .accepted home (Config.freeLine h.freeCtr) allBytes _).after rfl rfl (.of_eq rfl rfl rfl rfl)

/-! ### The close of a transaction (R66, R143, R146) -/

theorem steadies_ownerLost (h : Hub) (hs : Nat) (l : Line) (a : La) : Hub.Steadies hs h (h.ownerLost hs l a) := by
  unfold Hub.ownerLost
  extract_lets kept
  split
  · exact steadies_refl hs h
  · exact (steadies_raise hs h _).trans (steadies_poisonMark ..)

theorem steadies_fixEntry (h : Hub) (hs : Nat) (t : Txn) : Hub.Steadies hs h (h.fixEntry hs t) := by
  unfold Hub.fixEntry
  extract_lets l mask ungiven
  split
  case h_1 w _ _ =>
    extract_lets v left k
    have lost : Hub.Steadies hs h k := by
      unfold k
      split
      · split
        · exact steadies_refl hs h
        · exact steadies_ownerLost ..
      · exact steadies_refl hs h
    split
    · exact lost
    · exact lost.trans (keeps_putEntry ..).steadies
  case h_2 => exact steadies_refl hs h

theorem forall₂_goes_replFirst (p : Txn → Bool) (f : Txn → Txn) (H : ∀ t, p t = true → t.Waits ∧ (f t).tid = t.tid ∧ (f t).req = t.req) :
    ∀ l : List Txn, List.Forall₂ Txn.Goes l (List.replFirst p f l)
  | [] => .nil
  | t :: l => by
    unfold List.replFirst
    split
    case isTrue on => exact .cons (.inr (H t on)) (forall₂_goes_refl l)
    case isFalse => exact .cons (.inl rfl) (forall₂_goes_replFirst p f H l)

theorem steady_wakeNext (s : Slice) (l : Line) (n : Nat) : s.Steady (s.wakeNext l n) := by
  refine ⟨rfl, forall₂_goes_replFirst _ _ (fun t on => ?_) _⟩
  have waits : t.phase = .waitPred := by simpa using (Bool.and_eq_true_iff.1 on).2
  dsimp only
  split
  · exact ⟨.inl waits, rfl, rfl⟩
  · exact ⟨.inl waits, rfl, rfl⟩

theorem steady_unskip (s : Slice) (l : Line) : s.Steady (s.unskip l) := steady_of_eq rfl rfl
theorem steady_unskipHub (s : Slice) (l : Line) : s.Steady (s.unskipHub l) := steady_of_eq rfl rfl

/-- The line's part of a close: the transaction is gone, and its worst close and its hold, if it leaves one, are noted. -/
def Slice.closed (s : Slice) (t : Txn) (g : Nat) (start : Option Nat) : Slice := { s with
  txns := s.txns.filter fun x => x.tid != t.tid
  lastC0 := s.lastC0.put t.req.line.toNat t.worst
  holds := match start with
    | some n => s.holds ++ [⟨t.req.line, if t.req.span then none else some t.req.gaid.la, n + s.lineG g t.req.line - 1, t.way⟩]
    | none => s.holds }

/-- What a close does on its line, before and after its transaction is gone, but for what the proxy owes a home. -/
def Hub.afterClose (h : Hub) (hs : Nat) (t : Txn) : Hub :=
  let l := t.req.line
  let h := (h.sample t).clearMasks hs l
  let h := h.onSlice hs fun s =>
    let s := if t.settles then s.unskip l else s
    (if t.failed || t.hview = .deg then s else s.unskipHub l).wakeNext l h.round
  (h.settleWay hs l).chainEnd hs l

theorem closeTxn_eq (h : Hub) (hs : Nat) (t : Txn) (start : Option Nat) : h.closeTxn hs t start =
    (((h.fixEntry hs t).onSlice hs fun s => s.closed t ((h.fixEntry hs t).p 0x40) start).afterClose hs t).proxyFlush hs t.req.line
      (t.view != .unc || t.gate.grant != 0) := by
  rw [Hub.closeTxn]
  rfl

theorem steadies_afterClose (h : Hub) (hs : Nat) (t : Txn) : Hub.Steadies hs h (h.afterClose hs t) := by
  unfold Hub.afterClose
  extract_lets l k m
  have masks : Hub.Steadies hs h k := (steadies_onWb (h.sample t) hs l _).after (by simp) (by simp)
    (.of_eq (by simp) (by simp) (by simp) (by simp))
  have woken : Hub.Steadies hs k m := by
    refine steadies_onSlice k _ ?_
    have skipped : ∀ s : Slice, s.Steady (if t.settles then s.unskip l else s) := by
      intro s
      split
      · exact steady_unskip s l
      · exact .refl s
    have skippedHub : ∀ s : Slice, s.Steady (if t.failed || t.hview = .deg then s else s.unskipHub l) := by
      intro s
      split
      · exact .refl s
      · exact steady_unskipHub s l
    exact ((skipped _).trans (skippedHub _)).trans (steady_wakeNext ..)
  exact (masks.trans woken).trans ((keeps_settleWay ..).trans (caches_chainEnd ..).keeps).steadies

theorem p_congr {h k : Hub} (par : k.par = h.par) (i : Nat) : k.p i = h.p i := by simp [Hub.p, Hub.pw, par]

theorem remoteHome_home {h : Hub} {l : Line} (home : h.isHome l = true) : h.remoteHome l = none := by
  unfold Hub.isHome at home
  unfold Hub.remoteHome
  split at home
  case h_1 e => rw [e]
  case h_2 => cases home

/-- Where an address leads depends on the parameters and on which memory ports are unused (R199). -/
theorem classify_congr {h k : Hub} (par : k.par = h.par) (mps : k.mps = h.mps) (l : Line) : k.classify l = h.classify l := by
  have pw : k.pw = h.pw := by funext i; simp [Hub.pw, par]
  have num : k.num = h.num := by simp only [Hub.num, Hub.p, pw]
  have mapHome : k.mapHome l = h.mapHome l := by simp only [Hub.mapHome, pw]
  have drtOf : k.drtOf l = h.drtOf l := by simp only [Hub.drtOf, pw]
  have winOf : k.winOf l = h.winOf l := by simp only [Hub.winOf, Hub.winBase, Hub.winCfg, pw]
  have memInUse : k.memInUse = h.memInUse := by simp only [Hub.memInUse, Hub.mpUsed, Hub.mp, pw, mps]
  simp only [Hub.classify, num, mapHome, drtOf, winOf, memInUse]

theorem remoteHome_congr {h k : Hub} (par : k.par = h.par) (mps : k.mps = h.mps) (l : Line) : k.remoteHome l = h.remoteHome l := by
  simp only [Hub.remoteHome, classify_congr par mps]

theorem isHome_congr {h k : Hub} (par : k.par = h.par) (mps : k.mps = h.mps) (l : Line) : k.isHome l = h.isHome l := by
  simp only [Hub.isHome, classify_congr par mps]

theorem proxyFlush_home {h : Hub} {l : Line} (home : h.isHome l = true) (hs : Nat) (b : Bool) : h.proxyFlush hs l b = h := by
  simp only [Hub.proxyFlush, remoteHome_home home]

end Sys2Proof.Machine
end

section
/-!
CERTIFICATE. The close of a granted transaction and its gecko hold (R63, R66, R73, R124).
-/
namespace Sys2Proof.Machine
open Sys2Proof.Safety

/-! ### The close of a home transaction -/

/-- The parts that the close of a home transaction may write. -/
def closeParts : List Part := [Part.slices, .spill, .reads, .rot] ++ eventParts

theorem closeTxn_home {h : Hub} {hs : Nat} {t : Txn} (home : h.isHome t.req.line = true) (start : Option Nat) :
    h.closeTxn hs t start = ((h.fixEntry hs t).onSlice hs fun s => s.closed t ((h.fixEntry hs t).p 0x40) start).afterClose hs t := by
  have same : (((h.fixEntry hs t).onSlice hs fun s => s.closed t ((h.fixEntry hs t).p 0x40) start).afterClose hs t).isHome t.req.line = true := by
    rw [isHome_congr (h := h) (by simp [Hub.afterClose]) (by simp [Hub.afterClose])]
    exact home
  rw [closeTxn_eq, proxyFlush_home same]

theorem onlyIn_closeTxn {s : State} {hs : Nat} {t : Txn} (home : s.hub.isHome t.req.line = true) (start : Option Nat) :
    onlyIn closeParts s (s.withHub fun h => h.closeTxn hs t start) := by
  simp only [State.withHub, closeTxn_home home]
  intro q hq
  cases q <;> simp [closeParts, eventParts] at hq <;> simp [Part.same, Hub.afterClose]

/-- What the close of a transaction leaves in its slice. -/
structure Hub.Closes (h k : Hub) (hs : Nat) (t : Txn) (start : Option Nat) : Prop where
  others : otherArrays h k hs
  gone : k.txn hs t.tid = none
  holds : (k.slice hs).holds = ((h.slice hs).closed t (h.p 0x40) start).holds
  worst : (k.slice hs).lastC0.look t.req.line.toNat = some t.worst
  acksDue : (k.slice hs).acksDue = (h.slice hs).acksDue
  newt : k.rot.newt = h.rot.newt

theorem closeTxn_closes {h : Hub} {hs : Nat} {t : Txn} (home : h.isHome t.req.line = true) (start : Option Nat) :
    h.Closes (h.closeTxn hs t start) hs t start := by
  have fix := steadies_fixEntry h hs t
  have after := steadies_afterClose ((h.fixEntry hs t).onSlice hs fun s => s.closed t ((h.fixEntry hs t).p 0x40) start) hs t
  have closed := Hub.slice_onSlice_self (h.fixEntry hs t) hs fun s => s.closed t ((h.fixEntry hs t).p 0x40) start
  have own := after.slice hs
  rw [closed] at own
  have before := fix.slice hs
  rw [closeTxn_home home]
  refine ⟨?others, txn_none (own.absent ?gone), own.holds.trans ?holds, ?worst, own.acksDue.trans before.acksDue, after.newt.trans fix.newt⟩
  case others =>
    refine otherArrays_trans (k := h.fixEntry hs t) fix.newt fix.others fun m other mirror => ?_
    exact (after.others m other mirror).trans (Hub.slice_onSlice_ne _ _ _ _ other)
  case gone =>
    intro u mem
    simpa using (List.mem_filter.1 mem).2
  case holds =>
    have g : (h.fixEntry hs t).p 0x40 = h.p 0x40 := p_congr (by simp) 0x40
    cases start with
    | none => exact before.holds
    | some n => simp only [Slice.closed, before.holds, before.lineG, g]
  case worst =>
    rw [own.lastC0]
    exact Tbl.look_put_self _ _ _

/-! ### The start of a gecko hold (R66) -/

/-- A transaction whose hold begins in round `n`. -/
def Txn.heldFrom (t : Txn) (n : Nat) : Txn := { t with acked := t.acked.or (some n) }

/-- A transaction's requester, or that requester's hub, has a grant. -/
def Txn.hasGrant (t : Txn) : Bool := if t.req.span then t.gate.spanGrant != 0 else t.gate.grant != 0

/-- A transaction with a grant that has all it waits for but an acknowledgement. -/
structure Txn.Granted (t : Txn) : Prop where
  closable : t.closable = true
  granted : t.hasGrant = true
  unacked : t.acked = none
  alive : t.deadReq = false

theorem hasGrant_local {t : Txn} (own : t.req.span = false) (granted : t.gate.grant ≠ 0) : t.hasGrant = true := by
  rw [Txn.hasGrant, own]
  exact bne_iff_ne.2 granted

theorem txn_onTxn_self {h : Hub} {hs : Nat} {tid : Byte} {x : Txn} (found : h.txn hs tid = some x) (f : Txn → Txn)
    (same : (f x).tid = x.tid) : (h.onTxn hs tid f).txn hs tid = some (f x) := by
  unfold Hub.txn Hub.onTxn at *
  rw [Hub.slice_onSlice_self]
  dsimp only
  generalize (h.slice hs).txns = l at found ⊢
  induction l with
  | nil => cases found
  | cons t l ih =>
    by_cases mine : t.tid = tid
    · have head : t = x := by simpa [mine] using found
      subst head
      simp [List.mapIf, mine, same]
    · have later : (l.find? fun t => t.tid == tid) = some x := by simpa [mine] using found
      simpa [List.mapIf, mine] using ih later

theorem startHold_granted {h : Hub} {hs : Nat} {x : Txn} (found : h.txn hs x.tid = some x) (g : x.Granted) : h.startHold hs x.tid =
    (h.onTxn hs x.tid fun t => t.heldFrom h.round).closeTxn hs (x.heldFrom h.round) (some h.round) := by
  obtain ⟨closable, granted, unacked, alive⟩ := g
  have acked := txn_onTxn_self found (fun t => t.heldFrom h.round) rfl
  have closes : (x.heldFrom h.round).closable = true := closable
  have begun : (x.heldFrom h.round).acked = some h.round := by simp [Txn.heldFrom, unacked]
  have lives : (x.heldFrom h.round).deadReq = false := alive
  have grant : (if (x.heldFrom h.round).req.span then (x.heldFrom h.round).gate.spanGrant != 0 else (x.heldFrom h.round).gate.grant != 0) = true :=
    granted
  show (h.onTxn hs x.tid fun t => t.heldFrom h.round).tryClose hs x.tid = _
  simp only [Hub.tryClose, acked, closes, lives, begun, grant, Bool.false_eq_true, if_false, Bool.not_true, Bool.or_false]

theorem closable_looked {x : Txn} (closable : x.closable = true) : x.phase = .looked := by
  simp only [Txn.closable, Txn.served, Bool.and_eq_true, beq_iff_eq] at closable
  obtain ⟨⟨⟨⟨⟨⟨⟨⟨looked, -⟩, -⟩, -⟩, -⟩, -⟩, -⟩, -⟩, -⟩ := closable
  exact looked

theorem closable_released {x : Txn} (closable : x.closable = true) : x.gate.released = true := by
  simp only [Txn.closable, Txn.served, Bool.and_eq_true] at closable
  obtain ⟨⟨⟨⟨⟨⟨⟨⟨-, -⟩, released⟩, -⟩, -⟩, -⟩, -⟩, -⟩, -⟩ := closable
  exact released

/-- A granted home transaction's hold begins: it is closed, and its line is held through the last of its rounds. -/
theorem startHold_closes {s : State} {hs : Nat} {x : Txn} (found : s.hub.txn hs x.tid = some x) (g : x.Granted)
    (home : s.hub.isHome x.req.line = true) : onlyIn closeParts s (s.withHub fun h => h.startHold hs x.tid) ∧
      s.hub.Closes (s.hub.startHold hs x.tid) hs x (some s.hub.round) := by
  have home' : (s.hub.onTxn hs x.tid fun t => t.heldFrom s.hub.round).isHome (x.heldFrom s.hub.round).req.line = true := home
  have noted : onlyIn closeParts s (s.withHub fun h => h.onTxn hs x.tid fun t => t.heldFrom h.round) := by
    intro q hq
    cases q <;> simp [closeParts] at hq <;> rfl
  have closes := closeTxn_closes (hs := hs) home' (some s.hub.round)
  have slice : (s.hub.onTxn hs x.tid fun t => t.heldFrom s.hub.round).slice hs =
      { s.hub.slice hs with txns := List.mapIf (fun t => t.tid == x.tid) (fun t => t.heldFrom s.hub.round) (s.hub.slice hs).txns } :=
    Hub.slice_onSlice_self ..
  simp only [State.withHub, startHold_granted found g]
  refine ⟨onlyIn_trans noted (onlyIn_closeTxn (s := s.withHub fun h => h.onTxn hs x.tid fun t => t.heldFrom h.round) home' _), ?_, closes.gone,
    ?_, closes.worst, ?_, closes.newt⟩
  · exact otherArrays_trans (k := s.hub.onTxn hs x.tid fun t => t.heldFrom s.hub.round) rfl
      (fun m other _ => Hub.slice_onSlice_ne _ _ _ _ other) closes.others
  · rw [closes.holds, slice]
    rfl
  · rw [closes.acksDue, slice]

theorem mem_of_eq {α : Type} {a : α} {l m : List α} (same : l = m) (mem : a ∈ m) : a ∈ l := same ▸ mem

/-! ### `CMP_ACK` (R124) -/

section
variable {s : State} {p : BitVec 4} {f : Flit}

theorem fromGaid_online {h : Hub} (own : f.gaid.hub = h.num) (sender : fromOnline h p f.gaid.la) (k : Hub → Hub) : h.fromGaid p f k = k h := by
  obtain ⟨valid, port, alive, online⟩ := sender
  simp [Hub.fromGaid, own, Hub.fromAgent, valid, port, alive, online]

theorem cmpAck_starts {x : Txn} (own : f.gaid.hub = s.hub.num) (sender : fromOnline s.hub p f.gaid.la)
    (fresh : (s.hub.slice (s.hub.homeHs f.line)).acksDue.contains (f.gaid, f.txid, f.line) = false)
    (found : s.hub.findTxn f.gaid f.txid f.line = some x) (g : x.Granted) (plain : x.req.span = false)
    (granted : x.gate.grant ≠ 0) (home : s.hub.isHome f.line = true) :
    exec (.cmpAck p f) s = .next (s.withHub fun h => h.startHold (s.hub.homeHs f.line) x.tid) := by
  obtain ⟨closable, -, unacked, -⟩ := g
  have grant : x.gate.grant ≠ 0#3 := granted
  have early : (f.gaid, f.txid, f.line) ∉ (s.hub.slice (s.hub.homeHs f.line)).acksDue := by simpa using fresh
  refine congrArg (fun h => Host.Outcome.next { s with hub := h }) ((fromGaid_online own sender _).trans ?_)
  simp [early, found, closable_released closable, grant, unacked, plain, remoteHome_home home]

theorem cmpAck_absorbed (own : f.gaid.hub = s.hub.num) (sender : fromOnline s.hub p f.gaid.la)
    (due : (s.hub.slice (s.hub.homeHs f.line)).acksDue.contains (f.gaid, f.txid, f.line) = true) :
    exec (.cmpAck p f) s = .next (s.withHub fun h => h.onSlice (s.hub.homeHs f.line) fun a => { a with
      acksDue := a.acksDue.filter fun b => b != (f.gaid, f.txid, f.line) }) := by
  refine congrArg (fun h => Host.Outcome.next { s with hub := h }) ((fromGaid_online own sender _).trans ?_)
  exact if_pos due

theorem cmpAck_stray (own : f.gaid.hub = s.hub.num) (sender : fromOnline s.hub p f.gaid.la)
    (fresh : (s.hub.slice (s.hub.homeHs f.line)).acksDue.contains (f.gaid, f.txid, f.line) = false)
    (unknown : s.hub.findTxn f.gaid f.txid f.line = none) :
    exec (.cmpAck p f) s = .next (s.withHub fun h => h.raise (rzTx evApStrayAck p.toNat f.line f.gaid f.txid)) := by
  have early : (f.gaid, f.txid, f.line) ∉ (s.hub.slice (s.hub.homeHs f.line)).acksDue := by simpa using fresh
  refine congrArg (fun h => Host.Outcome.next { s with hub := h }) ((fromGaid_online own sender _).trans ?_)
  simp [early, unknown]

theorem findTxn_line {h : Hub} {g : Gaid} {t : Txid} {l : Line} {x : Txn} (found : h.findTxn g t l = some x) : x.req.line = l := by
  have mine := List.find?_some found
  simp only [Bool.and_eq_true, beq_iff_eq] at mine
  exact mine.1.1

end

/-! ### `GECKO_HOLD_WORST_CLOSE` and `GECKO_HOLD_END` (R66) -/

/-- The acknowledgement to come of a transaction whose hold began at its worst close is expected. -/
def Hub.expectAck (h : Hub) (hs : Nat) (x : Txn) : Hub :=
  h.onSlice hs fun s => { s with acksDue := s.acksDue ++ [(x.req.gaid, x.req.txid, x.req.line)] }

theorem worstClose_row {s : State} {ls : BitVec 6} {x : Txn} (found : s.hub.txn (s.hub.hsOf ls) x.tid = some x) (g : x.Granted)
    (own : x.req.span = false) (granted : x.gate.grant ≠ 0) (due : x.worst ≤ s.hub.round) (home : s.hub.isHome x.req.line = true) :
    exec (.geckoHoldWorstClose ls x.tid) s =
      .next (s.withHub fun h => (h.expectAck (s.hub.hsOf ls) x).startHold (s.hub.hsOf ls) x.tid) := by
  obtain ⟨closable, -, unacked, alive⟩ := g
  have looked := closable_looked closable
  have grant : x.gate.grant ≠ 0#3 := granted
  have later : ¬s.hub.round < x.worst := by omega
  have told : s.hub.tellHome x = s.hub := by simp [Hub.tellHome, remoteHome_home home]
  refine congrArg (fun h => Host.Outcome.next { s with hub := h }) ?_
  simp [found, looked, grant, own, unacked, alive, later, told, Hub.expectAck]

/-- The end of a hold does nothing to the mirror: it writes no array of the slice (R359). -/
theorem endHold_others (h : Hub) (hs : Nat) (l : Line) (p : Hold → Bool) : otherSlices h (h.endHold hs l p) hs := by
  intro m other
  unfold Hub.endHold Hub.checkRun
  dsimp only
  have settled : ∀ k : Hub, (k.settleWay hs l).slice m = k.slice m := fun k => Hub.slice_onSlice_ne _ _ _ _ other
  split
  · rw [settled, Hub.slice_onSlice_ne _ _ _ _ other]
  · split
    · rw [Hub.slice_onSlice_ne _ _ _ _ other, settled, Hub.slice_onSlice_ne _ _ _ _ other]
    · rw [Hub.slice_congr _ _ m (Hub.raise_keeps _ _).2.2.2.2.2.2.2.2.2.2.1, settled, Hub.slice_onSlice_ne _ _ _ _ other]

theorem endHold_holds (h : Hub) (hs : Nat) (l : Line) (p : Hold → Bool) :
    ((h.endHold hs l p).slice hs).holds = (h.slice hs).holds.filter fun z => !(z.line == l && p z) := by
  have kept := ((keeps_settleWay (h.onSlice hs fun s => { s with holds := s.holds.filter fun x => !(x.line == l && p x) }) hs l).trans
    (keeps_checkRun _ hs l.sfSet)).slice hs
  have holds := kept.holds
  rw [Hub.slice_onSlice_self] at holds
  exact holds

theorem onlyIn_endHold (s : State) (hs : Nat) (l : Line) (p : Hold → Bool) :
    onlyIn ([.slices] ++ eventParts) s (s.withHub fun h => h.endHold hs l p) := by
  intro q hq
  cases q <;> simp [eventParts] at hq <;> simp [Part.same, Hub.endHold]

theorem holdEnd_row {s : State} {ls : BitVec 6} {line : Line} {y : Hold} (mem : y ∈ (s.hub.slice (s.hub.hsOf ls)).holds) (on : y.line = line)
    (past : y.last < s.hub.round) : exec (.geckoHoldEnd ls line) s =
      .next (s.withHub fun h => h.endHold (s.hub.hsOf ls) line fun z => decide (z.last < s.hub.round)) := by
  have any : ((s.hub.slice (s.hub.hsOf ls)).holds.any fun z => z.line == line && decide (z.last < s.hub.round)) = true :=
    List.any_eq_true.2 ⟨y, mem, by simp [on, past]⟩
  exact congrArg (fun h => Host.Outcome.next { s with hub := h }) (if_pos any)

/-! ### O11 -/

/-- Settles O11: an acknowledgement or the worst close begins the hold and closes the transaction (`startHold_closes`); the other rows change
one list or raise one event. -/
theorem grantedTransactionsCloseIntoAHold : Obligations.GrantedTransactionsCloseIntoAHold := by
  intro s p f ls x y line
  refine ⟨fun own sender fresh found placed closable granted unacked plain alive home => ?start, fun own sender due => ?absorbed,
    fun own sender fresh unknown => ?stray, fun found closable granted unacked plain alive due home => ?worst, fun mem on past => ?ends⟩
  case start =>
    have g : x.Granted := ⟨closable, hasGrant_local plain granted, unacked, alive⟩
    have line := findTxn_line found
    obtain ⟨only, closes⟩ := startHold_closes placed g (by rwa [line])
    refine ⟨_, cmpAck_starts own sender fresh found g plain granted home, only, closes.others, closes.gone, ?_, ?_⟩
    · exact mem_of_eq closes.holds (by simp [Slice.closed, plain, line])
    · exact line ▸ closes.worst
  case absorbed =>
    refine ⟨_, cmpAck_absorbed own sender due, ?_, fun m other => Hub.slice_onSlice_ne _ _ _ _ other, Hub.slice_onSlice_self ..⟩
    intro q hq
    cases q <;> simp at hq <;> rfl
  case stray => exact ⟨_, cmpAck_stray own sender fresh unknown, onlyIn_raise s _, raised_raise _ _⟩
  case worst =>
    have g : x.Granted := ⟨closable, hasGrant_local plain granted, unacked, alive⟩
    have slice := Hub.slice_onSlice_self s.hub (s.hub.hsOf ls) fun a => { a with
      acksDue := a.acksDue ++ [(x.req.gaid, x.req.txid, x.req.line)] }
    have found' : (s.hub.expectAck (s.hub.hsOf ls) x).txn (s.hub.hsOf ls) x.tid = some x := by
      rw [Hub.txn, Hub.expectAck, slice]
      exact found
    obtain ⟨only, closes⟩ := startHold_closes (s := s.withHub fun h => h.expectAck (s.hub.hsOf ls) x) found' g home
    refine ⟨_, worstClose_row found g plain granted due home, ?_, ?_, closes.gone, ?_, ?_⟩
    · refine onlyIn_trans (t := s.withHub fun h => h.expectAck (s.hub.hsOf ls) x) (fun q hq => ?_) only
      cases q <;> simp at hq <;> rfl
    · exact otherArrays_trans (k := s.hub.expectAck (s.hub.hsOf ls) x) rfl (fun m other _ => Hub.slice_onSlice_ne _ _ _ _ other) closes.others
    · refine mem_of_eq closes.holds ?_
      have g : ((s.hub.expectAck (s.hub.hsOf ls) x).slice (s.hub.hsOf ls)).lineG (s.hub.p 0x40) x.req.line =
          (s.hub.slice (s.hub.hsOf ls)).lineG (s.hub.p 0x40) x.req.line := by rw [Hub.expectAck, slice]; rfl
      have round : s.hub.round + (s.hub.slice (s.hub.hsOf ls)).lineG (s.hub.p 0x40) x.req.line - 1 =
          (s.withHub fun h => h.expectAck (s.hub.hsOf ls) x).hub.round +
            ((s.hub.expectAck (s.hub.hsOf ls) x).slice (s.hub.hsOf ls)).lineG (s.hub.p 0x40) x.req.line - 1 := by
        rw [g]; rfl
      rw [round]
      exact List.mem_append_right _ (List.mem_singleton.2 (by simp [plain]; rfl))
    · refine mem_of_eq closes.acksDue ?_
      simp [Hub.expectAck]
  case ends =>
    exact ⟨_, holdEnd_row mem on past, onlyIn_endHold s _ _ _, fun m other => endHold_others _ _ _ _ m other, endHold_holds _ _ _ _⟩

end Sys2Proof.Machine
end

section
/-!
SUPPORT. A line's place at the hub (R116, R275, R276): what it holds once data has entered, and what its slice's upkeep leaves of it.
-/
namespace Sys2Proof.Machine
open Sys2Proof.Safety

/-! ### The line found where it stands -/

theorem wbFind_eq (h : Hub) (hs : Nat) (l : Line) : h.wbFind hs l =
    ((h.slice hs).wb.find? fun x => x.line == l).or (h.spill.find? fun x => x.line == l) := by
  unfold Hub.wbFind Slice.wbOf
  cases (h.slice hs).wb.find? fun x => x.line == l with
  | none => rfl
  | some _ => rfl

theorem wbFind_congr {h k : Hub} {hs : Nat} (wb : (k.slice hs).wb = (h.slice hs).wb) (spill : k.spill = h.spill) (l : Line) :
    k.wbFind hs l = h.wbFind hs l := by rw [wbFind_eq, wbFind_eq, wb, spill]

theorem find?_unpushed (l : Line) (ws : List WbLine) :
    (ws.find? fun x => x.line == l).map WbLine.unpushed = (ws.map WbLine.unpushed).find? fun x => x.line == l := by
  rw [List.find?_map]
  rfl

theorem Slice.Tended.wb {a b : Slice} (H : a.Tended b) : b.wb.map WbLine.unpushed = a.wb.map WbLine.unpushed :=
  congrArg (fun s => s.wb) H.bare

/-- The upkeep of a slice leaves a line where it stands, but for its place in its write queue. -/
theorem Hub.Keeps.wbFind {hs : Nat} {h k : Hub} (H : Hub.Keeps hs h k) (spill : k.spill = h.spill) (l : Line) :
    (k.wbFind hs l).map WbLine.unpushed = (h.wbFind hs l).map WbLine.unpushed := by
  have lines := (H.slice hs).wb
  rw [wbFind_eq, wbFind_eq, spill]
  cases found : (h.slice hs).wb.find? fun x => x.line == l with
  | none =>
    have gone : (k.slice hs).wb.find? (fun x => x.line == l) = none := by
      have same := find?_unpushed l (k.slice hs).wb
      rw [lines, ← find?_unpushed, found] at same
      simpa using same
    rw [gone]
  | some x =>
    have same := find?_unpushed l (k.slice hs).wb
    rw [lines, ← find?_unpushed, found] at same
    obtain ⟨y, found', same'⟩ := Option.map_eq_some_iff.1 same
    simp [found', same']

theorem unpushed_found {o : Option WbLine} {x : WbLine} (same : o.map WbLine.unpushed = some x.unpushed) :
    ∃ y, o = some y ∧ y.unpushed = x.unpushed := Option.map_eq_some_iff.1 same

/-! ### The entry of data -/

/-- The place that a line has, or that it is given. -/
structure Hub.Placed (h k : Hub) (hs : Nat) (l : Line) (y : WbLine) : Prop where
  found : k.wbFind hs l = some y
  was : h.wbFind hs l = some y ∨ h.wbFind hs l = none ∧ y.wmask = 0
  line : y.line = l

theorem wbFind_line {h : Hub} {hs : Nat} {l : Line} {y : WbLine} (found : h.wbFind hs l = some y) : y.line = l := by
  rw [wbFind_eq] at found
  rcases Option.or_eq_some_iff.1 found with here | ⟨-, there⟩
  · exact beq_iff_eq.1 (List.find?_some (p := fun x : WbLine => x.line == l) here)
  · exact beq_iff_eq.1 (List.find?_some (p := fun x : WbLine => x.line == l) there)

theorem wbEnsure_placed (h : Hub) (hs : Nat) (l : Line) (who : Entering) (home : Bool) : ∃ y, h.Placed (h.wbEnsure hs l who home) hs l y := by
  unfold Hub.wbEnsure Hub.hasPlace
  cases found : h.wbFind hs l with
  | some y =>
    rw [if_pos (by rfl)]
    exact ⟨y, found, .inl found, wbFind_line found⟩
  | none =>
    have empty := found
    rw [wbFind_eq, Option.or_eq_none_iff] at empty
    have inSlice : ∀ p, h.Placed (h.onSlice hs fun s => { s with wb := s.wb ++ [WbLine.fresh l l.ls p home h.round] }) hs l
        (WbLine.fresh l l.ls p home h.round) := by
      refine fun p => ⟨?_, .inr ⟨found, rfl⟩, rfl⟩
      rw [wbFind_eq, Hub.slice_onSlice_self]
      simp [List.find?_append, empty.1, WbLine.fresh]
    have inSpill : ∀ p, h.Placed { h with spill := h.spill ++ [WbLine.fresh l l.ls p home h.round] } hs l
        (WbLine.fresh l l.ls p home h.round) := by
      refine fun p => ⟨?_, .inr ⟨found, rfl⟩, rfl⟩
      rw [wbFind_eq]
      show ((h.slice hs).wb.find? fun x => x.line == l).or ((h.spill ++ [_]).find? fun x => x.line == l) = _
      simp [List.find?_append, empty, WbLine.fresh]
    rw [if_neg (by simp)]
    cases who with
    | backInv => exact ⟨_, inSlice .backInv⟩
    | accepted =>
      dsimp only
      split
      · exact ⟨_, inSlice .general⟩
      · exact ⟨_, inSpill .guaranteed⟩
    | writeback =>
      dsimp only
      split
      · exact ⟨_, inSlice .general⟩
      · exact ⟨_, inSpill .pool⟩

theorem find?_mapIf_line (l : Line) (f : WbLine → WbLine) (keep : ∀ x, (f x).line = x.line) (ws : List WbLine) :
    (List.mapIf (fun x => x.line == l) f ws).find? (fun x => x.line == l) = (ws.find? fun x => x.line == l).map f := by
  induction ws with
  | nil => rfl
  | cons x ws ih =>
    by_cases mine : x.line = l
    · simp [List.mapIf, mine, keep]
    · simpa [List.mapIf, mine] using ih

theorem wbFind_onWb (h : Hub) (hs : Nat) (l : Line) (f : WbLine → WbLine) (keep : ∀ x, (f x).line = x.line) :
    (h.onWb hs l f).wbFind hs l = (h.wbFind hs l).map f := by
  have lines : ((h.onWb hs l f).slice hs).wb = List.mapIf (fun x => x.line == l) f (h.slice hs).wb :=
    congrArg (·.wb) (Hub.slice_onSlice_self h hs fun s => { s with wb := List.mapIf (fun x => x.line == l) f s.wb })
  rw [wbFind_eq, wbFind_eq, lines, find?_mapIf_line l f keep, show (h.onWb hs l f).spill = List.mapIf (fun x => x.line == l) f h.spill from rfl,
    find?_mapIf_line l f keep]
  cases (h.slice hs).wb.find? fun x => x.line == l with
  | none => rfl
  | some _ => rfl

theorem lineDown_congr {h k : Hub} (par : k.par = h.par) (chans : k.chans = h.chans) (l : Line) : k.lineDown l = h.lineDown l := by
  have pw : k.pw = h.pw := by funext i; simp [Hub.pw, par]
  have lineMap : k.lineMap l = h.lineMap l := by simp only [Hub.lineMap, Hub.winOf, Hub.winBase, Hub.winCfg, pw]
  have chan : k.chan = h.chan := by funext c; simp [Hub.chan, chans]
  simp only [Hub.lineDown, lineMap, chan]

theorem dropIfDown_up {h : Hub} {l : Line} (up : h.lineDown l = false) (hs : Nat) : h.dropIfDown hs l = h := by
  unfold Hub.dropIfDown
  split
  · simp [up]
  · rfl

theorem caches_staleFills (h : Hub) (hs : Nat) (l : Line) : Hub.Caches hs h (h.staleFills hs l) := by
  unfold Hub.staleFills
  extract_lets k
  have same : Hub.Caches hs h k := tends_of_eq Slice.Cached.refl rfl rfl (.of_eq rfl rfl rfl rfl)
  split
  · split
    · exact same
    · exact (same.trans (caches_onSlice k _ (cached_dropFill ..))).trans (caches_fillDropped ..)
  · exact same

/-- Data enters the place of a line whose channels are up: the place is changed, and the hub cache follows. -/
theorem enterWb_up {h : Hub} {l : Line} (up : h.lineDown l = false) (hs : Nat) (who : Entering) (home : Bool) (bytes : LineBits)
    (mask : ByteMask) (f : WbLine → WbLine) :
    Hub.Caches hs ((h.wbEnsure hs l who home).onWb hs l f) (h.enterWb hs l who home bytes mask f) ∧
      (h.enterWb hs l who home bytes mask f).spill = ((h.wbEnsure hs l who home).onWb hs l f).spill := by
  unfold Hub.enterWb
  extract_lets k m
  have entered : Hub.Caches hs k m := caches_staleFills k hs l
  have spill : m.spill = k.spill := by simp [m]
  split
  · split
    case h_1 x _ =>
      extract_lets updated filled
      have up' : Hub.Caches hs m updated ∧ updated.spill = m.spill ∧ updated.par = m.par ∧ updated.chans = m.chans := by
        unfold updated
        split
        · exact ⟨caches_hcUpdate .., by simp, by simp, by simp⟩
        · exact ⟨caches_hcUpdate .., by simp, by simp, by simp⟩
      have fill : Hub.Caches hs updated filled ∧ filled.spill = updated.spill ∧ filled.par = updated.par ∧ filled.chans = updated.chans := by
        unfold filled
        split
        · exact ⟨caches_chainFill .., by simp, by simp, by simp⟩
        · exact ⟨caches_refl hs updated, rfl, rfl, rfl⟩
      obtain ⟨upCaches, upSpill, upPar, upChans⟩ := up'
      obtain ⟨fillCaches, fillSpill, fillPar, fillChans⟩ := fill
      have stays : filled.lineDown l = false := by
        rw [lineDown_congr (h := h) (by rw [fillPar, upPar]; simp [m, k]) (by rw [fillChans, upChans]; simp [m, k]), up]
      rw [dropIfDown_up stays]
      exact ⟨(entered.trans upCaches).trans fillCaches, fillSpill.trans (upSpill.trans spill)⟩
    case h_2 => exact ⟨entered, spill⟩
  · exact ⟨caches_refl hs k, rfl⟩

/-- A place in the write buffer is all that the entry of data changes in a slice before its hub cache follows. -/
theorem placed_slice (h : Hub) (hs : Nat) (l : Line) (who : Entering) (home : Bool) (f : WbLine → WbLine) :
    ∃ wb, ((h.wbEnsure hs l who home).onWb hs l f).slice hs = { h.slice hs with wb := wb } := by
  have ensured : ∃ wb, (h.wbEnsure hs l who home).slice hs = { h.slice hs with wb := wb } := by
    have added : ∀ x, (h.onSlice hs fun s => { s with wb := s.wb ++ [x] }).slice hs = { h.slice hs with wb := (h.slice hs).wb ++ [x] } :=
      fun x => Hub.slice_onSlice_self h hs _
    unfold Hub.wbEnsure
    dsimp only
    split
    · exact ⟨_, rfl⟩
    · split
      · exact ⟨_, added _⟩
      · split
        · exact ⟨_, added _⟩
        · exact ⟨_, rfl⟩
      · split
        · exact ⟨_, added _⟩
        · exact ⟨_, rfl⟩
  obtain ⟨wb, same⟩ := ensured
  refine ⟨List.mapIf (fun x => x.line == l) f wb, (Hub.slice_onSlice_self (h.wbEnsure hs l who home) hs fun s =>
    { s with wb := List.mapIf (fun x => x.line == l) f s.wb }).trans ?_⟩
  rw [same]

/-- The line's value that data brings: the bytes written stay, the others are the data's. -/
structure WbLine.Valued (x y : WbLine) (bytes : LineBits) (pois : ByteMask) (from_ : Option Gaid) : Prop where
  bytes : x.bytes = mergeBytes y.wmask y.bytes bytes
  pois : x.pois = (y.pois &&& y.wmask) ||| (pois &&& ~~~y.wmask)
  whole : x.whole = true
  dirty : x.dirty = true
  lastWb : x.lastWb = from_.or y.lastWb

theorem mergeBytes_zero (a b : LineBits) : mergeBytes 0 a b = b := by
  have none : spread 0 = 0 := by decide +kernel
  have all : ~~~(0 : LineBits) = BitVec.allOnes 512 := by decide +kernel
  unfold mergeBytes
  rw [none, all, BitVec.and_allOnes]
  exact (congrArg (· ||| b) BitVec.and_zero).trans BitVec.zero_or

/-- The change that data makes of a line's place (R116). -/
def WbLine.value (x : WbLine) (bytes : LineBits) (pois : ByteMask) (from_ : Option Gaid) : WbLine := { x.putBase bytes pois with
  lastWb := from_.or x.lastWb
  dirty := true
  again := (x.putBase bytes pois).again || (x.putBase bytes pois).sent }

theorem enterValue_eq (h : Hub) (hs : Nat) (l : Line) (who : Entering) (home : Bool) (bytes : LineBits) (pois : ByteMask)
    (from_ : Option Gaid) : h.enterValue hs l who home bytes pois from_ =
      h.enterWb hs l who home bytes allBytes fun x => x.value bytes pois from_ := rfl

theorem enterValue_valued {h : Hub} {l : Line} (up : h.lineDown l = false) (hs : Nat) (who : Entering) (home : Bool) (bytes : LineBits)
    (pois : ByteMask) (from_ : Option Gaid) : ∃ x y, (h.enterValue hs l who home bytes pois from_).wbFind hs l = some x ∧
      x.Valued y bytes pois from_ ∧ (h.wbFind hs l = some y ∨ h.wbFind hs l = none ∧ y.wmask = 0) := by
  obtain ⟨y, found, was, line⟩ := wbEnsure_placed h hs l who home
  obtain ⟨caches, spill⟩ := enterWb_up up hs who home bytes allBytes fun x => x.value bytes pois from_
  have entered := caches.keeps.wbFind spill l
  rw [wbFind_onWb _ hs l (fun x => x.value bytes pois from_) fun _ => rfl, found, ← enterValue_eq] at entered
  obtain ⟨x, found', same⟩ := unpushed_found entered
  refine ⟨x, y, found', ⟨congrArg (·.bytes) same, congrArg (·.pois) same, ?_, congrArg (·.dirty) same, congrArg (·.lastWb) same⟩, was⟩
  have wmask : x.wmask = y.wmask := congrArg (·.wmask) same
  have bmask : x.bmask = allBytes := congrArg (·.bmask) same
  have every : allBytes = BitVec.allOnes 64 := by decide
  rw [WbLine.whole, wmask, bmask, every, BitVec.or_allOnes]
  exact beq_self_eq_true _

end Sys2Proof.Machine
end

section
/-!
CERTIFICATE. Writebacks and clean notices of home lines (R41, R84, R116, R128, R132).
-/
namespace Sys2Proof.Machine
open Sys2Proof.Safety

/-! ### What a notice leaves elsewhere -/

/-- Slices other than `hs` and its mirror are as before, and agents, events and sent messages as `Hub.Calm` says. -/
structure Hub.Spares (hs : Nat) (h k : Hub) : Prop where
  newt : k.rot.newt = h.rot.newt
  others : otherArrays h k hs
  calm : h.Calm k

theorem Hub.Spares.trans {hs : Nat} {h k m : Hub} (first : h.Spares hs k) (second : k.Spares hs m) : h.Spares hs m :=
  ⟨second.newt.trans first.newt, otherArrays_trans first.newt first.others second.others, first.calm.trans second.calm⟩

theorem Hub.Tends.spares {R : Slice → Slice → Prop} {hs : Nat} {h k : Hub} (H : h.Tends R hs k) : h.Spares hs k :=
  ⟨H.newt, H.others, H.told.toCalm⟩

theorem spares_of_calm {hs : Nat} {h k : Hub} (slices : k.slices = h.slices) (rot : k.rot = h.rot) (calm : h.Calm k) : h.Spares hs k :=
  ⟨by rw [rot], fun m _ _ => Hub.slice_congr k h m slices, calm⟩

theorem spares_onSlice (h : Hub) (hs : Nat) (f : Slice → Slice) : h.Spares hs (h.onSlice hs f) :=
  ⟨rfl, fun m other _ => Hub.slice_onSlice_ne h hs m f other, (reported_onSlice h hs f).toCalm⟩

/-! ### Clean reads of the arrays (R97, R288) -/

theorem readSf_clean {h : Hub} {hs : Nat} {l : Line} {e : LookupErr} (ue : e.sfUe = 0) (ce : e.sfCe = 0) (nru : e.nruPar = false)
    (bad : (h.slice hs).badWays l.sfSet = 0) (own : Bool) : h.readSf hs l e own = h := by
  have none : waysOf 0#16 = [] := by decide
  simp [Hub.readSf, Hub.readSfSet, ue, ce, nru, bad, countWays, none, Hub.corrected]

theorem readHc_clean {h : Hub} {hs : Nat} {l : Line} {e : LookupErr} (tagUe : e.tagUe = 0) (tagCe : e.tagCe = 0)
    (dataUe : e.dataUe = false) (dataCe : e.dataCe = false) (agePar : e.agePar = false) (bad : (h.slice hs).badHcWays l.hcSet = 0) :
    h.readHc hs l e = h := by
  have none : waysOf 0#16 = [] := by decide
  have ways : h.readHcWays hs l.hcSet 0#16 0#16 = h := by simp [Hub.readHcWays, countWays, none, Hub.corrected]
  have fill : h.readFill hs l e = h := by
    unfold Hub.readFill
    split
    · rfl
    · simp [dataUe, dataCe]
  simp [Hub.readHc, tagUe, tagCe, dataUe, dataCe, agePar, bad, ways, fill]

/-! ### A notice reaches its slice -/

/-- The hub in which a notice has crossed the mesh: its port has noted it as `aps` says. -/
def Hub.crossed (h : Hub) (aps : Tbl ApPort) (p : BitVec 4) (f : Flit) (data : Bool) (n : Nat) : Hub :=
  ({ h with aps := aps }.moved (epAp p.toNat) (h.homeHs f.line) data n).count 0x006 f.line.ls.toNat 1

/-- The hub in which a notice is judged: its line's way is marked as matched. -/
def Hub.noticed (h : Hub) (aps : Tbl ApPort) (p : BitVec 4) (f : Flit) (data : Bool) (n : Nat) : Hub :=
  (h.crossed aps p f data n).onSlice (h.homeHs f.line) fun s => s.touchLine f.line (h.crossed aps p f data n).round

theorem touchLine_nru (s : Slice) (l : Line) (n : Nat) : ∃ nru, s.touchLine l n = { s with nru := nru } := by
  unfold Slice.touchLine
  split
  · exact ⟨_, rfl⟩
  · exact ⟨_, rfl⟩

section
variable (h : Hub) (aps : Tbl ApPort) (p : BitVec 4) (f : Flit) (data : Bool) (n : Nat)

theorem noticed_slice : ∃ nru, (h.noticed aps p f data n).slice (h.homeHs f.line) = { h.slice (h.homeHs f.line) with nru := nru } := by
  obtain ⟨nru, touched⟩ := touchLine_nru (h.slice (h.homeHs f.line)) f.line (h.crossed aps p f data n).round
  refine ⟨nru, (Hub.slice_onSlice_self _ _ _).trans ?_⟩
  rw [Hub.slice_congr _ h _ (by simp [Hub.crossed]), touched]

theorem noticed_otherSlices : otherSlices h (h.noticed aps p f data n) (h.homeHs f.line) := fun m other =>
  (Hub.slice_onSlice_ne _ _ _ _ other).trans (Hub.slice_congr _ h _ (by simp [Hub.crossed]))

theorem noticed_spares : h.Spares (h.homeHs f.line) (h.noticed aps p f data n) :=
  ⟨by simp [Hub.noticed, Hub.crossed, Hub.onSlice], otherArrays_of_otherSlices (noticed_otherSlices h aps p f data n),
    .of_eq (by simp [Hub.noticed, Hub.crossed, Hub.onSlice]) (by simp [Hub.noticed, Hub.crossed, Hub.onSlice])
      (by simp [Hub.noticed, Hub.crossed, Hub.onSlice])⟩

theorem noticed_parts : (h.noticed aps p f data n).par = h.par ∧ (h.noticed aps p f data n).mps = h.mps ∧
    (h.noticed aps p f data n).chans = h.chans ∧ (h.noticed aps p f data n).spill = h.spill := by
  simp [Hub.noticed, Hub.crossed, Hub.onSlice]

end

theorem noticed_only (s : State) (aps : Tbl ApPort) (p : BitVec 4) (f : Flit) (data : Bool) (n : Nat) :
    onlyIn ([Part.slices] ++ eventParts) s (s.withHub fun h => h.noticed aps p f data n) := by
  intro q hq
  cases q <;> simp [eventParts] at hq <;> simp [Part.same, State.withHub, Hub.noticed, Hub.crossed, Hub.onSlice]

section
variable {h : Hub} {p : BitVec 4} {f : Flit} {e : LookupErr}

theorem notice_new (N : NewNotice h p f) {sound : Bool} (good : sound = true) (k : Hub → Hub) :
    h.notice p f sound k = k (h.onAp p fun a => { a with outst := a.outst ++ [⟨f.gaid.la, f.gaid, f.txid, f.line, true, none, false⟩] }) := by
  obtain ⟨taken, own, sender, caches, fresh, home⟩ := N
  unfold Hub.isHome at home
  split at home
  case h_2 => exact absurd home Bool.false_ne_true
  case h_1 place =>
    simp only [Hub.notice, taken, Bool.not_true, Bool.false_eq_true, if_false]
    rw [fromGaid_online own sender]
    simp [Hub.badNotice, good, caches, fresh, place]

/-- The port after it has noted a notice. -/
def Hub.notedAps (h : Hub) (p : BitVec 4) (f : Flit) : Tbl ApPort :=
  (h.onAp p fun a => { a with outst := a.outst ++ [⟨f.gaid.la, f.gaid, f.txid, f.line, true, none, false⟩] }).aps

/-- Its reads of the arrays clean, a notice is judged in the hub in which it has crossed the mesh. -/
theorem crossed_readSf (aps : Tbl ApPort) (data : Bool) (n : Nat) (clean : cleanRead h f.line e) :
    (h.crossed aps p f data n).readSf (h.homeHs f.line) f.line e false = h.crossed aps p f data n := by
  obtain ⟨ue, ce, nru, bad⟩ := clean
  refine readSf_clean ue ce nru ?_ false
  rw [Hub.slice_congr _ h _ (by simp [Hub.crossed])]
  exact bad

/-- What an `EVICT_CLEAN` does whose arrays read clean. -/
theorem evictClean_new {s : State} (N : NewNotice s.hub p f) (clean : cleanRead s.hub f.line e) : exec (.evictClean p f e) s =
    .next (s.withHub fun h => (h.noticed (h.notedAps p f) p f false 16).turnNotice p (s.hub.homeHs f.line) f.gaid.la f.line f.txid false) := by
  refine congrArg (fun h => Host.Outcome.next { s with hub := h }) ((notice_new N rfl _).trans ?_)
  exact congrArg (fun k : Hub => (k.onSlice (s.hub.homeHs f.line) fun a => a.touchLine f.line k.round).turnNotice p (s.hub.homeHs f.line)
    f.gaid.la f.line f.txid false) (crossed_readSf (s.hub.notedAps p f) false 16 clean)

/-- The port after it has noted and staged a writeback. -/
def Hub.stagedAps (h : Hub) (p : BitVec 4) (f : Flit) (d : MeshData) : Tbl ApPort :=
  (({ h with aps := h.notedAps p f } : Hub).onAp p fun a => { a with
    staged := a.staged ++ [⟨f.gaid.la, f.gaid, f.txid, f.line, d.line.bytes, enterPoison d.line.poison 0, allBytes, true⟩] }).aps

/-- What a slice does with a writeback once its entry has been read (R84, R116, R132). -/
def Hub.judgeWb (h : Hub) (hs : Nat) (p : BitVec 4) (f : Flit) (d : MeshData) (e : LookupErr) : Hub :=
  match (h.slice hs).wbCase f.line f.gaid.la with
  | .unnamed => (h.raise (rzTx evSfStrayWb hs f.line f.gaid f.txid)).ackWb p hs f.gaid.la f.line f.txid
  | .taken =>
    ((((h.meshUe hs f.line d.ue).readMerge hs f.line e).enterValue hs f.line .writeback ((h.meshUe hs f.line d.ue).isHome f.line)
      d.line.bytes (enterPoison d.line.poison d.ue) (some f.gaid)).valueCame hs f.line f.gaid.la d.line.bytes
      (enterPoison d.line.poison d.ue)).turnNotice p hs f.gaid.la f.line f.txid true

theorem wbDirty_new {s : State} {d : MeshData} (N : NewNotice s.hub p f) (sound : d.line.sound = true) (clean : cleanRead s.hub f.line e) :
    exec (.wbDirty p f d e) s =
      .next (s.withHub fun h => (h.noticed (h.stagedAps p f d) p f true 64).judgeWb (s.hub.homeHs f.line) p f d e) := by
  refine congrArg (fun h => Host.Outcome.next { s with hub := h }) ((notice_new N sound _).trans ?_)
  refine Eq.trans ?_ (congrArg (fun k : Hub => (k.onSlice (s.hub.homeHs f.line) fun a => a.touchLine f.line k.round).judgeWb
    (s.hub.homeHs f.line) p f d e) (crossed_readSf (s.hub.stagedAps p f d) true 64 clean))
  rfl

end

/-! ### The notice takes its turn at the entry (R84, R132, R133) -/

section
variable {h : Hub} {hs : Nat} {l : Line}

theorem keeps_removeWriter (h : Hub) (hs : Nat) (l : Line) (w : La) : Hub.Keeps hs h (h.removeWriter hs l w) := by
  unfold Hub.removeWriter
  extract_lets s isReq
  split
  · extract_lets v v'
    split
    · exact keeps_refl hs h
    · exact keeps_putEntry ..
  · exact keeps_refl hs h

theorem calm_ackWb (h : Hub) (p : BitVec 4) (hs : Nat) (la : La) (l : Line) (t : Txid) : h.Calm (h.ackWb p hs la l t) := by
  unfold Hub.ackWb
  split
  · exact .of_eq rfl rfl rfl
  · exact (calm_toAgent h hs _).trans (.of_eq rfl rfl rfl)

theorem spares_ackWb (h : Hub) (p : BitVec 4) (hs : Nat) (la : La) (t : Txid) : h.Spares hs (h.ackWb p hs la l t) :=
  spares_of_calm (by simp) (by simp) (calm_ackWb ..)

theorem turnNotice_due (due : (h.slice hs).lookupDue l = true) (p : BitVec 4) (la : La) (t : Txid) (dirty : Bool) :
    h.turnNotice p hs la l t dirty = h.onSlice hs fun s => { s with wbWait := s.wbWait ++ [⟨p, la, l, t, dirty, none⟩] } := if_pos due

theorem turnNotice_now (due : (h.slice hs).lookupDue l = false) (home : h.isHome l = true) (p : BitVec 4) (la : La) (t : Txid) (dirty : Bool) :
    h.turnNotice p hs la l t dirty = (h.removeWriter hs l la).ackWb p hs la l t := by
  have stays : ((h.removeWriter hs l la).ackWb p hs la l t).isHome l = true := by
    rw [isHome_congr (h := h) (by simp) (by simp), home]
  rw [Hub.turnNotice, due]
  exact proxyFlush_home stays hs _

theorem spares_turnNotice (home : h.isHome l = true) (p : BitVec 4) (la : La) (t : Txid) (dirty : Bool) :
    h.Spares hs (h.turnNotice p hs la l t dirty) := by
  cases due : (h.slice hs).lookupDue l with
  | true =>
    rw [turnNotice_due due]
    exact spares_onSlice ..
  | false =>
    rw [turnNotice_now due home]
    exact (keeps_removeWriter ..).spares.trans (spares_ackWb ..)

theorem wbFind_turnNotice (home : h.isHome l = true) (p : BitVec 4) (la : La) (t : Txid) (dirty : Bool) :
    ((h.turnNotice p hs la l t dirty).wbFind hs l).map WbLine.unpushed = (h.wbFind hs l).map WbLine.unpushed := by
  cases due : (h.slice hs).lookupDue l with
  | true =>
    rw [turnNotice_due due, wbFind_congr]
    · exact congrArg (fun s => s.wb) (Hub.slice_onSlice_self h hs fun s => { s with wbWait := s.wbWait ++ [⟨p, la, l, t, dirty, none⟩] })
    · rfl
  | false =>
    rw [turnNotice_now due home, wbFind_congr (h := h.removeWriter hs l la)]
    · exact (keeps_removeWriter ..).wbFind (by simp) l
    · rw [Hub.slice_congr _ (h.removeWriter hs l la) _ (by simp)]
    · simp

/-- While a lookup of its line is due, a notice waits, and no entry changes. -/
theorem turnNotice_waits (due : (h.slice hs).lookupDue l = true) (p : BitVec 4) (la : La) (t : Txid) (dirty : Bool) :
    (⟨p, la, l, t, dirty, none⟩ : WbWait) ∈ ((h.turnNotice p hs la l t dirty).slice hs).wbWait ∧
      ((h.turnNotice p hs la l t dirty).slice hs).sf = (h.slice hs).sf := by
  rw [turnNotice_due due, Hub.slice_onSlice_self]
  simp

theorem onlyIn_turnNotice {s : State} (home : s.hub.isHome l = true) (p : BitVec 4) (la : La) (t : Txid) (dirty : Bool) :
    onlyIn ([Part.slices] ++ eventParts) s (s.withHub fun h => h.turnNotice p hs la l t dirty) := by
  intro q hq
  cases due : (s.hub.slice hs).lookupDue l with
  | true => cases q <;> simp [eventParts] at hq <;> simp [Part.same, State.withHub, turnNotice_due due, Hub.onSlice]
  | false => cases q <;> simp [eventParts] at hq <;> simp [Part.same, State.withHub, turnNotice_now due home]

/-! ### The entry that a notice leaves (R84) -/

theorem serveClaims_sf (n : Nat) (set : BitVec 14) : ∀ (fuel : Nat) (s : Slice), (Slice.serveClaims n set fuel s).sf = s.sf
  | 0, _ => rfl
  | fuel + 1, s => by
    unfold Slice.serveClaims
    split
    · exact serveClaims_sf n set fuel _
    · rfl

theorem checkRun_sf (h : Hub) (hs : Nat) (set : BitVec 14) : ((h.checkRun hs set).slice hs).sf = (h.slice hs).sf := by
  unfold Hub.checkRun
  dsimp only
  split
  · rfl
  · split
    · rw [Hub.slice_onSlice_self]
    · rw [Hub.slice_congr _ h _ (by simp)]

theorem putSf_sf (h : Hub) (hs : Nat) (set : BitVec 14) (way : Nat) (w : Word) : ((h.putSf hs set way w).slice hs).sfAt set way = w := by
  have put : ∀ s : Slice, Slice.sfAt { s with sf := s.sf.set (sfKey set way) 0 w } set way = w := fun s => by simp [Slice.sfAt]
  unfold Hub.putSf Hub.onMirrored
  split
  · rw [Hub.slice_onSlice]
    split
    · exact put _
    · rw [Hub.slice_onSlice_self]
      exact put _
  · rw [Hub.slice_onSlice_self]
    exact put _

theorem sfAt_congr {a b : Slice} (sf : b.sf = a.sf) (set : BitVec 14) (way : Nat) : b.sfAt set way = a.sfAt set way := by
  rw [Slice.sfAt, sf, Slice.sfAt]

theorem putEntry_sf (h : Hub) (hs : Nat) (l : Line) (w : Nat) (v : SView) :
    ((h.putEntry hs l w v).slice hs).sfAt l.sfSet w = v.word l.sfTag := by
  refine Eq.trans (sfAt_congr ?_ _ _) (putSf_sf h hs l.sfSet w (v.word l.sfTag))
  unfold Hub.putEntry
  dsimp only
  split
  · split
    · rw [Hub.slice_onSlice_self]
      rfl
    · rw [Hub.slice_onSlice_self, serveClaims_sf]
      rfl
  · rw [checkRun_sf, Hub.slice_onSlice_self]
    split
    · rfl
    · rfl

theorem removeWriter_sf {w : La} {k : Nat} {ks : List Nat} {v : SView} (free : (h.slice hs).lookedOn l = none)
    (ways : (h.slice hs).healthyWays l = k :: ks) (view : (h.slice hs).viewAt l.sfSet k = some v) (named : v.without (fun a => a == w) ≠ v) :
    ((h.removeWriter hs l w).slice hs).sfAt l.sfSet k = (v.without fun a => a == w).word l.sfTag := by
  have put : h.removeWriter hs l w = h.putEntry hs l k (v.without fun a => a == w) := by
    simp [Hub.removeWriter, free, ways, view, named]
  rw [put, putEntry_sf]

end

/-! ### The data of a writeback (R116, R127, R128) -/

section
variable {h : Hub} {hs : Nat} {l : Line}

theorem caches_meshUe (h : Hub) (hs inst : Nat) (l : Line) (ue : BitVec 8) : Hub.Caches hs h (h.meshUe inst l ue) := by
  unfold Hub.meshUe
  split
  · exact caches_refl hs h
  · exact caches_raise ..

@[simp] theorem Hub.meshUe_keeps (h : Hub) (inst : Nat) (l : Line) (ue : BitVec 8) :
    Hub.sameConfig h (h.meshUe inst l ue) ∧ Hub.sameFlow h (h.meshUe inst l ue) ∧ Hub.sameStore h (h.meshUe inst l ue) ∧
    (h.meshUe inst l ue).slices = h.slices := by
  unfold Hub.meshUe
  split
  · simp
  · simp

theorem enterValue_lists (up : h.lineDown l = false) (who : Entering) (home : Bool) (bytes : LineBits) (pois : ByteMask)
    (from_ : Option Gaid) : ((h.enterValue hs l who home bytes pois from_).slice hs).sf = (h.slice hs).sf ∧
      ((h.enterValue hs l who home bytes pois from_).slice hs).txns = (h.slice hs).txns := by
  obtain ⟨wb, placed⟩ := placed_slice h hs l who home fun x => x.value bytes pois from_
  have cached := (enterWb_up up hs who home bytes allBytes fun x => x.value bytes pois from_).1.slice hs
  rw [placed] at cached
  exact ⟨cached.sf, cached.txns⟩

theorem valueCame_slice (h : Hub) (hs : Nat) (l : Line) (w : La) (bytes : LineBits) (pois : ByteMask) :
    ∃ txns backs, (h.valueCame hs l w bytes pois).slice hs = { h.slice hs with txns := txns, backs := backs } ∧
      txns.any (fun t => t.req.line == l && t.phase == .accepted) = (h.slice hs).lookupDue l := by
  have newer : (h.newerData hs l bytes pois).slice hs = _ := Hub.slice_onSlice_self h hs _
  refine ⟨_, _, (Hub.slice_onSlice_self (h.newerData hs l bytes pois) hs _).trans (by rw [newer]), ?_⟩
  simp only [List.mapIf, List.any_map, Slice.lookupDue]
  refine congrArg (fun g => (h.slice hs).txns.any g) (funext fun t => ?_)
  simp only [Function.comp_apply]
  split <;> rfl

end

/-! ### A writeback that nothing names, and one that is the line's value (R84) -/

section
variable {h : Hub} {hs : Nat} {p : BitVec 4} {f : Flit} {d : MeshData} {e : LookupErr}

/-- The hub in which a writeback's data has entered the write buffer and the open transactions. -/
def Hub.landed (h : Hub) (hs : Nat) (f : Flit) (d : MeshData) : Hub :=
  ((h.meshUe hs f.line d.ue).enterValue hs f.line .writeback true d.line.bytes (enterPoison d.line.poison d.ue) (some f.gaid)).valueCame
    hs f.line f.gaid.la d.line.bytes (enterPoison d.line.poison d.ue)

theorem judgeWb_unnamed (stray : (h.slice hs).wbCase f.line f.gaid.la = .unnamed) :
    h.judgeWb hs p f d e = (h.raise (rzTx evSfStrayWb hs f.line f.gaid f.txid)).ackWb p hs f.gaid.la f.line f.txid := by
  rw [Hub.judgeWb, stray]

theorem judgeWb_taken (own : (h.slice hs).wbCase f.line f.gaid.la = .taken) (home : h.isHome f.line = true) (tagUe : e.tagUe = 0)
    (tagCe : e.tagCe = 0) (dataUe : e.dataUe = false) (dataCe : e.dataCe = false) (agePar : e.agePar = false)
    (bad : (h.slice hs).badHcWays f.line.hcSet = 0) :
    h.judgeWb hs p f d e = (h.landed hs f d).turnNotice p hs f.gaid.la f.line f.txid true := by
  have here : (h.meshUe hs f.line d.ue).isHome f.line = true := by rw [isHome_congr (h := h) (by simp) (by simp), home]
  have merge : (h.meshUe hs f.line d.ue).readMerge hs f.line e = h.meshUe hs f.line d.ue := by
    rw [Hub.readMerge, here]
    refine readHc_clean tagUe tagCe dataUe dataCe agePar ?_
    rw [Hub.slice_congr _ h _ (by simp), bad]
  rw [Hub.judgeWb, own, Hub.landed, ← here]
  dsimp only
  rw [merge]

theorem landed_home (home : h.isHome f.line = true) : (h.landed hs f d).isHome f.line = true := by
  rw [isHome_congr (h := h) (by simp [Hub.landed, Hub.valueCame, Hub.newerData, Hub.onSlice])
    (by simp [Hub.landed, Hub.valueCame, Hub.newerData, Hub.onSlice]), home]

theorem landed_spares (h : Hub) (hs : Nat) (f : Flit) (d : MeshData) : (h.meshUe hs f.line d.ue).Spares hs (h.landed hs f d) :=
  ((steadies_enterWb ..).spares.trans (spares_onSlice ..)).trans (spares_onSlice ..)

theorem meshUe_raised (ue : d.ue ≠ 0) : raised (h.meshUe hs f.line d.ue) evHubDataUe := by
  rw [Hub.meshUe, if_neg ue]
  exact raised_raise h _

/-- What the write buffer holds of the line once a writeback's data has landed there. -/
theorem landed_line (up : h.lineDown f.line = false) : ∃ x y, (h.landed hs f d).wbFind hs f.line = some x ∧
    x.Valued y d.line.bytes (enterPoison d.line.poison d.ue) (some f.gaid) ∧
    (h.wbFind hs f.line = some y ∨ h.wbFind hs f.line = none ∧ y.wmask = 0) := by
  have up' : (h.meshUe hs f.line d.ue).lineDown f.line = false := by rw [lineDown_congr (h := h) (by simp) (by simp), up]
  obtain ⟨x, y, found, valued, was⟩ := enterValue_valued up' hs .writeback true d.line.bytes (enterPoison d.line.poison d.ue) (some f.gaid)
  have before : (h.meshUe hs f.line d.ue).wbFind hs f.line = h.wbFind hs f.line :=
    wbFind_congr (by rw [Hub.slice_congr _ h _ (by simp)]) (by simp) _
  rw [before] at was
  refine ⟨x, y, (wbFind_congr ?_ (by simp [Hub.landed, Hub.valueCame, Hub.newerData, Hub.onSlice]) _).trans found, valued, was⟩
  obtain ⟨txns, backs, came, -⟩ := valueCame_slice ((h.meshUe hs f.line d.ue).enterValue hs f.line .writeback true d.line.bytes
    (enterPoison d.line.poison d.ue) (some f.gaid)) hs f.line f.gaid.la d.line.bytes (enterPoison d.line.poison d.ue)
  rw [Hub.landed, came]

/-- The data changes no entry, and no lookup that is due. -/
theorem landed_lists (up : h.lineDown f.line = false) : ((h.landed hs f d).slice hs).sf = (h.slice hs).sf ∧
    ((h.landed hs f d).slice hs).lookupDue f.line = (h.slice hs).lookupDue f.line := by
  have up' : (h.meshUe hs f.line d.ue).lineDown f.line = false := by rw [lineDown_congr (h := h) (by simp) (by simp), up]
  have same : (h.meshUe hs f.line d.ue).slice hs = h.slice hs := Hub.slice_congr _ h _ (by simp)
  obtain ⟨sf, txns⟩ := enterValue_lists (hs := hs) up' .writeback true d.line.bytes (enterPoison d.line.poison d.ue) (some f.gaid)
  obtain ⟨txns', backs, came, due⟩ := valueCame_slice ((h.meshUe hs f.line d.ue).enterValue hs f.line .writeback true d.line.bytes
    (enterPoison d.line.poison d.ue) (some f.gaid)) hs f.line f.gaid.la d.line.bytes (enterPoison d.line.poison d.ue)
  rw [Hub.landed, came]
  refine ⟨sf.trans (by rw [same]), due.trans ?_⟩
  rw [Slice.lookupDue, txns, same, Slice.lookupDue]

theorem onlyIn_landed (s : State) (hs : Nat) (f : Flit) (d : MeshData) :
    onlyIn ([Part.slices, .spill, .reads, .rot] ++ eventParts) s (s.withHub fun h => h.landed hs f d) := by
  intro q hq
  cases q <;> simp [eventParts] at hq <;> simp [Part.same, State.withHub, Hub.landed, Hub.valueCame, Hub.newerData, Hub.onSlice]

end

/-! ### O9 -/

section
variable {s : State} {p : BitVec 4} {f : Flit} {d : MeshData} {e : LookupErr}

theorem noticed_home (aps : Tbl ApPort) (data : Bool) (n : Nat) (home : s.hub.isHome f.line = true) :
    (s.hub.noticed aps p f data n).isHome f.line = true := by
  obtain ⟨par, mps, -, -⟩ := noticed_parts s.hub aps p f data n
  rw [isHome_congr par mps, home]

theorem wbDirty_taken (N : NewNotice s.hub p f) (clean : cleanLookup s.hub f.line e) (sound : d.line.sound = true)
    (own : (s.hub.slice (s.hub.homeHs f.line)).wbCase f.line f.gaid.la = .taken) :
    exec (.wbDirty p f d e) s = .next (s.withHub fun h =>
      ((h.noticed (h.stagedAps p f d) p f true 64).landed (s.hub.homeHs f.line) f d).turnNotice p (s.hub.homeHs f.line) f.gaid.la f.line
        f.txid true) := by
  obtain ⟨read, -, -, -, tagUe, tagCe, dataUe, dataCe, agePar, bad⟩ := clean
  obtain ⟨nru, slice⟩ := noticed_slice s.hub (s.hub.stagedAps p f d) p f true 64
  rw [wbDirty_new N sound read]
  refine congrArg (fun h => Host.Outcome.next { s with hub := h })
    (judgeWb_taken ?_ (noticed_home _ true 64 N.home) tagUe tagCe dataUe dataCe agePar ?_)
  · rw [slice]
    exact own
  · rw [slice]
    exact bad

theorem wbDirty_enters (N : NewNotice s.hub p f) (clean : cleanLookup s.hub f.line e) (sound : d.line.sound = true)
    (own : (s.hub.slice (s.hub.homeHs f.line)).wbCase f.line f.gaid.la = .taken) (up : s.hub.lineDown f.line = false) :
    ∃ t, exec (.wbDirty p f d e) s = .next t ∧ onlyIn ([Part.slices, .spill, .reads, .rot] ++ eventParts) s t ∧
      otherArrays s.hub t.hub (s.hub.homeHs f.line) ∧ (d.ue ≠ 0 → raised t.hub evHubDataUe) ∧
      ∃ x, t.hub.wbFind (s.hub.homeHs f.line) f.line = some x ∧ x.whole = true ∧ x.dirty = true ∧ x.lastWb = some f.gaid ∧
        (∀ y, s.hub.wbFind (s.hub.homeHs f.line) f.line = some y → x.bytes = mergeBytes y.wmask y.bytes d.line.bytes ∧
          x.pois = (y.pois &&& y.wmask) ||| (enterPoison d.line.poison d.ue &&& ~~~y.wmask)) ∧
        (s.hub.wbFind (s.hub.homeHs f.line) f.line = none → x.bytes = d.line.bytes ∧ x.pois = enterPoison d.line.poison d.ue) ∧
        ((s.hub.slice (s.hub.homeHs f.line)).lookupDue f.line = true →
          (⟨p, f.gaid.la, f.line, f.txid, true, none⟩ : WbWait) ∈ (t.hub.slice (s.hub.homeHs f.line)).wbWait ∧
          ∀ set way, (t.hub.slice (s.hub.homeHs f.line)).sfAt set way = (s.hub.slice (s.hub.homeHs f.line)).sfAt set way) := by
  refine ⟨_, wbDirty_taken N clean sound own, ?_⟩
  have spared := noticed_spares s.hub (s.hub.stagedAps p f d) p f true 64
  have only := noticed_only s (s.hub.stagedAps p f d) p f true 64
  have home := noticed_home (s.hub.stagedAps p f d) true 64 (p := p) N.home
  obtain ⟨nru, slice⟩ := noticed_slice s.hub (s.hub.stagedAps p f d) p f true 64
  obtain ⟨par, -, chans, spill⟩ := noticed_parts s.hub (s.hub.stagedAps p f d) p f true 64
  simp only [State.withHub] at only ⊢
  generalize s.hub.noticed (s.hub.stagedAps p f d) p f true 64 = k at *
  generalize s.hub.homeHs f.line = hs at *
  have up' : k.lineDown f.line = false := by rw [lineDown_congr par chans, up]
  have same : k.wbFind hs f.line = s.hub.wbFind hs f.line := wbFind_congr (by rw [slice]) spill _
  have due : (k.slice hs).lookupDue f.line = (s.hub.slice hs).lookupDue f.line := by rw [slice, Slice.lookupDue, Slice.lookupDue]
  have home' : (k.landed hs f d).isHome f.line = true := landed_home home
  have turned := spares_turnNotice (hs := hs) home' p f.gaid.la f.txid true
  obtain ⟨x, y, found, valued, was⟩ := landed_line (d := d) (hs := hs) up'
  obtain ⟨sf, dueToo⟩ := landed_lists (d := d) (hs := hs) up'
  have after := wbFind_turnNotice (hs := hs) home' p f.gaid.la f.txid true
  rw [found] at after
  obtain ⟨z, found', alike⟩ := unpushed_found after
  rw [same] at was
  refine ⟨?only, ?others, ?ue, z, found', ?whole, ?dirty, ?writer, ?merged, ?new, ?waits⟩
  case only =>
    refine onlyIn_trans (onlyIn_trans (onlyIn_mono (by decide) only) (onlyIn_landed { s with hub := k } hs f d)) ?_
    exact onlyIn_mono (by decide) (onlyIn_turnNotice (s := { s with hub := k.landed hs f d }) (hs := hs) home' p f.gaid.la f.txid true)
  case others => exact (((spared.trans (caches_meshUe k hs hs f.line d.ue).spares).trans (landed_spares k hs f d)).trans turned).others
  case ue => exact fun ue => turned.calm.raised _ ((landed_spares k hs f d).calm.raised _ (meshUe_raised ue))
  case whole => exact (congrArg (fun w => w.whole) alike).trans valued.whole
  case dirty => exact (congrArg (fun w => w.dirty) alike).trans valued.dirty
  case writer => exact ((congrArg (fun w => w.lastWb) alike).trans valued.lastWb)
  case merged =>
    intro v held
    rcases was with there | ⟨gone, -⟩
    · obtain rfl : v = y := Option.some.inj (held.symm.trans there)
      exact ⟨(congrArg (fun w => w.bytes) alike).trans valued.bytes, (congrArg (fun w => w.pois) alike).trans valued.pois⟩
    · cases held.symm.trans gone
  case new =>
    intro gone
    rcases was with there | ⟨-, bare⟩
    · cases gone.symm.trans there
    · refine ⟨((congrArg (fun w => w.bytes) alike).trans valued.bytes).trans ?_, ((congrArg (fun w => w.pois) alike).trans valued.pois).trans ?_⟩
      · rw [bare, mergeBytes_zero]
      · have every : ~~~(0 : ByteMask) = BitVec.allOnes 64 := by decide
        rw [bare, every, BitVec.and_allOnes]
        exact (congrArg (· ||| enterPoison d.line.poison d.ue) BitVec.and_zero).trans BitVec.zero_or
  case waits =>
    intro waiting
    obtain ⟨queued, entries⟩ := turnNotice_waits (dueToo.trans (due.trans waiting)) p f.gaid.la f.txid true
    refine ⟨queued, fun set way => sfAt_congr (entries.trans (sf.trans ?_)) set way⟩
    rw [slice]

theorem wbDirty_strays (N : NewNotice s.hub p f) (clean : cleanRead s.hub f.line e) (sound : d.line.sound = true)
    (stray : (s.hub.slice (s.hub.homeHs f.line)).wbCase f.line f.gaid.la = .unnamed) :
    ∃ t, exec (.wbDirty p f d e) s = .next t ∧ onlyIn ([Part.slices] ++ eventParts) s t ∧
      otherSlices s.hub t.hub (s.hub.homeHs f.line) ∧ raised t.hub evSfStrayWb ∧
      t.hub.wbFind (s.hub.homeHs f.line) f.line = s.hub.wbFind (s.hub.homeHs f.line) f.line := by
  have only := noticed_only s (s.hub.stagedAps p f d) p f true 64
  have others := noticed_otherSlices s.hub (s.hub.stagedAps p f d) p f true 64
  obtain ⟨nru, slice⟩ := noticed_slice s.hub (s.hub.stagedAps p f d) p f true 64
  obtain ⟨-, -, -, spill⟩ := noticed_parts s.hub (s.hub.stagedAps p f d) p f true 64
  have judged : (s.hub.noticed (s.hub.stagedAps p f d) p f true 64).judgeWb (s.hub.homeHs f.line) p f d e = _ :=
    judgeWb_unnamed (by rw [slice]; exact stray)
  rw [wbDirty_new N sound clean]
  refine ⟨_, rfl, ?_⟩
  simp only [State.withHub, judged] at only ⊢
  generalize s.hub.noticed (s.hub.stagedAps p f d) p f true 64 = k at *
  have kept (m : Nat) : ((k.raise (rzTx evSfStrayWb (s.hub.homeHs f.line) f.line f.gaid f.txid)).ackWb p (s.hub.homeHs f.line) f.gaid.la
      f.line f.txid).slice m = k.slice m := Hub.slice_congr _ _ _ (by simp)
  refine ⟨?_, fun m other => (kept m).trans (others m other), ?_, ?_⟩
  · refine onlyIn_trans only ?_
    intro q hq
    cases q <;> simp [eventParts] at hq <;> simp [Part.same]
  · exact (calm_ackWb ..).raised _ (raised_raise k _)
  · exact wbFind_congr (by rw [kept, slice]) ((by simp : _ = k.spill).trans spill) _

theorem evictClean_waits (N : NewNotice s.hub p f) (clean : cleanRead s.hub f.line e)
    (due : (s.hub.slice (s.hub.homeHs f.line)).lookupDue f.line = true) :
    ∃ t, exec (.evictClean p f e) s = .next t ∧ onlyIn ([Part.slices] ++ eventParts) s t ∧
      otherSlices s.hub t.hub (s.hub.homeHs f.line) ∧
      (⟨p, f.gaid.la, f.line, f.txid, false, none⟩ : WbWait) ∈ (t.hub.slice (s.hub.homeHs f.line)).wbWait ∧
      ∀ set way, (t.hub.slice (s.hub.homeHs f.line)).sfAt set way = (s.hub.slice (s.hub.homeHs f.line)).sfAt set way := by
  refine ⟨_, evictClean_new N clean, ?_⟩
  have only := noticed_only s (s.hub.notedAps p f) p f false 16
  have others := noticed_otherSlices s.hub (s.hub.notedAps p f) p f false 16
  have home := noticed_home (s.hub.notedAps p f) false 16 (p := p) N.home
  obtain ⟨nru, slice⟩ := noticed_slice s.hub (s.hub.notedAps p f) p f false 16
  simp only [State.withHub] at only ⊢
  generalize s.hub.noticed (s.hub.notedAps p f) p f false 16 = k at *
  have waiting : (k.slice (s.hub.homeHs f.line)).lookupDue f.line = true := by
    rw [slice]
    exact due
  obtain ⟨queued, entries⟩ := turnNotice_waits waiting p f.gaid.la f.txid false
  refine ⟨onlyIn_trans only
    (onlyIn_turnNotice (s := { s with hub := k }) (hs := s.hub.homeHs f.line) home p f.gaid.la f.txid false), fun m other => ?_, queued,
    fun set way => sfAt_congr (entries.trans (by rw [slice])) set way⟩
  rw [turnNotice_due waiting, Hub.slice_onSlice_ne _ _ _ _ other]
  exact others m other

theorem evictClean_leaves {w : Nat} {ws : List Nat} {v : SView} (N : NewNotice s.hub p f) (clean : cleanRead s.hub f.line e)
    (due : (s.hub.slice (s.hub.homeHs f.line)).lookupDue f.line = false)
    (free : (s.hub.slice (s.hub.homeHs f.line)).lookedOn f.line = none)
    (ways : (s.hub.slice (s.hub.homeHs f.line)).healthyWays f.line = w :: ws)
    (view : (s.hub.slice (s.hub.homeHs f.line)).viewAt f.line.sfSet w = some v) (named : v.without (fun a => a == f.gaid.la) ≠ v) :
    ∃ t, exec (.evictClean p f e) s = .next t ∧ onlyIn ([Part.slices] ++ eventParts) s t ∧
      otherArrays s.hub t.hub (s.hub.homeHs f.line) ∧
      (t.hub.slice (s.hub.homeHs f.line)).sfAt f.line.sfSet w = (v.without (fun a => a == f.gaid.la)).word f.line.sfTag := by
  refine ⟨_, evictClean_new N clean, ?_⟩
  have spared := noticed_spares s.hub (s.hub.notedAps p f) p f false 16
  have only := noticed_only s (s.hub.notedAps p f) p f false 16
  have home := noticed_home (s.hub.notedAps p f) false 16 (p := p) N.home
  obtain ⟨nru, slice⟩ := noticed_slice s.hub (s.hub.notedAps p f) p f false 16
  simp only [State.withHub] at only ⊢
  generalize s.hub.noticed (s.hub.notedAps p f) p f false 16 = k at *
  have now : (k.slice (s.hub.homeHs f.line)).lookupDue f.line = false := by
    rw [slice]
    exact due
  refine ⟨onlyIn_trans only
    (onlyIn_turnNotice (s := { s with hub := k }) (hs := s.hub.homeHs f.line) home p f.gaid.la f.txid false),
    (spared.trans (spares_turnNotice home p f.gaid.la f.txid false)).others, ?_⟩
  rw [turnNotice_now now home, Hub.slice_congr _ (k.removeWriter (s.hub.homeHs f.line) f.line f.gaid.la) _ (by simp)]
  refine removeWriter_sf ?_ (ks := ws) ?_ ?_ named
  · rw [slice]
    exact free
  · rw [slice]
    exact ways
  · rw [slice]
    exact view

end

/-- Settles O9: the notice reaches its slice; there the data changes its line's place, and the notice then waits or changes its entry. -/
theorem writebacksEnterTheWriteBuffer : Obligations.WritebacksEnterTheWriteBuffer := by
  intro s p f d e w ws v N clean
  exact ⟨wbDirty_enters N clean, wbDirty_strays N clean.1, evictClean_waits N clean.1, evictClean_leaves N clean.1⟩

end Sys2Proof.Machine
end

section
/-!
SUPPORT. What the answers of agents, the release of a gate and the close of a transaction leave of the agents, of the events raised and of
the messages sent (R59, R107, R112, R226).
-/
namespace Sys2Proof.Machine
open Sys2Proof.Safety

theorem Hub.Tends.calm {R : Slice → Slice → Prop} {hs : Nat} {h k : Hub} (H : h.Tends R hs k) : h.Calm k := H.told.toCalm

theorem calm_onSlice (h : Hub) (hs : Nat) (f : Slice → Slice) : h.Calm (h.onSlice hs f) := .of_eq rfl rfl rfl
theorem calm_onTxn (h : Hub) (hs : Nat) (tid : Byte) (f : Txn → Txn) : h.Calm (h.onTxn hs tid f) := .of_eq rfl rfl rfl
theorem calm_onAp (h : Hub) (p : BitVec 4) (f : ApPort → ApPort) : h.Calm (h.onAp p f) := .of_eq rfl rfl rfl

theorem calm_onMirrored (h : Hub) (hs grp : Nat) (f : Slice → Slice) : h.Calm (h.onMirrored hs grp f) := by
  unfold Hub.onMirrored
  split
  · exact .of_eq rfl rfl rfl
  · exact .of_eq rfl rfl rfl

theorem calm_foldl {α : Type} {g : Hub → α → Hub} (step : ∀ (h : Hub) x, h.Calm (g h x)) (l : List α) :
    ∀ h : Hub, h.Calm (l.foldl g h) := by
  induction l with
  | nil => exact .refl
  | cons x l ih => exact fun h => (step h x).trans (ih _)

/-- Of two ways to go on, each is calm. -/
theorem calm_ite {h a b : Hub} {c : Prop} [Decidable c] (yes : h.Calm a) (no : h.Calm b) : h.Calm (if c then a else b) := by
  split
  · exact yes
  · exact no

/-! ### Filters and directories -/

theorem calm_putSf (h : Hub) (hs : Nat) (set : BitVec 14) (way : Nat) (w : Word) : h.Calm (h.putSf hs set way w) := calm_onMirrored ..
theorem calm_putSd (h : Hub) (hs : Nat) (set : BitVec 12) (way : Nat) (w : Word) : h.Calm (h.putSd hs set way w) := calm_onMirrored ..
theorem calm_putEntry (h : Hub) (hs : Nat) (l : Line) (w : Nat) (v : SView) : h.Calm (h.putEntry hs l w v) := (keeps_putEntry ..).calm

theorem calm_putHub (h : Hub) (hs : Nat) (l : Line) (w : Nat) (v : HView) : h.Calm (h.putHub hs l w v) :=
  (calm_putSd ..).trans (calm_onSlice ..)

theorem calm_setHub (h : Hub) (hs : Nat) (l : Line) (v : HView) : h.Calm (h.setHub hs l v) := by
  unfold Hub.setHub
  split
  · exact calm_putHub ..
  · split
    · exact .refl h
    · split
      · exact calm_putHub ..
      · exact .refl h

theorem calm_endExact (h : Hub) (hs : Nat) (l : Line) (w : Nat) : h.Calm (h.endExact hs l w) := (calm_onSlice ..).trans (calm_raise ..)

theorem calm_endSweeps (h : Hub) (hs : Nat) : h.Calm (h.endSweeps hs) := by
  refine calm_foldl (fun h x => ?_) _ h
  dsimp only
  refine Hub.Calm.trans ?_ ((calm_onSlice ..).trans (calm_raise ..))
  split
  · exact (calm_putSd ..).trans (calm_onSlice ..)
  · exact (calm_putSf ..).trans (calm_onSlice ..)

theorem calm_trimQueues (h : Hub) (hs : Nat) : h.Calm (h.trimQueues hs) := calm_onSlice ..
theorem calm_raiseLost (h : Hub) (hs : Nat) (l : Line) (la : La) (n : Nat) : h.Calm (h.raiseLost hs l la n) := calm_raise ..

/-! ### The write buffer -/

theorem calm_enterWb (h : Hub) (hs : Nat) (l : Line) (who : Entering) (home : Bool) (bytes : LineBits) (mask : ByteMask)
    (f : WbLine → WbLine) : h.Calm (h.enterWb hs l who home bytes mask f) := (steadies_enterWb ..).calm
theorem calm_enterValue (h : Hub) (hs : Nat) (l : Line) (who : Entering) (home : Bool) (bytes : LineBits) (pois : ByteMask)
    (from_ : Option Gaid) : h.Calm (h.enterValue hs l who home bytes pois from_) := calm_enterWb ..
theorem calm_enterBase (h : Hub) (hs : Nat) (l : Line) (bytes : LineBits) (poison : Bool) : h.Calm (h.enterBase hs l bytes poison) :=
  calm_enterWb ..
theorem calm_enterWritten (h : Hub) (hs : Nat) (l : Line) (home : Bool) (bytes : LineBits) (mask pois : ByteMask) :
    h.Calm (h.enterWritten hs l home bytes mask pois) := calm_enterWb ..
theorem calm_poisonMark (h : Hub) (hs : Nat) (l : Line) (home : Bool) : h.Calm (h.poisonMark hs l home) := (steadies_poisonMark ..).calm
theorem calm_dropWb (h : Hub) (hs : Nat) (l : Line) : h.Calm (h.dropWb hs l) := .of_eq rfl rfl rfl
theorem calm_onWb (h : Hub) (hs : Nat) (l : Line) (f : WbLine → WbLine) : h.Calm (h.onWb hs l f) := .of_eq rfl rfl rfl
theorem calm_newerData (h : Hub) (hs : Nat) (l : Line) (bytes : LineBits) (pois : ByteMask) : h.Calm (h.newerData hs l bytes pois) :=
  calm_onSlice ..

/-! ### Messages to hubs -/

theorem calm_sendSpan (h : Hub) (m : SpanOut) : h.Calm (h.sendSpan m) := by
  unfold Hub.sendSpan
  dsimp only
  split
  · refine Hub.Calm.trans ?_ (calm_emit ..)
    split
    · exact .of_eq rfl rfl rfl
    · exact .of_eq rfl rfl rfl
  · exact .of_eq rfl rfl rfl

theorem calm_moved (h : Hub) (src dst : Nat) (data : Bool) (n : Nat) : h.Calm (h.moved src dst data n) :=
  .of_eq (by simp) (by simp) (by simp)

theorem calm_toHubWith (h : Hub) (dest : HubNo) (opc : BitVec 6) (f : Flit) (d : Option Payload) (operand : Option (BitVec 256))
    (be : ByteMask) : h.Calm (h.toHubWith dest opc f d operand be) := by
  unfold Hub.toHubWith
  dsimp only
  split
  · exact (calm_sendSpan ..).trans (calm_moved ..)
  · exact .refl h

theorem calm_toHub (h : Hub) (dest : HubNo) (opc : BitVec 6) (f : Flit) (d : Option Payload) (operand : Option (BitVec 256)) :
    h.Calm (h.toHub dest opc f d operand) := calm_toHubWith ..

theorem calm_proxyFlush (h : Hub) (hs : Nat) (l : Line) (gone : Bool) : h.Calm (h.proxyFlush hs l gone) := by
  unfold Hub.proxyFlush
  split
  · exact .refl h
  · split
    · exact .refl h
    · dsimp only
      split
      · split
        · exact calm_ite ((calm_onWb ..).trans (calm_toHub ..)) (.refl h)
        · exact (calm_onWb ..).trans (calm_toHub ..)
      · exact calm_ite (calm_toHub ..) (.refl h)

/-! ### Back-invalidations and held span snoops (R144, R226) -/

theorem calm_finishBack (h : Hub) (hs : Nat) (b : BackInv) : h.Calm (h.finishBack hs b) := by
  unfold Hub.finishBack
  extract_lets l home lost taken entry woken flushed
  have lostCalm : h.Calm lost := by
    unfold lost
    split
    · exact (calm_raiseLost ..).trans (calm_poisonMark ..)
    · exact .refl h
  have takenCalm : h.Calm taken := lostCalm.trans (calm_onSlice ..)
  have entryCalm : taken.Calm entry := by
    unfold entry
    split
    · exact calm_setHub ..
    · exact .refl taken
    · split
      · exact calm_putEntry ..
      · exact .refl taken
    · split
      · exact calm_putEntry ..
      · exact .refl taken
    · exact .refl taken
  have wokenCalm : entry.Calm woken := calm_onSlice ..
  have flushedCalm : woken.Calm flushed := by
    unfold flushed
    split
    · exact calm_dropWb ..
    · exact .refl woken
    · exact .refl woken
    · exact calm_ite (.refl woken) (calm_proxyFlush ..)
  exact ((takenCalm.trans entryCalm).trans (wokenCalm.trans flushedCalm)).trans ((calm_endSweeps ..).trans (calm_trimQueues ..))

theorem calm_tryBack (h : Hub) (hs : Nat) (l : Line) : h.Calm (h.tryBack hs l) := by
  unfold Hub.tryBack
  split
  · exact calm_ite (calm_finishBack ..) (.refl h)
  · exact .refl h

theorem calm_backAnswer (h : Hub) (hs : Nat) (idx : BitVec 2) (l : Line) (a : Answer) (d : Option (LineBits × ByteMask)) :
    h.Calm (h.backAnswer hs idx l a d) := by
  unfold Hub.backAnswer
  split
  case h_1 => exact .refl h
  case h_2 b _ =>
    extract_lets owner upd told entered
    have enteredCalm : told.Calm entered := by
      unfold entered
      split
      · exact calm_ite (.refl told) (calm_enterValue ..)
      · exact .refl told
    exact ((calm_onSlice ..).trans enteredCalm).trans (calm_tryBack ..)

theorem calm_heldTake (h : Hub) (hs : Nat) (k : HeldSnoop) (d : Payload) : h.Calm (h.heldTake hs k d) := by
  unfold Hub.heldTake
  extract_lets sent
  exact calm_ite (.refl h) ((calm_ite (calm_toHub ..) (.refl h)).trans (calm_onSlice ..))

theorem calm_heldReply (h : Hub) (k : HeldSnoop) (kept : BitVec 2) : h.Calm (h.heldReply k kept) := by
  unfold Hub.heldReply
  split
  · split
    · exact calm_toHub ..
    · exact (calm_toHub ..).trans (calm_toHub ..)
  · exact (calm_toHub ..).trans (calm_toHub ..)

theorem calm_heldWrite (h : Hub) (hs : Nat) (k : HeldSnoop) : h.Calm (h.heldWrite hs k) := by
  unfold Hub.heldWrite
  dsimp only
  split
  · exact .refl h
  · split
    · exact calm_ite (.refl h) (calm_ite (calm_raise ..) ((calm_endExact ..).trans (calm_putEntry ..)))
    · exact .refl h
    · exact calm_ite (.refl h) (calm_putEntry ..)
    · exact .refl h

theorem calm_endHeld (h : Hub) (hs : Nat) (k : HeldSnoop) : h.Calm (h.endHeld hs k) :=
  (((calm_heldWrite ..).trans (calm_onSlice ..)).trans (calm_heldReply ..)).trans (calm_proxyFlush ..)

theorem calm_tryHeld (h : Hub) (hs : Nat) (idx : BitVec 4) : h.Calm (h.tryHeld hs idx) := by
  unfold Hub.tryHeld
  extract_lets find take
  have takeCalm : ∀ (h : Hub) k, h.Calm (take h k) := by
    intro h k
    unfold take
    split
    · exact calm_heldTake ..
    · exact .refl h
  split
  case h_1 => exact .refl h
  case h_2 k _ =>
    extract_lets taken lost
    have lostCalm : taken.Calm lost := by
      unfold lost
      split
      · exact ((calm_raiseLost ..).trans (calm_poisonMark ..)).trans (takeCalm ..)
      · exact .refl taken
    have both : h.Calm lost := (takeCalm h k).trans lostCalm
    refine calm_ite (.refl h) ?_
    split
    · exact both.trans (calm_endHeld ..)
    · exact both

theorem calm_heldAnswer (h : Hub) (hs : Nat) (idx : BitVec 4) (a : Answer) (dataIn : Bool) (d : Option (LineBits × ByteMask)) :
    h.Calm (h.heldAnswer hs idx a dataIn d) := (calm_onSlice ..).trans (calm_tryHeld ..)

theorem calm_heldData (h : Hub) (hs : Nat) (idx : BitVec 4) (la : La) (homeCopy : Bool) (d : Payload) :
    h.Calm (h.heldData hs idx la homeCopy d) := by
  unfold Hub.heldData
  split
  · exact .refl h
  · exact ((calm_heldTake ..).trans (calm_ite (calm_enterValue ..) (.refl _))).trans ((calm_onSlice ..).trans (calm_tryHeld ..))

theorem calm_retryHelds (h : Hub) (hs : Nat) (l : Line) : h.Calm (h.retryHelds hs l) := calm_foldl (fun _ _ => calm_tryHeld ..) _ h

/-! ### The gate of a transaction (R59, R107, R111) -/

theorem calm_fillPrep (h : Hub) (hs : Nat) (tid : Byte) : h.Calm (h.fillPrep hs tid) := by
  unfold Hub.fillPrep
  split
  · exact .refl h
  · split
    · exact .refl h
    · split
      · exact calm_ite (calm_onTxn ..) (.refl h)
      · exact .refl h

theorem calm_endRsv (h : Hub) (hs : Nat) (tid : Byte) (l : Line) (g : Gaid) (t : Txid) (write : Bool) : h.Calm (h.endRsv hs tid l g t write) :=
  .of_eq rfl rfl rfl

theorem calm_lineLost (h : Hub) (hs : Nat) (t : Txn) (la : La) (n : Nat) : h.Calm (h.lineLost hs t la n) := by
  unfold Hub.lineLost
  extract_lets lost marked
  have markedCalm : h.Calm marked := (calm_raiseLost ..).trans (calm_onTxn ..)
  refine markedCalm.trans (calm_ite ?_ (calm_poisonMark ..))
  have counted : marked.Calm { marked with freeCtr := marked.freeCtr + 1 } := .of_eq rfl rfl rfl
  exact (counted.trans (calm_enterBase ..)).trans (calm_onTxn ..)

theorem calm_rebuild (h : Hub) (hs : Nat) (t : Txn) : h.Calm (h.rebuild hs t) := by
  unfold Hub.rebuild
  split
  case h_1 => exact .refl h
  case h_2 w _ =>
    extract_lets l exact_ dup ended emptied base v put
    have endedCalm : h.Calm ended := calm_ite (calm_endExact ..) (.refl h)
    have emptiedCalm : ended.Calm emptied := calm_foldl (fun h _ => calm_ite (.refl h) (calm_putSf ..)) _ ended
    have putCalm : emptied.Calm put := calm_putEntry ..
    exact calm_ite (((calm_putSf ..).trans (calm_onSlice ..)).trans (calm_raise ..))
      ((endedCalm.trans (emptiedCalm.trans putCalm)).trans ((calm_onSlice ..).trans (calm_onTxn ..)))

theorem calm_judge (h : Hub) (hs : Nat) (tid : Byte) : h.Calm (h.judge hs tid) := by
  unfold Hub.judge
  split
  case h_1 => exact .refl h
  case h_2 t _ =>
    extract_lets g isDeg keeps alone judged lost ended
    have lostCalm : judged.Calm lost := by
      unfold lost
      split
      · exact calm_lineLost ..
      · exact .refl judged
    have endedCalm : lost.Calm ended := calm_ite (calm_endRsv ..) (.refl lost)
    have all : h.Calm ended := ((calm_onTxn ..).trans lostCalm).trans endedCalm
    exact calm_ite (.refl h) (calm_ite (all.trans (calm_rebuild ..)) all)

theorem calm_rebuildHub (h : Hub) (hs : Nat) (tid : Byte) : h.Calm (h.rebuildHub hs tid) := by
  unfold Hub.rebuildHub
  split
  · exact .refl h
  · split
    · exact .refl h
    · dsimp only
      refine calm_ite (.refl h) (Hub.Calm.trans (calm_foldl (fun h w => ?_) _ h) (((calm_setHub ..).trans (calm_onSlice ..)).trans (calm_onTxn ..)))
      exact calm_ite (.refl h) (calm_putSd ..)

theorem calm_atomUnit (h : Hub) (hs : Nat) (t : Txn) (value : LineBits) (poison : Bool) : h.Calm (h.atomUnit hs t value poison) := by
  unfold Hub.atomUnit
  extract_lets r src done new entered
  have doneCalm : ∀ (h : Hub) p, h.Calm (done h p) := fun _ _ => calm_onTxn ..
  exact calm_ite ((calm_raise ..).trans (doneCalm ..)) (((calm_enterBase ..).trans (calm_enterWritten ..)).trans (doneCalm ..))

theorem calm_baseWritten (h : Hub) (hs : Nat) (t : Txn) : h.Calm (h.baseWritten hs t) := by
  unfold Hub.baseWritten
  dsimp only
  split
  · exact calm_onTxn ..
  · split
    · exact calm_onTxn ..
    · split
      · exact (calm_enterBase ..).trans (calm_onTxn ..)
      · exact .refl h

theorem calm_settleBase (h : Hub) (hs : Nat) (tid : Byte) : h.Calm (h.settleBase hs tid) := by
  unfold Hub.settleBase
  split
  · exact .refl h
  · split
    · exact .refl h
    · split
      · exact calm_ite (calm_baseWritten ..) (.refl h)
      · split
        · exact .refl h
        · exact calm_atomUnit ..

/-! ### Release and close (R59, R66, R112, R218) -/

theorem calm_countRes (h : Hub) (ls : BitVec 6) (n : Nat) : h.Calm (h.countRes ls n) := .of_eq rfl rfl rfl
theorem calm_rsvDone (h : Hub) (r : Req) : h.Calm (h.rsvDone r) := .of_eq rfl rfl rfl
theorem calm_clearRefusal (h : Hub) (g : Gaid) (t : Txid) (l : Line) : h.Calm (h.clearRefusal g t l) := .of_eq rfl rfl rfl

theorem calm_release (h : Hub) (hs : Nat) (t : Txn) : h.Calm (h.release hs t) := by
  unfold Hub.release
  extract_lets g r c src grant outcome marked ended sent noted
  clear_value c
  have endedCalm : marked.Calm ended := by
    refine calm_ite ?_ (.refl marked)
    split
    · exact calm_ite (calm_toHub ..) (.refl marked)
    · exact calm_onSlice ..
  have sentCalm : ended.Calm sent := by
    refine calm_ite ?_ (.refl ended)
    split
    · exact calm_toAgent ..
    · exact .refl ended
  have notedCalm : sent.Calm noted := calm_ite (calm_rsvDone ..) (.refl sent)
  have toEnded : h.Calm ended := (calm_onTxn ..).trans endedCalm
  refine calm_ite ?_ ((toEnded.trans (sentCalm.trans notedCalm)).trans ((calm_sendCmp ..).trans (calm_countRes ..)))
  split
  · exact calm_ite (toEnded.trans (calm_enterValue ..)) toEnded
  · exact toEnded

theorem calm_serveHub (h : Hub) (hs : Nat) (tid : Byte) : h.Calm (h.serveHub hs tid) := by
  unfold Hub.serveHub
  split
  case h_1 => exact .refl h
  case h_2 t _ =>
    extract_lets g r to_ cmpDue out dropped marked completed a answered released counted
    have completedCalm : h.Calm completed := calm_ite
      (((calm_ite (calm_onSlice ..) (.refl h)).trans (calm_onTxn ..)).trans ((calm_toHub ..).trans (calm_clearRefusal ..))) (.refl h)
    have answeredCalm : completed.Calm answered := calm_ite ((calm_onTxn ..).trans (calm_toHub ..)) (.refl completed)
    have countedCalm : answered.Calm counted := (calm_onTxn ..).trans (calm_countRes ..)
    have all := completedCalm.trans answeredCalm
    refine calm_ite ?_ all
    split
    · exact calm_ite ((all.trans countedCalm).trans (calm_toHub ..)) (all.trans countedCalm)
    · exact all.trans countedCalm

theorem calm_closeTxn (h : Hub) (hs : Nat) (t : Txn) (start : Option Nat) : h.Calm (h.closeTxn hs t start) := by
  rw [closeTxn_eq]
  exact (((steadies_fixEntry ..).calm.trans (calm_onSlice ..)).trans (steadies_afterClose ..).calm).trans (calm_proxyFlush ..)

theorem calm_tryClose (h : Hub) (hs : Nat) (tid : Byte) : h.Calm (h.tryClose hs tid) := by
  unfold Hub.tryClose
  split
  · exact .refl h
  · dsimp only
    refine calm_ite (.refl h) (calm_ite (calm_closeTxn ..) ?_)
    split
    · exact calm_closeTxn ..
    · exact .refl h

theorem calm_settle (h : Hub) (hs : Nat) (tid : Byte) : h.Calm (h.settle hs tid) := by
  unfold Hub.settle
  extract_lets ready served
  have servedCalm : ready.Calm served := by
    unfold served
    split
    · exact calm_ite (.refl ready) (calm_ite (calm_serveHub ..) (calm_ite (calm_release ..) (.refl ready)))
    · exact .refl ready
  exact (((((calm_fillPrep ..).trans (calm_judge ..)).trans (calm_rebuildHub ..)).trans (calm_settleBase ..)).trans servedCalm).trans
    (calm_tryClose ..)

theorem calm_txnAnswer (h : Hub) (hs : Nat) (tid : Byte) (sn : Snoop) (a : Answer) (d : Option (LineBits × ByteMask)) :
    h.Calm (h.txnAnswer hs tid sn a d) := by
  unfold Hub.txnAnswer
  extract_lets carried got wb cross taken upd joined entered
  have enteredCalm : joined.Calm entered := by
    unfold entered
    split
    · exact calm_ite ((calm_enterValue ..).trans (calm_newerData ..)) (.refl joined)
    · exact .refl joined
  exact ((calm_onTxn ..).trans enteredCalm).trans ((calm_settle ..).trans (calm_retryHelds ..))

theorem calm_deliverAnswer (h : Hub) (sn : Snoop) (a : Answer) (d : Option (LineBits × ByteMask)) : h.Calm (h.deliverAnswer sn a d) := by
  unfold Hub.deliverAnswer
  dsimp only
  split
  · exact calm_txnAnswer ..
  · exact calm_backAnswer ..
  · split
    · split
      · exact (calm_heldData ..).trans (calm_heldAnswer ..)
      · exact calm_heldAnswer ..
    · exact calm_heldAnswer ..

theorem calm_sendCmpWb (h : Hub) (src : Nat) (la : La) (l : Line) (t : Txid) : h.Calm (h.sendCmpWb src la l t) :=
  (calm_toAgent ..).trans (calm_onAp ..)

theorem calm_releaseHeldWb (h : Hub) (la : La) (l : Line) : h.Calm (h.releaseHeldWb la l) :=
  calm_foldl (fun _ _ => calm_sendCmpWb ..) _ h

end Sys2Proof.Machine
end

section
/-!
SUPPORT. The frame of answers, of the release of a gate and of the close of a transaction: what the laws of a round do not name already.
-/
namespace Sys2Proof.Machine
open Sys2Proof.Safety

/-- Two hubs agree on what no answer and no release of a gate writes, beyond what no round writes: the memory ports, their channels and the
arbiters, the mailboxes and the control core, and what waits at the span and for route changes. -/
@[simp] abbrev Hub.sameRest (h k : Hub) : Prop :=
  k.mps = h.mps ∧ k.chNotes = h.chNotes ∧ k.routeAcks = h.routeAcks ∧ k.slots = h.slots ∧ k.core = h.core ∧ k.chans = h.chans ∧
  k.mbx = h.mbx ∧ k.spanReps = h.spanReps ∧ k.spanBacks = h.spanBacks ∧ k.arbs = h.arbs

/-- The parts that the answer of an agent, the data of a read, or the close of a transaction may write. -/
def answerParts : List Part := [.slices, .spill, .reads, .sps, .records, .lapses, .rsvRecs, .rsvNotes, .rot] ++ eventParts

theorem Hub.sameRest.trans {h k m : Hub} (first : Hub.sameRest h k) (second : Hub.sameRest k m) : Hub.sameRest h m := by
  simp only [Hub.sameRest] at first second ⊢
  simp only [first, second, and_self]

theorem foldl_sameRest {α : Type} (g : Hub → α → Hub) (H : ∀ h x, Hub.sameRest h (g h x)) (l : List α) (h : Hub) :
    Hub.sameRest h (l.foldl g h) := by
  induction l generalizing h with
  | nil => simp
  | cons a t ih => exact Hub.sameRest.trans (H h a) (ih (g h a))

@[simp] theorem Hub.rebuild_sameRest (h : Hub) (hs : Nat) (t : Txn) : Hub.sameRest h (h.rebuild hs t) := by
  unfold Hub.rebuild
  split
  case h_1 => simp
  case h_2 w _ =>
    extract_lets l exact_ swept ended left base v put
    split
    · simp [swept]
    · have ends : Hub.sameRest h ended := by
        unfold ended
        split
        · simp
        · simp
      have emptied : Hub.sameRest ended left := foldl_sameRest _ (fun h k => by split <;> simp) _ _
      exact (ends.trans emptied).trans (by simp [put])

@[simp] theorem Hub.judge_sameRest (h : Hub) (hs : Nat) (tid : Byte) : Hub.sameRest h (h.judge hs tid) := by
  unfold Hub.judge
  split
  case h_1 => simp
  case h_2 t _ =>
    extract_lets g isDeg keeps alone judged lost ended
    have marked : Hub.sameRest h judged := by simp [judged]
    have losses : Hub.sameRest judged lost := by
      unfold lost
      split
      · simp
      · simp
    have ends : Hub.sameRest lost ended := by
      unfold ended
      split
      · simp
      · simp
    clear_value ended isDeg
    split
    · simp
    · refine marked.trans (losses.trans (ends.trans ?_))
      split
      · exact Hub.rebuild_sameRest ..
      · simp

@[simp] theorem Hub.rebuildHub_sameRest (h : Hub) (hs : Nat) (tid : Byte) : Hub.sameRest h (h.rebuildHub hs tid) := by
  unfold Hub.rebuildHub
  split
  · simp
  · split
    · simp
    · split
      · simp
      · extract_lets l sharers e keep left
        have emptied : Hub.sameRest h left := foldl_sameRest _ (fun h w => by split <;> simp) _ h
        exact emptied.trans (by simp)

@[simp] theorem Hub.settle_sameRest (h : Hub) (hs : Nat) (tid : Byte) : Hub.sameRest h (h.settle hs tid) := by
  unfold Hub.settle
  extract_lets ready served
  have readied : Hub.sameRest h ready := by simp [ready]
  have serves : Hub.sameRest ready served := by
    unfold served
    repeat' split
    all_goals simp
  exact readied.trans (serves.trans (by simp))

@[simp] theorem Hub.endSweeps_sameRest (h : Hub) (hs : Nat) : Hub.sameRest h (h.endSweeps hs) := by
  refine foldl_sameRest _ (fun h x => ?_) _ h
  dsimp only
  split <;> simp

@[simp] theorem Hub.finishBack_sameRest (h : Hub) (hs : Nat) (b : BackInv) : Hub.sameRest h (h.finishBack hs b) := by
  unfold Hub.finishBack
  extract_lets l home lost taken entry woken flushed
  have losses : Hub.sameRest h lost := by
    unfold lost
    split <;> simp
  have takes : Hub.sameRest lost taken := by simp [taken]
  have entries : Hub.sameRest taken entry := by
    unfold entry
    repeat' split
    all_goals simp
  have wakes : Hub.sameRest entry woken := by simp [woken]
  have flushes : Hub.sameRest woken flushed := by
    unfold flushed
    repeat' split
    all_goals simp
  exact losses.trans (takes.trans (entries.trans (wakes.trans (flushes.trans (by simp)))))

@[simp] theorem Hub.tryBack_sameRest (h : Hub) (hs : Nat) (l : Line) : Hub.sameRest h (h.tryBack hs l) := by
  unfold Hub.tryBack
  split
  · split <;> simp
  · simp

@[simp] theorem Hub.backAnswer_sameRest (h : Hub) (hs : Nat) (idx : BitVec 2) (l : Line) (a : Answer) (d : Option (LineBits × ByteMask)) :
    Hub.sameRest h (h.backAnswer hs idx l a d) := by
  unfold Hub.backAnswer
  dsimp only
  repeat' split
  all_goals simp

/-! ### Answers -/

/-- Two hubs agree on all that no answer writes. -/
@[simp] abbrev Hub.sameApart (h k : Hub) : Prop := Hub.sameFixed h k ∧ Hub.sameRoutes h k ∧ Hub.sameRest h k

theorem Hub.sameApart.trans {h k m : Hub} (first : Hub.sameApart h k) (second : Hub.sameApart k m) : Hub.sameApart h m :=
  ⟨first.1.trans second.1, first.2.1.trans second.2.1, first.2.2.trans second.2.2⟩

theorem onlyIn_answer {s : State} {k : Hub} (same : Hub.sameApart s.hub k) : onlyIn answerParts s { s with hub := k } := by
  intro q hq
  cases q <;> simp [answerParts, eventParts] at hq <;> simp_all [Part.same]

theorem foldl_sameApart {α : Type} (g : Hub → α → Hub) (H : ∀ h x, Hub.sameApart h (g h x)) (l : List α) (h : Hub) :
    Hub.sameApart h (l.foldl g h) := by
  induction l generalizing h with
  | nil => simp
  | cons a t ih => exact Hub.sameApart.trans (H h a) (ih (g h a))

@[simp] theorem Hub.settle_sameApart (h : Hub) (hs : Nat) (tid : Byte) : Hub.sameApart h (h.settle hs tid) :=
  ⟨(h.settle_sameRound hs tid).1, (h.settle_sameRound hs tid).2.1, h.settle_sameRest hs tid⟩

@[simp] theorem Hub.heldTake_epoch (h : Hub) (hs : Nat) (k : HeldSnoop) (d : Payload) : (h.heldTake hs k d).epoch = h.epoch := by
  unfold Hub.heldTake
  dsimp only
  repeat' split
  all_goals simp

@[simp] theorem Hub.heldReply_epoch (h : Hub) (k : HeldSnoop) (kept : BitVec 2) : (h.heldReply k kept).epoch = h.epoch := by
  unfold Hub.heldReply
  dsimp only
  repeat' split
  all_goals simp

@[simp] theorem Hub.proxyFlush_epoch (h : Hub) (hs : Nat) (l : Line) (gone : Bool) : (h.proxyFlush hs l gone).epoch = h.epoch := by
  unfold Hub.proxyFlush
  dsimp only
  repeat' split
  all_goals simp

@[simp] theorem Hub.endHeld_epoch (h : Hub) (hs : Nat) (k : HeldSnoop) : (h.endHeld hs k).epoch = h.epoch := by
  simp [Hub.endHeld]

@[simp] theorem Hub.tryHeld_epoch (h : Hub) (hs : Nat) (idx : BitVec 4) : (h.tryHeld hs idx).epoch = h.epoch := by
  unfold Hub.tryHeld
  dsimp only
  repeat' split
  all_goals simp

@[simp] theorem Hub.heldAnswer_epoch (h : Hub) (hs : Nat) (idx : BitVec 4) (a : Answer) (dataIn : Bool) (d : Option (LineBits × ByteMask)) :
    (h.heldAnswer hs idx a dataIn d).epoch = h.epoch := by
  simp [Hub.heldAnswer]

@[simp] theorem Hub.heldData_epoch (h : Hub) (hs : Nat) (idx : BitVec 4) (la : La) (homeCopy : Bool) (d : Payload) :
    (h.heldData hs idx la homeCopy d).epoch = h.epoch := by
  unfold Hub.heldData
  dsimp only
  repeat' split
  all_goals simp

@[simp] theorem Hub.retryHelds_sameApart (h : Hub) (hs : Nat) (l : Line) : Hub.sameApart h (h.retryHelds hs l) :=
  foldl_sameApart _ (fun h k => by simp) _ h

@[simp] theorem Hub.txnAnswer_sameApart (h : Hub) (hs : Nat) (tid : Byte) (sn : Snoop) (a : Answer) (d : Option (LineBits × ByteMask)) :
    Hub.sameApart h (h.txnAnswer hs tid sn a d) := by
  unfold Hub.txnAnswer
  extract_lets carried got wb cross taken upd joined entered
  have joins : Hub.sameApart h joined := by simp [joined]
  have enters : Hub.sameApart joined entered := by
    unfold entered
    split
    · split
      · simp [Hub.newerData]
      · simp
    · simp
  exact (joins.trans enters).trans ((entered.settle_sameApart hs tid).trans (Hub.retryHelds_sameApart ..))

@[simp] theorem Hub.backAnswer_sameApart (h : Hub) (hs : Nat) (idx : BitVec 2) (l : Line) (a : Answer) (d : Option (LineBits × ByteMask)) :
    Hub.sameApart h (h.backAnswer hs idx l a d) :=
  ⟨(h.backAnswer_sameRound hs idx l a d).1, (h.backAnswer_sameRound hs idx l a d).2.1, h.backAnswer_sameRest hs idx l a d⟩

@[simp] theorem Hub.deliverAnswer_sameApart (h : Hub) (sn : Snoop) (a : Answer) (d : Option (LineBits × ByteMask)) :
    Hub.sameApart h (h.deliverAnswer sn a d) := by
  unfold Hub.deliverAnswer
  dsimp only
  split
  · exact Hub.txnAnswer_sameApart ..
  · exact Hub.backAnswer_sameApart ..
  · repeat' split
    all_goals simp

end Sys2Proof.Machine
end

section
/-!
CERTIFICATE. Late and dead agents (R57, R139, R140, R142, R143).
-/
namespace Sys2Proof.Machine
open Sys2Proof.Safety

/-! ### The deadline of a snoop (R139) -/

section
variable {h : Hub} {la : La} {gaid : Gaid} {txid : Txid} {line : Line} {sn : Snoop}

theorem find?_mapIf_self {α : Type} {p q : α → Bool} {f : α → α} {a : α} {l : List α} (found : l.find? p = some a) (self : q a = true)
    (kept : ∀ x, q x = true → p (f x) = p x) : (List.mapIf q f l).find? p = some (f a) := by
  induction l with
  | nil => cases found
  | cons x l ih =>
    rw [List.find?_cons] at found
    by_cases on : p x = true
    · rw [on] at found
      obtain rfl : x = a := by simpa using found
      simp [List.mapIf, self, kept x self, on]
    · have off : p x = false := by simpa using on
      rw [off] at found
      by_cases here : q x = true
      · simpa [List.mapIf, here, kept x here, off] using ih found
      · simpa [List.mapIf, here, off] using ih found

theorem snoopOf_reported {k : Hub} (rep : h.Reported k) (la : La) (gaid : Gaid) (txid : Txid) (line : Line) :
    k.snoopOf la gaid txid line = h.snoopOf la gaid txid line := by
  unfold Hub.snoopOf
  rw [rep.agentPort la, show (k.ap (h.agent la).port).snoops = (h.ap (h.agent la).port).snoops from
    congrArg (fun a => a.snoops) (rep.port (h.agent la).port)]

/-- The hub in which a snoop has been marked late. -/
def Hub.markLate (h : Hub) (la : La) (sn : Snoop) : Hub := h.onAp (h.agent la).port fun a => a.onSnoop sn fun x => { x with late := true }

theorem snoopOf_markLate (found : h.snoopOf la gaid txid line = some sn) :
    (h.markLate la sn).snoopOf la gaid txid line = some { sn with late := true } := by
  have listed : ((h.markLate la sn).ap (h.agent la).port).snoops =
      List.mapIf (fun x => x.same sn) (fun x => { x with late := true }) (h.ap (h.agent la).port).snoops :=
    congrArg (fun a => a.snoops) (Hub.ap_onAp_self ..)
  show (((h.markLate la sn).ap (h.agent la).port).snoops.find? fun x => x.la == la && x.gaid == gaid && x.txid == txid && x.line == line) = _
  rw [listed]
  exact find?_mapIf_self found (by simp [Snoop.same]) fun x _ => rfl

end

theorem snoopDeadline_row {s : State} {la : La} {gaid : Gaid} {txid : Txid} {line : Line} {sn : Snoop}
    (found : s.hub.snoopOf la gaid txid line = some sn) (fresh : sn.late = false) (due : sn.offered + 4 ≤ s.hub.round) :
    exec (.agentSnoopDeadline la gaid txid line) s = .next (s.withHub fun h => (h.markLate la sn).raise
      { rzTx evApSnoopLate (h.agent la).port.toNat line (Gaid.mk h.num la) txid with extra := sn.op.opc.setWidth 32 }) := by
  refine congrArg (fun h => Host.Outcome.next { s with hub := h }) ?_
  have inTime : ¬s.hub.round < sn.offered + 4 := by omega
  simp [found, fresh, inTime, Hub.markLate]

/-! ### The declaration of death (R140) -/

/-- One outstanding snoop of a dead agent is answered in its place. -/
def Hub.answerDead (h : Hub) (p : BitVec 4) (la : La) (sn : Snoop) : Hub :=
  ((h.onAp p fun a => a.dropSnoop sn).deliverAnswer { sn with dataIn := true } ⟨la, .i, 0, true⟩ none).releaseHeldWb la sn.line

theorem calm_answerDead (h : Hub) (p : BitVec 4) (la : La) (sn : Snoop) : h.Calm (h.answerDead p la sn) :=
  ((calm_onAp ..).trans (calm_deliverAnswer ..)).trans (calm_releaseHeldWb ..)

theorem answerDead_sameApart (h : Hub) (p : BitVec 4) (la : La) (sn : Snoop) : Hub.sameApart h (h.answerDead p la sn) := by
  unfold Hub.answerDead
  have dropped : Hub.sameApart h (h.onAp p fun a => a.dropSnoop sn) := by simp
  have answered := Hub.deliverAnswer_sameApart (h.onAp p fun a => a.dropSnoop sn) { sn with dataIn := true } ⟨la, .i, 0, true⟩ none
  refine (dropped.trans answered).trans ?_
  simp

theorem agent_onAgent (h : Hub) (la a : La) (f : Agent → Agent) :
    (h.onAgent la f).agent a = if a = la then f (h.agent la) else h.agent a := by
  rw [Hub.agent, Hub.onAgent, Tbl.getD_upd]
  by_cases own : a = la
  · simp [own, Hub.agent]
  · have other : a.toNat ≠ la.toNat := fun e => own (BitVec.eq_of_toNat_eq e)
    simp [own, other, Hub.agent]

/-- What the declaration of death leaves of the agents, and what it writes. -/
theorem declareDead_kills {h : Hub} {la : La} (valid : (h.agent la).valid = true) :
    ((h.declareDead la).agent la).dead = true ∧ (∀ a, a ≠ la → ((h.declareDead la).agent a).dead = (h.agent a).dead) ∧
      ∀ s : State, s.hub = h → onlyIn answerParts s { s with hub := h.declareDead la } := by
  unfold Hub.declareDead
  split
  case isTrue gone =>
    have dead : (h.agent la).dead = true := by simpa [valid] using gone
    exact ⟨dead, fun _ _ => rfl, fun s same q _ => by subst same; cases q <;> rfl⟩
  case isFalse =>
    extract_lets p mine marked
    have told : marked.Calm (mine.foldl (fun h sn => h.answerDead p la sn) marked) := calm_foldl (fun h sn => calm_answerDead h p la sn) _ _
    have apart : Hub.sameApart marked (mine.foldl (fun h sn => h.answerDead p la sn) marked) :=
      foldl_sameApart _ (fun h sn => answerDead_sameApart h p la sn) _ _
    refine ⟨(told.dead la).trans ?_, fun a other => (told.dead a).trans ?_, fun s same => ?_⟩
    · simp [marked, agent_onAgent]
    · simp [marked, agent_onAgent, other]
    · subst same
      refine onlyIn_answer (Hub.sameApart.trans ?_ apart)
      simp [marked]

/-! ### What a slice lets go of a dead agent (R142, R143) -/

/-- A slice holds no reservation, held place or ticket of an agent. -/
structure Slice.Freed (g : Gaid) (s : Slice) : Prop where
  rsv : ∀ r ∈ s.rsv, r.gaid ≠ g
  places : ∀ r ∈ s.places, r.gaid ≠ g
  tickets : ∀ r ∈ s.tickets, r.req.gaid ≠ g

/-- A slice has let go of a dead agent, and walks for it from its first set. -/
structure Slice.Mourned (g : Gaid) (la : La) (s : Slice) : Prop extends s.Freed g where
  walk : ∃ w, s.walk = some w ∧ w.mask.getLsbD la.toNat = true ∧ w.left = 16384

theorem Slice.Freed.shed {g : Gaid} {a b : Slice} (F : a.Freed g) (H : a.Shed b) : b.Freed g :=
  ⟨by rw [H.rsv]; exact F.rsv, by rw [H.places]; exact F.places, H.allTickets (P := fun t => t.req.gaid ≠ g) (fun _ => Iff.rfl) F.tickets⟩

theorem Slice.Mourned.shed {g : Gaid} {la : La} {a b : Slice} (M : a.Mourned g la) (H : a.Shed b) : b.Mourned g la :=
  ⟨M.toFreed.shed H, by rw [H.walk]; exact M.walk⟩

/-- What stays true of a slice while tickets lapse and holds end. -/
structure Lasting (P : Slice → Prop) : Prop where
  shed : ∀ {a b : Slice}, P a → a.Shed b → P b
  holds : ∀ {a : Slice} (l : List Hold), P a → P { a with holds := l }

theorem lasting_freed (g : Gaid) : Lasting (Slice.Freed g) := ⟨Slice.Freed.shed, fun _ F => ⟨F.rsv, F.places, F.tickets⟩⟩
theorem lasting_mourned (g : Gaid) (la : La) : Lasting (Slice.Mourned g la) :=
  ⟨Slice.Mourned.shed, fun _ M => ⟨⟨M.rsv, M.places, M.tickets⟩, M.walk⟩⟩

section
variable {P : Slice → Prop} (lasting : Lasting P)
include lasting

theorem lasting_endHold (h : Hub) (hs : Nat) (l : Line) (p : Hold → Bool) (m : Nat) (now : P (h.slice m)) : P ((h.endHold hs l p).slice m) := by
  have kept := (keeps_settleWay (h.onSlice hs fun s => { s with holds := s.holds.filter fun x => !(x.line == l && p x) }) hs l).trans
    (keeps_checkRun _ hs l.sfSet)
  refine lasting.shed ?_ (kept.slice m).shed
  rw [Hub.slice_onSlice]
  split
  case isTrue own => exact lasting.holds _ (own ▸ now)
  case isFalse => exact now

theorem lasting_endHolds (hs : Nat) (q : Hold → Bool) (m : Nat) (l : List Hold) :
    ∀ h : Hub, P (h.slice m) → P ((l.foldl (fun h x => h.endHold hs x.line q) h).slice m) := by
  induction l with
  | nil => exact fun _ => id
  | cons x l ih => exact fun h now => ih _ (lasting_endHold lasting h hs x.line q m now)

end

/-- The slice in which a dead agent has neither reservations nor held places, and its open transactions release nothing to it. -/
def Slice.strip (s : Slice) (g : Gaid) : Slice := { s with
  places := s.places.filter fun x => x.gaid != g
  rsv := s.rsv.filter fun x => x.gaid != g
  txns := List.mapIf (fun t => !t.req.span && t.req.gaid == g) (fun t => { t with deadReq := true }) s.txns }

theorem sliceDead_eq (h : Hub) (hs : Nat) (la : La) : h.sliceDead hs la =
    (((((h.lapse hs fun t => t.req.gaid == Gaid.mk h.num la).onSlice hs fun s => s.strip (Gaid.mk h.num la)).slice hs).holds.filter
      fun x => x.la == some la).foldl (fun h x => h.endHold hs x.line fun y => y.la == some la)
      ((h.lapse hs fun t => t.req.gaid == Gaid.mk h.num la).onSlice hs fun s => s.strip (Gaid.mk h.num la))) := rfl

theorem lapse_frees (h : Hub) (hs : Nat) (g : Gaid) : ∀ t ∈ ((h.lapse hs fun t => t.req.gaid == g).slice hs).tickets, t.req.gaid ≠ g := by
  intro t mem own
  obtain ⟨u, mem', same⟩ := ((sheds_lapse h hs fun t => t.req.gaid == g).slice hs).tickets t mem
  have req : u.req = t.req := congrArg (fun t => t.req) same
  have gone := lapse_gone (p := fun t => t.req.gaid == g) mem' (by simp [req, own]) t mem
  simp [req, Ticket.isFor] at gone

theorem sliceDead_frees (h : Hub) (hs : Nat) (la : La) : ((h.sliceDead hs la).slice hs).Freed (Gaid.mk h.num la) := by
  rw [sliceDead_eq]
  refine lasting_endHolds (lasting_freed _) hs _ hs _ _ ?_
  rw [Hub.slice_onSlice_self]
  refine ⟨fun r mem => ?_, fun r mem => ?_, lapse_frees h hs _⟩
  · simpa using (List.mem_filter.1 mem).2
  · simpa using (List.mem_filter.1 mem).2

/-- What lasts in a slice outlasts the deaths that other slices take in. -/
theorem sliceDead_lasts {P : Slice → Prop} (lasting : Lasting P) (h : Hub) (hs : Nat) (la : La) {m : Nat} (other : m ≠ hs)
    (now : P (h.slice m)) : P ((h.sliceDead hs la).slice m) := by
  rw [sliceDead_eq]
  refine lasting_endHolds lasting hs _ m _ _ ?_
  rw [Hub.slice_onSlice_ne _ _ _ _ other]
  exact lasting.shed now ((sheds_lapse ..).slice m)

theorem sliceDead_sameApart (h : Hub) (hs : Nat) (la : La) : Hub.sameApart h (h.sliceDead hs la) := by
  rw [sliceDead_eq]
  have stripped : Hub.sameApart h ((h.lapse hs fun t => t.req.gaid == Gaid.mk h.num la).onSlice hs fun s => s.strip (Gaid.mk h.num la)) := by
    simp
  exact stripped.trans (foldl_sameApart _ (fun h x => by simp) _ _)

theorem sliceDead_lines (h : Hub) (hs : Nat) (la : La) : (h.sliceDead hs la).reads = h.reads ∧ (h.sliceDead hs la).spill = h.spill := by
  rw [sliceDead_eq]
  simp [foldl_reads, foldl_spill]

theorem calm_sliceDead (h : Hub) (hs : Nat) (la : La) : h.Calm (h.sliceDead hs la) := by
  rw [sliceDead_eq]
  refine ((sheds_lapse ..).calm.trans (calm_onSlice ..)).trans (calm_foldl (fun h x => ?_) _ _)
  exact ((calm_onSlice ..).trans (keeps_settleWay ..).calm).trans (keeps_checkRun ..).calm

/-- A slice takes a death in. -/
def Hub.mourn (h : Hub) (la : La) (hs : Nat) : Hub := (h.sliceDead hs la).onSlice hs fun s => s.joinWalk la

theorem joinWalk_walks (s : Slice) (la : La) :
    ∃ w, (s.joinWalk la).walk = some w ∧ w.mask.getLsbD la.toNat = true ∧ w.left = 16384 := by
  have lt := la.isLt
  unfold Slice.joinWalk
  cases s.walk with
  | none => exact ⟨_, rfl, by simp; omega, rfl⟩
  | some w => exact ⟨_, rfl, by simp; omega, rfl⟩

theorem Slice.Freed.joinWalk {g : Gaid} {s : Slice} (F : s.Freed g) (la : La) : (s.joinWalk la).Mourned g la :=
  ⟨⟨F.rsv, F.places, F.tickets⟩, joinWalk_walks s la⟩

theorem mourn_mourns (h : Hub) (la : La) (hs m : Nat) (now : m = hs ∨ (h.slice m).Mourned (Gaid.mk h.num la) la) :
    ((h.mourn la hs).slice m).Mourned (Gaid.mk h.num la) la := by
  by_cases own : m = hs
  · subst own
    rw [Hub.mourn, Hub.slice_onSlice_self]
    exact (sliceDead_frees h m la).joinWalk la
  · rw [Hub.mourn, Hub.slice_onSlice_ne _ _ _ _ own]
    exact sliceDead_lasts (lasting_mourned _ la) h hs la own (now.resolve_left own)

theorem num_congr {h k : Hub} (par : k.par = h.par) : k.num = h.num := by simp only [Hub.num, p_congr par]

theorem mourns_mourn (la : La) (l : List Nat) : ∀ (h : Hub) (m : Nat), (m ∈ l ∨ (h.slice m).Mourned (Gaid.mk h.num la) la) →
    ((l.foldl (fun h hs => h.mourn la hs) h).slice m).Mourned (Gaid.mk h.num la) la := by
  induction l with
  | nil => exact fun h m now => now.resolve_left (List.not_mem_nil)
  | cons hs l ih =>
    intro h m now
    have num : (h.mourn la hs).num = h.num := num_congr (sliceDead_sameApart h hs la).2.1.1
    rw [List.foldl_cons, ← num]
    by_cases later : m ∈ l
    · exact ih _ m (.inl later)
    · refine ih _ m (.inr ?_)
      rw [num]
      refine mourn_mourns h la hs m (now.imp_left fun mem => ?_)
      exact (List.mem_cons.1 mem).resolve_right later

/-! ### The device-region unit (R185) -/

theorem calm_settleFences (h : Hub) : h.Calm h.settleFences := by
  refine calm_foldl (fun h f => ?_) _ h
  exact (calm_sendCmp ..).after rfl rfl rfl

theorem calm_earlyEnded (h : Hub) (r : DevReq) (lost : Bool) : h.Calm (h.earlyEnded r lost) :=
  (calm_settleFences _).after rfl rfl rfl

theorem calm_devFinish (h : Hub) (r : DevReq) (outcome : BitVec 2) (d : Option Payload) : h.Calm (h.devFinish r outcome d) := by
  unfold Hub.devFinish
  extract_lets dev taken dev' data counted msg heard
  have takenCalm : h.Calm taken := .of_eq rfl rfl rfl
  have countedCalm : h.Calm counted := takenCalm.trans (calm_ite (.refl taken) (.of_eq rfl rfl rfl))
  clear_value data
  have heardCalm : counted.Calm heard := by
    unfold heard
    split
    · exact calm_toAgent ..
    · exact .refl counted
  refine calm_ite (calm_ite (.of_eq rfl rfl rfl) takenCalm) (calm_ite (takenCalm.trans (calm_earlyEnded ..)) ?_)
  split
  case h_1 x _ =>
    extract_lets sent
    have sentCalm : counted.Calm sent := by
      unfold sent
      split
      · exact calm_toHub ..
      · exact .refl counted
    exact (countedCalm.trans sentCalm).trans (calm_toHub ..)
  case h_2 => exact (countedCalm.trans heardCalm).trans (calm_sendCmp ..)

theorem calm_devDead (h : Hub) (la : La) : h.Calm (h.devDead la) :=
  calm_foldl (fun h r => (calm_devFinish h r oLost none).trans (reported_devPumpList _ [] _).toCalm) _ h

theorem devDead_epoch (h : Hub) (la : La) : (h.devDead la).epoch = h.epoch :=
  foldl_same (·.epoch) _ (fun h r => by simp [Hub.devDrop]) _ h

theorem calm_releaseRsv (h : Hub) (la : La) : h.Calm (h.releaseRsv la) := by
  unfold Hub.releaseRsv
  dsimp only
  split
  · exact .refl h
  · split
    · exact .of_eq rfl rfl rfl
    · exact calm_toHub ..

/-! ### The stops apply a death (R142) -/

/-- The hub in which an agent has gone offline, and every serving slice has taken its death in. -/
def Hub.buried (h : Hub) (la : La) : Hub :=
  h.servingSlices.foldl (fun h hs => h.mourn la hs) (h.onAgent la fun a => { a with online := false, walking := true })

/-- What the stops let go of besides: its reservation, its records, and what its port holds of it. -/
def Hub.forgotten (h : Hub) (la : La) : Hub :=
  let g := Gaid.mk h.num la
  let k := ((h.buried la).releaseRsv la).clearRecord g
  let k := { k with rsvRecs := k.rsvRecs.drop la.toNat }
  let k := k.onAp (h.agent la).port fun a => { a with
    holds := a.holds.filter fun x => x.req.gaid != g
    outst := a.outst.filter fun o => o.la != la
    cmpWbHeld := a.cmpWbHeld.filter fun c => c.1 != la }
  { k with dev := { k.dev with fences := k.dev.fences.filter fun f => f.gaid != g } }

theorem applyDeath_eq (h : Hub) (la : La) : h.applyDeath la = ((h.forgotten la).devDead la).raise
    { rz evApAgentDead (h.agent la).port.toNat with gaid := some (Gaid.mk h.num la) } := rfl

theorem buried_sameApart (h : Hub) (la : La) : Hub.sameApart h (h.buried la) := by
  have marked : Hub.sameApart h (h.onAgent la fun a => { a with online := false, walking := true }) := by simp
  refine marked.trans (foldl_sameApart _ (fun h hs => ?_) _ _)
  exact (sliceDead_sameApart h hs la).trans (by simp [Hub.mourn])

theorem buried_lines (h : Hub) (la : La) : (h.buried la).reads = h.reads ∧ (h.buried la).spill = h.spill :=
  ⟨foldl_same (·.reads) (fun h hs => h.mourn la hs) (fun h hs => (sliceDead_lines h hs la).1) _ _,
    foldl_same (·.spill) (fun h hs => h.mourn la hs) (fun h hs => (sliceDead_lines h hs la).2) _ _⟩

theorem onlyIn_applyDeath (s : State) (la : La) :
    onlyIn ([Part.slices, .sps, .records, .lapses, .rsvRecs, .rsvNotes, .rot] ++ eventParts) s (s.withHub fun h => h.applyDeath la) := by
  have apart := buried_sameApart s.hub la
  obtain ⟨reads, spill⟩ := buried_lines s.hub la
  simp only [State.withHub, applyDeath_eq, Hub.forgotten]
  intro q hq
  cases q <;> simp [eventParts] at hq <;> simp_all [Part.same, Hub.clearRecord, devDead_epoch]

theorem applyDeath_calm (h : Hub) (la : La) : (h.onAgent la fun a => { a with online := false, walking := true }).Calm (h.applyDeath la) := by
  have buried : (h.onAgent la fun a => { a with online := false, walking := true }).Calm (h.buried la) :=
    calm_foldl (fun h hs => (calm_sliceDead h hs la).trans (calm_onSlice ..)) _ _
  have forgotten : (h.buried la).Calm (h.forgotten la) := (calm_releaseRsv (h.buried la) la).trans
    (.of_eq (by simp [Hub.forgotten, Hub.clearRecord]) (by simp [Hub.forgotten, Hub.clearRecord]) (by simp [Hub.forgotten, Hub.clearRecord]))
  rw [applyDeath_eq]
  exact (buried.trans forgotten).trans ((calm_devDead ..).trans (calm_raise ..))

theorem Hub.Calm.walking {h k : Hub} (c : h.Calm k) (a : La) : (k.agent a).walking = (h.agent a).walking := congrArg (·.walking) (c.agent a)

theorem applyDeath_raised (h : Hub) (la : La) : raised (h.applyDeath la) evApAgentDead := by
  rw [applyDeath_eq]
  exact raised_raise _ _

theorem applyDeath_slice (h : Hub) (la : La) (m : Nat) : (h.applyDeath la).slice m = (h.buried la).slice m :=
  Hub.slice_congr _ _ _ (by simp [applyDeath_eq, Hub.forgotten, Hub.clearRecord])

/-! ### O12 -/

theorem lateSnoop_reported {s : State} {la : La} {gaid : Gaid} {txid : Txid} {line : Line} {sn : Snoop}
    (found : s.hub.snoopOf la gaid txid line = some sn) (fresh : sn.late = false) (due : sn.offered + 4 ≤ s.hub.round) :
    ∃ t, exec (.agentSnoopDeadline la gaid txid line) s = .next t ∧ onlyIn eventParts s t ∧ raised t.hub evApSnoopLate ∧
      t.hub.snoopOf la gaid txid line = some { sn with late := true } ∧
      (t.hub.agent la).dead = (s.hub.agent la).dead ∧ (t.hub.agent la).online = (s.hub.agent la).online := by
  refine ⟨_, snoopDeadline_row found fresh due, ?_⟩
  have rep := reported_raise (s.hub.markLate la sn)
    { rzTx evApSnoopLate (s.hub.agent la).port.toNat line (Gaid.mk s.hub.num la) txid with extra := sn.op.opc.setWidth 32 }
  refine ⟨?_, raised_raise _ _, (snoopOf_reported rep ..).trans (snoopOf_markLate found), rep.dead la, rep.online la⟩
  intro q hq
  cases q <;> simp [eventParts] at hq <;> simp [Part.same, State.withHub, Hub.markLate]

theorem agentGrace_kills {s : State} {la : La} {gaid : Gaid} {txid : Txid} {line : Line} {sn : Snoop}
    (found : s.hub.snoopOf la gaid txid line = some sn) (late : sn.late = true) (due : sn.offered + 68 ≤ s.hub.round)
    (valid : (s.hub.agent la).valid = true) :
    ∃ t, exec (.agentGrace la gaid txid line) s = .next t ∧ onlyIn answerParts s t ∧
      (t.hub.agent la).dead = true ∧ ∀ a, a ≠ la → (t.hub.agent a).dead = (s.hub.agent a).dead := by
  obtain ⟨dead, others, only⟩ := declareDead_kills valid
  have row : exec (.agentGrace la gaid txid line) s = .next (s.withHub fun h => h.declareDead la) := by
    have inTime : ¬s.hub.round < sn.offered + 68 := by omega
    refine congrArg (fun h => Host.Outcome.next { s with hub := h }) ?_
    simp [found, late, inTime]
  exact ⟨_, row, only s rfl, dead, others⟩

theorem applyDeath_offline (h : Hub) (la : La) : ((h.applyDeath la).agent la).online = false ∧
    ((h.applyDeath la).agent la).walking = true ∧ ∀ a, a ≠ la → ((h.applyDeath la).agent a).online = (h.agent a).online := by
  have told := applyDeath_calm h la
  refine ⟨?_, ?_, fun a other => ?_⟩
  · rw [told.online la, agent_onAgent, if_pos rfl]
  · rw [told.walking la, agent_onAgent, if_pos rfl]
  · rw [told.online a, agent_onAgent, if_neg other]

theorem applyDeath_mourns (h : Hub) (la : La) {hs : Nat} (serves : hs ∈ h.servingSlices) :
    ((h.applyDeath la).slice hs).Mourned (Gaid.mk h.num la) la := by
  rw [applyDeath_slice]
  exact mourns_mourn la h.servingSlices (h.onAgent la fun a => { a with online := false, walking := true }) hs (.inl serves)

theorem deadNotice_row {s : State} {la : La} (dead : (s.hub.agent la).dead = true) (online : (s.hub.agent la).online = true) :
    exec (.deadAgentNotice la) s = .next (s.withHub fun h => h.applyDeath la) := by
  refine congrArg (fun h => Host.Outcome.next { s with hub := h }) ?_
  simp [dead, online]

theorem deadRequester_closes {s : State} {ls : BitVec 6} {x : Txn} (found : s.hub.txn (s.hub.hsOf ls) x.tid = some x) (dead : x.deadReq = true)
    (closable : x.closableDead = true) (worst : x.worst ≤ s.hub.round) (home : s.hub.isHome x.req.line = true) :
    ∃ t, exec (.deadRequesterClose ls x.tid) s = .next t ∧ onlyIn closeParts s t ∧
      otherArrays s.hub t.hub (s.hub.hsOf ls) ∧ t.hub.txn (s.hub.hsOf ls) x.tid = none ∧
      (t.hub.slice (s.hub.hsOf ls)).holds = (s.hub.slice (s.hub.hsOf ls)).holds := by
  have closes := closeTxn_closes (hs := s.hub.hsOf ls) home none
  have row : exec (.deadRequesterClose ls x.tid) s = .next (s.withHub fun h => h.closeTxn (s.hub.hsOf ls) x none) := by
    refine congrArg (fun h => Host.Outcome.next { s with hub := h }) ?_
    simp [found, dead, closable, worst, Hub.tellHome, remoteHome_home home]
  exact ⟨_, row, onlyIn_closeTxn home none, closes.others, closes.gone, closes.holds⟩

theorem deadNotice_buries {s : State} {la : La} (dead : (s.hub.agent la).dead = true) (online : (s.hub.agent la).online = true) :
    ∃ t, exec (.deadAgentNotice la) s = .next t ∧
      onlyIn ([Part.slices, .sps, .records, .lapses, .rsvRecs, .rsvNotes, .rot] ++ eventParts) s t ∧
      (t.hub.agent la).online = false ∧ (t.hub.agent la).walking = true ∧ raised t.hub evApAgentDead ∧
      (∀ a, a ≠ la → (t.hub.agent a).online = (s.hub.agent a).online) ∧
      ∀ hs ∈ s.hub.servingSlices, (t.hub.slice hs).Mourned (Gaid.mk s.hub.num la) la := by
  have row := deadNotice_row dead online
  have only := onlyIn_applyDeath s la
  obtain ⟨offline, walking, others⟩ := applyDeath_offline s.hub la
  have reports := applyDeath_raised s.hub la
  have mourned := fun hs => applyDeath_mourns s.hub la (hs := hs)
  simp only [State.withHub] at row only
  generalize s.hub.applyDeath la = k at *
  exact ⟨_, row, only, offline, walking, reports, others, mourned⟩

/-- Settles O12: a deadline reports, a declaration answers for the agent, the stops bury it slice by slice, and what it left open closes. -/
theorem lateAgentsAreReportedThenDead : Obligations.LateAgentsAreReportedThenDead := by
  intro s la gaid txid line sn ls x
  refine ⟨lateSnoop_reported, agentGrace_kills, fun dead online => ?_, deadRequester_closes⟩
  obtain ⟨t, row, only, offline, walking, reports, others, mourned⟩ := deadNotice_buries dead online
  refine ⟨t, row, only, offline, walking, reports, others, fun hs serves => ?_⟩
  obtain ⟨⟨rsv, places, tickets⟩, walk⟩ := mourned hs serves
  exact ⟨walk, rsv, places, tickets⟩

end Sys2Proof.Machine
end

section
/-!
SUPPORT. The loss of a hub (R228): its frame, and what it leaves of the agents, of the events raised and of the messages sent.
-/
namespace Sys2Proof.Machine
open Sys2Proof.Safety

/-! ### Snoops and back-invalidations (R94, R144) -/

theorem calm_count (h : Hub) (ev unit n : Nat) : h.Calm (h.count ev unit n) := (reported_count h ev unit n).toCalm

theorem calm_snoopOne (h : Hub) (hs : Nat) (sn : Snoop) (crit : Bool) (la : La) : h.Calm (h.snoopOne hs sn crit la).1 := by
  unfold Hub.snoopOne
  extract_lets a counted k base m
  have counts : h.Calm counted := calm_count ..
  split
  · exact counts
  · split
    · exact counts
    · have asked : counted.Calm ((counted.onAp a.port fun p => { p with snoops := p.snoops ++ [k] }).toAgent hs m) :=
        (calm_onAp ..).trans (calm_toAgent ..)
      exact (counts.trans asked).trans (calm_count _ 0x020 (0x50 + a.port.toNat) 1)

theorem calm_ejected (h : Hub) (dst : Nat) (data : Bool) (n : Nat) : h.Calm (h.ejected dst data n) := .of_eq rfl rfl rfl

theorem calm_snoopEach (hs : Nat) (sn : Snoop) (crit : Bool) (las : List La) : ∀ h : Hub, h.Calm (Hub.snoopEach hs sn crit las h).1 := by
  induction las with
  | nil => exact .refl
  | cons la las ih =>
    intro h
    unfold Hub.snoopEach
    dsimp only
    split
    · exact (calm_snoopOne ..).trans (ih _)
    · exact (calm_snoopOne ..).trans (ih _)

theorem calm_multicast (h : Hub) (hs : Nat) (las : List La) : h.Calm (h.multicast hs las) := by
  unfold Hub.multicast
  dsimp only
  split
  · exact .refl h
  · exact (calm_moved ..).trans (calm_foldl (fun _ _ => calm_ejected ..) _ _)

theorem calm_snoopAll (hs : Nat) (sn : Snoop) (crit : Bool) (las : List La) (h : Hub) : h.Calm (Hub.snoopAll hs sn crit las h).1 :=
  (calm_snoopEach ..).trans (calm_multicast ..)

theorem calm_startBack (h : Hub) (hs : Nat) (idx : BitVec 2) (kind : BackKind) (l : Line) (v : SView) : h.Calm (h.startBack hs idx kind l v) := by
  unfold Hub.startBack
  extract_lets t b started ls g x sn r
  have snooped : h.Calm r.1 := ((calm_onSlice ..).trans (calm_count ..)).trans (calm_snoopAll ..)
  have answered : r.1.Calm (r.2.foldl (fun h a => h.backAnswer hs idx l a none) r.1) := calm_foldl (fun h a => calm_backAnswer ..) _ _
  exact (snooped.trans answered).trans (calm_tryBack ..)

@[simp] theorem Hub.snoopOne_sameRest (h : Hub) (hs : Nat) (sn : Snoop) (crit : Bool) (la : La) :
    Hub.sameRest h (h.snoopOne hs sn crit la).1 := by
  unfold Hub.snoopOne
  dsimp only
  repeat' split
  all_goals simp

@[simp] theorem Hub.snoopEach_sameRest (hs : Nat) (sn : Snoop) (crit : Bool) (las : List La) (h : Hub) :
    Hub.sameRest h (Hub.snoopEach hs sn crit las h).1 := by
  induction las generalizing h with
  | nil => simp [Hub.snoopEach]
  | cons la las ih =>
    refine Hub.sameRest.trans (h.snoopOne_sameRest hs sn crit la) ?_
    unfold Hub.snoopEach
    dsimp only
    split
    · exact ih _
    · exact ih _

@[simp] theorem Hub.multicast_sameRest (h : Hub) (hs : Nat) (las : List La) : Hub.sameRest h (h.multicast hs las) := by
  unfold Hub.multicast
  dsimp only
  split
  · simp
  · exact Hub.sameRest.trans (by simp) (foldl_sameRest _ (fun h q => by simp) _ _)

@[simp] theorem Hub.startBack_sameRest (h : Hub) (hs : Nat) (idx : BitVec 2) (kind : BackKind) (l : Line) (v : SView) :
    Hub.sameRest h (h.startBack hs idx kind l v) := by
  unfold Hub.startBack
  extract_lets t b started ls g x sn r
  have snooped : Hub.sameRest h r.1 :=
    Hub.sameRest.trans (by simp [started]) ((Hub.snoopEach_sameRest hs sn false t.1 (started.count 0x022 ls.toNat 1)).trans (Hub.multicast_sameRest ..))
  have answered : Hub.sameRest r.1 (r.2.foldl (fun h a => h.backAnswer hs idx l a none) r.1) := foldl_sameRest _ (fun h a => by simp) _ _
  exact (snooped.trans answered).trans (by simp)

/-! ### What waits for a lost hub (R218, R228) -/

theorem calm_holderAnswer (h : Hub) (hs : Nat) (tid : Byte) (fwd : Bool) : h.Calm (h.holderAnswer hs tid fwd) :=
  (calm_onTxn ..).trans (calm_settle ..)

theorem calm_answerFor (h : Hub) (hs : Nat) (t : Txn) : h.Calm (h.answerFor hs t) := calm_ite (calm_toHub ..) (calm_holderAnswer ..)

theorem calm_homeCopyIn (h : Hub) (hs : Nat) (t : Txn) (x : HubNo) (kept : BitVec 2) (d : Option Payload) :
    h.Calm (h.homeCopyIn hs t x kept d) := by
  unfold Hub.homeCopyIn
  extract_lets entered upd
  have enteredCalm : h.Calm entered := by
    unfold entered
    split
    · exact (calm_enterValue ..).trans (calm_newerData ..)
    · exact .refl h
  exact enteredCalm.trans ((calm_onTxn ..).trans (calm_settle ..))

theorem calm_backHub (h : Hub) (hs : Nat) (l : Line) (from_ : HubNo) (d : Option Payload) : h.Calm (h.backHub hs l from_ d) := by
  unfold Hub.backHub
  split
  case h_1 => exact .refl h
  case h_2 =>
    extract_lets upd told entered
    have enteredCalm : told.Calm entered := by
      unfold entered
      split
      · exact calm_enterValue ..
      · exact .refl told
    exact ((calm_onSlice ..).trans enteredCalm).trans (calm_tryBack ..)

theorem calm_skipHub (h : Hub) (x : HubNo) (hs : Nat) : h.Calm (h.skipHub x hs) :=
  (calm_foldl (fun _ _ => (calm_answerFor ..).trans (calm_homeCopyIn ..)) _ h).trans (calm_foldl (fun _ _ => calm_backHub ..) _ _)

@[simp] theorem Hub.homeCopyIn_sameRest (h : Hub) (hs : Nat) (t : Txn) (x : HubNo) (kept : BitVec 2) (d : Option Payload) :
    Hub.sameRest h (h.homeCopyIn hs t x kept d) := by
  unfold Hub.homeCopyIn
  split
  · simp [Hub.newerData]
  · simp

@[simp] theorem Hub.answerFor_sameRest (h : Hub) (hs : Nat) (t : Txn) : Hub.sameRest h (h.answerFor hs t) := by
  unfold Hub.answerFor Hub.holderAnswer
  split
  · simp
  · simp

@[simp] theorem Hub.backHub_sameRest (h : Hub) (hs : Nat) (l : Line) (from_ : HubNo) (d : Option Payload) :
    Hub.sameRest h (h.backHub hs l from_ d) := by
  unfold Hub.backHub
  dsimp only
  repeat' split
  all_goals simp

@[simp] theorem Hub.skipHub_sameApart (h : Hub) (x : HubNo) (hs : Nat) : Hub.sameApart h (h.skipHub x hs) := by
  refine ⟨(h.skipHub_sameRound x hs).1, (h.skipHub_sameRound x hs).2.1, ?_⟩
  exact Hub.sameRest.trans (foldl_sameRest _ (fun h t => by simp) _ h) (foldl_sameRest _ (fun h b => by simp) _ _)

/-! ### Walks for a lost hub -/

theorem calm_visitHubWay (h : Hub) (hs : Nat) (x : HubNo) (set : BitVec 12) (way : Nat) : h.Calm (h.visitHubWay hs x set way) := by
  unfold Hub.visitHubWay
  dsimp only
  split
  · exact calm_ite (.refl h) (((calm_poisonMark ..).trans (calm_raise ..)).trans (calm_putHub ..))
  · exact calm_ite (.refl h) (calm_putHub ..)
  · exact .refl h

theorem calm_startLost (hs : Nat) (lines : List (Line × SView)) : ∀ h : Hub, h.Calm (Hub.startLost hs lines h) := by
  induction lines with
  | nil => exact .refl
  | cons e lines ih =>
    intro h
    unfold Hub.startLost
    split
    · split
      · exact ih h
      · exact (calm_startBack ..).trans (ih _)
    · exact .refl h

theorem calm_walkHub (h : Hub) (x : HubNo) (hs : Nat) : h.Calm (h.walkHub x hs) := by
  unfold Hub.walkHub
  extract_lets visited lines started done
  have visits : h.Calm visited := calm_foldl (fun _ _ => calm_visitHubWay ..) _ h
  have starts : visited.Calm started := calm_ite (.refl visited) (calm_startLost ..)
  exact (visits.trans starts).trans (calm_ite (calm_onSlice ..) (.refl started))

theorem calm_walkHubs (h : Hub) : h.Calm h.walkHubs := calm_foldl (fun _ _ => calm_foldl (fun _ _ => calm_walkHub ..) _ _) _ h

@[simp] theorem Hub.visitHubWay_sameRest (h : Hub) (hs : Nat) (x : HubNo) (set : BitVec 12) (way : Nat) :
    Hub.sameRest h (h.visitHubWay hs x set way) := by
  unfold Hub.visitHubWay
  dsimp only
  repeat' split
  all_goals simp

theorem startLost_sameRest (hs : Nat) (lines : List (Line × SView)) (h : Hub) : Hub.sameRest h (Hub.startLost hs lines h) := by
  induction lines generalizing h with
  | nil => simp [Hub.startLost]
  | cons e lines ih =>
    unfold Hub.startLost
    split
    · split
      · exact ih h
      · exact Hub.sameRest.trans (Hub.startBack_sameRest ..) (ih _)
    · simp

@[simp] theorem Hub.walkHub_sameRest (h : Hub) (x : HubNo) (hs : Nat) : Hub.sameRest h (h.walkHub x hs) := by
  unfold Hub.walkHub
  extract_lets visited lines started done
  have visits : Hub.sameRest h visited := foldl_sameRest _ (fun h e => by simp) _ h
  have starts : Hub.sameRest visited started := by
    unfold started
    split
    · simp
    · exact startLost_sameRest ..
  refine (visits.trans starts).trans ?_
  split
  · simp
  · simp

@[simp] theorem Hub.walkHubs_sameApart (h : Hub) : Hub.sameApart h h.walkHubs :=
  ⟨h.walkHubs_sameRound.1, h.walkHubs_sameRound.2.1, foldl_sameRest _ (fun _ _ => foldl_sameRest _ (fun h x => by simp) _ _) _ h⟩

end Sys2Proof.Machine
end

section
/-!
CERTIFICATE. Delays of span requests, acknowledgements and releases at the home, and the loss of a hub (R66, R179, R212, R215, R218, R228).
-/
namespace Sys2Proof.Machine
open Sys2Proof.Safety

/-! ### The loss of a hub (R228) -/

theorem calm_endLost (h : Hub) (hs : Nat) (t : Txn) : h.Calm (h.endLost hs t) := by
  unfold Hub.endLost
  extract_lets counted d
  have counts : h.Calm counted := .of_eq rfl rfl rfl
  exact counts.trans ((calm_onTxn ..).trans (calm_settle ..))

theorem endLost_sameRest (h : Hub) (hs : Nat) (t : Txn) : Hub.sameRest h (h.endLost hs t) := by simp [Hub.endLost]

/-- A proxy's slice without what it held for a lost home. -/
def Hub.sweepHome (h : Hub) (x : HubNo) (hs : Nat) : Hub :=
  let mine := (h.slice hs).txns.filter fun t => t.spanReq && !t.gate.spanCmp && h.remoteHome t.req.line == some x
  let h := mine.foldl (fun h t => h.endLost hs t) h
  h.onSlice hs fun s => { s with wb := s.wb.filter fun w => w.home || h.remoteHome w.line != some x }

theorem calm_sweepHome (h : Hub) (x : HubNo) (hs : Nat) : h.Calm (h.sweepHome x hs) :=
  (calm_foldl (fun _ _ => calm_endLost ..) _ h).trans (calm_onSlice ..)

theorem sweepHome_sameApart (h : Hub) (x : HubNo) (hs : Nat) : Hub.sameApart h (h.sweepHome x hs) := by
  have ended (h : Hub) (t : Txn) : Hub.sameApart h (h.endLost hs t) :=
    ⟨(h.endLost_sameRound hs t).1, (h.endLost_sameRound hs t).2.1, endLost_sameRest h hs t⟩
  unfold Hub.sweepHome
  extract_lets mine swept
  have sweeps : Hub.sameApart h swept := foldl_sameApart _ ended mine h
  exact sweeps.trans (by simp)

/-- The proxies' part of the loss of a home. -/
def Hub.sweptHome (h : Hub) (x : HubNo) : Hub := h.servingSlices.foldl (fun h hs => h.sweepHome x hs) h

/-- The hub in which nothing spilled or deferred waits for a lost home. -/
def Hub.clearedHome (h : Hub) (x : HubNo) : Hub :=
  let k := h.sweptHome x
  { k with
    spill := k.spill.filter fun w => w.home || k.remoteHome w.line != some x
    spanBacks := k.spanBacks.filter fun b => k.remoteHome b.line != some x }

/-- A device request whose window or device lies at a hub. -/
def Hub.devAt (h : Hub) (x : HubNo) (r : DevReq) : Bool := r.region == 64 && (match h.classify r.line with
  | .window y => y == x
  | .remote y => y == x
  | _ => false)

theorem dropHome_eq (h : Hub) (x : HubNo) : h.dropHome x = ((h.clearedHome x).dev.reqs.filter ((h.clearedHome x).devAt x)).foldl
    (fun h r => h.devFinish r oLost none) (h.clearedHome x) := rfl

theorem calm_dropHome (h : Hub) (x : HubNo) : h.Calm (h.dropHome x) := by
  have swept : h.Calm (h.sweptHome x) := calm_foldl (fun _ _ => calm_sweepHome ..) _ h
  have cleared : (h.sweptHome x).Calm (h.clearedHome x) := .of_eq rfl rfl rfl
  rw [dropHome_eq]
  exact (swept.trans cleared).trans (calm_foldl (fun _ _ => calm_devFinish ..) _ _)

theorem onlyIn_dropHome (s : State) (x : HubNo) : onlyIn hubLossParts s (s.withHub fun h => h.dropHome x) := by
  have swept : onlyIn hubLossParts s { s with hub := s.hub.sweptHome x } :=
    onlyIn_mono (by decide) (onlyIn_answer (foldl_sameApart _ (fun h hs => sweepHome_sameApart h x hs) _ s.hub))
  have cleared : onlyIn hubLossParts { s with hub := s.hub.sweptHome x } { s with hub := s.hub.clearedHome x } := by
    intro q hq
    cases q <;> simp [hubLossParts] at hq <;> rfl
  have finished : Hub.sameApart (s.hub.clearedHome x) (s.hub.dropHome x) := by
    rw [dropHome_eq]
    exact foldl_sameApart _ (fun h r => by simp) _ _
  exact onlyIn_trans (onlyIn_trans swept cleared) (onlyIn_mono (by decide) (onlyIn_answer (s := { s with hub := s.hub.clearedHome x }) finished))

/-- The hub that counts another as lost, and whose transactions and back-invalidations wait for it no longer. -/
def Hub.skipped (h : Hub) (x : HubNo) : Hub :=
  let k := { h with lostHubs := h.lostHubs ++ [x] }
  k.servingSlices.foldl (fun h hs => h.skipHub x hs) k

/-- Every slice is to walk for a lost hub. -/
def Hub.toWalk (h : Hub) (x : HubNo) : Hub :=
  h.servingSlices.foldl (fun h hs => h.onSlice hs fun s => { s with hubWalk := s.hubWalk ++ [x] }) h

section
variable {h : Hub} {x : HubNo} (other : x ≠ h.num) (known : h.lostHubs.contains x = false)
include other known

theorem loseHub_eq : h.loseHub x = (((h.skipped x).dropHome x).toWalk x).walkHubs := by
  have lost : x ∉ h.lostHubs := by simpa using known
  exact if_neg (by simp [other, lost])

theorem loseHub_calm : h.Calm (h.loseHub x) := by
  have counted : h.Calm { h with lostHubs := h.lostHubs ++ [x] } := .of_eq rfl rfl rfl
  have skips : h.Calm (h.skipped x) := counted.trans (calm_foldl (fun _ _ => calm_skipHub ..) _ _)
  have walks : ((h.skipped x).dropHome x).Calm (((h.skipped x).dropHome x).toWalk x) := calm_foldl (fun _ _ => calm_onSlice ..) _ _
  rw [loseHub_eq other known]
  exact ((skips.trans (calm_dropHome ..)).trans walks).trans (calm_walkHubs ..)

theorem loseHub_routes : (h.loseHub x).lostHubs = h.lostHubs ++ [x] ∧ (h.loseHub x).par = h.par := by
  have skips : Hub.sameApart { h with lostHubs := h.lostHubs ++ [x] } (h.skipped x) := foldl_sameApart _ (fun h hs => by simp) _ _
  have drops := ((h.skipped x).dropHome_sameRound x).2.1
  have walks : Hub.sameApart ((h.skipped x).dropHome x) (((h.skipped x).dropHome x).toWalk x) := foldl_sameApart _ (fun h hs => by simp) _ _
  have ends := (((h.skipped x).dropHome x).toWalk x).walkHubs_sameRound.2.1
  have all := (skips.2.1.trans drops).trans (walks.2.1.trans ends)
  rw [loseHub_eq other known]
  exact ⟨all.2.2.2.2, all.1⟩

end

theorem onlyIn_loseHub {s : State} {x : HubNo} (other : x ≠ s.hub.num) (known : s.hub.lostHubs.contains x = false) :
    onlyIn hubLossParts s (s.withHub fun h => h.loseHub x) := by
  have counted : onlyIn hubLossParts s { s with hub := { s.hub with lostHubs := s.hub.lostHubs ++ [x] } } := by
    intro q hq
    cases q <;> simp [hubLossParts] at hq <;> rfl
  have skips : Hub.sameApart { s.hub with lostHubs := s.hub.lostHubs ++ [x] } (s.hub.skipped x) := foldl_sameApart _ (fun h hs => by simp) _ _
  have walks : Hub.sameApart ((s.hub.skipped x).dropHome x) (((s.hub.skipped x).dropHome x).toWalk x).walkHubs :=
    (foldl_sameApart _ (fun h hs => by simp) _ _).trans (Hub.walkHubs_sameApart _)
  have toSkipped := onlyIn_trans counted (onlyIn_mono (by decide)
    (onlyIn_answer (s := { s with hub := { s.hub with lostHubs := s.hub.lostHubs ++ [x] } }) skips))
  have dropped := onlyIn_dropHome { s with hub := s.hub.skipped x } x
  have walked := onlyIn_answer (s := { s with hub := (s.hub.skipped x).dropHome x }) walks
  simp only [State.withHub, loseHub_eq other known]
  exact onlyIn_trans (onlyIn_trans toSkipped dropped) (onlyIn_mono (by decide) walked)

/-! ### A hub declared lost -/

theorem smgtAll_out (h : Hub) (code : BitVec 8) (arg : Word) :
    (h.smgtAll code arg).out = h.out ++ h.otherHubs.map fun x => OutMsg.smgt x code arg := by
  unfold Hub.smgtAll
  generalize h.otherHubs = l
  induction l generalizing h with
  | nil => simp
  | cons x l ih =>
    rw [List.foldl_cons, ih]
    simp [Hub.emit]

/-- A hub is declared lost (R228). -/
structure Hub.Declares (h k : Hub) (x : HubNo) : Prop where
  event : raised k evSpanHubLost
  lost : k.lostHubs = h.lostHubs ++ [x]
  told : ∀ z ∈ h.otherHubs, z ≠ x → OutMsg.smgt z smgtHubLost (x.setWidth 64) ∈ k.out

theorem mem_otherHubs {h : Hub} {z : HubNo} : z ∈ h.otherHubs ↔ h.reachable z = true := by
  refine List.mem_filter.trans (and_iff_right_of_imp fun _ => List.mem_map.2 ⟨z.toNat, ?_, by simp⟩)
  simp [upTo, z.isLt]

/-- A hub that routes and losses leave reachable. -/
theorem reachable_after {h k : Hub} {x z : HubNo} (par : k.par = h.par) (lost : k.lostHubs = h.lostHubs ++ [x]) (other : z ≠ x)
    (reach : h.reachable z = true) : k.reachable z = true := by
  have pw : k.pw = h.pw := by funext i; simp [Hub.pw, par]
  have num := num_congr par
  simp only [Hub.reachable, Hub.routeValid, Hub.routePort, pw, num, lost] at reach ⊢
  simp only [Bool.and_eq_true] at reach ⊢
  obtain ⟨way, unlost⟩ := reach
  exact ⟨way, by simpa [other] using unlost⟩

section
variable {h : Hub} {x : HubNo} (other : x ≠ h.num) (known : h.lostHubs.contains x = false)
include other known

theorem declareLost_eq : h.declareLost x = ((h.raise (rz evSpanHubLost noInst.toNat)).loseHub x).smgtAll smgtHubLost (x.setWidth 64) := by
  have lost : x ∉ h.lostHubs := by simpa using known
  exact if_neg (by simp [other, lost])

theorem declareLost_declares : h.Declares (h.declareLost x) x := by
  have num : x ≠ (h.raise (rz evSpanHubLost noInst.toNat)).num := by rwa [num_congr (h := h) (by simp)]
  have fresh : (h.raise (rz evSpanHubLost noInst.toNat)).lostHubs.contains x = false := by
    rwa [show (h.raise (rz evSpanHubLost noInst.toNat)).lostHubs = h.lostHubs by simp]
  obtain ⟨lost, par⟩ := loseHub_routes num fresh
  have calm := loseHub_calm num fresh
  have lost' : ((h.raise (rz evSpanHubLost noInst.toNat)).loseHub x).lostHubs = h.lostHubs ++ [x] := lost.trans (by simp)
  have par' : ((h.raise (rz evSpanHubLost noInst.toNat)).loseHub x).par = h.par := par.trans (by simp)
  rw [declareLost_eq other known]
  refine ⟨?event, ?lost, fun z reach apart => ?told⟩
  case event => exact (calm_foldl (fun h z => calm_emit ..) _ _).raised _ (calm.raised _ (raised_raise h _))
  case lost => exact (((h.raise _).loseHub x).smgtAll_sameRound _ _).2.1.2.2.2.2.trans lost'
  case told =>
    rw [smgtAll_out]
    exact List.mem_append_right _ (List.mem_map_of_mem (mem_otherHubs.2 (reachable_after par' lost' apart (mem_otherHubs.1 reach))))

end

theorem onlyIn_declareLost {s : State} {x : HubNo} (other : x ≠ s.hub.num) (known : s.hub.lostHubs.contains x = false) :
    onlyIn hubLossParts s (s.withHub fun h => h.declareLost x) := by
  have num : x ≠ (s.hub.raise (rz evSpanHubLost noInst.toNat)).num := by rwa [num_congr (h := s.hub) (by simp)]
  have fresh : (s.hub.raise (rz evSpanHubLost noInst.toNat)).lostHubs.contains x = false := by
    rwa [show (s.hub.raise (rz evSpanHubLost noInst.toNat)).lostHubs = s.hub.lostHubs by simp]
  have event := onlyIn_raise s fun _ => rz evSpanHubLost noInst.toNat
  have loses := onlyIn_loseHub (s := s.withHub fun h => h.raise (rz evSpanHubLost noInst.toNat)) num fresh
  have tells : Hub.sameApart ((s.hub.raise (rz evSpanHubLost noInst.toNat)).loseHub x)
      (((s.hub.raise (rz evSpanHubLost noInst.toNat)).loseHub x).smgtAll smgtHubLost (x.setWidth 64)) :=
    foldl_sameApart _ (fun h z => by simp) _ _
  have told := onlyIn_answer (s := { s with hub := (s.hub.raise (rz evSpanHubLost noInst.toNat)).loseHub x }) tells
  simp only [State.withHub, declareLost_eq other known]
  exact onlyIn_trans (onlyIn_trans (onlyIn_mono (by decide) event) loses) (onlyIn_mono (by decide) told)

/-! ### Delays (R212, R215) -/

/-- A transaction whose worst service a delay has put off. -/
def Txn.delayed (x : Txn) (n : Nat) : Txn := { x with
  worst := x.worst + n
  added := x.added + n }

section
variable {s : State} {m : SpanMsg} {x : Txn}

theorem spanGood_sound {h : Hub} {opc : BitVec 6} (sound : m.flit.spanBad opc = false) (k : Hub → Hub) : h.spanGood opc m k = k h := by
  rw [Hub.spanGood, sound]
  rfl

theorem onTxn_only (s : State) (hs : Nat) (tid : Byte) (f : Txn → Txn) : onlyIn [.slices] s (s.withHub fun h => h.onTxn hs tid f) := by
  intro q hq
  cases q <;> simp at hq <;> rfl

theorem addWait_delays {h : Hub} {g : Gaid} {t : Txid} {l : Line} (found : h.findTxn g t l = some x) (proxy : x.spanReq = true)
    (own : x.req.span = false) (n : Nat) : h.addWait g t l n = h.onTxn (h.homeHs l) x.tid fun y => y.delayed n := by
  simp only [Hub.addWait, found, proxy, own, Bool.not_false, Bool.and_self, if_true]
  rfl

theorem spanTicket_delays (takes : s.hub.takesAnswers = true) (found : s.hub.findTxn m.flit.gaid m.flit.txid m.flit.line = some x)
    (proxy : x.spanReq = true) (own : x.req.span = false) (sound : m.flit.spanBad 0x29 = false) :
    exec (.spanTicket m) s = .next (s.withHub fun h => h.onTxn (h.homeHs m.flit.line) x.tid fun y => y.delayed m.flit.delay.toNat) := by
  refine congrArg (fun h => Host.Outcome.next { s with hub := h }) ?_
  refine (if_pos takes).trans ((spanGood_sound sound _).trans ?_)
  exact addWait_delays found proxy own _

/-- The record of a request that is to be sent again. -/
def resendOf (m : SpanMsg) (n : Nat) : List SpanBack := if m.flit.b28 then [⟨m.flit.gaid, m.flit.txid, m.flit.line, n + 64⟩] else []

theorem spanDefer_delays (takes : s.hub.takesAnswers = true) (found : s.hub.findTxn m.flit.gaid m.flit.txid m.flit.line = some x)
    (proxy : x.spanReq = true) (own : x.req.span = false) (uncompleted : x.gate.spanCmp = false) (sound : m.flit.spanBad 0x2A = false) :
    exec (.spanDefer m) s = .next (s.withHub fun h =>
      ({ h with spanBacks := h.spanBacks ++ resendOf m h.round }).onTxn (h.homeHs m.flit.line) x.tid fun y => y.delayed m.flit.delay.toNat) := by
  refine congrArg (fun h => Host.Outcome.next { s with hub := h }) ?_
  have deferred : (if m.flit.b28 then { s.hub with spanBacks := s.hub.spanBacks ++
      [(⟨m.flit.gaid, m.flit.txid, m.flit.line, s.hub.round + 64⟩ : SpanBack)] } else s.hub) =
      { s.hub with spanBacks := s.hub.spanBacks ++ resendOf m s.hub.round } := by
    unfold resendOf
    split
    · rfl
    · simp
  simp only [takes, Bool.not_true, Bool.false_eq_true, if_false, spanGood_sound sound, found, proxy, own, uncompleted, Bool.not_false,
    Bool.and_self, Bool.true_and]
  rw [deferred]
  exact addWait_delays (h := { s.hub with spanBacks := s.hub.spanBacks ++ resendOf m s.hub.round }) found proxy own _

/-! ### Acknowledgements and releases (R66, R179, R218) -/

theorem spanCmpAck_starts (takes : s.hub.takesAnswers = true) (found : s.hub.findTxn m.flit.gaid m.flit.txid m.flit.line = some x)
    (sound : m.flit.spanBad 0x2C = false) (span : x.req.span = true) (granted : x.gate.spanGrant ≠ 0) (unacked : x.acked = none)
    (fresh : (s.hub.slice (s.hub.homeHs m.flit.line)).acksDue.contains (m.flit.gaid, m.flit.txid, m.flit.line) = false) :
    exec (.spanCmpAck m) s = .next (s.withHub fun h => h.startHold (h.homeHs m.flit.line) x.tid) := by
  have grant : x.gate.spanGrant ≠ 0#2 := granted
  have early : (m.flit.gaid, m.flit.txid, m.flit.line) ∉ (s.hub.slice (s.hub.homeHs m.flit.line)).acksDue := by simpa using fresh
  refine congrArg (fun h => Host.Outcome.next { s with hub := h }) ?_
  refine (if_neg (by simp [takes])).trans ((spanGood_sound sound _).trans ?_)
  simp [early, found, span, grant, unacked]

theorem spanCmpAck_absorbed (takes : s.hub.takesAnswers = true) (sound : m.flit.spanBad 0x2C = false)
    (due : (s.hub.slice (s.hub.homeHs m.flit.line)).acksDue.contains (m.flit.gaid, m.flit.txid, m.flit.line) = true) :
    exec (.spanCmpAck m) s = .next (s.withHub fun h => h.onSlice (h.homeHs m.flit.line) fun a => { a with
      acksDue := a.acksDue.filter fun k => k != (m.flit.gaid, m.flit.txid, m.flit.line) }) := by
  have listed : (m.flit.gaid, m.flit.txid, m.flit.line) ∈ (s.hub.slice (s.hub.homeHs m.flit.line)).acksDue := by simpa using due
  refine congrArg (fun h => Host.Outcome.next { s with hub := h }) ?_
  refine (if_neg (by simp [takes])).trans ((spanGood_sound sound _).trans ?_)
  simp [listed]

/-- An acknowledgement that comes before the rest is kept. -/
theorem startHold_waits {h : Hub} {hs : Nat} (found : h.txn hs x.tid = some x) (waits : x.closable = false) :
    h.startHold hs x.tid = h.onTxn hs x.tid fun t => t.heldFrom h.round := by
  have acked := txn_onTxn_self found (fun t => t.heldFrom h.round) rfl
  have still : (x.heldFrom h.round).closable = false := waits
  show (h.onTxn hs x.tid fun t => t.heldFrom h.round).tryClose hs x.tid = _
  simp [Hub.tryClose, acked, still]

theorem spanRsvRelease_passes (takes : s.hub.takesAnswers = true) (sound : m.flit.spanBad 0x2D = false)
    (home : s.hub.isHome m.flit.line = true) :
    exec (.spanRsvRelease m) s = .next (s.withHub fun h => { h with
      rsvNotes := h.rsvNotes ++ [(2, ⟨m.flit.line, m.flit.line, m.flit.gaid, m.flit.txid, m.flit.rsvSeq⟩)] }) := by
  refine congrArg (fun h => Host.Outcome.next { s with hub := h }) ?_
  refine (if_neg (by simp [takes])).trans ((spanGood_sound sound _).trans ?_)
  simp [home]

/-! ### A request that is sent again (R212) -/

/-- The first of a list that a predicate holds of, where all of them are alike. -/
theorem find?_unique {α : Type} {p : α → Bool} {a : α} {l : List α} (mem : a ∈ l) (on : p a = true) (only : ∀ x ∈ l, p x = true → x = a) :
    l.find? p = some a ∧ ∃ before after, l = before ++ a :: after ∧ List.dropFirst p l = before ++ after := by
  induction l with
  | nil => cases mem
  | cons x l ih =>
    by_cases here : p x = true
    · obtain rfl := only x (List.mem_cons_self ..) here
      exact ⟨by simp [here], [], l, rfl, by simp [List.dropFirst, here]⟩
    · have later : a ∈ l := (List.mem_cons.1 mem).resolve_left fun e => here (e ▸ on)
      obtain ⟨found, before, after, whole, rest⟩ := ih later fun y mem => only y (List.mem_cons_of_mem _ mem)
      refine ⟨by simpa [here] using found, x :: before, after, by rw [whole]; rfl, ?_⟩
      simp only [List.dropFirst, here, Bool.false_eq_true, if_false, rest]
      rfl

/-- A request to a hub that is reachable is sent at once. -/
theorem toHub_request {h : Hub} {e : HubNo} (reach : h.reachable e = true) {opc : BitVec 6} (request : svcOf opc = 0) (f : Flit)
    (d : Option Payload) (operand : Option (BitVec 256)) : ∃ o : SpanOut, (h.toHub e opc f d operand).out = h.out ++ [OutMsg.span o] ∧
      o.dest = e ∧ o.svc = 0 ∧ o.opc = opc ∧ o.flit = f := by
  refine ⟨⟨h.routePort e, e, h.num, svcOf opc, h.dsetOut (h.routePort e) none, h.spanEpoch, 0, opc, f, d, operand, 0, none⟩, ?_, rfl, request,
    rfl, rfl⟩
  simp [Hub.toHub, Hub.toHubWith, reach, Hub.sendSpan, SpPort.mayGo, request, Hub.emit]

/-- A proxy's request without data, as it goes to its home. -/
theorem sendSpanReq_request (h : Hub) (x : Txn) (unstaged : x.req.op.staged = false) (e : HubNo) : ∃ f operand,
    h.sendSpanReq x x.req.op e = h.toHub e x.req.op.spanOpc f none operand ∧ f.gaid = x.req.gaid ∧ f.txid = x.req.txid ∧
      f.line = x.req.line := by
  unfold Hub.sendSpanReq
  rw [unstaged]
  exact ⟨_, _, rfl, rfl, rfl, rfl⟩

theorem svcOf_spanOpc (op : ReqOp) : svcOf op.spanOpc = 0 := by cases op <;> decide

end

/-! ### O38 -/

section
variable {s : State} {m : SpanMsg} {x : Txn}

theorem onTxn_others (h : Hub) (hs : Nat) (tid : Byte) (f : Txn → Txn) : otherSlices h (h.onTxn hs tid f) hs :=
  fun _ other => Hub.slice_onSlice_ne _ _ _ _ other

theorem spanDefer_row (takes : s.hub.takesAnswers = true) (found : s.hub.findTxn m.flit.gaid m.flit.txid m.flit.line = some x)
    (placed : s.hub.txn (s.hub.homeHs m.flit.line) x.tid = some x) (proxy : x.spanReq = true) (own : x.req.span = false)
    (uncompleted : x.gate.spanCmp = false) (sound : m.flit.spanBad 0x2A = false) :
    ∃ t, exec (.spanDefer m) s = .next t ∧ onlyIn [.slices, .spanBacks] s t ∧ otherSlices s.hub t.hub (s.hub.homeHs m.flit.line) ∧
      t.hub.spanBacks = s.hub.spanBacks ++ resendOf m s.hub.round ∧
      t.hub.txn (s.hub.homeHs m.flit.line) x.tid = some (x.delayed m.flit.delay.toNat) := by
  refine ⟨_, spanDefer_delays takes found proxy own uncompleted sound, ?_, onTxn_others { s.hub with
    spanBacks := s.hub.spanBacks ++ resendOf m s.hub.round } _ _ _, rfl, txn_onTxn_self (h := { s.hub with
    spanBacks := s.hub.spanBacks ++ resendOf m s.hub.round }) placed _ rfl⟩
  intro q hq
  cases q <;> simp at hq <;> rfl

theorem spanCmpAck_closes (takes : s.hub.takesAnswers = true) (found : s.hub.findTxn m.flit.gaid m.flit.txid m.flit.line = some x)
    (placed : s.hub.txn (s.hub.homeHs m.flit.line) x.tid = some x) (sound : m.flit.spanBad 0x2C = false) (span : x.req.span = true)
    (granted : x.gate.spanGrant ≠ 0) (unacked : x.acked = none) (alive : x.deadReq = false) (home : s.hub.isHome m.flit.line = true)
    (fresh : (s.hub.slice (s.hub.homeHs m.flit.line)).acksDue.contains (m.flit.gaid, m.flit.txid, m.flit.line) = false)
    (closable : x.closable = true) :
    ∃ t, exec (.spanCmpAck m) s = .next t ∧ onlyIn closeParts s t ∧ otherArrays s.hub t.hub (s.hub.homeHs m.flit.line) ∧
      t.hub.txn (s.hub.homeHs m.flit.line) x.tid = none ∧
      (⟨m.flit.line, none, s.hub.round + (s.hub.slice (s.hub.homeHs m.flit.line)).lineG (s.hub.p 0x40) m.flit.line - 1, x.way⟩ : Hold)
        ∈ (t.hub.slice (s.hub.homeHs m.flit.line)).holds := by
  have line := findTxn_line found
  have grant : x.hasGrant = true := by
    rw [Txn.hasGrant, span]
    exact bne_iff_ne.2 granted
  obtain ⟨only, closes⟩ := startHold_closes placed ⟨closable, grant, unacked, alive⟩ (by rwa [line])
  refine ⟨_, spanCmpAck_starts takes found sound span granted unacked fresh, only, closes.others, closes.gone, ?_⟩
  exact mem_of_eq closes.holds (by simp [Slice.closed, span, line])

theorem spanDeferResend_sends {b : SpanBack} {e : HubNo} (mem : b ∈ s.hub.spanBacks)
    (only : ∀ k ∈ s.hub.spanBacks, k.gaid = b.gaid → k.txid = b.txid → k = b) (due : b.at_ ≤ s.hub.round)
    (found : s.hub.findTxn b.gaid b.txid b.line = some x) (proxy : x.spanReq = true) (uncompleted : x.gate.spanCmp = false)
    (plain : x.wdata = none) (unstaged : x.req.op.staged = false) (home : s.hub.remoteHome b.line = some e)
    (reach : s.hub.reachable e = true) :
    ∃ t, exec (.spanDeferResend b.gaid b.txid) s = .next t ∧ onlyIn [.spanBacks, .sps, .pmc, .freeCtr, .out] s t ∧
      (∃ p q, s.hub.spanBacks = p ++ b :: q ∧ t.hub.spanBacks = p ++ q) ∧
      ∃ o : SpanOut, t.hub.out = s.hub.out ++ [OutMsg.span o] ∧ o.dest = e ∧ o.svc = 0 ∧ o.opc = x.req.op.spanOpc ∧
        o.flit.gaid = x.req.gaid ∧ o.flit.txid = x.req.txid ∧ o.flit.line = x.req.line := by
  obtain ⟨first, before, after, whole, rest⟩ := find?_unique
    (p := fun k => k.gaid == b.gaid && k.txid == b.txid && decide (k.at_ ≤ s.hub.round)) mem (by simp [due]) fun k there same => by
      simp only [Bool.and_eq_true, beq_iff_eq] at same
      exact only k there same.1.1 same.1.2
  have row : exec (.spanDeferResend b.gaid b.txid) s =
      .next (s.withHub fun h => ({ h with spanBacks := before ++ after }).sendSpanReq x x.req.op e) := by
    refine congrArg (fun h => Host.Outcome.next { s with hub := h }) ?_
    have found' : ({ s.hub with spanBacks := before ++ after } : Hub).findTxn b.gaid b.txid b.line = some x := found
    have home' : ({ s.hub with spanBacks := before ++ after } : Hub).remoteHome b.line = some e := home
    simp only [first, rest, found', home', proxy, uncompleted, Bool.not_false, Bool.and_self, if_true, Hub.resendSpan, plain]
  obtain ⟨f, operand, asks, gaid, txid, line⟩ := sendSpanReq_request { s.hub with spanBacks := before ++ after } x unstaged e
  obtain ⟨o, sent, dest, svc, opc, flit⟩ := toHub_request (h := { s.hub with spanBacks := before ++ after }) reach
    (svcOf_spanOpc x.req.op) f none operand
  simp only [State.withHub, asks] at row
  refine ⟨_, row, ?_, ⟨before, after, whole, by simp⟩, o, sent, dest, svc, opc, flit ▸ gaid, flit ▸ txid, flit ▸ line⟩
  intro q hq
  cases q <;> simp at hq <;> simp [Part.same]

end

/-- Settles O38: a delay changes one transaction, an acknowledgement begins a hold (`startHold_closes`), and a lost hub is skipped slice by slice. -/
theorem spanDelaysAcknowledgementsAndLosses : Obligations.SpanDelaysAcknowledgementsAndLosses := by
  intro s m x hs e y b ls tid serves
  subst serves
  refine ⟨fun takes found placed => ⟨fun proxy own => ⟨fun sound => ?ticket, fun uncompleted sound => ?defer⟩,
    fun sound span granted unacked alive home fresh => ⟨fun closable => ?acks, fun waits => ?early⟩⟩, fun takes sound due => ?absorbed,
    spanDeferResend_sends, fun takes sound home => ?release, fun other known => ⟨fun missing => ?grace, ?notice⟩⟩
  case ticket =>
    exact ⟨_, spanTicket_delays takes found proxy own sound, onTxn_only _ _ _ _, onTxn_others _ _ _ _, txn_onTxn_self placed _ rfl⟩
  case defer => exact spanDefer_row takes found placed proxy own uncompleted sound
  case acks => exact spanCmpAck_closes takes found placed sound span granted unacked alive home fresh closable
  case early =>
    refine ⟨_, spanCmpAck_starts takes found sound span granted unacked fresh, ?_, ?_, ?_⟩
    · simp only [State.withHub, startHold_waits placed waits]
      exact onTxn_only _ _ _ _
    · simp only [State.withHub, startHold_waits placed waits]
      exact onTxn_others _ _ _ _
    · simp only [State.withHub, startHold_waits placed waits]
      rw [txn_onTxn_self placed _ rfl, Txn.heldFrom, unacked]
      rfl
  case absorbed =>
    refine ⟨_, spanCmpAck_absorbed takes sound due, ?_, fun m other => Hub.slice_onSlice_ne _ _ _ _ other, Hub.slice_onSlice_self ..⟩
    intro q hq
    cases q <;> simp at hq <;> rfl
  case release =>
    refine ⟨_, spanRsvRelease_passes takes sound home, ?_, rfl⟩
    intro q hq
    cases q <;> simp at hq <;> rfl
  case grace =>
    obtain ⟨event, lost, told⟩ := declareLost_declares other known
    refine ⟨s.withHub fun h => h.declareLost y, ?_, onlyIn_declareLost other known, event, lost, told⟩
    refine congrArg (fun h => Host.Outcome.next { s with hub := h }) (if_pos ?_)
    rcases missing with ⟨found, copy, due⟩ | ⟨k, mem, waits, due⟩
    · simp only [found, copy, due, decide_true, Bool.and_self, Bool.true_or]
    · exact Bool.or_eq_true_iff.2 (.inr (List.any_eq_true.2 ⟨k, mem, by simp only [waits, due, decide_true, Bool.and_self]⟩))
  case notice => exact ⟨_, rfl, onlyIn_loseHub other known, (loseHub_routes other known).1⟩

end Sys2Proof.Machine
end

section
/-!
SUPPORT. Reads during answers, releases and closes (R111, R116): none is made and none ends, they only grow stale; and the one relation that joins this
to the other frames of settling.
-/
namespace Sys2Proof.Machine
open Sys2Proof.Safety

/-! ### Reads but for their staleness -/

/-- A read whatever newer data overtook it. -/
def MemRead.fresh (r : MemRead) : MemRead := { r with stale := false }

/-- The outstanding reads, whatever newer data overtook them. -/
def Hub.freshReads (h : Hub) : List MemRead := h.reads.map MemRead.fresh

theorem freshReads_congr {h k : Hub} (reads : k.reads = h.reads) : k.freshReads = h.freshReads := by
  rw [Hub.freshReads, reads, Hub.freshReads]

@[simp] theorem Hub.onTxn_freshReads (h : Hub) (hs : Nat) (tid : Byte) (f : Txn → Txn) : (h.onTxn hs tid f).freshReads = h.freshReads := rfl
@[simp] theorem Hub.raise_freshReads (h : Hub) (r : Raise) : (h.raise r).freshReads = h.freshReads := freshReads_congr (by simp)

theorem foldl_freshReads {α : Type} (g : Hub → α → Hub) (H : ∀ h x, (g h x).freshReads = h.freshReads) (l : List α) (h : Hub) :
    (l.foldl g h).freshReads = h.freshReads := by
  induction l generalizing h with
  | nil => rfl
  | cons a t ih => exact (ih (g h a)).trans (H h a)

theorem Hub.staleFills_freshReads (h : Hub) (hs : Nat) (l : Line) : (h.staleFills hs l).freshReads = h.freshReads := by
  have mapped (p : MemRead → Bool) (rs : List MemRead) :
      (List.mapIf p (fun r => { r with stale := true }) rs).map MemRead.fresh = rs.map MemRead.fresh := by
    rw [List.mapIf, List.map_map]
    refine List.map_congr_left fun r _ => ?_
    dsimp only [Function.comp]
    split <;> rfl
  unfold Hub.staleFills
  extract_lets marked
  have marks : marked.freshReads = h.freshReads := mapped _ _
  split
  · split
    · exact marks
    · exact (freshReads_congr (by simp)).trans marks
  · exact marks

@[simp] theorem Hub.enterWb_freshReads (h : Hub) (hs : Nat) (l : Line) (who : Entering) (home : Bool) (bytes : LineBits) (mask : ByteMask)
    (f : WbLine → WbLine) : (h.enterWb hs l who home bytes mask f).freshReads = h.freshReads := by
  unfold Hub.enterWb
  extract_lets placed staled
  have places : placed.freshReads = h.freshReads := freshReads_congr (by simp [placed])
  have stales : staled.freshReads = h.freshReads := (Hub.staleFills_freshReads ..).trans places
  split
  · split
    · extract_lets updated filled
      have updates : updated.freshReads = h.freshReads := by
        refine Eq.trans (freshReads_congr ?_) stales
        unfold updated
        split <;> simp
      have fills : filled.freshReads = h.freshReads := by
        refine Eq.trans (freshReads_congr ?_) updates
        unfold filled
        split <;> simp
      exact (freshReads_congr (by simp)).trans fills
    · exact stales
  · exact places

@[simp] theorem Hub.enterValue_freshReads (h : Hub) (hs : Nat) (l : Line) (who : Entering) (home : Bool) (bytes : LineBits) (pois : ByteMask)
    (from_ : Option Gaid) : (h.enterValue hs l who home bytes pois from_).freshReads = h.freshReads := Hub.enterWb_freshReads ..

@[simp] theorem Hub.enterBase_freshReads (h : Hub) (hs : Nat) (l : Line) (bytes : LineBits) (poison : Bool) :
    (h.enterBase hs l bytes poison).freshReads = h.freshReads := Hub.enterWb_freshReads ..

@[simp] theorem Hub.enterWritten_freshReads (h : Hub) (hs : Nat) (l : Line) (home : Bool) (bytes : LineBits) (mask pois : ByteMask) :
    (h.enterWritten hs l home bytes mask pois).freshReads = h.freshReads := Hub.enterWb_freshReads ..

@[simp] theorem Hub.poisonMark_freshReads (h : Hub) (hs : Nat) (l : Line) (home : Bool) :
    (h.poisonMark hs l home).freshReads = h.freshReads := Hub.enterValue_freshReads ..

theorem Hub.lineLost_freshReads (h : Hub) (hs : Nat) (t : Txn) (la : La) (n : Nat) : (h.lineLost hs t la n).freshReads = h.freshReads := by
  unfold Hub.lineLost
  extract_lets lost marked
  have marks : marked.freshReads = h.freshReads := freshReads_congr (by simp [marked, lost, Hub.raiseLost])
  split
  · exact (Hub.onTxn_freshReads ..).trans ((Hub.enterBase_freshReads ..).trans marks)
  · exact (Hub.poisonMark_freshReads ..).trans marks

theorem Hub.ownerLost_freshReads (h : Hub) (hs : Nat) (l : Line) (a : La) : (h.ownerLost hs l a).freshReads = h.freshReads := by
  unfold Hub.ownerLost
  extract_lets kept
  split
  · rfl
  · simp [Hub.raiseLost]

theorem Hub.fixEntry_freshReads (h : Hub) (hs : Nat) (t : Txn) : (h.fixEntry hs t).freshReads = h.freshReads := by
  unfold Hub.fixEntry
  extract_lets l mask ungiven
  split
  case h_1 =>
    extract_lets v left lost
    have losses : lost.freshReads = h.freshReads := by
      unfold lost
      split
      · split
        · rfl
        · exact Hub.ownerLost_freshReads ..
      · rfl
    clear_value lost
    split
    · exact losses
    · exact (freshReads_congr (by simp)).trans losses
  case h_2 => rfl

@[simp] theorem Hub.rebuild_reads (h : Hub) (hs : Nat) (t : Txn) : (h.rebuild hs t).reads = h.reads := by
  unfold Hub.rebuild
  split
  · rfl
  · extract_lets l exact_ swept ended left base v put
    split
    · simp [swept]
    · have ends : ended.reads = h.reads := by
        unfold ended
        split
        · simp
        · rfl
      have emptied : left.reads = ended.reads := foldl_same (·.reads) _ (fun h k => by split <;> simp) _ _
      exact Eq.trans (by simp [put]) (emptied.trans ends)

@[simp] theorem Hub.rebuildHub_reads (h : Hub) (hs : Nat) (tid : Byte) : (h.rebuildHub hs tid).reads = h.reads := by
  unfold Hub.rebuildHub
  split
  · rfl
  · split
    · rfl
    · split
      · rfl
      · extract_lets l sharers e keep left
        have emptied : left.reads = h.reads := foldl_same (·.reads) _ (fun h w => by split <;> simp) _ _
        exact Eq.trans (by simp) emptied

theorem Hub.judge_freshReads (h : Hub) (hs : Nat) (tid : Byte) : (h.judge hs tid).freshReads = h.freshReads := by
  unfold Hub.judge
  split
  case h_1 => rfl
  case h_2 t _ =>
    extract_lets g isDeg keeps alone judged lost ended
    have losses : lost.freshReads = h.freshReads := by
      refine Eq.trans (b := judged.freshReads) ?_ (freshReads_congr (by simp [judged]))
      unfold lost
      split
      · exact Hub.lineLost_freshReads ..
      · rfl
    have ends : ended.freshReads = h.freshReads := by
      refine Eq.trans ?_ losses
      unfold ended
      split
      · exact freshReads_congr (by simp)
      · rfl
    clear_value ended isDeg
    split
    · rfl
    · split
      · exact (freshReads_congr (by simp)).trans ends
      · exact ends

theorem Hub.baseWritten_freshReads (h : Hub) (hs : Nat) (t : Txn) : (h.baseWritten hs t).freshReads = h.freshReads := by
  unfold Hub.baseWritten
  extract_lets done
  split
  · exact Hub.onTxn_freshReads ..
  · split
    · exact Hub.onTxn_freshReads ..
    · split
      · exact (Hub.onTxn_freshReads ..).trans (Hub.enterBase_freshReads ..)
      · rfl

theorem Hub.atomUnit_freshReads (h : Hub) (hs : Nat) (t : Txn) (value : LineBits) (poison : Bool) :
    (h.atomUnit hs t value poison).freshReads = h.freshReads := by
  unfold Hub.atomUnit
  extract_lets r src done new entered
  split
  · exact (Hub.onTxn_freshReads ..).trans (Hub.raise_freshReads ..)
  · exact (Hub.onTxn_freshReads ..).trans (by simp [entered])

theorem Hub.settleBase_freshReads (h : Hub) (hs : Nat) (tid : Byte) : (h.settleBase hs tid).freshReads = h.freshReads := by
  unfold Hub.settleBase
  split
  · rfl
  · split
    · rfl
    · split
      · split
        · exact Hub.baseWritten_freshReads ..
        · rfl
      · split
        · rfl
        · exact Hub.atomUnit_freshReads ..

theorem Hub.release_freshReads (h : Hub) (hs : Nat) (t : Txn) : (h.release hs t).freshReads = h.freshReads := by
  unfold Hub.release
  extract_lets g r c src grant outcome marked ended sent noted
  have ends : ended.freshReads = h.freshReads := by
    refine Eq.trans (b := marked.freshReads) ?_ (Hub.onTxn_freshReads ..)
    unfold ended
    split
    · split
      · split
        · exact freshReads_congr (by simp)
        · rfl
      · exact freshReads_congr (by simp)
    · rfl
  have sends : sent.freshReads = h.freshReads := by
    refine Eq.trans (freshReads_congr ?_) ends
    unfold sent
    split
    · clear_value c
      split <;> simp
    · rfl
  have notes : noted.freshReads = h.freshReads := by
    refine Eq.trans (freshReads_congr ?_) sends
    unfold noted
    split
    · exact rfl
    · rfl
  clear_value ended noted c
  split
  · split
    · split
      · exact (Hub.enterValue_freshReads ..).trans ends
      · exact ends
    · exact ends
  · exact (freshReads_congr (by simp [Hub.countRes])).trans notes

theorem Hub.closeTxn_freshReads (h : Hub) (hs : Nat) (t : Txn) (start : Option Nat) : (h.closeTxn hs t start).freshReads = h.freshReads := by
  rw [closeTxn_eq]
  exact (freshReads_congr (by simp [Hub.afterClose])).trans (Hub.fixEntry_freshReads h hs t)

theorem Hub.tryClose_freshReads (h : Hub) (hs : Nat) (tid : Byte) : (h.tryClose hs tid).freshReads = h.freshReads := by
  unfold Hub.tryClose
  split
  · rfl
  · extract_lets granted
    clear_value granted
    split
    · rfl
    · split
      · exact Hub.closeTxn_freshReads ..
      · split
        · exact Hub.closeTxn_freshReads ..
        · rfl

theorem Hub.settle_freshReads (h : Hub) (hs : Nat) (tid : Byte) : (h.settle hs tid).freshReads = h.freshReads := by
  unfold Hub.settle
  extract_lets ready served
  have readies : ready.freshReads = h.freshReads := by
    refine (Hub.settleBase_freshReads ..).trans ((freshReads_congr (Hub.rebuildHub_reads ..)).trans ((Hub.judge_freshReads ..).trans ?_))
    exact freshReads_congr (by simp)
  have serves : served.freshReads = ready.freshReads := by
    unfold served
    split
    · split
      · rfl
      · split
        · exact freshReads_congr (by simp)
        · split
          · exact Hub.release_freshReads ..
          · rfl
    · rfl
  exact (Hub.tryClose_freshReads ..).trans (serves.trans readies)

/-! ### What settling keeps -/

/-- `k` is `h` after transactions were settled and data went to the caches: nothing of it is taken back, no read was made or ended, and
nothing else is touched. -/
structure Hub.Settles (h k : Hub) : Prop where
  calm : h.Calm k
  apart : Hub.sameApart h k
  reads : k.freshReads = h.freshReads

theorem Hub.Settles.refl (h : Hub) : h.Settles h := ⟨.refl h, by simp, rfl⟩

theorem Hub.Settles.trans {h k m : Hub} (first : h.Settles k) (second : k.Settles m) : h.Settles m :=
  ⟨first.calm.trans second.calm, first.apart.trans second.apart, second.reads.trans first.reads⟩

theorem Hub.Caches.settles {hs : Nat} {h k : Hub} (H : Hub.Caches hs h k) (apart : Hub.sameApart h k) (reads : k.reads = h.reads) :
    h.Settles k := ⟨H.calm, apart, freshReads_congr reads⟩

theorem settles_settle (h : Hub) (hs : Nat) (tid : Byte) : h.Settles (h.settle hs tid) :=
  ⟨calm_settle .., h.settle_sameApart hs tid, h.settle_freshReads hs tid⟩

theorem settles_onTxn (h : Hub) (hs : Nat) (tid : Byte) (f : Txn → Txn) : h.Settles (h.onTxn hs tid f) :=
  ⟨calm_onTxn .., by simp, rfl⟩

theorem settles_chainFill (h : Hub) (hs : Nat) (l : Line) (d : LineBits) (poison : Bool) : h.Settles (h.chainFill hs l d poison) :=
  (caches_chainFill ..).settles (by simp) (by simp)

/-- What the data of a read does to the caches: it fills them, or it is dropped (R290, R291, R295). -/
theorem caches_fillFrom (h : Hub) (hs : Nat) (r : MemRead) (kind : FillKind) (bytes : LineBits) (poison own : Bool) :
    Hub.Caches hs h (h.fillFrom hs r kind bytes poison own) := by
  unfold Hub.fillFrom
  split
  · split
    · exact caches_fillDropped ..
    · exact caches_chainFill ..
  · split
    · exact caches_refl hs h
    · split
      · exact caches_fillDropped ..
      · exact caches_fillArrive ..

@[simp] theorem Hub.fillArrive_keeps (h : Hub) (hs : Nat) (l : Line) (kind : FillKind) (d : LineBits) (poison : Bool) :
    Hub.sameConfig h (h.fillArrive hs l kind d poison) ∧ Hub.sameFlow h (h.fillArrive hs l kind d poison) ∧
    Hub.sameStore h (h.fillArrive hs l kind d poison) := by
  unfold Hub.fillArrive
  dsimp only
  repeat' split
  all_goals simp

@[simp] theorem Hub.fillFrom_keeps (h : Hub) (hs : Nat) (r : MemRead) (kind : FillKind) (bytes : LineBits) (poison own : Bool) :
    Hub.sameConfig h (h.fillFrom hs r kind bytes poison own) ∧ Hub.sameFlow h (h.fillFrom hs r kind bytes poison own) ∧
    Hub.sameStore h (h.fillFrom hs r kind bytes poison own) := by
  unfold Hub.fillFrom
  repeat' split
  all_goals simp

theorem settles_fillFrom (h : Hub) (hs : Nat) (r : MemRead) (kind : FillKind) (bytes : LineBits) (poison own : Bool) :
    h.Settles (h.fillFrom hs r kind bytes poison own) :=
  (caches_fillFrom ..).settles (by simp) (by simp)

end Sys2Proof.Machine
end

section
/-!
SUPPORT. Data and completion to a requester that hears them (R59, R249): what the release of a gate sends.
-/
namespace Sys2Proof.Machine
open Sys2Proof.Safety

/-- A data message goes to an agent that hears, at once. -/
theorem toAgent_hearsData {h : Hub} {src : Nat} {m : AgentMsg} (H : hears h m.dst) (cls : m.cls = .dat) (takes : m.takesDat = true) :
    h.toAgent src m = h.passMsg (h.agent m.dst).port src m := by
  obtain ⟨online, alive, stalled, -, -, dat⟩ := H
  have pass : (h.ap (h.agent m.dst).port).mayPass m = true := by simp [ApPort.mayPass, ApPort.hasCredit, takes, cls, dat, stalled]
  simp [Hub.toAgent, online, alive, Hub.passOrStall, pass]

theorem passMsg_out (h : Hub) (p : BitVec 4) (src : Nat) (m : AgentMsg) : (h.passMsg p src m).out = h.out ++ [.agent p m] := by
  unfold Hub.passMsg
  dsimp only
  split <;> simp [Hub.emit]

theorem passMsg_agents (h : Hub) (p : BitVec 4) (src : Nat) (m : AgentMsg) : (h.passMsg p src m).agents = h.agents := by
  unfold Hub.passMsg
  dsimp only
  split <;> simp

theorem passMsg_port (h : Hub) (p : BitVec 4) (src : Nat) (m : AgentMsg) :
    (h.passMsg p src m).ap p = { (h.ap p).spend m with frame := (h.ap p).frame.queue m.units } := by
  refine Eq.trans (Hub.ap_congr _ (h.onAp p fun a => { a.spend m with frame := a.frame.queue m.units }) p ?_) (Hub.ap_onAp_self ..)
  unfold Hub.passMsg
  dsimp only
  split <;> simp

/-- After a data message its agent still hears a completion. -/
theorem hearsCmp_passData {h : Hub} {a : La} {src : Nat} {m : AgentMsg} (H : hears h a) (cls : m.cls = .dat) :
    (h.passMsg (h.agent a).port src m).hearsCmp a := by
  obtain ⟨online, alive, stalled, -, rsp, -⟩ := H
  have agent : (h.passMsg (h.agent a).port src m).agent a = h.agent a := by rw [Hub.agent, passMsg_agents, Hub.agent]
  refine ⟨by rw [agent, online], by rw [agent, alive], ?_, ?_⟩
  · rw [agent, passMsg_port]
    simpa [ApPort.spend, cls] using rsp
  · rw [agent, passMsg_port]
    simp [ApPort.spend, stalled]

theorem datMsg_cls (t : Txn) (d : Payload) (fwd : Bool) : (t.datMsg d fwd).cls = .dat := by
  cases fwd <;> simp [Txn.datMsg, AgentMsg.cls, agentMsg, opDatFwd, opDatHome, opDevRd, msgClass]

theorem hears_congr {h k : Hub} {a : La} (agents : k.agents = h.agents) (aps : k.aps = h.aps) (H : hears h a) : hears k a := by
  have agent : k.agent a = h.agent a := by rw [Hub.agent, agents, Hub.agent]
  have port : ∀ p, k.ap p = h.ap p := fun p => Hub.ap_congr _ _ p aps
  simpa only [hears, agent, port] using H

/-! ### The release of a gate -/

/-- The completion that the release of a local transaction sends. -/
def Txn.cmpMsg (t : Txn) : AgentMsg :=
  { agentMsg opCmp t.req.gaid t.req.txid t.req.line t.req.gaid.la with
    grant := t.gate.finalGrant t.req.op
    outcome := t.gate.finalOutcome t.req.op }

/-- Of a transaction in its slice, what the release of its gate in round `n` makes. -/
def Txn.opens (t : Txn) (n : Nat) (x : Txn) : Txn :=
  let src := match t.gate.choose with
    | some (_, _, k) => if t.gate.need then k else .none
    | none => .none
  { x with
    relAt := n
    given := !x.deadReq
    gate := { x.gate with released := true, prepSrc := src, grant := t.gate.finalGrant t.req.op } }

/-- The hub in which a gate has opened, before anything is sent: an `RSV_LOAD` that failed has no reservation. -/
def Hub.opened (h : Hub) (hs : Nat) (t : Txn) : Hub :=
  let k := h.onTxn hs t.tid (t.opens h.round)
  if t.req.op = .rsvLoad ∧ t.gate.finalOutcome t.req.op = oNoRsv then
    match k.remoteHome t.req.line with
    | some e => if t.spanReq then k.sendRsvRelease e t.req.gaid t.req.line t.req.rsvSeq else k
    | none => k.onSlice hs fun s => s.dropRsv t.req.gaid t.req.line
  else k

theorem opened_parts {h : Hub} {t : Txn} (here : t.spanReq = false) (hs : Nat) :
    (h.opened hs t).agents = h.agents ∧ (h.opened hs t).aps = h.aps ∧ (h.opened hs t).out = h.out := by
  unfold Hub.opened
  extract_lets marked
  split
  · split
    · simp [here, marked]
    · simp [marked]
  · simp [marked]

theorem release_live {h : Hub} {hs : Nat} {t : Txn} (live : t.deadReq = false) : h.release hs t =
    let k := h.opened hs t
    let sent := if t.gate.need then
        match t.gate.choose with
        | some (d, fwd, _) => k.toAgent hs (t.datMsg d fwd)
        | none => k
      else k
    let noted := if t.req.op = .rsvLoad ∧ t.gate.finalOutcome t.req.op = oDone then sent.rsvDone t.req else sent
    (noted.sendCmp hs t.req.gaid t.req.txid t.req.line (t.gate.finalGrant t.req.op) (t.gate.finalOutcome t.req.op)).countRes t.req.line.ls
      (noted.round - t.acc) := by
  unfold Hub.release
  simp only [live, Bool.false_eq_true, if_false]
  rfl

/-- The data that the gate chose goes out, then the completion. -/
theorem release_sends {h : Hub} {hs : Nat} {t : Txn} {d : Payload} {fwd : Bool} {src : Src} (here : t.spanReq = false)
    (live : t.deadReq = false) (need : t.gate.need = true) (chosen : t.gate.choose = some (d, fwd, src)) (heard : hears h t.req.gaid.la) :
    (h.release hs t).out = h.out ++ [.agent (h.agent t.req.gaid.la).port (t.datMsg d fwd), .agent (h.agent t.req.gaid.la).port t.cmpMsg] := by
  obtain ⟨agents, aps, out⟩ := opened_parts (h := h) here hs
  have agent : (h.opened hs t).agent t.req.gaid.la = h.agent t.req.gaid.la := by rw [Hub.agent, agents, Hub.agent]
  have hear := hears_congr agents aps heard
  let sent := (h.opened hs t).passMsg (h.agent t.req.gaid.la).port hs (t.datMsg d fwd)
  let noted := if t.req.op = .rsvLoad ∧ t.gate.finalOutcome t.req.op = oDone then sent.rsvDone t.req else sent
  have data : (h.opened hs t).toAgent hs (t.datMsg d fwd) = sent := by
    rw [toAgent_hearsData (by exact hear) (datMsg_cls ..) rfl]
    exact congrArg (fun a : Agent => (h.opened hs t).passMsg a.port hs (t.datMsg d fwd)) agent
  have shape : h.release hs t = (noted.sendCmp hs t.req.gaid t.req.txid t.req.line (t.gate.finalGrant t.req.op)
      (t.gate.finalOutcome t.req.op)).countRes t.req.line.ls (noted.round - t.acc) := by
    unfold noted
    rw [← data, release_live live]
    simp only [need, chosen, if_true]
  have same : noted.agents = sent.agents ∧ noted.aps = sent.aps ∧ noted.out = sent.out := by
    unfold noted
    split <;> exact ⟨rfl, rfl, rfl⟩
  obtain ⟨sameAgents, sameAps, sameOut⟩ := same
  have sentAgent : sent.agent t.req.gaid.la = h.agent t.req.gaid.la := by rw [Hub.agent, passMsg_agents, ← Hub.agent, agent]
  have notedAgent : noted.agent t.req.gaid.la = h.agent t.req.gaid.la := by rw [Hub.agent, sameAgents, ← Hub.agent, sentAgent]
  have hearsSent : sent.hearsCmp t.req.gaid.la := by
    have hear := hearsCmp_passData (src := hs) hear (datMsg_cls t d fwd)
    rwa [agent] at hear
  have sameEvents : noted.events = sent.events := by
    unfold noted
    split <;> rfl
  have hearsNoted : noted.hearsCmp t.req.gaid.la := (Hub.Reported.of_eq sameAgents sameEvents sameOut sameAps).hearsCmp hearsSent
  rw [shape]
  calc (noted.sendCmp hs t.req.gaid t.req.txid t.req.line (t.gate.finalGrant t.req.op) (t.gate.finalOutcome t.req.op)).out
      = noted.out ++ [.agent (noted.agent t.req.gaid.la).port t.cmpMsg] := sendCmp_heard hearsNoted ..
    _ = _ := by rw [notedAgent, sameOut, passMsg_out, out, List.append_assoc]; rfl

theorem opened_bare {h : Hub} {hs : Nat} {t : Txn} (bare : t.req.op ≠ .rsvLoad) : h.opened hs t = h.onTxn hs t.tid (t.opens h.round) := by
  simp [Hub.opened, bare]

/-- A gate that needs no data sends the completion alone. -/
theorem release_completes {h : Hub} {hs : Nat} {t : Txn} (live : t.deadReq = false) (none : t.gate.need = false) (bare : t.req.op ≠ .rsvLoad) :
    h.release hs t = (((h.onTxn hs t.tid (t.opens h.round)).sendCmp hs t.req.gaid t.req.txid t.req.line (t.gate.finalGrant t.req.op)
      (t.gate.finalOutcome t.req.op)).countRes t.req.line.ls (h.round - t.acc)) := by
  rw [release_live live]
  simp only [none, bare, false_and, Bool.false_eq_true, if_false, opened_bare bare]
  rfl

end Sys2Proof.Machine
end

section
/-!
CERTIFICATE. The data of memory reads at their transactions, and reads whose data does not come (R59, R61, R106, R112, R273, R333).
-/
namespace Sys2Proof.Machine
open Sys2Proof.Safety

/-! ### Mailboxes without commands -/

theorem pollLong_quiet {h : Hub} (idle : ∀ n, (h.mb n).busy = none) : h.pollLong = h := by
  have step : ∀ n, h.pollOne n = h := fun n => by simp [Hub.pollOne, idle n]
  unfold Hub.pollLong
  induction (upTo 8).map (BitVec.ofNat 3) with
  | nil => rfl
  | cons n l ih => rw [List.foldl_cons, step, ih]

theorem withHubR_quiet {s : State} {f : Hub → Hub} {k : Hub} (value : f s.hub = k) (quiet : quietMailboxes s.hub) (mbx : k.mbx = s.hub.mbx)
    (core : k.core = s.hub.core) : s.withHubR f = { s with hub := k } := by
  obtain ⟨idle, empty⟩ := quiet
  have polled : k.pollLong = k := pollLong_quiet fun n => by rw [Hub.mb, mbx, ← Hub.mb, idle]
  have resps : k.core.resps = [] := by rw [core, empty]
  have still : { k with core := { k.core with resps := [] } } = k := by rw [← resps]
  simp only [State.withHubR, State.withHub, value, polled, State.flush, resps, List.foldl_nil, still]

/-! ### The pressure of a channel (R272) -/

theorem chan_checkPressure (h : Hub) (c i : Nat) : ((h.checkPressure c).chan i).lost = (h.chan i).lost := by
  have set (on : Bool) : ((h.chans.upd c Chan.init fun x => { x with pressure := on }).getD i Chan.init).lost =
      (h.chans.getD i Chan.init).lost := by
    rw [Tbl.getD_upd]
    split
    · next own => rw [own]
    · rfl
  unfold Hub.checkPressure
  dsimp only
  split
  · exact set true
  · split
    · exact set false
    · rfl

theorem calm_checkPressure (h : Hub) (c : Nat) : h.Calm (h.checkPressure c) := .of_eq (by simp) (by simp) (by simp)

theorem onlyIn_checkPressure (s : State) (k : Hub) (c : Nat) :
    onlyIn [.chans, .notices] { s with hub := k } { s with hub := k.checkPressure c } := by
  intro q hq
  cases q <;> simp at hq <;> simp [Part.same]

/-! ### The end of a read -/

theorem Hub.sameApart.chans {h k : Hub} (H : Hub.sameApart h k) : k.chans = h.chans := by simp [H]

/-- The hub in which a read has ended and its data has crossed the mesh to its slice. -/
def Hub.readEnded (h : Hub) (r : MemRead) : Hub := (h.dropRead r).moved (epMp (portOfChan r.ch.toNat)) (h.hsOf r.ls) true 64

theorem readEnded_parts (h : Hub) (r : MemRead) : Hub.sameApart h (h.readEnded r) ∧ (h.readEnded r).reads = (h.dropRead r).reads := by
  simp [Hub.readEnded, Hub.dropRead]

theorem calm_readEnded (h : Hub) (r : MemRead) : h.Calm (h.readEnded r) :=
  Hub.Calm.after (k := h.dropRead r) (calm_moved ..) rfl rfl rfl

theorem readDone_txn {r : MemRead} {tid : Byte} (who : r.who = .txn tid) (kept : r.dec ≠ .cancelled) (plain : r.lk = false) (h : Hub)
    (d : Payload) (own : Bool) : h.readDone r d own = (h.readEnded r).txnRead (h.hsOf r.ls) r tid d own := by
  unfold Hub.readDone
  simp only [if_neg kept, who, plain]
  rfl

theorem readOf_none_iff {h : Hub} {mp : Nat} {t : Txid} :
    h.readOf mp t = none ↔ ∀ q ∈ h.freshReads, ¬(portOfChan q.ch.toNat = mp ∧ q.mtag = t) := by
  simp [Hub.readOf, Hub.freshReads, MemRead.fresh]

theorem readOf_found {h : Hub} {mp : Nat} {t : Txid} {r : MemRead} (found : h.readOf mp t = some r) :
    portOfChan r.ch.toNat = mp ∧ r.mtag = t := by
  simpa using List.find?_some found

/-- Its tag names no read once a read has ended. -/
theorem readOf_ended {h k : Hub} {mp : Nat} {t : Txid} {r : MemRead} (found : h.readOf mp t = some r)
    (same : k.freshReads = (h.dropRead r).freshReads) : k.readOf mp t = none := by
  obtain ⟨port, tag⟩ := readOf_found found
  rw [readOf_none_iff, same, ← readOf_none_iff]
  simp only [Hub.readOf, Hub.dropRead, port, tag, List.find?_eq_none, List.mem_filter]
  exact fun q mem on => by simp [on] at mem

/-! ### Data whose transaction is over (R111, R116, R290) -/

theorem settles_clearMasks (h : Hub) (hs : Nat) (l : Line) : h.Settles (h.clearMasks hs l) :=
  ⟨calm_onWb .., by simp, freshReads_congr (by simp)⟩

theorem settles_enterBase (h : Hub) (hs : Nat) (l : Line) (bytes : LineBits) (poison : Bool) : h.Settles (h.enterBase hs l bytes poison) :=
  ⟨calm_enterBase .., by simp, Hub.enterBase_freshReads ..⟩

theorem settles_orphanBase (h : Hub) (hs : Nat) (l : Line) (d : Payload) : h.Settles (h.orphanBase hs l d) := by
  unfold Hub.orphanBase
  split
  · exact .refl h
  · split
    · exact .refl h
    · dsimp only
      split
      · exact (settles_enterBase ..).trans (settles_settle ..)
      · exact (settles_enterBase ..).trans (settles_clearMasks ..)

theorem settles_orphanRead (h : Hub) (hs : Nat) (r : MemRead) (d : Payload) (own : Bool) : h.Settles (h.orphanRead hs r d own) := by
  unfold Hub.orphanRead
  extract_lets based
  have bases : h.Settles based := settles_orphanBase ..
  split
  · exact bases.trans (settles_fillFrom ..)
  · split
    · exact bases.trans (settles_chainFill ..)
    · exact bases

/-! ### Data of an open transaction -/

/-- The transaction with the data of its read, which is prepared unless something came before it (R61, R112). -/
def Txn.dataRead (x : Txn) (d : Payload) : Txn := { x with
  mem := false
  gate := { x.gate with prep := x.gate.prep.or (some { d with dirty := false }) } }

/-- What the data of a transaction's read does to the caches, once the transaction is settled. -/
def Hub.txnFill (h : Hub) (hs : Nat) (r : MemRead) (t : Txn) (d : Payload) (own : Bool) : Hub :=
  if t.req.op.staged then
    (if (h.slice hs).chained r.line && !r.stale then h.chainFill hs r.line d.bytes d.poison else h)
  else if t.req.op = .atom then
    match h.wbFind hs r.line with
    | some x => if x.whole || r.stale then h.fillFrom hs r (.demand t.req.stream) x.bytes x.poison own else h
    | none => if r.stale then h.fillFrom hs r (.demand t.req.stream) d.bytes d.poison own else h
  else h.fillFrom hs r (.demand t.req.stream) d.bytes d.poison own

theorem txnRead_open {h : Hub} {hs : Nat} {r : MemRead} {tid : Byte} {x : Txn} (served : h.readTxn hs r tid = some x) (d : Payload)
    (own : Bool) : h.txnRead hs r tid d own = ((h.onTxn hs tid fun x => x.dataRead d).settle hs tid).txnFill hs r x d own := by
  unfold Hub.txnRead
  simp only [served]
  change _ = Hub.txnFill ((h.onTxn hs tid fun x => { x with
      mem := false
      gate := { x.gate with prep := x.gate.prep.or (some { d with dirty := false }) } }).settle hs tid) hs r x d own
  generalize Hub.settle _ hs tid = settled
  rfl

theorem caches_txnFill (h : Hub) (hs : Nat) (r : MemRead) (t : Txn) (d : Payload) (own : Bool) :
    Hub.Caches hs h (h.txnFill hs r t d own) := by
  unfold Hub.txnFill
  split
  · split
    · exact caches_chainFill ..
    · exact caches_refl hs h
  · split
    · split
      · split
        · exact caches_fillFrom ..
        · exact caches_refl hs h
      · split
        · exact caches_fillFrom ..
        · exact caches_refl hs h
    · exact caches_fillFrom ..

@[simp] theorem Hub.txnFill_keeps (h : Hub) (hs : Nat) (r : MemRead) (t : Txn) (d : Payload) (own : Bool) :
    Hub.sameConfig h (h.txnFill hs r t d own) ∧ Hub.sameFlow h (h.txnFill hs r t d own) ∧ Hub.sameStore h (h.txnFill hs r t d own) := by
  unfold Hub.txnFill
  repeat' split
  all_goals simp

theorem settles_txnFill (h : Hub) (hs : Nat) (r : MemRead) (t : Txn) (d : Payload) (own : Bool) : h.Settles (h.txnFill hs r t d own) :=
  (caches_txnFill ..).settles (by simp) (by simp)

theorem settles_txnRead (h : Hub) (hs : Nat) (r : MemRead) (tid : Byte) (d : Payload) (own : Bool) : h.Settles (h.txnRead hs r tid d own) := by
  cases served : h.readTxn hs r tid with
  | none =>
    rw [Hub.txnRead, served]
    exact settles_orphanRead ..
  | some x =>
    rw [txnRead_open served]
    exact ((settles_onTxn ..).trans (settles_settle ..)).trans (settles_txnFill ..)

/-! ### A transaction that waits for answers -/

/-- While answers of its agents are missing, data does not settle a transaction. -/
theorem settle_awaits {h : Hub} {hs : Nat} {tid : Byte} {x : Txn} (found : h.txn hs tid = some x) (awaits : AwaitsAnswers x)
    (sourced : x.gate.prep.isSome = true) : h.settle hs tid = h := by
  obtain ⟨looked, local_, views, unjudged, waits⟩ := awaits
  have prepared : h.fillPrep hs tid = h := by simp [Hub.fillPrep, found, sourced]
  have judged : h.judge hs tid = h := by simp [Hub.judge, found, looked, unjudged, waits]
  have rebuilt : h.rebuildHub hs tid = h := by simp [Hub.rebuildHub, found, views]
  have based : h.settleBase hs tid = h := by simp [Hub.settleBase, found, Txn.basesIn, unjudged]
  have closed : h.tryClose hs tid = h := by simp [Hub.tryClose, found, Txn.closable, Txn.served, unjudged]
  simp [Hub.settle, prepared, judged, rebuilt, based, found, looked, local_, Txn.gateReady, unjudged, closed]

/-! ### A transaction that waits for its data alone -/

theorem choose_none {g : Gate} (empty : g.choose = none) :
    g.fwd = none ∧ g.wbGate = none ∧ g.cross = none ∧ g.spanData = none ∧ g.homeData = none ∧ g.prep = none := by
  unfold Gate.choose at empty
  split at empty
  · cases empty
  · split at empty
    · cases empty
    · next gate =>
      split at empty
      · cases empty
      · split at empty
        · cases empty
        · rw [Option.or_eq_none_iff] at gate
          simp_all

/-- Data that comes where nothing else has come is chosen. -/
theorem choose_prep {x : Txn} (empty : x.gate.choose = none) (d : Payload) :
    (x.dataRead d).gate.choose = some ({ d with dirty := false }, false, x.gate.prepSrc) := by
  obtain ⟨fwd, wbGate, cross, spanData, homeData, prep⟩ := choose_none empty
  simp [Txn.dataRead, Gate.choose, fwd, wbGate, cross, spanData, homeData, prep]

/-- The data of its read, the last thing missing, releases the gate of a transaction. -/
theorem settle_dataRead {h : Hub} {hs : Nat} {tid : Byte} {x : Txn} (found : h.txn hs tid = some x) (awaits : AwaitsData x) (d : Payload) :
    (h.onTxn hs tid fun x => x.dataRead d).settle hs tid =
      ((h.onTxn hs tid fun x => x.dataRead d).release hs (x.dataRead d)).tryClose hs tid := by
  obtain ⟨looked, local_, here, views, live, kind, copies, base, judged, held, need, empty, acks, pull, span, gots⟩ := awaits
  have joined := txn_onTxn_self found (fun x => x.dataRead d) rfl
  have chosen := choose_prep empty d
  have sourced : (x.dataRead d).gate.prep.isSome = true := by
    simp [Txn.dataRead, (choose_none empty).2.2.2.2.2]
  generalize h.onTxn hs tid (fun x => x.dataRead d) = k at joined ⊢
  have prepared : k.fillPrep hs tid = k := by simp [Hub.fillPrep, joined, sourced]
  have judges : k.judge hs tid = k := by simp [Hub.judge, joined, Txn.dataRead, judged]
  have rebuilt : k.rebuildHub hs tid = k := by simp [Hub.rebuildHub, joined, Txn.dataRead, views]
  have based : k.settleBase hs tid = k := by simp [Hub.settleBase, joined, Txn.dataRead, base]
  have ready : (x.dataRead d).gateReady = true := by
    unfold Txn.gateReady
    extract_lets g early crossed
    simp [g, crossed, early, chosen]
    simp [Txn.dataRead, judged, here, gots, span, acks, pull, kind, Decidable.or_iff_not_imp_left]
    exact copies
  have unreleased : (x.dataRead d).gate.released = false := held
  have local' : (x.dataRead d).req.span = false := local_
  have looked' : (x.dataRead d).phase = .looked := looked
  simp [Hub.settle, prepared, judges, rebuilt, based, joined, looked', local', ready, unreleased]

/-- What goes out then: the data, and the completion with its grant. -/
theorem settle_dataRead_sends {h : Hub} {hs : Nat} {tid : Byte} {x : Txn} (found : h.txn hs tid = some x) (awaits : AwaitsData x)
    (heard : hears h x.req.gaid.la) (d : Payload) :
    h.out ++ [.agent (h.agent x.req.gaid.la).port (x.datMsg { d with dirty := false } false),
      .agent (h.agent x.req.gaid.la).port { agentMsg opCmp x.req.gaid x.req.txid x.req.line x.req.gaid.la with
        grant := if x.req.op.isOwn then gE else x.gate.grant
        outcome := x.gate.finalOutcome x.req.op }] <+: ((h.onTxn hs tid fun x => x.dataRead d).settle hs tid).out := by
  have chosen := choose_prep awaits.empty d
  have sends := release_sends (h := h.onTxn hs tid fun x => x.dataRead d) (hs := hs) (t := x.dataRead d) awaits.here awaits.live awaits.need
    chosen heard
  have grant : (x.dataRead d).gate.finalGrant x.req.op = if x.req.op.isOwn then gE else x.gate.grant := by
    have need : (x.dataRead d).gate.need = true := awaits.need
    unfold Gate.finalGrant
    rw [chosen, need, Bool.and_true]
    rfl
  have cmp : (x.dataRead d).cmpMsg = { agentMsg opCmp x.req.gaid x.req.txid x.req.line x.req.gaid.la with
      grant := if x.req.op.isOwn then gE else x.gate.grant
      outcome := x.gate.finalOutcome x.req.op } := by
    rw [← grant]
    rfl
  rw [settle_dataRead found awaits, ← cmp]
  exact sends ▸ (calm_tryClose ..).out

/-! ### The commands -/

/-- A hub that has taken a read's data at its slice, after what follows for the pressure of its channel. -/
def Hub.pressed (h : Hub) (r : MemRead) : Hub := h.checkPressure r.ch.toNat

theorem onlyIn_pressed {ps : List Part} {s : State} {k : Hub} (H : onlyIn ps s { s with hub := k }) (r : MemRead) :
    onlyIn (ps ++ [.chans, .notices]) s { s with hub := k.pressed r } :=
  onlyIn_trans (onlyIn_mono (fun _ => List.mem_append_left _) H)
    (onlyIn_mono (fun _ => List.mem_append_right _) (onlyIn_checkPressure s k r.ch.toNat))

/-- The hub after `MEM_DAT` of a read that a transaction waits for. -/
def Hub.dataCame (h : Hub) (r : MemRead) (tid : Byte) (d : MeshData) : Hub :=
  (((h.readEnded r).txnRead (h.hsOf r.ls) r tid (meshLine d) false).meshUe (h.hsOf r.ls) r.line d.ue).pressed r

theorem memDat_row {s : State} {mp : BitVec 3} {mtag : Txid} {d : MeshData} {r : MemRead} {tid : Byte}
    (found : s.hub.readOf mp.toNat mtag = some r) (quiet : quietMailboxes s.hub) (sound : d.line.sound = true)
    (kept : ∀ c, portOfChan c = mp.toNat → (s.hub.chan c).lost.contains mtag = false) (sent : r.sent = true) (bare : r.held = none)
    (who : r.who = .txn tid) (normal : r.spec = false) (open_ : r.dec ≠ .cancelled) (plain : r.lk = false)
    (up : d.line.poison = false ∨ (s.hub.chan r.ch.toNat).down = false) :
    exec (.memDat mp mtag d) s = .next { s with hub := s.hub.dataCame r tid d } := by
  refine congrArg Host.Outcome.next ?_
  have value : (s.hub.readDone r (meshLine d) false) = (s.hub.readEnded r).txnRead (s.hub.hsOf r.ls) r tid (meshLine d) false :=
    readDone_txn who open_ plain ..
  have settles := (settles_txnRead (s.hub.readEnded r) (s.hub.hsOf r.ls) r tid (meshLine d) false).apart
  have ended := (readEnded_parts s.hub r).1
  have all := ended.trans settles
  refine withHubR_quiet (k := s.hub.dataCame r tid d) ?_ quiet ?_ ?_
  · have none : ((upTo 16).find? fun c => portOfChan c = mp.toNat && (s.hub.chan c).lost.contains mtag) = none := by
      rw [List.find?_eq_none]
      intro c _ on
      simp only [Bool.and_eq_true, decide_eq_true_eq] at on
      rw [kept c on.1] at on
      exact Bool.noConfusion on.2
    have steady : (d.line.poison && (s.hub.chan r.ch.toNat).down) = false := by
      rcases up with clean | on
      · rw [clean, Bool.false_and]
      · rw [on, Bool.and_false]
    have there : (r.who == .mirror true) = false := by rw [who]; rfl
    simp only [sound, none, found, sent, bare, there, normal, steady, value, Hub.dataCame, Hub.pressed, Bool.not_true, Bool.false_eq_true,
      if_false, Bool.false_and, Option.isSome_none, Bool.or_false]
  · simp [Hub.dataCame, Hub.pressed, all]
  · simp [Hub.dataCame, Hub.pressed, all]

theorem settles_meshUe (h : Hub) (hs inst : Nat) (l : Line) (ue : BitVec 8) : h.Settles (h.meshUe inst l ue) :=
  (caches_meshUe h hs inst l ue).settles (by simp) (by simp)

theorem meshUe_raises (h : Hub) (inst : Nat) (l : Line) {ue : BitVec 8} (broken : ue ≠ 0) : raised (h.meshUe inst l ue) evHubDataUe := by
  rw [Hub.meshUe, if_neg broken]
  exact raised_raise h (rzLine evHubDataUe inst l)

theorem calm_pressed (h : Hub) (r : MemRead) : h.Calm (h.pressed r) := calm_checkPressure ..

theorem readOf_pressed (h : Hub) (r : MemRead) (mp : Nat) (t : Txid) : (h.pressed r).readOf mp t = h.readOf mp t := by
  simp [Hub.readOf, Hub.pressed]

theorem dataCame_raises (h : Hub) (r : MemRead) (tid : Byte) {d : MeshData} (broken : d.ue ≠ 0) : raised (h.dataCame r tid d) evHubDataUe :=
  (calm_pressed ..).raised _ (meshUe_raises _ _ _ broken)

/-- What the end of a read with data for its transaction keeps. -/
theorem readTaken_settles (h : Hub) (r : MemRead) (tid : Byte) (d : MeshData) :
    (h.readEnded r).Settles (((h.readEnded r).txnRead (h.hsOf r.ls) r tid (meshLine d) false).meshUe (h.hsOf r.ls) r.line d.ue) :=
  (settles_txnRead ..).trans (settles_meshUe _ (h.hsOf r.ls) ..)

theorem dataCame_over {h : Hub} {mp : Nat} {mtag : Txid} {r : MemRead} (found : h.readOf mp mtag = some r) (tid : Byte) (d : MeshData) :
    (h.dataCame r tid d).readOf mp mtag = none := by
  refine (readOf_pressed ..).trans (readOf_ended found ?_)
  exact (readTaken_settles h r tid d).reads.trans (freshReads_congr (readEnded_parts h r).2)

theorem readTxn_iff {h : Hub} {hs : Nat} {r : MemRead} {tid : Byte} {x : Txn} :
    h.readTxn hs r tid = some x ↔ h.txn hs tid = some x ∧ x.req.line = r.line ∧ x.memRead = true := by
  unfold Hub.readTxn
  split
  · next t found =>
    rw [found]
    constructor
    · intro same
      split at same
      · next on => cases same; simpa using on
      · cases same
    · rintro ⟨same, on⟩
      cases same
      simp [on]
  · next none => simp [none]

theorem readTxn_readEnded {h : Hub} {hs : Nat} {r : MemRead} {tid : Byte} : (h.readEnded r).readTxn hs r tid = h.readTxn hs r tid := by
  simp [Hub.readTxn, Hub.txn, Hub.slice, Hub.readEnded, Hub.dropRead]

/-! ### Data for a transaction that waits for answers -/

/-- Where answers are missing, the data is prepared and goes to the caches. -/
theorem txnRead_awaits {h : Hub} {hs : Nat} {r : MemRead} {tid : Byte} {x : Txn} (served : h.readTxn hs r tid = some x)
    (awaits : AwaitsAnswers x) (d : Payload) (own : Bool) :
    h.txnRead hs r tid d own = (h.onTxn hs tid fun x => x.dataRead d).txnFill hs r x d own := by
  have found := (readTxn_iff.1 served).1
  have still : AwaitsAnswers (x.dataRead d) :=
    ⟨awaits.looked, awaits.local_, awaits.views, awaits.unjudged, awaits.waits⟩
  rw [txnRead_open served, settle_awaits (txn_onTxn_self found (fun x => x.dataRead d) rfl) still]
  simp [Txn.dataRead]

theorem onlyIn_prepared (s : State) (r : MemRead) (tid : Byte) (x : Txn) (d : MeshData) :
    onlyIn ([Part.slices, .reads] ++ eventParts) s { s with hub :=
      ((((s.hub.readEnded r).onTxn (s.hub.hsOf r.ls) tid fun x => x.dataRead (meshLine d)).txnFill (s.hub.hsOf r.ls) r x (meshLine d)
        false).meshUe (s.hub.hsOf r.ls) r.line d.ue) } := by
  intro q hq
  cases q <;> simp [eventParts] at hq <;> simp [Part.same, Hub.readEnded, Hub.dropRead]

theorem caches_prepared (h : Hub) (hs : Nat) (r : MemRead) (x : Txn) (d : MeshData) :
    Hub.Caches hs h ((h.txnFill hs r x (meshLine d) false).meshUe hs r.line d.ue) :=
  (caches_txnFill ..).trans (caches_meshUe ..)

theorem txn_congr {h k : Hub} {hs : Nat} (txns : (k.slice hs).txns = (h.slice hs).txns) (tid : Byte) : k.txn hs tid = h.txn hs tid := by
  rw [Hub.txn, txns, Hub.txn]

theorem memDat_prepared {s : State} {r : MemRead} {tid : Byte} {x : Txn}
    (served : s.hub.readTxn (s.hub.hsOf r.ls) r tid = some x) (awaits : AwaitsAnswers x)
    (d : MeshData) :
    onlyIn ([Part.slices, .reads, .chans] ++ eventParts) s { s with hub := s.hub.dataCame r tid d } ∧
      otherArrays s.hub (s.hub.dataCame r tid d) (s.hub.hsOf r.ls) ∧
      (s.hub.dataCame r tid d).txn (s.hub.hsOf r.ls) tid = some (x.dataRead (meshLine d)) := by
  have shape : s.hub.dataCame r tid d =
      ((((s.hub.readEnded r).onTxn (s.hub.hsOf r.ls) tid fun x => x.dataRead (meshLine d)).txnFill (s.hub.hsOf r.ls) r x (meshLine d)
        false).meshUe (s.hub.hsOf r.ls) r.line d.ue).pressed r := by
    rw [Hub.dataCame, txnRead_awaits (readTxn_readEnded.trans served) awaits]
  have frame := onlyIn_prepared s r tid x d
  have cached := caches_prepared ((s.hub.readEnded r).onTxn (s.hub.hsOf r.ls) tid fun x => x.dataRead (meshLine d)) (s.hub.hsOf r.ls) r x d
  have slices : (s.hub.readEnded r).slices = s.hub.slices := by simp [Hub.readEnded, Hub.dropRead]
  have begun : (s.hub.readEnded r).txn (s.hub.hsOf r.ls) tid = some x := by
    rw [txn_congr (h := s.hub) (by rw [Hub.slice, slices, Hub.slice])]
    exact (readTxn_iff.1 served).1
  have joined := txn_onTxn_self begun (fun x => x.dataRead (meshLine d)) rfl
  rw [shape]
  generalize Hub.meshUe _ _ _ _ = k at frame cached ⊢
  refine ⟨onlyIn_mono (by decide) (onlyIn_pressed frame r), ?others, ?txn⟩
  case others =>
    intro m other mirror
    have newt : ((s.hub.readEnded r).onTxn (s.hub.hsOf r.ls) tid fun x => x.dataRead (meshLine d)).rot.newt = s.hub.rot.newt := by
      simp [Hub.readEnded, Hub.dropRead]
    calc (k.pressed r).slice m = k.slice m := by simp [Hub.slice, Hub.pressed]
      _ = ((s.hub.readEnded r).onTxn (s.hub.hsOf r.ls) tid fun x => x.dataRead (meshLine d)).slice m := cached.others m other (newt ▸ mirror)
      _ = (s.hub.readEnded r).slice m := Hub.slice_onSlice_ne _ _ _ _ other
      _ = s.hub.slice m := by rw [Hub.slice, slices, Hub.slice]
  case txn =>
    rw [txn_congr (h := k) (by simp [Hub.slice, Hub.pressed]), txn_congr (cached.slice _).txns]
    exact joined

/-! ### Data that completes its transaction -/

theorem memDat_completes {s : State} {r : MemRead} {tid : Byte} {x : Txn}
    (served : s.hub.readTxn (s.hub.hsOf r.ls) r tid = some x) (awaits : AwaitsData x)
    (heard : hears s.hub x.req.gaid.la) (d : MeshData) :
    s.hub.out ++ [.agent (s.hub.agent x.req.gaid.la).port (x.datMsg { meshLine d with dirty := false } false),
      .agent (s.hub.agent x.req.gaid.la).port { agentMsg opCmp x.req.gaid x.req.txid x.req.line x.req.gaid.la with
        grant := if x.req.op.isOwn then gE else x.gate.grant
        outcome := x.gate.finalOutcome x.req.op }] <+: (s.hub.dataCame r tid d).out := by
  have ended : (s.hub.readEnded r).agents = s.hub.agents ∧ (s.hub.readEnded r).aps = s.hub.aps ∧ (s.hub.readEnded r).out = s.hub.out := by
    simp [Hub.readEnded, Hub.dropRead]
  obtain ⟨agents, aps, out⟩ := ended
  have opened := readTxn_readEnded.trans served
  have sends := settle_dataRead_sends (readTxn_iff.1 opened).1 awaits (hears_congr agents aps heard) (meshLine d)
  have agent : (s.hub.readEnded r).agent x.req.gaid.la = s.hub.agent x.req.gaid.la := by rw [Hub.agent, agents, Hub.agent]
  rw [agent, out] at sends
  unfold Hub.dataCame
  rw [txnRead_open opened]
  exact sends.trans (((settles_txnFill ..).trans (settles_meshUe _ (s.hub.hsOf r.ls) ..)).calm.trans (calm_pressed ..)).out

theorem onlyIn_dataCame (s : State) (r : MemRead) (tid : Byte) (d : MeshData) :
    onlyIn (answerParts ++ [.chans, .notices]) s { s with hub := s.hub.dataCame r tid d } :=
  onlyIn_pressed (onlyIn_answer ((readEnded_parts s.hub r).1.trans (readTaken_settles s.hub r tid d).apart)) r

/-! ### Reads whose data does not come (R273) -/

theorem readLate_row {s : State} {mp : BitVec 3} {mtag : Txid} {r : MemRead} {n : Nat} (found : s.hub.readOf mp.toNat mtag = some r)
    (pres : r.pres = some n) (due : n + s.hub.bound mp.toNat ≤ s.hub.round) (fresh : r.late = false) (own : r.who ≠ .mirror true) :
    exec (.readLate mp mtag) s = .next { s with
      hub := (s.hub.onRead r fun x => { x with late := true }).raise (rzLine evMpReadLate mp.toNat r.line) } := by
  refine congrArg (fun h => Host.Outcome.next { s with hub := h }) ?_
  simp [found, pres, due, fresh, own]

theorem readOf_onRead {h : Hub} {mp : Nat} {t : Txid} {r : MemRead} (found : h.readOf mp t = some r) (f : MemRead → MemRead)
    (kept : ∀ x, (f x).ch = x.ch ∧ (f x).mtag = x.mtag) : (h.onRead r f).readOf mp t = some (f r) := by
  obtain ⟨port, tag⟩ := readOf_found found
  exact find?_mapIf_self found (by simp) fun x _ => by simp [kept x]

/-- The hub in which a read is lost, before its slice has the poisoned line. -/
def Hub.readGone (h : Hub) (r : MemRead) (mp : BitVec 3) (mtag : Txid) : Hub :=
  let k := ({ h with freeCtr := h.freeCtr + 1 }).raise (rzLine evMpReadLost mp.toNat r.line)
  if r.sent then k.onChan r.ch.toNat fun x => { x with lost := x.lost ++ [mtag] } else k

/-- The poisoned line that the edge router returns itself. -/
def Hub.lostLine (h : Hub) : Payload := payload (Config.freeLine h.freeCtr) false true

theorem readLost_row {s : State} {mp : BitVec 3} {mtag : Txid} {r : MemRead} {n : Nat} {tid : Byte}
    (found : s.hub.readOf mp.toNat mtag = some r) (quiet : quietMailboxes s.hub) (pres : r.pres = some n)
    (due : n + 2 * s.hub.bound mp.toNat ≤ s.hub.round) (who : r.who = .txn tid) (open_ : r.dec ≠ .cancelled) (plain : r.lk = false) :
    exec (.readLost mp mtag) s = .next { s with
      hub := (((s.hub.readGone r mp mtag).readEnded r).txnRead ((s.hub.readGone r mp mtag).hsOf r.ls) r tid s.hub.lostLine true).pressed r } := by
  refine congrArg Host.Outcome.next ?_
  have value := readDone_txn who open_ plain (s.hub.readGone r mp mtag) s.hub.lostLine true
  have gone : (s.hub.readGone r mp mtag).mbx = s.hub.mbx ∧ (s.hub.readGone r mp mtag).core = s.hub.core := by
    unfold Hub.readGone
    dsimp only
    split <;> simp
  have all := (readEnded_parts (s.hub.readGone r mp mtag) r).1.trans
    (settles_txnRead ((s.hub.readGone r mp mtag).readEnded r) ((s.hub.readGone r mp mtag).hsOf r.ls) r tid s.hub.lostLine true).apart
  refine withHubR_quiet ?_ quiet (by simp [Hub.pressed, all, gone]) (by simp [Hub.pressed, all, gone])
  rw [← value]
  simp only [found, pres, due, decide_true, who]
  rfl

theorem readGone_parts (h : Hub) (r : MemRead) (mp : BitVec 3) (mtag : Txid) : (h.readGone r mp mtag).reads = h.reads := by
  unfold Hub.readGone
  dsimp only
  split <;> simp

theorem onlyIn_readGone (s : State) (r : MemRead) (mp : BitVec 3) (mtag : Txid) :
    onlyIn ([Part.chans] ++ eventParts) s { s with hub := s.hub.readGone r mp mtag } := by
  intro q hq
  cases q <;> simp [eventParts] at hq <;> unfold Hub.readGone <;> dsimp only <;> split <;> simp [Part.same]

theorem readGone_raises (h : Hub) (r : MemRead) (mp : BitVec 3) (mtag : Txid) : raised (h.readGone r mp mtag) evMpReadLost := by
  have up := raised_raise { h with freeCtr := h.freeCtr + 1 } (rzLine evMpReadLost mp.toNat r.line)
  unfold Hub.readGone
  dsimp only
  split
  · exact up
  · exact up

/-- The tag of a read that was sent is kept back. -/
theorem readGone_keeps (h : Hub) {r : MemRead} (sent : r.sent = true) (mp : BitVec 3) (mtag : Txid) :
    ((h.readGone r mp mtag).chan r.ch.toNat).lost = (h.chan r.ch.toNat).lost ++ [mtag] := by
  simp [Hub.readGone, sent, Hub.chan, Hub.onChan]

/-- Settles O21: the data joins the gate of its transaction, or is the last thing that the gate waits for. -/
theorem readDataReachesItsTransaction : Obligations.ReadDataReachesItsTransaction := by
  unfold Obligations.ReadDataReachesItsTransaction
  intro s mp mtag d r tid x n found
  refine ⟨fun quiet sound kept sent bare who normal open_ plain up served => ?data, fun pres due fresh own => ?late,
    fun quiet pres due ⟨tid, who⟩ open_ plain => ?lost⟩
  case data =>
    have row := memDat_row found quiet sound kept sent bare who normal open_ plain up
    constructor
    · intro awaits
      obtain ⟨frame, others, txn⟩ := memDat_prepared served awaits d
      exact ⟨_, row, frame, others, dataCame_over found tid d, dataCame_raises s.hub r tid, _, txn, rfl⟩
    · intro awaits heard
      obtain ⟨rest, out⟩ := memDat_completes served awaits heard d
      exact ⟨_, row, onlyIn_mono (by decide) (onlyIn_dataCame s r tid d), dataCame_over found tid d, dataCame_raises s.hub r tid, rest, out.symm⟩
  case late =>
    refine ⟨_, readLate_row found pres due fresh own, ?_, raised_raise _ (rzLine evMpReadLate mp.toNat r.line), ?_⟩
    · intro q hq
      cases q <;> simp [eventParts] at hq <;> simp [Part.same, Hub.onRead]
    · exact (congrArg (List.find? _) (by simp)).trans (readOf_onRead found (fun x => { x with late := true }) fun x => ⟨rfl, rfl⟩)
  case lost =>
    have row := readLost_row found quiet pres due who open_ plain
    have settles := settles_txnRead ((s.hub.readGone r mp mtag).readEnded r) ((s.hub.readGone r mp mtag).hsOf r.ls) r tid s.hub.lostLine true
    have ended := readEnded_parts (s.hub.readGone r mp mtag) r
    have frame := onlyIn_pressed (onlyIn_answer (s := { s with hub := s.hub.readGone r mp mtag }) (ended.1.trans settles.apart)) r
    have calm := ((calm_readEnded ..).trans settles.calm).trans (calm_pressed _ r)
    refine ⟨_, row, ?_, calm.raised _ (readGone_raises ..), ?_, fun sent => ?_⟩
    · exact onlyIn_trans (onlyIn_mono (by decide) (onlyIn_readGone s r mp mtag)) (onlyIn_mono (by decide) frame)
    · refine (readOf_pressed ..).trans (readOf_ended found ?_)
      exact settles.reads.trans (freshReads_congr (by rw [ended.2, Hub.dropRead, readGone_parts, Hub.dropRead]))
    · have chans := (ended.1.trans settles.apart).chans
      refine (chan_checkPressure ..).trans (Eq.trans ?_ (readGone_keeps s.hub sent mp mtag))
      rw [Hub.chan, chans, Hub.chan]

end Sys2Proof.Machine
end

section
/-!
SUPPORT. What answers, notices and the data of reads never add: a transaction, a request that waits for a ticket, or data that an edge router has
staged; with it that they take back nothing that was sent or raised, and what they do not touch.
-/
namespace Sys2Proof.Machine
open Sys2Proof.Safety

/-- Two hubs agree on all that neither a lookup nor the data of a read writes. -/
@[simp] abbrev Hub.sameStill (h k : Hub) : Prop :=
  (k.round = h.round ∧ k.pointer = h.pointer ∧ k.pins = h.pins ∧ k.start = h.start ∧ k.mirror = h.mirror ∧ k.master = h.master ∧
    k.map = h.map ∧ k.waitSnoops = h.waitSnoops ∧ k.epoch = h.epoch ∧ k.prot = h.prot) ∧
  Hub.sameRoutes h k ∧
  (k.chNotes = h.chNotes ∧ k.routeAcks = h.routeAcks ∧ k.slots = h.slots ∧ k.core = h.core ∧ k.mbx = h.mbx ∧ k.spanBacks = h.spanBacks)

theorem Hub.sameStill.trans {h k m : Hub} (first : Hub.sameStill h k) (second : Hub.sameStill k m) : Hub.sameStill h m := by
  simp only [Hub.sameStill, Hub.sameRoutes] at first second ⊢
  simp only [first, second, and_self]

theorem Hub.sameApart.still {h k : Hub} (H : Hub.sameApart h k) : Hub.sameStill h k := by simp [H]

/-- A slice without new transactions and without new requests that wait for a ticket. -/
structure Slice.Shrinks (a b : Slice) : Prop where
  txns : ∀ tid, (∀ t ∈ a.txns, t.tid ≠ tid) → ∀ t ∈ b.txns, t.tid ≠ tid
  refused : ∀ p ∈ b.refused, p ∈ a.refused

theorem Slice.Shrinks.refl (a : Slice) : a.Shrinks a := ⟨fun _ none => none, fun _ mem => mem⟩

theorem Slice.Shrinks.trans {a b c : Slice} (first : a.Shrinks b) (second : b.Shrinks c) : a.Shrinks c :=
  ⟨fun tid none => second.txns tid (first.txns tid none), fun p mem => first.refused p (second.refused p mem)⟩

theorem shrinks_of_eq {a b : Slice} (txns : b.txns = a.txns) (refused : b.refused = a.refused) : a.Shrinks b :=
  ⟨fun tid none => by rwa [txns], fun p mem => by rwa [← refused]⟩

theorem Slice.Steady.shrinks {a b : Slice} (H : a.Steady b) : a.Shrinks b :=
  ⟨fun _ none => H.absent none, fun p mem => by rwa [← show b.refused = a.refused from congrArg (fun s => s.refused) H.scant]⟩

/-- `k` is `h` after answers, notices or data: nothing sent or raised is taken back, nothing that waits is new, and the rest is as it was. -/
structure Hub.Eases (h k : Hub) : Prop extends Hub.Calm h k where
  slice : ∀ m, (h.slice m).Shrinks (k.slice m)
  staged : ∀ p, ∀ d ∈ (k.ap p).staged, d ∈ (h.ap p).staged
  still : Hub.sameStill h k

theorem Hub.Eases.refl (h : Hub) : h.Eases h := ⟨.refl h, fun _ => .refl _, fun _ _ mem => mem, by simp⟩

theorem Hub.Eases.trans {h k m : Hub} (first : h.Eases k) (second : k.Eases m) : h.Eases m :=
  ⟨first.toCalm.trans second.toCalm, fun n => (first.slice n).trans (second.slice n),
    fun p d mem => first.staged p d (second.staged p d mem), first.still.trans second.still⟩

theorem eases_foldl {α : Type} {g : Hub → α → Hub} (step : ∀ (h : Hub) x, h.Eases (g h x)) (l : List α) :
    ∀ h : Hub, h.Eases (l.foldl g h) := by
  induction l with
  | nil => exact .refl
  | cons x l ih => exact fun h => (step h x).trans (ih _)

/-- Of two ways to go on, each eases. -/
theorem eases_ite {h a b : Hub} {c : Prop} [Decidable c] (yes : h.Eases a) (no : h.Eases b) : h.Eases (if c then a else b) := by
  split
  · exact yes
  · exact no

/-! ### The parts of a hub -/

theorem Hub.Reported.staged {h k : Hub} (told : h.Reported k) (p : BitVec 4) : (k.ap p).staged = (h.ap p).staged :=
  congrArg (·.staged) (told.port p)

/-- What leaves the slices and has reported events. -/
theorem Hub.Reported.eases {h k : Hub} (told : h.Reported k) (slices : k.slices = h.slices) (still : Hub.sameStill h k) : h.Eases k :=
  ⟨told.toCalm, fun m => by rw [Hub.slice_congr k h m slices]; exact .refl _, fun p d mem => by rwa [← told.staged p], still⟩

/-- What leaves the slices and the ports. -/
theorem Hub.Calm.eases {h k : Hub} (calm : h.Calm k) (slices : k.slices = h.slices) (aps : k.aps = h.aps) (still : Hub.sameStill h k) :
    h.Eases k :=
  ⟨calm, fun m => by rw [Hub.slice_congr k h m slices]; exact .refl _, fun p d mem => by rwa [← Hub.ap_congr k h p aps], still⟩

theorem eases_of_eq {h k : Hub} (agents : k.agents = h.agents) (events : k.events = h.events) (out : k.out = h.out)
    (slices : k.slices = h.slices) (aps : k.aps = h.aps) (still : Hub.sameStill h k) : h.Eases k :=
  (Hub.Calm.of_eq agents events out).eases slices aps still

/-- What keeps up the lines of a slice. -/
theorem Hub.Steadies.eases {hs : Nat} {h k : Hub} (H : Hub.Steadies hs h k) (still : Hub.sameStill h k) : h.Eases k :=
  ⟨H.calm, fun m => (H.slice m).shrinks, fun p d mem => by rwa [← H.told.staged p], still⟩

theorem eases_onSlice (h : Hub) (hs : Nat) (f : Slice → Slice) (H : (h.slice hs).Shrinks (f (h.slice hs))) : h.Eases (h.onSlice hs f) := by
  refine ⟨calm_onSlice .., fun m => ?_, fun p d mem => mem, by simp⟩
  rw [Hub.slice_onSlice]
  split
  · next own => exact own ▸ H
  · exact .refl _

theorem eases_onTxn (h : Hub) (hs : Nat) (tid : Byte) (f : Txn → Txn) (kept : ∀ t, (f t).tid = t.tid) : h.Eases (h.onTxn hs tid f) := by
  refine eases_onSlice h hs _ ⟨fun n none t mem => ?_, fun _ mem => mem⟩
  obtain ⟨u, there, rfl⟩ := List.mem_map.1 mem
  dsimp only
  split
  · rw [kept]
    exact none u there
  · exact none u there

theorem eases_onAp (h : Hub) (p : BitVec 4) (f : ApPort → ApPort) (kept : ∀ d ∈ (f (h.ap p)).staged, d ∈ (h.ap p).staged) :
    h.Eases (h.onAp p f) := by
  refine ⟨calm_onAp .., fun _ => .refl _, fun q d mem => ?_, by simp⟩
  by_cases own : q = p
  · subst own
    rw [Hub.ap_onAp_self] at mem
    exact kept d mem
  · rwa [Hub.ap_onAp_ne _ _ _ _ own] at mem

theorem eases_raise (h : Hub) (r : Raise) : h.Eases (h.raise r) := (reported_raise h r).eases (by simp) (by simp)
theorem eases_count (h : Hub) (ev unit n : Nat) : h.Eases (h.count ev unit n) := (reported_count h ev unit n).eases (by simp) (by simp)
theorem eases_moved (h : Hub) (src dst : Nat) (data : Bool) (n : Nat) : h.Eases (h.moved src dst data n) :=
  (calm_moved ..).eases (by simp) (by simp) (by simp)
theorem eases_onWb (h : Hub) (hs : Nat) (l : Line) (f : WbLine → WbLine) : h.Eases (h.onWb hs l f) :=
  (steadies_onWb ..).eases (by simp)

theorem eases_onMirrored (h : Hub) (hs grp : Nat) (f : Slice → Slice) (H : ∀ a, Slice.Shrinks a (f a)) : h.Eases (h.onMirrored hs grp f) := by
  unfold Hub.onMirrored
  split
  · exact (eases_onSlice _ _ _ (H _)).trans (eases_onSlice _ _ _ (H _))
  · exact eases_onSlice _ _ _ (H _)

/-! ### Filters and directories -/

theorem eases_putSf (h : Hub) (hs : Nat) (set : BitVec 14) (way : Nat) (w : Word) : h.Eases (h.putSf hs set way w) :=
  ((keeps_putSf ..).steadies).eases (by simp)

theorem eases_putEntry (h : Hub) (hs : Nat) (l : Line) (w : Nat) (v : SView) : h.Eases (h.putEntry hs l w v) :=
  ((keeps_putEntry ..).steadies).eases (by simp)

theorem shrinks_putSd (s : Slice) (set : BitVec 12) (way : Nat) (w : Word) : s.Shrinks (s.putSd set way w) := by
  refine shrinks_of_eq ?_ ?_
  all_goals
    unfold Slice.putSd
    dsimp only
    split <;> split <;> rfl

theorem shrinks_queueSweep (s : Slice) (span : Bool) (set : BitVec 14) (way : Nat) : s.Shrinks (s.queueSweep span set way) := by
  unfold Slice.queueSweep
  dsimp only
  split
  · split
    · exact shrinks_of_eq rfl rfl
    · exact .refl s
  · exact shrinks_of_eq rfl rfl

theorem eases_putSd (h : Hub) (hs : Nat) (set : BitVec 12) (way : Nat) (w : Word) : h.Eases (h.putSd hs set way w) :=
  eases_onMirrored _ _ _ _ fun a => shrinks_putSd a set way w

theorem eases_putHub (h : Hub) (hs : Nat) (l : Line) (w : Nat) (v : HView) : h.Eases (h.putHub hs l w v) := by
  refine (eases_putSd ..).trans (eases_onSlice _ _ _ (Slice.Tended.steady (Slice.Tended.trans ?_ (tended_checkSdRun ..))).shrinks)
  split
  · exact tended_of_bare rfl rfl
  · exact (tended_dropHWay ..).trans (tended_serveHubClaims ..)

theorem eases_setHub (h : Hub) (hs : Nat) (l : Line) (v : HView) : h.Eases (h.setHub hs l v) := by
  unfold Hub.setHub
  split
  · exact eases_putHub ..
  · refine eases_ite (.refl h) ?_
    split
    · exact eases_putHub ..
    · exact .refl h

theorem eases_endExact (h : Hub) (hs : Nat) (l : Line) (w : Nat) : h.Eases (h.endExact hs l w) :=
  (eases_onSlice _ _ _ (shrinks_of_eq rfl rfl)).trans (eases_raise ..)

/-! ### Messages -/

theorem eases_passMsg (h : Hub) (p : BitVec 4) (src : Nat) (m : AgentMsg) : h.Eases (h.passMsg p src m) := by
  unfold Hub.passMsg
  extract_lets sent
  have sends : h.Eases sent := (eases_onAp _ _ _ fun _ mem => mem).trans ((calm_emit ..).eases rfl rfl (by simp [Hub.emit]))
  exact eases_ite sends (sends.trans (eases_moved ..))

theorem eases_passOrStall (h : Hub) (p : BitVec 4) (src : Nat) (m : AgentMsg) : h.Eases (h.passOrStall p src m).1 := by
  unfold Hub.passOrStall
  dsimp only
  split
  · exact eases_passMsg ..
  · exact eases_onAp _ _ _ fun _ mem => mem

theorem eases_toAgent (h : Hub) (src : Nat) (m : AgentMsg) : h.Eases (h.toAgent src m) := by
  unfold Hub.toAgent
  dsimp only
  exact eases_ite (.refl h) (eases_ite ((eases_passOrStall ..).trans (eases_raise ..)) (eases_passOrStall ..))

theorem eases_clearRefusal (h : Hub) (g : Gaid) (t : Txid) (l : Line) : h.Eases (h.clearRefusal g t l) :=
  (calm_clearRefusal ..).eases rfl rfl (by simp [Hub.clearRefusal])

theorem eases_endOutst (h : Hub) (p : BitVec 4) (g : Gaid) (t : Txid) : h.Eases (h.endOutst p g t) :=
  eases_onAp _ _ _ fun _ mem => List.mem_of_mem_filter mem

theorem eases_sendCmp (h : Hub) (src : Nat) (g : Gaid) (t : Txid) (l : Line) (grant : BitVec 3) (outcome : BitVec 2) :
    h.Eases (h.sendCmp src g t l grant outcome) :=
  ((eases_toAgent ..).trans (eases_endOutst ..)).trans (eases_clearRefusal ..)

theorem eases_toHub (h : Hub) (dest : HubNo) (opc : BitVec 6) (f : Flit) (d : Option Payload) (operand : Option (BitVec 256)) :
    h.Eases (h.toHub dest opc f d operand) := (calm_toHub ..).eases (by simp) (by simp) (by simp)

theorem eases_countRes (h : Hub) (ls : BitVec 6) (n : Nat) : h.Eases (h.countRes ls n) :=
  (calm_countRes ..).eases rfl rfl (by simp [Hub.countRes])

theorem eases_rsvDone (h : Hub) (r : Req) : h.Eases (h.rsvDone r) := (calm_rsvDone ..).eases rfl rfl (by simp [Hub.rsvDone])

/-! ### The write buffer -/

theorem eases_enterWb (h : Hub) (hs : Nat) (l : Line) (who : Entering) (home : Bool) (bytes : LineBits) (mask : ByteMask)
    (f : WbLine → WbLine) : h.Eases (h.enterWb hs l who home bytes mask f) := (steadies_enterWb ..).eases (by simp)
theorem eases_poisonMark (h : Hub) (hs : Nat) (l : Line) (home : Bool) : h.Eases (h.poisonMark hs l home) :=
  (steadies_poisonMark ..).eases (by simp)

theorem eases_proxyFlush (h : Hub) (hs : Nat) (l : Line) (gone : Bool) : h.Eases (h.proxyFlush hs l gone) := by
  unfold Hub.proxyFlush
  split
  · exact .refl h
  · split
    · exact .refl h
    · dsimp only
      split
      · split
        · exact eases_ite ((eases_onWb ..).trans (eases_toHub ..)) (.refl h)
        · exact (eases_onWb ..).trans (eases_toHub ..)
      · exact eases_ite (eases_toHub ..) (.refl h)

/-! ### The end of a transaction's answers (R59, R106, R112, R116) -/

theorem eases_endRsv (h : Hub) (hs : Nat) (tid : Byte) (l : Line) (g : Gaid) (t : Txid) (write : Bool) : h.Eases (h.endRsv hs tid l g t write) := by
  unfold Hub.endRsv
  extract_lets dropped others notes noted
  have drops : h.Eases dropped := eases_onSlice _ _ _ (shrinks_of_eq rfl rfl)
  have notes : dropped.Eases noted := eases_of_eq (h := dropped) (k := noted) rfl rfl rfl rfl rfl (by simp [noted])
  exact (drops.trans notes).trans (eases_onTxn _ _ _ _ fun _ => rfl)

theorem eases_lineLost (h : Hub) (hs : Nat) (t : Txn) (la : La) (n : Nat) : h.Eases (h.lineLost hs t la n) := by
  unfold Hub.lineLost
  extract_lets lost marked
  have marks : h.Eases marked := (eases_raise ..).trans (eases_onTxn _ _ _ _ fun _ => rfl)
  have counted : marked.Eases { marked with freeCtr := marked.freeCtr + 1 } :=
    eases_of_eq (h := marked) (k := { marked with freeCtr := marked.freeCtr + 1 }) rfl rfl rfl rfl rfl (by simp)
  exact eases_ite ((marks.trans (counted.trans (eases_enterWb ..))).trans (eases_onTxn _ _ _ _ fun _ => rfl)) (marks.trans (eases_poisonMark ..))

theorem eases_rebuild (h : Hub) (hs : Nat) (t : Txn) : h.Eases (h.rebuild hs t) := by
  unfold Hub.rebuild
  split
  case h_1 => exact .refl h
  case h_2 w _ =>
    extract_lets l exact_ dup ended emptied base v put
    have dups : h.Eases dup := (eases_putSf ..).trans
      (eases_onSlice _ _ _ ((tended_dropWay ..).steady.shrinks.trans (shrinks_queueSweep ..)))
    have ends : h.Eases ended := eases_ite (eases_endExact ..) (.refl h)
    have empties : ended.Eases emptied := eases_foldl (fun h _ => eases_ite (.refl h) (eases_putSf ..)) _ ended
    have puts : emptied.Eases put := eases_putEntry ..
    exact eases_ite (dups.trans (eases_raise ..)) (((ends.trans empties).trans puts).trans
      ((eases_onSlice _ _ _ (steady_unskip ..).shrinks).trans (eases_onTxn _ _ _ _ fun _ => rfl)))

theorem eases_judge (h : Hub) (hs : Nat) (tid : Byte) : h.Eases (h.judge hs tid) := by
  unfold Hub.judge
  split
  case h_1 => exact .refl h
  case h_2 t _ =>
    extract_lets g isDeg keeps alone judged lost ended
    have judges : h.Eases judged := eases_onTxn _ _ _ _ fun _ => rfl
    have loses : judged.Eases lost := by
      unfold lost
      split
      · exact eases_lineLost ..
      · exact .refl judged
    have ends : lost.Eases ended := eases_ite (eases_endRsv ..) (.refl lost)
    have all := judges.trans (loses.trans ends)
    clear_value isDeg ended
    exact eases_ite (.refl h) (eases_ite (all.trans (eases_rebuild ..)) all)

theorem eases_rebuildHub (h : Hub) (hs : Nat) (tid : Byte) : h.Eases (h.rebuildHub hs tid) := by
  unfold Hub.rebuildHub
  split
  · exact .refl h
  · split
    · exact .refl h
    · dsimp only
      refine eases_ite (.refl h) (Hub.Eases.trans (eases_foldl (fun h w => ?_) _ h)
        (((eases_setHub ..).trans (eases_onSlice _ _ _ (steady_unskipHub ..).shrinks)).trans (eases_onTxn _ _ _ _ fun _ => rfl)))
      exact eases_ite (.refl h) (eases_putSd ..)

theorem eases_fillPrep (h : Hub) (hs : Nat) (tid : Byte) : h.Eases (h.fillPrep hs tid) := by
  unfold Hub.fillPrep
  split
  · exact .refl h
  · split
    · exact .refl h
    · split
      · exact eases_ite (eases_onTxn _ _ _ _ fun _ => rfl) (.refl h)
      · exact .refl h

theorem eases_atomUnit (h : Hub) (hs : Nat) (t : Txn) (value : LineBits) (poison : Bool) : h.Eases (h.atomUnit hs t value poison) := by
  unfold Hub.atomUnit
  extract_lets r src done new entered
  have dones : ∀ (h : Hub) p, h.Eases (done h p) := fun _ _ => eases_onTxn _ _ _ _ fun _ => rfl
  exact eases_ite ((eases_raise ..).trans (dones ..)) (((eases_enterWb ..).trans (eases_enterWb ..)).trans (dones ..))

theorem eases_baseWritten (h : Hub) (hs : Nat) (t : Txn) : h.Eases (h.baseWritten hs t) := by
  unfold Hub.baseWritten
  extract_lets done
  have dones : ∀ (h : Hub), h.Eases (done h) := fun _ => eases_onTxn _ _ _ _ fun _ => rfl
  split
  · exact dones h
  · refine eases_ite (dones h) ?_
    split
    · exact (eases_enterWb ..).trans (dones _)
    · exact .refl h

theorem eases_settleBase (h : Hub) (hs : Nat) (tid : Byte) : h.Eases (h.settleBase hs tid) := by
  unfold Hub.settleBase
  split
  · exact .refl h
  · refine eases_ite (.refl h) (eases_ite (eases_ite (eases_baseWritten ..) (.refl h)) ?_)
    split
    · exact .refl h
    · exact eases_atomUnit ..

theorem eases_release (h : Hub) (hs : Nat) (t : Txn) : h.Eases (h.release hs t) := by
  unfold Hub.release
  extract_lets g r c src grant outcome marked ended sent noted
  clear_value c
  have marks : h.Eases marked := eases_onTxn _ _ _ _ fun _ => rfl
  have ends : marked.Eases ended := by
    refine eases_ite ?_ (.refl marked)
    split
    · exact eases_ite (eases_toHub ..) (.refl marked)
    · exact eases_onSlice _ _ _ (shrinks_of_eq rfl rfl)
  have sends : ended.Eases sent := by
    refine eases_ite ?_ (.refl ended)
    split
    · exact eases_toAgent ..
    · exact .refl ended
  have notes : sent.Eases noted := eases_ite (eases_rsvDone ..) (.refl sent)
  have begun := marks.trans ends
  refine eases_ite ?_ ((begun.trans (sends.trans notes)).trans ((eases_sendCmp ..).trans (eases_countRes ..)))
  split
  · exact eases_ite (begun.trans (eases_enterWb ..)) begun
  · exact begun

theorem eases_serveHub (h : Hub) (hs : Nat) (tid : Byte) : h.Eases (h.serveHub hs tid) := by
  unfold Hub.serveHub
  split
  case h_1 => exact .refl h
  case h_2 t _ =>
    extract_lets g r to_ cmpDue out dropped marked completed a answered released counted
    have drops : h.Eases dropped := eases_ite (eases_onSlice _ _ _ (shrinks_of_eq rfl rfl)) (.refl h)
    have marks : dropped.Eases marked := eases_onTxn _ _ _ _ fun _ => rfl
    have completes : h.Eases completed := eases_ite ((drops.trans marks).trans ((eases_toHub ..).trans (eases_clearRefusal ..))) (.refl h)
    have answers : completed.Eases answered := by
      refine eases_ite (Hub.Eases.trans ?_ (eases_toHub ..)) (.refl completed)
      exact eases_onTxn _ _ _ _ fun _ => rfl
    have releases : answered.Eases released := eases_onTxn _ _ _ _ fun _ => rfl
    have counts : answered.Eases counted := releases.trans (eases_countRes ..)
    have all := completes.trans answers
    refine eases_ite ?_ all
    split
    · exact eases_ite ((all.trans counts).trans (eases_toHub ..)) (all.trans counts)
    · exact all.trans counts

theorem eases_closeTxn (h : Hub) (hs : Nat) (t : Txn) (start : Option Nat) : h.Eases (h.closeTxn hs t start) := by
  have fixes : h.Eases (h.fixEntry hs t) := (steadies_fixEntry ..).eases (by simp)
  have closes : (h.fixEntry hs t).Eases ((h.fixEntry hs t).onSlice hs fun s => s.closed t ((h.fixEntry hs t).p 0x40) start) :=
    eases_onSlice _ _ _ ⟨fun _ none u mem => none u (List.mem_of_mem_filter mem), fun _ mem => mem⟩
  rw [closeTxn_eq]
  exact ((fixes.trans closes).trans ((steadies_afterClose ..).eases (by simp [Hub.afterClose]))).trans (eases_proxyFlush ..)

theorem eases_tryClose (h : Hub) (hs : Nat) (tid : Byte) : h.Eases (h.tryClose hs tid) := by
  unfold Hub.tryClose
  split
  · exact .refl h
  · dsimp only
    refine eases_ite (.refl h) (eases_ite (eases_closeTxn ..) ?_)
    split
    · exact eases_closeTxn ..
    · exact .refl h

theorem eases_settle (h : Hub) (hs : Nat) (tid : Byte) : h.Eases (h.settle hs tid) := by
  unfold Hub.settle
  extract_lets ready served
  have serves : ready.Eases served := by
    unfold served
    split
    · exact eases_ite (.refl ready) (eases_ite (eases_serveHub ..) (eases_ite (eases_release ..) (.refl ready)))
    · exact .refl ready
  exact (((((eases_fillPrep ..).trans (eases_judge ..)).trans (eases_rebuildHub ..)).trans (eases_settleBase ..)).trans serves).trans
    (eases_tryClose ..)

/-! ### The data of reads (R61, R111, R116, R121, R290, R299, R322) -/

theorem eases_chainFill (h : Hub) (hs : Nat) (l : Line) (d : LineBits) (poison : Bool) : h.Eases (h.chainFill hs l d poison) :=
  (caches_chainFill ..).steadies.eases (by simp)
theorem eases_fillDropped (h : Hub) (hs : Nat) (l : Line) : h.Eases (h.fillDropped hs l) := (caches_fillDropped ..).steadies.eases (by simp)
theorem eases_fillFrom (h : Hub) (hs : Nat) (r : MemRead) (kind : FillKind) (bytes : LineBits) (poison own : Bool) :
    h.Eases (h.fillFrom hs r kind bytes poison own) := (caches_fillFrom ..).steadies.eases (by simp)
theorem eases_putHc (h : Hub) (hs : Nat) (set : BitVec 10) (way : Nat) (w : Word) (b : LineBits) : h.Eases (h.putHc hs set way w b) :=
  (caches_putHc ..).steadies.eases (by simp)

theorem eases_orphanBase (h : Hub) (hs : Nat) (l : Line) (d : Payload) : h.Eases (h.orphanBase hs l d) := by
  unfold Hub.orphanBase
  split
  · exact .refl h
  · refine eases_ite (.refl h) ?_
    dsimp only
    split
    · exact (eases_enterWb ..).trans (eases_settle ..)
    · exact (eases_enterWb ..).trans (eases_onWb ..)

theorem eases_txnRead (h : Hub) (hs : Nat) (r : MemRead) (tid : Byte) (d : Payload) (own : Bool) : h.Eases (h.txnRead hs r tid d own) := by
  cases served : h.readTxn hs r tid with
  | none =>
    rw [Hub.txnRead, served]
    unfold Hub.orphanRead
    extract_lets based
    have bases : h.Eases based := eases_orphanBase ..
    dsimp only
    split
    · exact bases.trans (eases_fillFrom ..)
    · exact eases_ite (bases.trans (eases_chainFill ..)) bases
  | some x =>
    rw [txnRead_open served]
    have marks : h.Eases (h.onTxn hs tid fun x => x.dataRead d) := eases_onTxn _ _ _ _ fun _ => rfl
    exact (marks.trans (eases_settle ..)).trans ((caches_txnFill ..).steadies.eases (by simp))

theorem eases_toMem (h : Hub) (c : Nat) (opc : BitVec 6) (t : Txid) (l : Line) (crit : Bool) (data : Option (LineBits × Bool)) :
    h.Eases (h.toMem c opc t l crit data) := by
  refine Hub.Calm.eases ?_ (by simp) (by simp) (by simp)
  exact ⟨fun _ => rfl, fun _ => id, List.prefix_append ..⟩

theorem eases_sendWrite (h : Hub) (c : Nat) (opc : BitVec 6) (t : Txid) (l : Line) (bytes : LineBits) (poison : Bool) :
    h.Eases (h.sendWrite c opc t l bytes poison) := by
  unfold Hub.sendWrite
  extract_lets sent
  have sends : h.Eases sent := eases_toMem ..
  refine (sends.trans ?_).trans (eases_count ..)
  exact eases_of_eq rfl rfl rfl rfl rfl (by simp)

theorem eases_takeTag (h : Hub) (mp : Nat) : h.Eases (h.takeTag mp).2 :=
  eases_of_eq (by simp) (by simp) (by simp) (by simp) (by simp) (by simp)

theorem eases_lockedDone (h : Hub) (hs : Nat) (r : MemRead) (q : Req) (d : Payload) (own : Bool) : h.Eases (h.lockedDone hs r q d own) := by
  unfold Hub.lockedDone
  extract_lets raised new k sent resulted filled old
  have raises : h.Eases raised := eases_ite (eases_raise ..) (.refl h)
  have sends : raised.Eases sent := (eases_takeTag ..).trans (eases_sendWrite ..)
  have unlocks : sent.Eases (sent.onChan r.ch.toNat fun x => { x with lock := none }) :=
    eases_of_eq (h := sent) (k := sent.onChan r.ch.toNat fun x => { x with lock := none }) rfl rfl rfl rfl rfl (by simp)
  have results : sent.Eases resulted := unlocks.trans ((eases_enterWb ..).trans (eases_onWb ..))
  have fills : resulted.Eases filled := eases_fillFrom ..
  have all := raises.trans (sends.trans (results.trans fills))
  clear_value filled
  split
  · refine all.trans (Hub.Eases.trans ?_ (eases_settle ..))
    exact eases_onTxn _ _ _ _ fun _ => rfl
  · exact all

theorem eases_lockTake (h : Hub) (hs : Nat) (f : Fill) (w : BitVec 4) : h.Eases (h.lockTake hs f w) := by
  unfold Hub.lockTake
  extract_lets t f' filled
  have takes : h.Eases t.1 := (caches_takeVictim ..).steadies.eases (by simp)
  have fills : t.1.Eases filled := (caches_onFill ..).steadies.eases (by simp)
  exact eases_ite (eases_ite (takes.trans fills) ((takes.trans fills).trans ((caches_installFill ..).steadies.eases (by simp)))) (.refl h)

theorem eases_lockArrive (h : Hub) (hs : Nat) (l : Line) (w : BitVec 4) (mb : BitVec 3) (bytes : LineBits) (poison : Bool) :
    h.Eases (h.lockArrive hs l w mb bytes poison) := by
  unfold Hub.lockArrive
  extract_lets s t other moved f
  have moves : h.Eases moved := by
    unfold moved
    split
    · exact eases_putHc ..
    · exact .refl h
  refine eases_ite (.refl h) (eases_ite (eases_fillDropped ..) (moves.trans (Hub.Eases.trans ?_ (eases_lockTake ..))))
  exact eases_onSlice _ _ _ (shrinks_of_eq rfl rfl)

theorem eases_useGrant (h : Hub) (key i : Nat) : h.Eases (h.useGrant key i) :=
  eases_of_eq (h := h) (k := h.useGrant key i) rfl rfl rfl rfl rfl (by simp [Hub.useGrant])
theorem eases_useGrants (h : Hub) (l : List (Nat × Nat)) : h.Eases (h.useGrants l) := by
  unfold Hub.useGrants
  exact eases_foldl (fun h x => eases_useGrant h x.1 x.2) l h

theorem eases_mirrorCopy (h : Hub) (r : MemRead) (d : Payload) : h.Eases (h.mirrorCopy r d) := by
  unfold Hub.mirrorCopy
  extract_lets other need k sent
  have sends : h.Eases sent := ((eases_useGrants ..).trans (eases_takeTag ..)).trans (eases_sendWrite ..)
  exact eases_ite (sends.trans (eases_of_eq rfl rfl rfl rfl rfl (by simp))) (eases_of_eq rfl rfl rfl rfl rfl (by simp))

theorem eases_readDone (h : Hub) (r : MemRead) (d : Payload) (own : Bool) : h.Eases (h.readDone r d own) := by
  unfold Hub.readDone
  extract_lets hs ended
  have dropped : h.Eases (h.dropRead r) := eases_of_eq rfl rfl rfl rfl rfl (by simp [Hub.dropRead])
  have ends : h.Eases ended := dropped.trans (eases_moved ..)
  refine eases_ite ends (ends.trans ?_)
  clear_value ended
  split
  · exact eases_lockedDone ..
  · exact eases_txnRead ..
  · refine Hub.Eases.trans ?_ (eases_fillFrom ..)
    exact eases_onSlice _ _ _ (shrinks_of_eq rfl rfl)
  · exact eases_ite (.refl ended) (eases_chainFill ..)
  · exact eases_ite (eases_fillDropped ..) (eases_lockArrive ..)
  · exact eases_ite (.refl ended) (eases_mirrorCopy ..)

/-- The delivery of the lines that edge routers return (R279). -/
theorem eases_flushHeld (h : Hub) : h.Eases h.flushHeld := by
  refine eases_foldl (fun h r => ?_) _ h
  split
  · exact eases_readDone ..
  · exact .refl h

/-! ### Notices that waited for a lookup (R84, R128, R217) -/

theorem eases_ackWb (h : Hub) (p : BitVec 4) (hs : Nat) (la : La) (l : Line) (t : Txid) : h.Eases (h.ackWb p hs la l t) := by
  unfold Hub.ackWb
  refine eases_ite (eases_onAp _ _ _ fun _ mem => mem) ?_
  exact (eases_toAgent ..).trans (eases_onAp _ _ _ fun _ mem => List.mem_of_mem_filter mem)

theorem eases_noticeEntry (h : Hub) (p : BitVec 4) (hs : Nat) (la : La) (l : Line) (t : Txid) (dirty : Bool) :
    h.Eases (h.noticeEntry p hs la l t dirty) := by
  have removes : h.Eases (h.removeWriter hs l la) := (keeps_removeWriter ..).steadies.eases (by simp)
  exact (removes.trans (eases_ackWb ..)).trans (eases_proxyFlush ..)

theorem eases_hubNotice (h : Hub) (hs : Nat) (l : Line) (x : HubNo) (keep : Bool) : h.Eases (h.hubNotice hs l x keep) := by
  unfold Hub.hubNotice
  extract_lets s isReq
  split
  · exact eases_ite (.refl h) (eases_putHub ..)
  · exact .refl h

theorem eases_runWbWaits (h : Hub) (hs : Nat) (l : Line) : h.Eases (h.runWbWaits hs l) := by
  unfold Hub.runWbWaits
  extract_lets mine taken
  have takes : h.Eases taken := eases_onSlice _ _ _ (shrinks_of_eq rfl rfl)
  refine takes.trans (eases_foldl (fun h x => ?_) _ taken)
  split
  · exact eases_hubNotice ..
  · exact eases_noticeEntry ..

/-- Where no request of its line waits for a ticket, a lookup makes none. -/
theorem eases_ticketWaiting {h : Hub} {hs : Nat} {l : Line} (alone : ∀ q ∈ (h.slice hs).refused, q.req.line ≠ l) :
    h.Eases (h.ticketWaiting hs l) := by
  have none : ((h.slice hs).refused.filter fun p => p.req.line == l) = [] :=
    List.filter_eq_nil_iff.2 fun q mem => by simpa using alone q mem
  unfold Hub.ticketWaiting
  rw [none]
  exact eases_onSlice _ _ _ ⟨fun _ none => none, fun _ mem => List.mem_of_mem_filter mem⟩

end Sys2Proof.Machine
end

section
/-!
SUPPORT. The lookup of a request whose arrays read clean, and the conditional store that has no reservation (R97, R109, R122, R178).
-/
namespace Sys2Proof.Machine
open Sys2Proof.Safety

/-! ### Transactions through the upkeep of slices -/

theorem goes_find {tid : Byte} {y : Txn} (busy : ¬y.Waits) {a b : List Txn} (H : List.Forall₂ Txn.Goes a b)
    (found : a.find? (fun t => t.tid == tid) = some y) : b.find? (fun t => t.tid == tid) = some y := by
  induction H with
  | nil => cases found
  | @cons t u _ _ goes _ ih =>
    rw [List.find?_cons] at found ⊢
    rcases goes with rfl | ⟨waits, same, -⟩
    · split
      · next on => simpa [on] using found
      · next off => exact ih (by simpa [off] using found)
    · rw [same]
      split
      · next on =>
        rw [on] at found
        cases found
        exact absurd waits busy
      · next off => exact ih (by simpa [off] using found)

/-- The upkeep of its slice leaves a transaction that waits for no way and for no predecessor. -/
theorem steady_txn {h k : Hub} {hs : Nat} {tid : Byte} {y : Txn} (H : (h.slice hs).Steady (k.slice hs)) (busy : ¬y.Waits)
    (found : h.txn hs tid = some y) : k.txn hs tid = some y := goes_find busy H.txns found

theorem looked_busy {y : Txn} (looked : y.phase = .looked) : ¬y.Waits := by
  rintro (pred | way)
  · rw [looked] at pred
    cases pred
  · rw [looked] at way
    cases way

theorem txn_tid {h : Hub} {hs : Nat} {tid : Byte} {y : Txn} (found : h.txn hs tid = some y) : y.tid = tid := by
  simpa using List.find?_some found

/-- A transaction that closes is gone, whatever follows. -/
theorem closeTxn_gone (h : Hub) (hs : Nat) (t : Txn) (start : Option Nat) : (h.closeTxn hs t start).txn hs t.tid = none := by
  have after := ((steadies_afterClose ((h.fixEntry hs t).onSlice hs fun s => s.closed t ((h.fixEntry hs t).p 0x40) start) hs t).eases
    (by simp [Hub.afterClose])).trans (eases_proxyFlush _ hs t.req.line (t.view != .unc || t.gate.grant != 0))
  rw [closeTxn_eq]
  refine txn_none ((after.slice hs).txns t.tid ?_)
  rw [Hub.slice_onSlice_self]
  intro u mem
  simpa using (List.mem_filter.1 mem).2

theorem hearsCmp_congr {h k : Hub} {a : La} (agents : k.agents = h.agents)
    (credit : (k.ap (h.agent a).port).rspCred = (h.ap (h.agent a).port).rspCred)
    (stalled : (k.ap (h.agent a).port).stalled = (h.ap (h.agent a).port).stalled) (H : h.hearsCmp a) : k.hearsCmp a := by
  have agent : k.agent a = h.agent a := by rw [Hub.agent, agents, Hub.agent]
  exact ⟨by rw [agent, H.online], by rw [agent, H.alive], by rw [agent, credit]; exact H.credit, by rw [agent, stalled]; exact H.free⟩

/-! ### The command -/

/-- The hub after what waited for a lookup: notices, tickets, and lines that edge routers return. -/
def Hub.afterLookup (h : Hub) (hs : Nat) (l : Line) : Hub := ((h.runWbWaits hs l).ticketWaiting hs l).flushHeld

theorem readSd_clean {h : Hub} {hs : Nat} {l : Line} {e : LookupErr} (ue : e.sdUe = 0) (ce : e.sdCe = 0)
    (bad : (h.slice hs).badHubWays l.sdSet = 0) : h.readSd hs l e = h := by
  have none : waysOf 0#16 = [] := by decide
  simp [Hub.readSd, Hub.readSdSet, ue, ce, bad, countWays, none, Hub.corrected]

theorem reads_clean {h : Hub} {ls : BitVec 6} {l : Line} {e : LookupErr} (slot : l.ls = ls) (clean : cleanLookup h l e) :
    ((h.readSf (h.hsOf ls) l e true).readSd (h.hsOf ls) l e).readHc (h.hsOf ls) l e = h := by
  obtain ⟨⟨sfUe, sfCe, nru, sfBad⟩, sdUe, sdCe, sdBad, tagUe, tagCe, dataUe, dataCe, agePar, hcBad⟩ := clean
  rw [← slot]
  change ((h.readSf (h.homeHs l) l e true).readSd (h.homeHs l) l e).readHc (h.homeHs l) l e = h
  rw [readSf_clean sfUe sfCe nru sfBad, readSd_clean sdUe sdCe sdBad, readHc_clean tagUe tagCe dataUe dataCe agePar hcBad]

section
variable {s : State} {ls : BitVec 6} {tid : Byte} {e : LookupErr} {x : Txn} (due : LookupDue s.hub ls tid x)
  (clean : cleanLookup s.hub x.req.line e)
include due clean

theorem sliceLookup_serves (sent : Bool) (kept : ¬(x.req.op = .rsvStore ∧ s.hub.rsvHeld (s.hub.hsOf ls) x.req = false)) :
    exec (.sliceLookup ls tid e sent) s = .next { s with
      hub := (s.hub.serve (s.hub.hsOf ls) x sent).afterLookup (s.hub.hsOf ls) x.req.line } := by
  refine congrArg (fun h => Host.Outcome.next { s with hub := h }) ?_
  have here : ¬(x.req.op = .rsvStore ∧ !x.spanReq ∧ !s.hub.rsvHeld (s.hub.hsOf ls) x.req) := by simpa [due.here] using kept
  have reads := reads_clean due.slot clean
  have late : ¬s.hub.round < x.acc + 1 := Nat.not_lt.2 due.due
  simp only [due.txn, due.phase, due.here, bne_self_eq_false, late, decide_false, Bool.or_self, Bool.false_eq_true, if_false, reads] at here ⊢
  rw [if_neg here]
  rfl

theorem sliceLookup_fails (sent : Bool) (op : x.req.op = .rsvStore) (lacks : s.hub.rsvHeld (s.hub.hsOf ls) x.req = false) :
    exec (.sliceLookup ls tid e sent) s = .next { s with
      hub := ((s.hub.onSlice (s.hub.hsOf ls) fun s => s.returnCredits x []).failStore (s.hub.hsOf ls) x).afterLookup (s.hub.hsOf ls)
        x.req.line } := by
  refine congrArg (fun h => Host.Outcome.next { s with hub := h }) ?_
  have here : x.req.op = .rsvStore ∧ !x.spanReq ∧ !s.hub.rsvHeld (s.hub.hsOf ls) x.req := by simp [due.here, op, lacks]
  have reads := reads_clean due.slot clean
  have late : ¬s.hub.round < x.acc + 1 := Nat.not_lt.2 due.due
  simp only [due.txn, due.phase, due.here, bne_self_eq_false, late, decide_false, Bool.or_self, Bool.false_eq_true, if_false, reads] at here ⊢
  rw [if_pos here]
  rfl

end

/-- What follows a lookup eases, where no request of its line waits for a ticket. -/
theorem eases_afterLookup {h : Hub} {hs : Nat} {l : Line} (alone : ∀ q ∈ (h.slice hs).refused, q.req.line ≠ l) :
    h.Eases (h.afterLookup hs l) := by
  have waits := eases_runWbWaits h hs l
  exact (waits.trans (eases_ticketWaiting fun q mem => alone q ((waits.slice hs).refused q mem))).trans (eases_flushHeld _)

/-- The parts that a lookup may write. -/
def lookupParts : List Part :=
  [Part.slices, .spill, .reads, .chans, .mps, .arbs, .sps, .rot, .records, .lapses, .rsvRecs, .rsvNotes, .prefetchNotes, .spanReps] ++ eventParts

theorem onlyIn_lookup {s : State} {k : Hub} (still : Hub.sameStill s.hub k) : onlyIn lookupParts s { s with hub := k } := by
  intro q hq
  cases q <;> simp [lookupParts, eventParts] at hq <;> simp_all [Part.same]

/-! ### A conditional store without its reservation (R122, R178) -/

/-- The transaction of a conditional store that failed, with the views that its lookup found. -/
def Txn.storeFails (x : Txn) (v : SView) (hv : HView) : Txn := { x with
  phase := .looked
  view := v
  hview := hv
  worst := x.acc + 10
  mem := false
  gate := { x.gate with outcome := oNoRsv } }

theorem caches_hcTouch (h : Hub) (hs : Nat) (l : Line) : Hub.Caches hs h (h.hcTouch hs l) := by
  unfold Hub.hcTouch
  split
  · next w _ =>
    extract_lets word touched
    have touches : Hub.Caches hs h touched := by
      unfold touched
      split
      · exact caches_putHc ..
      · exact caches_refl hs h
    exact touches.trans (caches_onSlice _ _ (by simp [Slice.Cached, Slice.uncached, Slice.putAge]))
  · exact caches_refl hs h

theorem keeps_lookedUp (h : Hub) (hs : Nat) (l : Line) : Hub.Keeps hs h (h.lookedUp hs l) := by
  unfold Hub.lookedUp
  extract_lets raised
  have raises : Hub.Keeps hs h raised := by
    unfold raised
    split
    · exact (caches_raise hs h _).keeps
    · exact keeps_refl hs h
  refine raises.trans (keeps_onSlice _ _ ?_)
  obtain ⟨nru, touched⟩ := touchLine_nru (raised.slice hs) l raised.round
  rw [touched]
  exact tended_of_bare rfl rfl

/-- The lookup has marked its line's way in the filter and in the hub cache. -/
def Hub.wayTouched (h : Hub) (hs : Nat) (l : Line) : Hub :=
  let k := h.lookedUp hs l
  if ((k.slice hs).hcWay l).isSome then k.hcTouch hs l else k

theorem keeps_wayTouched (h : Hub) (hs : Nat) (l : Line) : Hub.Keeps hs h (h.wayTouched hs l) := by
  unfold Hub.wayTouched
  extract_lets k
  split
  · exact (keeps_lookedUp ..).trans (caches_hcTouch ..).keeps
  · exact keeps_lookedUp ..

theorem wayTouched_still (h : Hub) (hs : Nat) (l : Line) : Hub.sameStill h (h.wayTouched hs l) := by
  unfold Hub.wayTouched Hub.lookedUp
  dsimp only
  split <;> split <;> simp

/-! ### Staged data goes -/

section
variable {r : Req} (plain : r.span = false) (k : Hub)
include plain

theorem unstage_eq : k.unstage r = k.onAp (k.agent r.gaid.la).port fun a =>
    { a with staged := a.staged.filter fun d => !(d.gaid == r.gaid && d.txid == r.txid && !d.wb) } := by
  simp [Hub.unstage, plain]

theorem eases_unstage : k.Eases (k.unstage r) := by
  rw [unstage_eq plain]
  refine eases_onAp _ _ _ fun d mem => ?_
  exact List.mem_of_mem_filter (p := fun d => !(d.gaid == r.gaid && d.txid == r.txid && !d.wb)) mem

theorem unstage_txn (hs : Nat) (tid : Byte) : (k.unstage r).txn hs tid = k.txn hs tid := by
  rw [unstage_eq plain]
  rfl

theorem unstage_hears {a : La} (heard : k.hearsCmp a) : (k.unstage r).hearsCmp a := by
  have port : ∀ p, ((k.unstage r).ap p).rspCred = (k.ap p).rspCred ∧ ((k.unstage r).ap p).stalled = (k.ap p).stalled := by
    intro p
    rw [unstage_eq plain]
    by_cases own : p = (k.agent r.gaid.la).port
    · rw [own, Hub.ap_onAp_self]
      exact ⟨rfl, rfl⟩
    · rw [Hub.ap_onAp_ne _ _ _ _ own]
      exact ⟨rfl, rfl⟩
  exact hearsCmp_congr (by simp) (port _).1 (port _).2 heard

theorem unstage_staged : ∀ d ∈ ((k.unstage r).ap (k.agent r.gaid.la).port).staged, ¬(d.gaid = r.gaid ∧ d.txid = r.txid ∧ d.wb = false) := by
  rw [unstage_eq plain, Hub.ap_onAp_self]
  rintro d mem ⟨gaid, txid, wb⟩
  have off := (List.mem_filter.1 mem).2
  simp [gaid, txid, wb] at off

end

/-! ### The lookup of the store -/

/-- The hub in which the lookup of a conditional store has found that it fails. -/
def Hub.foundFailing (h : Hub) (hs : Nat) (x : Txn) : Hub :=
  (h.wayTouched hs x.req.line).onTxn hs x.tid fun y => y.storeFails ((h.slice hs).homeView x.req.line) ((h.slice hs).hubView x.req.line)

theorem failStore_eq (h : Hub) (hs : Nat) (x : Txn) :
    h.failStore hs x = (((h.foundFailing hs x).unstage x.req).settleWay hs x.req.line).settle hs x.tid := rfl

theorem foundFailing_reported (h : Hub) (hs : Nat) (x : Txn) : h.Reported (h.foundFailing hs x) :=
  (keeps_wayTouched ..).told.trans (reported_onSlice ..)

theorem eases_foundFailing (h : Hub) (hs : Nat) (x : Txn) : h.Eases (h.foundFailing hs x) :=
  ((keeps_wayTouched h hs x.req.line).steadies.eases (wayTouched_still ..)).trans (eases_onTxn _ _ _ _ fun _ => rfl)

theorem foundFailing_txn {h : Hub} {hs : Nat} {x : Txn} (found : h.txn hs x.tid = some x) (busy : ¬x.Waits) :
    (h.foundFailing hs x).txn hs x.tid = some (x.storeFails ((h.slice hs).homeView x.req.line) ((h.slice hs).hubView x.req.line)) :=
  txn_onTxn_self (steady_txn ((keeps_wayTouched h hs x.req.line).steadies.slice hs) busy found)
    (fun y => y.storeFails ((h.slice hs).homeView x.req.line) ((h.slice hs).hubView x.req.line)) rfl

/-! ### Its completion -/

/-- What a lookup leaves of a home transaction of a live local agent that it has just found. -/
structure Txn.Plain (x : Txn) : Prop where
  local_ : x.req.span = false
  here : x.spanReq = false
  live : x.deadReq = false
  views : x.hentry = none
  copies : x.copies = []
  homeAns : x.homeAns = false
  base : x.baseDue = false

/-- A gate whose answers are all in has judged them. -/
def Txn.judgedPlain (x : Txn) : Txn := { x with gate := { x.gate with
  judged := true
  rsvOwner := x.gate.rsvOwner || (x.req.op == .rsvLoad && x.gate.answers.any fun a => a.kept == 3) } }

section
variable {h : Hub} {hs : Nat} {tid : Byte} {y : Txn} (found : h.txn hs tid = some y) (looked : y.phase = .looked)
include found looked

/-- The judgement of a gate that no answer and no degraded entry concerns (R59). -/
theorem judge_plain (unjudged : y.gate.judged = false) (empty : y.gate.expect = []) (fwd : y.gate.fwdWait = [])
    (whole : ∀ b, y.failed = true ∨ y.view ≠ .deg b) (kept : (h.slice hs).lossOf y = none) :
    h.judge hs tid = h.onTxn hs tid Txn.judgedPlain := by
  unfold Hub.judge
  split
  case h_1 absent => rw [found] at absent; cases absent
  case h_2 t same =>
    rw [found] at same
    cases same
    extract_lets g isDeg keeps alone judged lost ended
    have healthy : isDeg = false := by
      unfold isDeg
      rcases failed : y.failed with _ | _
      · split
        · next b view => exact absurd view ((whole b).resolve_left (by simp [failed]))
        · rfl
      · rfl
    have single : alone = false := by simp [alone, healthy]
    have judges : judged = h.onTxn hs tid Txn.judgedPlain := by
      unfold judged
      rw [single]
      rfl
    have loses : lost = judged := by
      have none : (judged.slice hs).lossOf y = none := by
        rw [judges, Hub.onTxn, Hub.slice_onSlice_self]
        exact kept
      unfold lost
      rw [none]
    have waits : ¬(y.phase != .looked || g.judged || !g.expect.isEmpty || !g.fwdWait.isEmpty) = true := by
      simp [g, looked, unjudged, empty, fwd]
    rw [if_neg waits, healthy, if_neg Bool.false_ne_true]
    exact (if_neg (by simp [single])).trans (loses.trans judges)

end

end Sys2Proof.Machine
end

section
/-!
SUPPORT. How a home transaction of a live local agent is settled at its lookup where nothing is to be waited for (R59, R109, R112, R122).
-/
namespace Sys2Proof.Machine
open Sys2Proof.Safety

/-- A looked-up home transaction of a live local agent whose line's entries are healthy and name nobody who answers. -/
structure Txn.Unasked (y : Txn) : Prop where
  plain : y.Plain
  looked : y.phase = .looked
  unjudged : y.gate.judged = false
  empty : y.gate.expect = []
  fwd : y.gate.fwdWait = []
  whole : ∀ b, y.failed = true ∨ y.view ≠ .deg b
  kept : ∀ s : Slice, s.lossOf y = none
  sourced : y.gate.need = false ∨ y.gate.prep.isSome = true ∨ y.memRead = true
  held : y.gate.released = false

section
variable {h : Hub} {hs : Nat} {tid : Byte} {y : Txn} (found : h.txn hs tid = some y) (free : y.Unasked)
include found free

theorem readied_unasked : (((h.fillPrep hs tid).judge hs tid).rebuildHub hs tid).settleBase hs tid = h.onTxn hs tid Txn.judgedPlain := by
  have prepared : h.fillPrep hs tid = h := by
    unfold Hub.fillPrep
    rw [found]
    dsimp only
    rw [if_pos]
    rcases free.sourced with none | some | read
    · simp [none]
    · simp [some]
    · simp [read]
  have judges := judge_plain found free.looked free.unjudged free.empty free.fwd free.whole (free.kept _)
  have joined := txn_onTxn_self found Txn.judgedPlain rfl
  rw [prepared, judges]
  generalize h.onTxn hs tid Txn.judgedPlain = k at joined ⊢
  have rebuilt : k.rebuildHub hs tid = k := by simp [Hub.rebuildHub, joined, Txn.judgedPlain, free.plain.views]
  rw [rebuilt]
  simp [Hub.settleBase, joined, Txn.judgedPlain, free.plain.base]

/-- A gate that can open is released, and what can close then closes. -/
theorem settle_released (ready : y.judgedPlain.gateReady = true) :
    h.settle hs tid = ((h.onTxn hs tid Txn.judgedPlain).release hs y.judgedPlain).tryClose hs tid := by
  have joined := txn_onTxn_self found Txn.judgedPlain rfl
  have looked : y.judgedPlain.phase = .looked := free.looked
  have local_ : y.judgedPlain.req.span = false := free.plain.local_
  have held : y.judgedPlain.gate.released = false := free.held
  unfold Hub.settle
  rw [readied_unasked found free]
  simp [joined, looked, local_, held, ready]

/-- A gate that lacks its data waits for it. -/
theorem settle_waits (lacks : y.judgedPlain.gateReady = false) : h.settle hs tid = h.onTxn hs tid Txn.judgedPlain := by
  have joined := txn_onTxn_self found Txn.judgedPlain rfl
  have looked : y.judgedPlain.phase = .looked := free.looked
  have local_ : y.judgedPlain.req.span = false := free.plain.local_
  have held : y.judgedPlain.gate.released = false := free.held
  have closed : y.judgedPlain.closable = false := by simp [Txn.closable, Txn.served, held]
  unfold Hub.settle
  rw [readied_unasked found free]
  simp [joined, looked, local_, lacks, Hub.tryClose, closed]

end

/-! ### The completion of a store that failed -/

theorem storeFails_unasked {x : Txn} (plain : x.Plain) (fresh : x.gate = Gate.init) (op : x.req.op = .rsvStore) (v : SView) (hv : HView) :
    (x.storeFails v hv).Unasked := by
  have failed : (x.storeFails v hv).failed = true := by
    simp [Txn.failed, Txn.storeFails, op, plain.here]
  refine ⟨⟨plain.local_, plain.here, plain.live, plain.views, plain.copies, plain.homeAns, plain.base⟩, rfl, ?_, ?_, ?_, fun _ => .inl failed,
    fun s => ?_, .inl ?_, ?_⟩
  · simp [Txn.storeFails, fresh, Gate.init]
  · simp [Txn.storeFails, fresh, Gate.init]
  · simp [Txn.storeFails, fresh, Gate.init]
  · simp [Slice.lossOf, failed]
  · simp [Txn.storeFails, fresh, Gate.init]
  · simp [Txn.storeFails, fresh, Gate.init]

theorem storeFails_ready {x : Txn} (plain : x.Plain) (fresh : x.gate = Gate.init) (op : x.req.op = .rsvStore) (v : SView) (hv : HView) :
    (x.storeFails v hv).judgedPlain.gateReady = true := by
  simp [Txn.gateReady, Txn.judgedPlain, Txn.storeFails, fresh, Gate.init, plain.here, op]

/-- The completion of a store that failed. -/
def Req.noRsv (r : Req) : AgentMsg :=
  { agentMsg opCmp r.gaid r.txid r.line r.gaid.la with
    grant := 0
    outcome := oNoRsv }

/-- What stands of a store that failed once it is completed. -/
def Txn.storeOver (x : Txn) (v : SView) (hv : HView) (n : Nat) : Txn :=
  (x.storeFails v hv).judgedPlain.opens n (x.storeFails v hv).judgedPlain

theorem storeFails_grant {x : Txn} (fresh : x.gate = Gate.init) (v : SView) (hv : HView) :
    (x.storeFails v hv).judgedPlain.gate.finalGrant x.req.op = 0 := by
  simp [Gate.finalGrant, Txn.judgedPlain, Txn.storeFails, fresh, Gate.init]

theorem storeFails_outcome {x : Txn} (op : x.req.op = .rsvStore) (v : SView) (hv : HView) :
    (x.storeFails v hv).judgedPlain.gate.finalOutcome x.req.op = oNoRsv := by
  simp [Gate.finalOutcome, op, Txn.judgedPlain, Txn.storeFails]

section
variable {x : Txn} (plain : x.Plain) (fresh : x.gate = Gate.init) (v : SView) (hv : HView)
include plain fresh

theorem storeOver_closes {k : Hub} {hs n : Nat} (there : k.txn hs x.tid = some (x.storeOver v hv n)) :
    k.tryClose hs x.tid = k.closeTxn hs (x.storeOver v hv n) none := by
  have closable : (x.storeOver v hv n).closable = true := by
    simp [Txn.closable, Txn.served, Txn.storeOver, Txn.opens, Txn.judgedPlain, Txn.storeFails, fresh, Gate.init, plain.copies, plain.homeAns,
      plain.local_, plain.here, plain.base]
  have live : (x.storeOver v hv n).deadReq = false := plain.live
  have local_ : (x.storeOver v hv n).req.span = false := plain.local_
  have ungranted : (x.storeOver v hv n).gate.grant = 0 := storeFails_grant fresh v hv
  simp [Hub.tryClose, there, closable, live, local_, ungranted]

/-- The release of its gate sends the completion that says so. -/
theorem release_storeFails (op : x.req.op = .rsvStore) (h : Hub) (hs : Nat) : h.release hs (x.storeFails v hv).judgedPlain =
    (((h.onTxn hs x.tid ((x.storeFails v hv).judgedPlain.opens h.round)).sendCmp hs x.req.gaid x.req.txid x.req.line 0 oNoRsv).countRes
      x.req.line.ls (h.round - x.acc)) := by
  have bare : (x.storeFails v hv).judgedPlain.gate.need = false := by simp [Txn.judgedPlain, Txn.storeFails, fresh, Gate.init]
  have req : (x.storeFails v hv).judgedPlain.req = x.req := rfl
  have tid : (x.storeFails v hv).judgedPlain.tid = x.tid := rfl
  have acc : (x.storeFails v hv).judgedPlain.acc = x.acc := rfl
  have live : (x.storeFails v hv).judgedPlain.deadReq = false := plain.live
  rw [release_completes live bare (by simp [req, op]), req, tid, acc, storeFails_grant fresh v hv, storeFails_outcome op v hv]

end

/-- A store that failed is completed, and its transaction closes. -/
theorem settle_storeFails {h : Hub} {hs : Nat} {x : Txn} {v : SView} {hv : HView} (found : h.txn hs x.tid = some (x.storeFails v hv))
    (plain : x.Plain) (fresh : x.gate = Gate.init) (op : x.req.op = .rsvStore) (heard : h.hearsCmp x.req.gaid.la) :
    (h.settle hs x.tid).txn hs x.tid = none ∧
      h.out ++ [.agent (h.agent x.req.gaid.la).port x.req.noRsv] <+: (h.settle hs x.tid).out := by
  let judged := h.onTxn hs x.tid Txn.judgedPlain
  let opened := judged.onTxn hs x.tid ((x.storeFails v hv).judgedPlain.opens judged.round)
  have joined : opened.txn hs x.tid = some (x.storeOver v hv judged.round) := txn_onTxn_self (txn_onTxn_self found Txn.judgedPlain rfl) _ rfl
  have heardNow : opened.hearsCmp x.req.gaid.la := ((reported_onSlice ..).trans (reported_onSlice ..)).hearsCmp heard
  have sent := sendCmp_heard heardNow hs x.req.txid x.req.line 0 oNoRsv
  have there : (opened.sendCmp hs x.req.gaid x.req.txid x.req.line 0 oNoRsv).txn hs x.tid = some (x.storeOver v hv judged.round) :=
    (txn_congr (by simp [Hub.slice]) x.tid).trans joined
  have closes := storeOver_closes plain fresh v hv (k := (opened.sendCmp hs x.req.gaid x.req.txid x.req.line 0 oNoRsv).countRes x.req.line.ls
    (judged.round - x.acc)) there
  rw [settle_released found (storeFails_unasked plain fresh op v hv) (storeFails_ready plain fresh op v hv), release_storeFails plain fresh v hv op,
    closes]
  refine ⟨closeTxn_gone _ hs (x.storeOver v hv judged.round) none, ?_⟩
  exact List.IsPrefix.trans (sent ▸ List.prefix_rfl) (calm_closeTxn ..).out

end Sys2Proof.Machine
end

section
/-!
CERTIFICATE. A conditional store without its reservation fails at its lookup (R122, R178).
-/
namespace Sys2Proof.Machine
open Sys2Proof.Safety

theorem lookupDue_plain {h : Hub} {ls : BitVec 6} {tid : Byte} {x : Txn} (due : LookupDue h ls tid x) : x.Plain :=
  have ⟨_, _, views, copies, homeAns, base⟩ := due.fresh
  ⟨due.local_, due.here, due.live, views, copies, homeAns, base⟩

theorem accepted_busy {x : Txn} (accepted : x.phase = .accepted) : ¬x.Waits := by
  rintro (pred | way)
  · rw [accepted] at pred
    cases pred
  · rw [accepted] at way
    cases way

/-- The hub in which the store has failed, before it is completed. -/
def Hub.storeGone (h : Hub) (hs : Nat) (x : Txn) : Hub :=
  (((h.onSlice hs fun s => s.returnCredits x []).foundFailing hs x).unstage x.req).settleWay hs x.req.line

section
variable {h : Hub} {hs : Nat} {x : Txn} (plain : x.req.span = false)
include plain

theorem eases_storeGone : h.Eases (h.storeGone hs x) :=
  (((eases_onSlice _ _ _ (shrinks_of_eq rfl rfl)).trans (eases_foundFailing ..)).trans (eases_unstage plain _)).trans
    ((keeps_settleWay ..).steadies.eases (by simp))

theorem storeGone_hears (heard : h.hearsCmp x.req.gaid.la) : (h.storeGone hs x).hearsCmp x.req.gaid.la :=
  (keeps_settleWay ..).told.hearsCmp (unstage_hears plain _ (((reported_onSlice ..).trans (foundFailing_reported ..)).hearsCmp heard))

/-- Its edge router has the data of the store no longer. -/
theorem storeGone_staged : ∀ d ∈ ((h.storeGone hs x).ap (h.agent x.req.gaid.la).port).staged,
    ¬(d.gaid = x.req.gaid ∧ d.txid = x.req.txid ∧ d.wb = false) := by
  have port := ((reported_onSlice h hs _).trans (foundFailing_reported (h.onSlice hs fun s => s.returnCredits x []) hs x)).agentPort
    x.req.gaid.la
  intro d mem
  rw [Hub.storeGone, (keeps_settleWay ..).told.staged, ← port] at mem
  exact unstage_staged plain _ d mem

theorem storeGone_txn (found : h.txn hs x.tid = some x) (accepted : x.phase = .accepted) :
    ∃ v hv, (h.storeGone hs x).txn hs x.tid = some (x.storeFails v hv) := by
  have credited : (h.onSlice hs fun s => s.returnCredits x []).txn hs x.tid = some x :=
    (txn_congr (by rw [Hub.slice_onSlice_self]; rfl) x.tid).trans found
  have failed := foundFailing_txn credited (accepted_busy accepted)
  exact ⟨_, _, steady_txn ((keeps_settleWay ..).steadies.slice hs) (looked_busy rfl) ((unstage_txn plain ..).trans failed)⟩

end

theorem sliceLookup_storeFails {s : State} {ls : BitVec 6} {tid : Byte} {e : LookupErr} {x : Txn} (due : LookupDue s.hub ls tid x)
    (clean : cleanLookup s.hub x.req.line e) (op : x.req.op = .rsvStore) (lacks : s.hub.rsvHeld (s.hub.hsOf ls) x.req = false)
    (heard : hears s.hub x.req.gaid.la) (sent : Bool) :
    ∃ t, exec (.sliceLookup ls tid e sent) s = .next t ∧ onlyIn lookupParts s t ∧ t.hub.txn (s.hub.hsOf ls) tid = none ∧
      (∀ d ∈ (t.hub.ap (s.hub.agent x.req.gaid.la).port).staged, ¬(d.gaid = x.req.gaid ∧ d.txid = x.req.txid ∧ d.wb = false)) ∧
      ∃ pre rest, t.hub.out = s.hub.out ++ pre ++ [OutMsg.agent (s.hub.agent x.req.gaid.la).port x.req.noRsv] ++ rest := by
  obtain ⟨fresh, -⟩ := due.fresh
  have same := txn_tid due.txn
  have found := due.txn
  rw [← same] at found ⊢
  have row := sliceLookup_fails due clean sent op lacks
  have alone := due.alone
  rw [← same, failStore_eq, ← Hub.storeGone] at row
  generalize s.hub.hsOf ls = hs at row found alone ⊢
  have gone := eases_storeGone (h := s.hub) (hs := hs) due.local_
  have settled := eases_settle (s.hub.storeGone hs x) hs x.tid
  have after := eases_afterLookup (h := (s.hub.storeGone hs x).settle hs x.tid) (hs := hs) (l := x.req.line) fun q mem =>
    alone q (((gone.trans settled).slice hs).refused q mem)
  obtain ⟨v, hv, there⟩ := storeGone_txn due.local_ found due.phase
  obtain ⟨absent, out⟩ := settle_storeFails there (lookupDue_plain due) fresh op (storeGone_hears due.local_ (hearsCmp_of_hears heard))
  generalize ((s.hub.storeGone hs x).settle hs x.tid).afterLookup hs x.req.line = k at row after
  generalize (s.hub.storeGone hs x).settle hs x.tid = j at settled after absent out
  obtain ⟨pre, begun⟩ := gone.out
  obtain ⟨rest, ends⟩ := out.trans after.out
  refine ⟨_, row, onlyIn_lookup ((gone.trans settled).trans after).still, ?_, fun d mem => ?_, pre, rest, ?_⟩
  · refine txn_none ((after.slice hs).txns x.tid fun t mem same => ?_)
    have off := List.find?_eq_none.1 absent t mem
    simp [same] at off
  · exact storeGone_staged due.local_ d ((settled.trans after).staged _ d mem)
  · rw [gone.agentPort, ← begun] at ends
    exact ends.symm

end Sys2Proof.Machine
end

section
/-!
SUPPORT. The lookup of an `RD_SHARED` for whose line no agent and no hub is named (R109, R111, R118).
-/
namespace Sys2Proof.Machine
open Sys2Proof.Safety

/-! ### What the lookup finds -/

/-- The entry that the requester then has. -/
def Req.firstSharer (r : Req) : SView := SView.unc.shared r.gaid.la true

/-- Of the transaction in its slice, what the lookup makes where nobody is named. -/
def Txn.looksUp (x : Txn) (wbData : Bool) (due : Nat) (y : Txn) : Txn := { y with
  phase := .looked
  req := x.req
  view := .unc
  hview := .none
  entry := some x.req.firstSharer
  snooped := []
  baseDue := false
  copies := []
  copyDue := due
  homeAns := false
  credits := []
  gate := { y.gate with
    expect := []
    need := true
    pullWait := false
    wbData := wbData
    grant := gF
    spanAcks := 0
    spanGrant := 0 } }

/-- The transaction as the lookup of `h` makes it. -/
def Hub.lookedTxn (h : Hub) (hs : Nat) (x : Txn) : Txn → Txn :=
  x.looksUp ((h.slice hs).wbWait.any fun w => w.dirty && w.line == x.req.line)
    (x.acc + (h.lookedUp hs x.req.line).spanResBound + (h.lookedUp hs x.req.line).p 0x183)

/-- The slice in which the lookup has returned the request's snoop credits and decided the span snoops that waited for it. -/
def Slice.foundBy (s : Slice) (x : Txn) : Slice := { s.returnCredits x [] with
  helds := List.mapIf (fun k => k.line == x.req.line) (fun k => { k with settled := true }) s.helds }

/-- The hub in which the lookup has found that nobody is named. -/
def Hub.sharedFound (h : Hub) (hs : Nat) (x : Txn) : Hub :=
  ((h.lookedUp hs x.req.line).onSlice hs fun s => s.foundBy x).onTxn hs x.tid (h.lookedTxn hs x)

/-- The hub in which the source of the data has been sought. -/
def Hub.sharedSourced (h : Hub) (hs : Nat) (x : Txn) (sent : Bool) : Hub :=
  (h.sharedFound hs x).prepare hs (h.lookedTxn hs x x) true true ((h.sharedFound hs x).specOk hs x) sent

/-- The hub in which the requester has its entry. -/
def Hub.sharedEntered (h : Hub) (hs : Nat) (x : Txn) (sent : Bool) : Hub :=
  match x.way with
  | some w => (h.sharedSourced hs x sent).putEntry hs x.req.line w.toNat x.req.firstSharer
  | none => h.sharedSourced hs x sent

/-- The worst close of a transaction that no hub is asked for (R40). -/
def Hub.worstFound (h : Hub) (x : Txn) (memRead : Bool) : Nat := x.acc + if memRead then 6 + h.boundOf x.req.line else 10

/-- A transaction reads memory. -/
def Hub.readsMemory (h : Hub) (hs : Nat) (tid : Byte) : Bool :=
  match h.txn hs tid with
  | some x => x.memRead
  | none => false

/-- The transaction without a change of the span directory that waits for its answers. -/
def Txn.unhubbed (y : Txn) : Txn := { y with hentry := none }

/-- The transaction with its worst close. -/
def Txn.bounded (worst : Nat) (memRead : Bool) (y : Txn) : Txn := { y with
  worst := worst
  mem := memRead }

/-- The transaction with the answers that edge routers gave at once. -/
def Txn.answeredBy (now : List Answer) (y : Txn) : Txn := { y with gate := { y.gate with
  answers := y.gate.answers ++ now
  expect := y.gate.expect.filter fun a => !(now.any fun k => k.la == a) } }

/-- The hub in which the transaction knows its worst close, and that nobody answers. -/
def Hub.sharedBound (h : Hub) (hs : Nat) (x : Txn) (sent : Bool) : Hub :=
  let k := (h.sharedEntered hs x sent).onTxn hs x.tid Txn.unhubbed
  (k.onTxn hs x.tid (Txn.bounded (k.worstFound x (k.readsMemory hs x.tid)) (k.readsMemory hs x.tid))).onTxn hs x.tid (Txn.answeredBy [])

section
variable {h : Hub} {hs : Nat} {x : Txn} (op : x.req.op = .rdShared) (view : (h.slice hs).homeView x.req.line = .unc)
  (hview : (h.slice hs).hubView x.req.line = .none) (here : x.spanReq = false) (local_ : x.req.span = false)
include op view hview here local_

theorem serve_shared (sent : Bool) : h.serve hs x sent =
    (((h.sharedBound hs x sent).settle hs x.tid).chainEnd hs x.req.line).checkLine hs x.req.line := by
  have ports : ∀ k : Hub, k.snoopedPorts [] = [] := fun k => by simp [Hub.snoopedPorts, Hub.portsOf]
  have snoop : ∀ (k : Hub) sn c, Hub.snoopAll hs sn c [] k = (k, []) := fun k sn c => by
    simp [Hub.snoopAll, Hub.snoopEach, Hub.multicast, Hub.portsOf]
  unfold Hub.serve
  extract_lets l r s v hv looked op' me dom plan waiting need hp hubs quiet entry homeAns upd found t' sourced entered hubbed
    hentried reserved cleared memRead spans worst bounded isBroadcast counted base homeCopy a1 a2 flit sent' now answered settled
  have isUnc : v = .unc := view
  have isNone : hv = .none := by
    unfold hv
    rw [here]
    exact hview
  have same : op' = .rdShared := by simp [op', r, servedOp, op]
  have noPlan : plan = ⟨.fwdS, [], [], false, false⟩ := by
    unfold plan
    rw [isUnc, same]
    rfl
  have noHp : hp = ⟨[], .fwdS, [], false, .none, 0⟩ := by
    unfold hp
    rw [here, isUnc, isNone, same]
    simp only [r, local_]
    rfl
  have noHubs : hubs = [] := by
    unfold hubs
    rw [noHp]
    rfl
  have first : entry = some x.req.firstSharer := by
    unfold entry
    rw [isUnc, isNone, same, here]
    simp [lookupEntry, r, local_, entryAfter, ReqOp.isShared, Req.firstSharer]
  have request : { r with op := op' } = x.req := by
    rw [same, ← op]
  have looks : upd = h.lookedTxn hs x := by
    funext y
    unfold upd
    rw [request]
    simp only [noPlan, noHubs, noHp, isUnc, isNone, first, same, here]
    simp only [homeAns, r, local_, need, same]
    rfl
  have finds : found = h.sharedFound hs x := by
    unfold found
    rw [looks, noPlan]
    simp only [List.append_nil, ports]
    rfl
  have sources : sourced = h.sharedSourced hs x sent := by
    unfold sourced
    rw [here, if_neg Bool.false_ne_true]
    unfold t' quiet need
    rw [looks, finds, noPlan, noHubs, same]
    rfl
  have enters : entered = h.sharedEntered hs x sent := by
    unfold entered
    rw [first, sources, isUnc]
    unfold Hub.sharedEntered
    split
    · next e w some some' =>
      cases some
      rw [some', if_neg (by simp [Req.firstSharer, SView.shared])]
    · next nothing =>
      split
      · next w some => exact (nothing _ w rfl some).elim
      · rfl
  have hubs' : hubbed = entered := by
    unfold hubbed
    rw [if_pos]
    simp [noHp, isNone]
  have unhubs : hentried = (h.sharedEntered hs x sent).onTxn hs x.tid Txn.unhubbed := by
    unfold hentried
    rw [hubs', enters, isNone]
    rfl
  have reserves : reserved = hentried := by
    unfold reserved t'
    rw [here, same, looks, noHp, isNone]
    rfl
  have clears : cleared = hentried := by
    unfold cleared
    rw [same]
    exact reserves
  have reads : memRead = hentried.readsMemory hs x.tid := by
    unfold memRead
    rw [clears]
    rfl
  have closes : worst = hentried.worstFound x (hentried.readsMemory hs x.tid) := by
    unfold worst spans
    rw [here, noHubs, noHp, clears, reads]
    simp only [r, local_]
    rfl
  have bounds : bounded = hentried.onTxn hs x.tid (Txn.bounded (hentried.worstFound x (hentried.readsMemory hs x.tid))
      (hentried.readsMemory hs x.tid)) := by
    unfold bounded
    rw [closes, reads, clears]
    rfl
  have counts : counted = bounded := by
    unfold counted
    rw [noPlan]
    simp [Hub.countBroadcast]
  have asks1 : a1 = (counted, []) := by
    unfold a1
    rw [noPlan]
    exact snoop ..
  have asks2 : a2 = (counted, []) := by
    unfold a2
    rw [asks1, noPlan]
    exact snoop ..
  have sends : sent' = counted := by
    unfold sent'
    rw [noHubs, asks2]
    rfl
  have answers : answered = h.sharedBound hs x sent := by
    unfold answered now
    rw [sends, asks1, asks2, counts, bounds, unhubs]
    rfl
  unfold settled
  rw [answers]

end

end Sys2Proof.Machine
end

section
/-!
SUPPORT. Where the data of an `RD_SHARED` comes from when nobody is named: a whole line of the write buffer, or a read of memory (R61, R111, R118).
-/
namespace Sys2Proof.Machine
open Sys2Proof.Safety

/-! ### What the lookup has found -/

theorem lookedUp_unc {h : Hub} {hs : Nat} {l : Line} (view : (h.slice hs).homeView l = .unc) :
    h.lookedUp hs l = h.onSlice hs fun s => s.touchLine l h.round := by
  have whole : (h.slice hs).splitView l = false := by
    cases split : (h.slice hs).splitView l with
    | false => rfl
    | true =>
      simp only [Slice.splitView, Bool.and_eq_true, decide_eq_true_eq, Bool.not_eq_true'] at split
      obtain ⟨two, healthy⟩ := split
      unfold Slice.homeView at view
      split at view
      · next one => simp [one] at two
      · next many _ =>
        rw [if_neg (by simp [healthy])] at view
        split at view
        · next empty =>
          rw [List.isEmpty_iff] at empty
          simp [empty] at two
        · cases view
  simp [Hub.lookedUp, whole]

section
variable {h : Hub} {hs : Nat} {x : Txn} (view : (h.slice hs).homeView x.req.line = .unc)
include view

theorem sharedFound_form : ∃ sl, h.sharedFound hs x = { h with slices := sl } := by
  unfold Hub.sharedFound
  rw [lookedUp_unc view]
  exact ⟨_, rfl⟩

/-- The slice but for its transactions, the ages of its filter's ways, its snoop credits and its span snoops. -/
theorem sharedFound_slice : ∃ nru used back helds, (h.sharedFound hs x).slice hs = { h.slice hs with
    nru := nru
    snpUsed := used
    snpBack := back
    helds := helds
    txns := List.mapIf (fun t => t.tid == x.tid) (h.lookedTxn hs x) (h.slice hs).txns } := by
  obtain ⟨nru, touched⟩ := touchLine_nru (h.slice hs) x.req.line h.round
  unfold Hub.sharedFound Hub.onTxn
  rw [lookedUp_unc view, Hub.slice_onSlice_self, Hub.slice_onSlice_self, Hub.slice_onSlice_self, touched]
  exact ⟨_, _, _, _, rfl⟩

theorem sharedFound_txn (found : h.txn hs x.tid = some x) : (h.sharedFound hs x).txn hs x.tid = some (h.lookedTxn hs x x) := by
  refine txn_onTxn_self (Eq.trans (txn_congr ?_ x.tid) found) (h.lookedTxn hs x) rfl
  obtain ⟨nru, touched⟩ := touchLine_nru (h.slice hs) x.req.line h.round
  rw [lookedUp_unc view, Hub.slice_onSlice_self, Hub.slice_onSlice_self, touched]
  rfl

theorem sharedFound_wbFind (l : Line) : (h.sharedFound hs x).wbFind hs l = h.wbFind hs l := by
  obtain ⟨_, _, _, _, slice⟩ := sharedFound_slice view
  obtain ⟨_, form⟩ := sharedFound_form view
  exact wbFind_congr (by rw [slice]) (by rw [form]) l

omit view in
theorem looksUp_tid (x y : Txn) (wbData : Bool) (due : Nat) : (x.looksUp wbData due y).tid = y.tid := rfl

omit view in
theorem foundBy_shrinks (s : Slice) (x : Txn) : s.Shrinks (s.foundBy x) := shrinks_of_eq rfl rfl

theorem eases_sharedFound : h.Eases (h.sharedFound hs x) := by
  have looks : h.Eases (h.lookedUp hs x.req.line) := by
    refine (keeps_lookedUp ..).steadies.eases ?_
    rw [lookedUp_unc view]
    simp
  have finds : (h.lookedUp hs x.req.line).Eases ((h.lookedUp hs x.req.line).onSlice hs fun s => s.foundBy x) :=
    eases_onSlice _ _ (fun s => s.foundBy x) (foundBy_shrinks _ x)
  have marks := eases_onTxn ((h.lookedUp hs x.req.line).onSlice hs fun s => s.foundBy x) hs x.tid (h.lookedTxn hs x) fun y => looksUp_tid ..
  unfold Hub.sharedFound
  exact (looks.trans finds).trans marks

end

/-! ### Quiet steps -/

/-- `k` is `h` after steps that the ports, the agents and the transactions do not see, nor anything that has been sent. -/
structure Hub.Hides (h k : Hub) : Prop where
  agents : k.agents = h.agents
  aps : k.aps = h.aps
  out : k.out = h.out
  events : k.events = h.events
  dev : k.dev = h.dev
  par : k.par = h.par
  spill : k.spill = h.spill
  txns : ∀ m, (k.slice m).txns = (h.slice m).txns
  refused : ∀ m, (k.slice m).refused = (h.slice m).refused
  wb : ∀ m, (k.slice m).wb = (h.slice m).wb
  still : Hub.sameStill h k

theorem Hub.Hides.refl (h : Hub) : h.Hides h := ⟨rfl, rfl, rfl, rfl, rfl, rfl, rfl, fun _ => rfl, fun _ => rfl, fun _ => rfl, by simp⟩

theorem Hub.Hides.trans {h k m : Hub} (first : h.Hides k) (second : k.Hides m) : h.Hides m where
  agents := second.agents.trans first.agents
  aps := second.aps.trans first.aps
  out := second.out.trans first.out
  events := second.events.trans first.events
  dev := second.dev.trans first.dev
  par := second.par.trans first.par
  spill := second.spill.trans first.spill
  txns n := (second.txns n).trans (first.txns n)
  refused n := (second.refused n).trans (first.refused n)
  wb n := (second.wb n).trans (first.wb n)
  still := first.still.trans second.still

theorem Hub.Hides.eases {h k : Hub} (H : h.Hides k) : h.Eases k where
  toCalm := .of_eq H.agents H.events H.out
  slice m := shrinks_of_eq (H.txns m) (H.refused m)
  staged p d mem := by rwa [← Hub.ap_congr k h p H.aps]
  still := H.still

theorem Hub.Hides.txn {h k : Hub} (H : h.Hides k) (hs : Nat) (tid : Byte) : k.txn hs tid = h.txn hs tid := txn_congr (H.txns hs) tid
theorem Hub.Hides.wbFind {h k : Hub} (H : h.Hides k) (hs : Nat) (l : Line) : k.wbFind hs l = h.wbFind hs l := wbFind_congr (H.wb hs) H.spill l

theorem hides_of_slices {h k : Hub} (slices : k.slices = h.slices) (agents : k.agents = h.agents) (aps : k.aps = h.aps) (out : k.out = h.out)
    (events : k.events = h.events) (dev : k.dev = h.dev) (par : k.par = h.par) (spill : k.spill = h.spill) (still : Hub.sameStill h k) :
    h.Hides k :=
  ⟨agents, aps, out, events, dev, par, spill, fun m => by rw [Hub.slice_congr k h m slices], fun m => by rw [Hub.slice_congr k h m slices],
    fun m => by rw [Hub.slice_congr k h m slices], still⟩

theorem hides_onSlice (h : Hub) (hs : Nat) (f : Slice → Slice) (txns : (f (h.slice hs)).txns = (h.slice hs).txns)
    (refused : (f (h.slice hs)).refused = (h.slice hs).refused) (wb : (f (h.slice hs)).wb = (h.slice hs).wb) : h.Hides (h.onSlice hs f) := by
  have part {α : Type} (p : Slice → α) (same : p (f (h.slice hs)) = p (h.slice hs)) (m : Nat) : p ((h.onSlice hs f).slice m) = p (h.slice m) := by
    rw [Hub.slice_onSlice]
    split
    · next own => rw [own, same]
    · rfl
  exact ⟨rfl, rfl, rfl, rfl, rfl, rfl, rfl, part (·.txns) txns, part (·.refused) refused, part (·.wb) wb, by simp⟩

theorem hides_issueRead (h : Hub) (hs : Nat) (l : Line) (who : ReadFor) (spec crit lk : Bool) (aop : Option Req) :
    h.Hides (h.issueRead hs l who spec crit lk aop) :=
  hides_of_slices (by simp) (by simp) (by simp) (by simp) (by simp) (by simp) (by simp) (by simp) (by simp)

theorem hides_cancelSpec (h : Hub) (l : Line) (tid : Byte) : h.Hides (h.cancelSpec l tid) :=
  hides_of_slices (by simp) (by simp) (by simp) (by simp) (by simp) (by simp) (by simp) (by simp) (by simp)

theorem hides_count (h : Hub) (ev unit n : Nat) : h.Hides (h.count ev unit n) :=
  hides_of_slices (by simp) (by simp) (by simp) (by simp) (by simp) (by simp) (by simp) (by simp) (by simp)

theorem hides_putHc (h : Hub) (hs : Nat) (set : BitVec 10) (way : Nat) (w : Word) (b : LineBits) : h.Hides (h.putHc hs set way w b) := by
  unfold Hub.putHc
  extract_lets f old written
  have writes : h.Hides written := hides_onSlice _ _ _ rfl rfl rfl
  split
  · exact writes
  · refine writes.trans ?_
    split
    · exact hides_onSlice _ _ _ rfl rfl rfl
    · split
      · exact hides_onSlice _ _ _ rfl rfl rfl
      · exact .refl written

theorem hides_hcTouch (h : Hub) (hs : Nat) (l : Line) : h.Hides (h.hcTouch hs l) := by
  unfold Hub.hcTouch
  split
  · next w _ =>
    extract_lets word touched
    have touches : h.Hides touched := by
      unfold touched
      split
      · exact hides_putHc ..
      · exact .refl h
    exact touches.trans (hides_onSlice _ _ _ rfl rfl rfl)
  · exact .refl h

end Sys2Proof.Machine
end

section
/-!
SUPPORT. An `RD_SHARED` whose line the write buffer holds whole has its data at the lookup, and its completion follows (R59, R61, R111).
-/
namespace Sys2Proof.Machine
open Sys2Proof.Safety

/-! ### The ports through reports that send no in-band message -/

theorem sendIrq_quiet {h : Hub} (quiet : noIrq h) (g : Nat) : h.sendIrq g = h := by
  unfold Hub.sendIrq
  extract_lets addr
  refine if_pos ?_
  rcases quiet with suspended | zero
  · simp [suspended]
  · simp [show addr = 0 from zero]

theorem noIrq_congr {h k : Hub} (dev : k.dev = h.dev) (par : k.par = h.par) (quiet : noIrq h) : noIrq k := by
  have word : k.pw 0xB80 = h.pw 0xB80 := by simp only [Hub.pw, par]
  rwa [noIrq, dev, word]

theorem raise_aps {h : Hub} (quiet : noIrq h) (r : Raise) : (h.raise r).aps = h.aps := by
  unfold Hub.raise Hub.deliver
  extract_lets r g old ev marked now m inBand mgmt sent
  have same : sent = marked := by
    unfold sent
    split
    · exact sendIrq_quiet (noIrq_congr (h := h) (k := marked) rfl rfl quiet) g
    · rfl
  rw [same]
  split <;> simp [marked, Hub.emit]

theorem putEntry_aps {h : Hub} (quiet : noIrq h) (hs : Nat) (l : Line) (w : Nat) (v : SView) : (h.putEntry hs l w v).aps = h.aps := by
  have put : (h.putSf hs l.sfSet w (v.word l.sfTag)).aps = h.aps ∧ (h.putSf hs l.sfSet w (v.word l.sfTag)).dev = h.dev ∧
      (h.putSf hs l.sfSet w (v.word l.sfTag)).par = h.par := by simp
  obtain ⟨aps, dev, par⟩ := put
  have still := noIrq_congr dev par quiet
  unfold Hub.putEntry
  extract_lets old put s touched
  split
  · split
    · exact aps
    · exact aps
  · unfold Hub.checkRun
    extract_lets s
    split
    · exact aps
    · split
      · exact aps
      · exact (raise_aps (noIrq_congr (h := put) (k := touched) rfl rfl still) _).trans aps

theorem hears_of_calm {h k : Hub} {a : La} (calm : h.Calm k) (aps : k.aps = h.aps) (H : hears h a) : hears k a := by
  have port : ∀ p, k.ap p = h.ap p := fun p => Hub.ap_congr _ _ p aps
  have online : (k.agent a).online = (h.agent a).online := congrArg (·.online) (calm.agent a)
  have dead : (k.agent a).dead = (h.agent a).dead := congrArg (·.dead) (calm.agent a)
  simpa only [hears, online, dead, calm.agentPort, port] using H

/-! ### The end of a lookup -/

@[simp] theorem Hub.checkLine_frame (h : Hub) (hs : Nat) (l : Line) : (h.checkLine hs l).chNotes = h.chNotes ∧
    (h.checkLine hs l).routeAcks = h.routeAcks ∧ (h.checkLine hs l).slots = h.slots ∧ (h.checkLine hs l).core = h.core ∧
    (h.checkLine hs l).mbx = h.mbx ∧ (h.checkLine hs l).spanBacks = h.spanBacks ∧ (h.checkLine hs l).reads = h.reads := by
  unfold Hub.checkLine Hub.checkRun
  dsimp only
  split
  · simp
  · split <;> simp

theorem keeps_lookupEnd (h : Hub) (hs : Nat) (l : Line) : Hub.Keeps hs h ((h.chainEnd hs l).checkLine hs l) :=
  (caches_chainEnd ..).keeps.trans (keeps_checkLine ..)

theorem eases_lookupEnd (h : Hub) (hs : Nat) (l : Line) : h.Eases ((h.chainEnd hs l).checkLine hs l) :=
  ((caches_chainEnd ..).steadies.eases (by simp)).trans ((keeps_checkLine ..).steadies.eases (by simp))

/-! ### From the source of the data to the settling -/

/-- What the lookup makes of the transaction once the source of its data is sought. -/
def Txn.sharedOpen (y : Txn) (worst : Nat) : Txn := ((Txn.bounded worst y.memRead) y.unhubbed).answeredBy []

/-- The worst close that the lookup finds. -/
def Hub.sharedWorst (h : Hub) (hs : Nat) (x : Txn) (sent memRead : Bool) : Nat :=
  ((h.sharedEntered hs x sent).onTxn hs x.tid Txn.unhubbed).worstFound x memRead

section
variable (h : Hub) (hs : Nat) (x : Txn) (sent : Bool)

theorem steadies_sharedEntered : Hub.Steadies hs (h.sharedSourced hs x sent) (h.sharedEntered hs x sent) := by
  unfold Hub.sharedEntered
  split
  · exact (keeps_putEntry ..).steadies
  · exact steadies_refl ..

theorem eases_sharedEntered : (h.sharedSourced hs x sent).Eases (h.sharedEntered hs x sent) := by
  unfold Hub.sharedEntered
  split
  · exact eases_putEntry ..
  · exact .refl _

theorem eases_sharedBound : (h.sharedSourced hs x sent).Eases (h.sharedBound hs x sent) := by
  have entered := eases_sharedEntered h hs x sent
  unfold Hub.sharedBound
  extract_lets k
  have opens : (h.sharedEntered hs x sent).Eases k := eases_onTxn _ _ _ Txn.unhubbed fun _ => rfl
  have bounds := eases_onTxn k hs x.tid (Txn.bounded (k.worstFound x (k.readsMemory hs x.tid)) (k.readsMemory hs x.tid)) fun _ => rfl
  exact ((entered.trans opens).trans bounds).trans (eases_onTxn _ _ _ (Txn.answeredBy []) fun _ => rfl)

theorem sharedBound_aps : (h.sharedBound hs x sent).aps = (h.sharedEntered hs x sent).aps := rfl

variable {h hs x sent}

theorem sharedBound_txn {y : Txn} (found : (h.sharedSourced hs x sent).txn hs x.tid = some y) (looked : y.phase = .looked) :
    (h.sharedBound hs x sent).txn hs x.tid = some (y.sharedOpen (h.sharedWorst hs x sent y.memRead)) := by
  have entered := steady_txn ((steadies_sharedEntered h hs x sent).slice hs) (looked_busy looked) found
  have same : y.tid = x.tid := txn_tid found
  have opened := txn_onTxn_self entered Txn.unhubbed rfl
  have reads : ((h.sharedEntered hs x sent).onTxn hs x.tid Txn.unhubbed).readsMemory hs x.tid = y.memRead := by
    unfold Hub.readsMemory
    rw [opened]
    rfl
  unfold Hub.sharedBound
  extract_lets k
  rw [show k.readsMemory hs x.tid = y.memRead from reads]
  exact txn_onTxn_self (txn_onTxn_self opened (Txn.bounded (k.worstFound x y.memRead) y.memRead) rfl) (Txn.answeredBy []) rfl

end

/-! ### The data of the write buffer -/

/-- Data has come to a gate from the write buffer. -/
def Txn.fromWb (w : WbLine) (y : Txn) : Txn := { y with gate := { y.gate with
  prep := some (payload w.bytes false w.poison)
  prepSrc := .writeBuffer } }

/-- A whole line of the write buffer is the data; a speculative read is cancelled. -/
theorem prepare_whole {h : Hub} {hs : Nat} {t : Txn} {w : WbLine} (held : h.wbFind hs t.req.line = some w) (whole : w.whole = true)
    (quiet spec sent : Bool) :
    ∃ j, h.Hides j ∧ h.prepare hs t true quiet spec sent = j.onTxn hs t.tid (Txn.fromWb w) := by
  unfold Hub.prepare
  extract_lets l s issued speculated touched cancel give stream lock miss
  have issues : h.Hides issued := hides_issueRead ..
  have speculates : h.Hides speculated := by
    unfold speculated
    split
    · rw [show issued.wbFind hs l = some w from (issues.wbFind hs l).trans held]
      simpa using issues
    · exact .refl h
  have touches : h.Hides touched := by
    unfold touched
    split
    · exact speculates.trans (hides_hcTouch ..)
    · exact speculates
  have cancels : h.Hides (cancel touched) := by
    unfold cancel
    split
    · exact touches.trans (hides_cancelSpec ..)
    · exact touches
  refine ⟨cancel touched, cancels, ?_⟩
  have line : touched.wbFind hs l = some w := (touches.wbFind hs l).trans held
  simp only [Bool.not_true, Bool.false_eq_true, if_false, line, whole, if_true]
  rfl

end Sys2Proof.Machine
end

section
/-!
CERTIFICATE. The lookup of an `RD_SHARED` whose line the write buffer holds whole sends its data, then its completion (R59, R61, R111).
-/
namespace Sys2Proof.Machine
open Sys2Proof.Safety

/-! ### The transaction that has its data -/

/-- The transaction as its settling finds it. -/
def Txn.servedBy (x : Txn) (w : WbLine) (wbData : Bool) (due worst : Nat) : Txn := ((x.looksUp wbData due x).fromWb w).sharedOpen worst

section
variable {x : Txn} (fresh : x.gate = Gate.init) (w : WbLine) (wbData : Bool) (due worst : Nat)

theorem servedBy_dat (d : Payload) : (x.servedBy w wbData due worst).judgedPlain.datMsg d false = x.datMsg d false := rfl

include fresh

theorem servedBy_unasked (plain : x.Plain) : (x.servedBy w wbData due worst).Unasked := by
  refine ⟨⟨plain.local_, plain.here, plain.live, rfl, rfl, rfl, rfl⟩, rfl, ?_, rfl, ?_, fun b => .inr ?_, fun s => ?_, .inr (.inl rfl), ?_⟩
  · exact congrArg (·.judged) fresh
  · exact congrArg (·.fwdWait) fresh
  · exact fun absurd => SView.noConfusion absurd
  · simp [Slice.lossOf, Txn.servedBy, Txn.sharedOpen, Txn.answeredBy, Txn.bounded, Txn.unhubbed, Txn.fromWb, Txn.looksUp]
  · exact congrArg (·.released) fresh

theorem servedBy_choice : (x.servedBy w wbData due worst).judgedPlain.gate.choose = some (payload w.bytes false w.poison, false, .writeBuffer) := by
  have fwd : (x.servedBy w wbData due worst).judgedPlain.gate.fwd = none := congrArg (·.fwd) fresh
  have wb : (x.servedBy w wbData due worst).judgedPlain.gate.wbGate = none := congrArg (·.wbGate) fresh
  have cross : (x.servedBy w wbData due worst).judgedPlain.gate.cross = none := congrArg (·.cross) fresh
  have span : (x.servedBy w wbData due worst).judgedPlain.gate.spanData = none := congrArg (·.spanData) fresh
  have home : (x.servedBy w wbData due worst).judgedPlain.gate.homeData = none := congrArg (·.homeData) fresh
  have prep : (x.servedBy w wbData due worst).judgedPlain.gate.prep = some (payload w.bytes false w.poison) := rfl
  have src : (x.servedBy w wbData due worst).judgedPlain.gate.prepSrc = .writeBuffer := rfl
  simp [Gate.choose, fwd, wb, cross, span, home, prep, src, payload]

theorem servedBy_ready (plain : x.Plain) (op : x.req.op = .rdShared) : (x.servedBy w wbData due worst).judgedPlain.gateReady = true := by
  have chosen := servedBy_choice fresh w wbData due worst
  have req : (x.servedBy w wbData due worst).judgedPlain.req = x.req := rfl
  have here : (x.servedBy w wbData due worst).judgedPlain.spanReq = false := plain.here
  have acks : (x.servedBy w wbData due worst).judgedPlain.gate.acks = 0 := congrArg (·.acks) fresh
  have fwd : (x.servedBy w wbData due worst).judgedPlain.gate.spanFwd = false := congrArg (·.spanFwd) fresh
  have judged : (x.servedBy w wbData due worst).judgedPlain.gate.judged = true := rfl
  have pull : (x.servedBy w wbData due worst).judgedPlain.gate.pullWait = false := rfl
  have asked : (x.servedBy w wbData due worst).judgedPlain.gate.spanAcks = 0 := rfl
  simp [Txn.gateReady, chosen, req, here, acks, fwd, judged, pull, asked, op]

theorem servedBy_cmp (op : x.req.op = .rdShared) : (x.servedBy w wbData due worst).judgedPlain.cmpMsg =
    { agentMsg opCmp x.req.gaid x.req.txid x.req.line x.req.gaid.la with
      grant := gF
      outcome := oDone } := by
  have req : (x.servedBy w wbData due worst).judgedPlain.req = x.req := rfl
  have grant : (x.servedBy w wbData due worst).judgedPlain.gate.grant = gF := rfl
  have outcome : (x.servedBy w wbData due worst).judgedPlain.gate.outcome = 0 := congrArg (·.outcome) fresh
  simp [Txn.cmpMsg, req, Gate.finalGrant, Gate.finalOutcome, op, grant, outcome, ReqOp.isOwn, oDone]

end

/-! ### The command -/

/-- Data and completion of a transaction that has its data go out at its settling. -/
theorem settle_served {k : Hub} {hs : Nat} {x : Txn} (plain : x.Plain) (fresh : x.gate = Gate.init) (op : x.req.op = .rdShared) {w : WbLine}
    {wbData : Bool} {due worst : Nat} (found : k.txn hs x.tid = some (x.servedBy w wbData due worst)) (heard : hears k x.req.gaid.la) :
    k.out ++ [.agent (k.agent x.req.gaid.la).port (x.datMsg (payload w.bytes false w.poison) false),
      .agent (k.agent x.req.gaid.la).port { agentMsg opCmp x.req.gaid x.req.txid x.req.line x.req.gaid.la with
        grant := gF
        outcome := oDone }] <+: (k.settle hs x.tid).out := by
  let y := (x.servedBy w wbData due worst).judgedPlain
  have sent := release_sends (h := k.onTxn hs x.tid Txn.judgedPlain) (hs := hs) (t := y) plain.here plain.live rfl
    (servedBy_choice fresh w wbData due worst) heard
  rw [settle_released found (servedBy_unasked fresh w wbData due worst plain) (servedBy_ready fresh w wbData due worst plain op)]
  rw [servedBy_dat, servedBy_cmp fresh w wbData due worst op] at sent
  exact List.IsPrefix.trans (sent ▸ List.prefix_rfl) (calm_tryClose ..).out

section
variable {h : Hub} {hs : Nat} {x : Txn} {w : WbLine} (view : (h.slice hs).homeView x.req.line = .unc)
  (held : h.wbFind hs x.req.line = some w) (whole : w.whole = true) (sent : Bool)
include view held whole

theorem sharedSourced_whole : ∃ j, (h.sharedFound hs x).Hides j ∧ h.sharedSourced hs x sent = j.onTxn hs x.tid (Txn.fromWb w) :=
  prepare_whole ((sharedFound_wbFind view x.req.line).trans held) whole true _ sent

theorem eases_sharedSourced_whole : h.Eases (h.sharedSourced hs x sent) := by
  obtain ⟨j, hides, sources⟩ := sharedSourced_whole view held whole sent
  rw [sources]
  have gives := eases_onTxn j hs x.tid (Txn.fromWb w) fun _ => rfl
  exact ((eases_sharedFound view).trans hides.eases).trans gives

theorem sharedSourced_whole_txn (found : h.txn hs x.tid = some x) :
    (h.sharedSourced hs x sent).txn hs x.tid = some ((h.lookedTxn hs x x).fromWb w) := by
  obtain ⟨j, hides, sources⟩ := sharedSourced_whole view held whole sent
  rw [sources]
  exact txn_onTxn_self ((hides.txn hs x.tid).trans (sharedFound_txn view found)) (Txn.fromWb w) rfl

theorem sharedBound_whole_aps (quiet : noIrq h) : (h.sharedBound hs x sent).aps = h.aps := by
  obtain ⟨j, hides, sources⟩ := sharedSourced_whole view held whole sent
  obtain ⟨_, form⟩ := sharedFound_form view
  have same : (h.sharedSourced hs x sent).aps = h.aps ∧ (h.sharedSourced hs x sent).dev = h.dev ∧ (h.sharedSourced hs x sent).par = h.par := by
    rw [sources]
    exact ⟨hides.aps.trans (by rw [form]), hides.dev.trans (by rw [form]), hides.par.trans (by rw [form])⟩
  obtain ⟨aps, dev, par⟩ := same
  rw [sharedBound_aps, Hub.sharedEntered]
  split
  · exact (putEntry_aps (noIrq_congr dev par quiet) ..).trans aps
  · exact aps

end

theorem sliceLookup_served {s : State} {ls : BitVec 6} {tid : Byte} {e : LookupErr} {x : Txn} {w : WbLine} (due : LookupDue s.hub ls tid x)
    (clean : cleanLookup s.hub x.req.line e) (op : x.req.op = .rdShared) (view : (s.hub.slice (s.hub.hsOf ls)).homeView x.req.line = .unc)
    (hview : (s.hub.slice (s.hub.hsOf ls)).hubView x.req.line = .none) (held : s.hub.wbFind (s.hub.hsOf ls) x.req.line = some w)
    (whole : w.whole = true) (heard : hears s.hub x.req.gaid.la) (quiet : noIrq s.hub) (sent : Bool) :
    ∃ t, exec (.sliceLookup ls tid e sent) s = .next t ∧ onlyIn lookupParts s t ∧
      ∃ pre rest, t.hub.out = s.hub.out ++ pre ++
        [OutMsg.agent (s.hub.agent x.req.gaid.la).port (x.datMsg (payload w.bytes false w.poison) false),
         .agent (s.hub.agent x.req.gaid.la).port { agentMsg opCmp x.req.gaid x.req.txid x.req.line x.req.gaid.la with
           grant := gF
           outcome := oDone }] ++ rest := by
  obtain ⟨fresh, -⟩ := due.fresh
  have same := txn_tid due.txn
  have found := due.txn
  rw [← same] at found
  have row := sliceLookup_serves due clean sent (by simp [op])
  have alone := due.alone
  generalize s.hub.hsOf ls = hs at row found alone view hview held
  rw [serve_shared op view hview due.here due.local_] at row
  have sourced := eases_sharedSourced_whole view held whole sent
  have bound := sourced.trans (eases_sharedBound s.hub hs x sent)
  have there := sharedBound_txn (sharedSourced_whole_txn view held whole sent found) rfl
  have hearsNow := hears_of_calm bound.toCalm (sharedBound_whole_aps view held whole sent quiet) heard
  have out := settle_served (lookupDue_plain due) fresh op there hearsNow
  have port := bound.agentPort x.req.gaid.la
  generalize s.hub.sharedBound hs x sent = k at row bound out port
  have settled := eases_settle k hs x.tid
  generalize k.settle hs x.tid = j at row settled out
  have ended := eases_lookupEnd j hs x.req.line
  generalize (j.chainEnd hs x.req.line).checkLine hs x.req.line = m at row ended
  have before := (bound.trans settled).trans ended
  have after := eases_afterLookup (h := m) (hs := hs) (l := x.req.line) fun q mem => alone q ((before.slice hs).refused q mem)
  obtain ⟨pre, begun⟩ := bound.out
  obtain ⟨rest, ends⟩ := out.trans (ended.trans after).out
  refine ⟨_, row, onlyIn_lookup (before.trans after).still, pre, rest, ?_⟩
  rw [port, ← begun] at ends
  exact ends.symm

end Sys2Proof.Machine
end

section
/-!
SUPPORT. What leaves the choice of the channel that reads a line (R268, R280), and so the bound of its read.
-/
namespace Sys2Proof.Machine
open Sys2Proof.Safety

/-! ### The choice of a channel -/

/-- A domain that must wake before it serves. -/
def Hub.domAsleep (h : Hub) (key : Nat) : Bool :=
  match h.power.doms.look key with
  | some .asleep | some (.opening _) | some (.waking _ _) => true
  | _ => false

/-- A channel that a read avoids where another holds the line too. -/
def Hub.chanShut (h : Hub) (c : Nat) : Bool :=
  (h.chan c).down || (h.chan c).copying.isSome || h.readPaused c || h.domAsleep (16 + portOfChan c)

/-- The channel of those that hold a line that its read goes to. -/
def chanOf (m : List Nat × Nat × Nat) (shut : Nat → Bool) : Option Nat :=
  match m.1 with
  | [] => none
  | [c] => some c
  | c :: d :: _ =>
    let first := if m.2.2 % 2 = 0 then c else d
    let other := if m.2.2 % 2 = 0 then d else c
    if shut first && !shut other then some other else some first

theorem readChan_eq (h : Hub) (l : Line) : h.readChan l = chanOf (h.lineMap l) h.chanShut := rfl

/-- What the choice of a channel sees of the channel. -/
def Chan.aim (c : Chan) : Bool × Option (Nat × Nat) × List (Nat × Nat) := (c.down, c.copying, c.announced)

/-- `k` chooses the channels of reads as `h` does. -/
structure Hub.Aims (h k : Hub) : Prop where
  round : k.round = h.round
  par : k.par = h.par
  chan : ∀ c, (k.chan c).aim = (h.chan c).aim
  asleep : ∀ key, k.domAsleep key = h.domAsleep key

theorem Hub.Aims.refl (h : Hub) : h.Aims h := ⟨rfl, rfl, fun _ => rfl, fun _ => rfl⟩

theorem Hub.Aims.trans {h k m : Hub} (first : h.Aims k) (second : k.Aims m) : h.Aims m :=
  ⟨second.round.trans first.round, second.par.trans first.par, fun c => (second.chan c).trans (first.chan c),
    fun key => (second.asleep key).trans (first.asleep key)⟩

theorem aims_of_eq {h k : Hub} (round : k.round = h.round) (par : k.par = h.par) (chans : k.chans = h.chans)
    (power : k.power.doms = h.power.doms) : h.Aims k :=
  ⟨round, par, fun c => by rw [Hub.chan, chans, Hub.chan], fun key => by rw [Hub.domAsleep, power, Hub.domAsleep]⟩

theorem Hub.Aims.shut {h k : Hub} (H : h.Aims k) (c : Nat) : k.chanShut c = h.chanShut c := by
  have aim := H.chan c
  simp only [Chan.aim, Prod.mk.injEq] at aim
  obtain ⟨down, copying, announced⟩ := aim
  have bound : k.bound (portOfChan c) = h.bound (portOfChan c) := by rw [Hub.bound, Hub.pw, H.par, Hub.bound, Hub.pw]
  have paused : k.readPaused c = h.readPaused c := by rw [Hub.readPaused, announced, H.round, bound, Hub.readPaused]
  simp only [Hub.chanShut, down, copying, paused, H.asleep]

theorem Hub.Aims.readChan {h k : Hub} (H : h.Aims k) (l : Line) : k.readChan l = h.readChan l := by
  have map : k.lineMap l = h.lineMap l := by simp only [Hub.lineMap, Hub.winOf, Hub.winBase, Hub.winCfg, Hub.pw, H.par]
  rw [readChan_eq, readChan_eq, map, show k.chanShut = h.chanShut from funext H.shut]

theorem Hub.Aims.boundOf {h k : Hub} (H : h.Aims k) (l : Line) : k.boundOf l = h.boundOf l := by
  simp only [Hub.boundOf, H.readChan, Hub.bound, Hub.pw, H.par]

/-! ### Domains that a message wakes (R319, R320) -/

theorem domAsleep_domReady (h : Hub) (d : Domain) (key : Nat) : (h.domReady d).1.domAsleep key = h.domAsleep key := by
  have dropped : ∀ st, h.power.doms.look (domKey d) = some (.closing st) → ∀ k : Hub, k.power.doms = h.power.doms.drop (domKey d) →
      k.domAsleep key = h.domAsleep key := by
    intro st found k doms
    unfold Hub.domAsleep
    rw [doms]
    by_cases own : key = domKey d
    · rw [own, found, Tbl.look_drop_self]
    · rw [Tbl.look_drop_ne _ _ _ own]
  unfold Hub.domReady
  split
  · rfl
  · rfl
  · next st found =>
    refine dropped st found _ ?_
    cases d <;> rfl
  · rfl

theorem aims_domReady (h : Hub) (d : Domain) : h.Aims (h.domReady d).1 :=
  ⟨by simp, by simp, fun c => by rw [Hub.chan, show (h.domReady d).1.chans = h.chans by simp, Hub.chan], domAsleep_domReady h d⟩

theorem aims_sendDev (h : Hub) (r : DevReq) : h.Aims (h.sendDev r) := by
  have passes : h.Aims (h.passOrStall (h.agent r.target).port epDev r.reqMsg).1 := aims_of_eq (by simp) (by simp) (by simp) (by simp)
  unfold Hub.sendDev
  dsimp only
  split
  · exact passes.trans (aims_of_eq rfl rfl rfl rfl)
  · exact passes

theorem aims_devPumpList (l : List DevReq) : ∀ (b : List (Gaid × Nat)) (h : Hub), h.Aims (Hub.devPumpList l b h) := by
  induction l with
  | nil => exact fun _ h => .refl h
  | cons r l ih =>
    intro b h
    have ready : h.Aims (h.apReady (h.agent r.target).port).1 := aims_domReady ..
    unfold Hub.devPumpList
    dsimp only
    split
    · exact ih _ _
    · split
      · exact ih _ _
      · split
        · refine (ready.trans (aims_of_eq ?_ ?_ ?_ ?_)).trans ((aims_sendDev _ r).trans (ih _ _))
          all_goals rfl
        · exact ready.trans (ih _ _)

theorem aims_sendIrq (h : Hub) (g : Nat) : h.Aims (h.sendIrq g) := by
  unfold Hub.sendIrq
  dsimp only
  split
  · exact .refl h
  · split
    · exact .refl h
    · split
      · refine Hub.Aims.trans (aims_of_eq ?_ ?_ ?_ ?_) (aims_devPumpList _ [] _)
        all_goals rfl
      · exact aims_of_eq rfl rfl rfl rfl

theorem aims_raise (h : Hub) (r : Raise) : h.Aims (h.raise r) := by
  unfold Hub.raise Hub.deliver
  extract_lets r g old ev marked now m inBand mgmt sent
  have marks : h.Aims marked := aims_of_eq rfl rfl rfl rfl
  have sends : marked.Aims sent := by
    unfold sent
    split
    · exact aims_sendIrq ..
    · exact .refl marked
  split
  · exact (marks.trans sends).trans (aims_of_eq rfl rfl rfl rfl)
  · exact marks.trans sends

theorem aims_putEntry (h : Hub) (hs : Nat) (l : Line) (w : Nat) (v : SView) : h.Aims (h.putEntry hs l w v) := by
  have puts : h.Aims (h.putSf hs l.sfSet w (v.word l.sfTag)) := by
    unfold Hub.putSf Hub.onMirrored
    split
    · exact aims_of_eq rfl rfl rfl rfl
    · exact aims_of_eq rfl rfl rfl rfl
  unfold Hub.putEntry
  extract_lets old put s touched
  have touches : h.Aims touched := puts.trans (aims_of_eq rfl rfl rfl rfl)
  split
  · split
    · exact puts.trans (aims_of_eq rfl rfl rfl rfl)
    · exact puts.trans (aims_of_eq rfl rfl rfl rfl)
  · unfold Hub.checkRun
    extract_lets s
    split
    · exact touches
    · split
      · exact touches.trans (aims_of_eq rfl rfl rfl rfl)
      · exact touches.trans (aims_raise ..)

/-! ### Reads that are sent (R274) -/

theorem aims_onChan (h : Hub) (c : Nat) (f : Chan → Chan) (kept : ∀ x, (f x).aim = x.aim) : h.Aims (h.onChan c f) := by
  refine ⟨rfl, rfl, fun d => ?_, fun _ => rfl⟩
  unfold Hub.chan Hub.onChan
  rw [Tbl.getD_upd]
  split
  · next own => rw [kept, own]
  · rfl

theorem aims_checkPressure (h : Hub) (c : Nat) : h.Aims (h.checkPressure c) := by
  unfold Hub.checkPressure
  extract_lets n wm set
  have sets : ∀ on, h.Aims (set on) := fun on =>
    (aims_onChan h c (fun x => { x with pressure := on }) fun _ => rfl).trans (aims_of_eq rfl rfl rfl rfl)
  split
  · exact sets true
  · split
    · exact sets false
    · exact .refl h

theorem aims_useGrants (l : List (Nat × Nat)) : ∀ h : Hub, h.Aims (h.useGrants l) := by
  unfold Hub.useGrants
  induction l with
  | nil => exact .refl
  | cons g l ih =>
    intro h
    have used : h.Aims (h.useGrant g.1 g.2) := aims_of_eq rfl rfl rfl rfl
    exact used.trans (ih _)

theorem aims_count (h : Hub) (ev unit n : Nat) : h.Aims (h.count ev unit n) := aims_of_eq (by simp) (by simp) (by simp) (by simp)

end Sys2Proof.Machine
end

section
/-!
SUPPORT. The memory read of an `RD_SHARED` that misses (R61, R111, R118, R119): issued now, or the speculative one promoted; none of the reads
then waits for its delivery by an edge router.
-/
namespace Sys2Proof.Machine
open Sys2Proof.Safety

/-! ### The search for data -/

/-- `k` is `h` after steps of the search for data: they leave the transactions and the write buffer of the slice, and the choice of channels. -/
structure Hub.Seeks (hs : Nat) (h k : Hub) : Prop where
  eases : h.Eases k
  aims : h.Aims k
  txn : ∀ tid, k.txn hs tid = h.txn hs tid
  wbFind : ∀ l, k.wbFind hs l = h.wbFind hs l

theorem Hub.Seeks.refl (hs : Nat) (h : Hub) : Hub.Seeks hs h h := ⟨.refl h, .refl h, fun _ => rfl, fun _ => rfl⟩

theorem Hub.Seeks.trans {hs : Nat} {h k m : Hub} (first : Hub.Seeks hs h k) (second : Hub.Seeks hs k m) : Hub.Seeks hs h m :=
  ⟨first.eases.trans second.eases, first.aims.trans second.aims, fun tid => (second.txn tid).trans (first.txn tid),
    fun l => (second.wbFind l).trans (first.wbFind l)⟩

theorem seeks_of_slices {hs : Nat} {h k : Hub} (eases : h.Eases k) (aims : h.Aims k) (slices : k.slices = h.slices)
    (spill : k.spill = h.spill) : Hub.Seeks hs h k :=
  ⟨eases, aims, fun tid => txn_congr (by rw [Hub.slice_congr k h hs slices]) tid,
    fun l => wbFind_congr (by rw [Hub.slice_congr k h hs slices]) spill l⟩

theorem Hub.Hides.seeks {hs : Nat} {h k : Hub} (H : h.Hides k) (aims : h.Aims k) : Hub.Seeks hs h k :=
  ⟨H.eases, aims, H.txn hs, H.wbFind hs⟩

theorem seeks_count (hs : Nat) (h : Hub) (ev unit n : Nat) : Hub.Seeks hs h (h.count ev unit n) := (hides_count ..).seeks (aims_count ..)

theorem seeks_reads (hs : Nat) (h : Hub) (f : List MemRead) : Hub.Seeks hs h { h with reads := f } :=
  seeks_of_slices (eases_of_eq rfl rfl rfl rfl rfl (by simp)) (aims_of_eq rfl rfl rfl rfl) rfl rfl

theorem eases_checkPressure (h : Hub) (c : Nat) : h.Eases (h.checkPressure c) := by
  refine eases_of_eq (by simp) ?_ ?_ (by simp) (by simp) (by simp)
  all_goals
    unfold Hub.checkPressure
    dsimp only
    split
    · rfl
    · split <;> rfl

theorem seeks_checkPressure (hs : Nat) (h : Hub) (c : Nat) : Hub.Seeks hs h (h.checkPressure c) :=
  seeks_of_slices (eases_checkPressure h c) (aims_checkPressure h c) (by simp) (by simp)

theorem aims_issueRead (h : Hub) (hs : Nat) (l : Line) (who : ReadFor) (spec crit lk : Bool) (aop : Option Req) :
    h.Aims (h.issueRead hs l who spec crit lk aop) := by
  unfold Hub.issueRead
  split
  · exact .refl h
  · next c _ =>
    extract_lets r rd isTxn k issued
    have issues : h.Aims issued := aims_of_eq (by simp [issued, k, r]) (by simp [issued, k, r]) (by simp [issued, k, r]) (by simp [issued, k, r])
    clear_value isTxn
    split
    · exact (issues.trans (aims_count ..)).trans (aims_count ..)
    · split
      · exact issues
      · exact issues.trans (aims_checkPressure ..)

theorem seeks_issueRead (h : Hub) (hs : Nat) (l : Line) (who : ReadFor) (spec crit lk : Bool) (aop : Option Req) :
    Hub.Seeks hs h (h.issueRead hs l who spec crit lk aop) := (hides_issueRead ..).seeks (aims_issueRead ..)

theorem seeks_hcTouch (h : Hub) (hs : Nat) (l : Line) : Hub.Seeks hs h (h.hcTouch hs l) :=
  (hides_hcTouch ..).seeks (aims_of_eq (by simp) (by simp) (by simp) (by simp))

theorem eases_domReady (h : Hub) (n : BitVec 3) : h.Eases (h.domReady (.mp n)).1 := by
  unfold Hub.domReady
  split
  · exact .refl h
  · exact .refl h
  · exact eases_of_eq rfl rfl rfl rfl rfl (by simp)
  · exact eases_of_eq rfl rfl rfl rfl rfl (by simp)

theorem seeks_sendRead (hs : Nat) (h : Hub) (c : Nat) (r : MemRead) : Hub.Seeks hs h (h.sendRead c r) := by
  refine seeks_of_slices ?_ ?_ (by simp) (by simp)
  all_goals
    unfold Hub.sendRead
    extract_lets k granted n noted used
  · have ready : h.Eases k.1 := eases_domReady ..
    have grants : k.1.Eases granted := (eases_useGrants ..).trans (eases_toMem ..)
    have notes : granted.Eases noted := eases_of_eq (h := granted) (k := noted) rfl rfl rfl rfl rfl (by simp [noted, Hub.onRead])
    have uses : noted.Eases used := eases_of_eq (h := noted) (k := used) rfl rfl rfl rfl rfl (by simp [used])
    exact eases_ite ready ((((ready.trans grants).trans notes).trans uses).trans ((eases_count ..).trans (eases_checkPressure ..)))
  · have ready : h.Aims k.1 := aims_domReady ..
    have sends : (k.1.useGrants (h.readGrants c r)).Aims granted := aims_of_eq rfl rfl rfl rfl
    have notes : granted.Aims noted := aims_of_eq rfl rfl rfl rfl
    have uses : noted.Aims used := aims_onChan _ _ _ fun _ => rfl
    split
    · exact ready
    · exact ((((ready.trans (aims_useGrants _ _)).trans sends).trans notes).trans uses).trans ((aims_count ..).trans (aims_checkPressure ..))

theorem seeks_sendEarly (hs : Nat) (h : Hub) (l : Line) (tid : Byte) : Hub.Seeks hs h (h.sendEarly l tid) := by
  unfold Hub.sendEarly
  split
  · exact .refl hs h
  · split
    · exact .refl hs h
    · split
      · split
        · exact seeks_sendRead ..
        · exact .refl hs h
      · exact .refl hs h

theorem seeks_promoteRead {h k : Hub} {hs : Nat} {l : Line} {tid : Byte} {crit : Bool} (promoted : h.promoteRead hs l tid crit = some k) :
    Hub.Seeks hs h k := by
  unfold Hub.promoteRead at promoted
  extract_lets mine marked at promoted
  split at promoted
  · cases promoted
    have marks : Hub.Seeks hs h marked := seeks_reads ..
    exact marks.trans ((hides_onSlice marked hs _ rfl rfl rfl).seeks (aims_of_eq rfl rfl rfl rfl))
  · cases promoted

theorem seeks_demandRead (h : Hub) (hs : Nat) (l : Line) (tid : Byte) (crit : Bool) (fill : Option Bool) :
    Hub.Seeks hs h (h.demandRead hs l tid crit fill) := by
  unfold Hub.demandRead
  extract_lets issued filled
  have issues : Hub.Seeks hs h issued := by
    unfold issued
    split
    · next k promoted => exact seeks_promoteRead promoted
    · exact seeks_issueRead ..
  have fills : Hub.Seeks hs issued filled := seeks_reads ..
  split
  · exact (issues.trans fills).trans (seeks_checkPressure ..)
  · exact issues.trans fills

/-! ### The reads -/

/-- A read that no edge router delivers; one of the line has not come back at all. -/
def MemRead.Idle (l : Line) (r : MemRead) : Prop := r.deliverable = false ∧ (r.line = l → r.held = none)

/-- A read of the line that a transaction may take as its own (R119). -/
def MemRead.mine (l : Line) (r : MemRead) : Bool :=
  r.line == l && r.dec != .cancelled && !r.lk && !r.stale && match r.who with
    | .txn _ | .prefetch _ | .chain => true
    | _ => false

/-- The transaction has its read, and nothing waits for its delivery by an edge router. -/
def Hub.Fetches (h : Hub) (l : Line) (tid : Byte) : Prop :=
  noHeldData h ∧ ∃ r ∈ h.reads, r.line = l ∧ r.who = .txn tid ∧ r.spec = false

theorem undelivered {r : MemRead} (none : r.held = none) : r.deliverable = false := by simp [MemRead.deliverable, none]

/-- A read but for its sending. -/
def MemRead.unsent (r : MemRead) : MemRead := { r with
  sent := false
  pres := none }

theorem idle_unsent {l : Line} {a b : MemRead} (same : a.unsent = b.unsent) (H : b.Idle l) : a.Idle l := by
  have line : a.line = b.line := (congrArg (fun r : MemRead => r.line) same : a.unsent.line = b.unsent.line)
  have held : a.held = b.held := (congrArg (fun r : MemRead => r.held) same : a.unsent.held = b.unsent.held)
  have deliverable : a.deliverable = b.deliverable :=
    (congrArg MemRead.deliverable same : a.unsent.deliverable = b.unsent.deliverable)
  rwa [MemRead.Idle, line, held, deliverable]

theorem mine_unsent {l : Line} {a b : MemRead} (same : a.unsent = b.unsent) (H : b.mine l = true) : a.mine l = true := by
  have mine : a.mine l = b.mine l := (congrArg (MemRead.mine l) same : a.unsent.mine l = b.unsent.mine l)
  rwa [mine]

theorem issueRead_reads {h : Hub} {hs c : Nat} {l : Line} (chan : h.readChan l = some c) (who : ReadFor) (spec crit lk : Bool)
    (aop : Option Req) : ∃ tag, (h.issueRead hs l who spec crit lk aop).reads = h.reads ++ [h.newRead c hs tag l who spec crit lk aop] := by
  unfold Hub.issueRead
  split
  · next absent => rw [chan] at absent; cases absent
  · next d found =>
    rw [chan] at found
    cases found
    extract_lets r rd isTxn k issued
    refine ⟨r.1, ?_⟩
    have issues : issued.reads = h.reads ++ [rd] := by simp [issued, k, r]
    clear_value isTxn
    split
    · simp [issues, rd]
    · split
      · exact issues
      · simp [issues, rd]

/-- A step of the search that only sends reads. -/
def Hub.SendsOnly (h k : Hub) : Prop := List.map MemRead.unsent k.reads = List.map MemRead.unsent h.reads

theorem sendRead_only (h : Hub) (c : Nat) (r : MemRead) : h.SendsOnly (h.sendRead c r) := by
  unfold Hub.SendsOnly Hub.sendRead
  extract_lets k granted n noted used
  split
  · simp [k]
  · have before : granted.reads = h.reads := by simp [granted, k]
    have after : ((used.count 0x032 (0x60 + portOfChan c) 1).checkPressure c).reads = noted.reads := by simp [used]
    rw [after, ← before]
    unfold noted Hub.onRead List.mapIf
    dsimp only
    rw [List.map_map]
    refine List.map_congr_left fun x _ => ?_
    dsimp only [Function.comp]
    split <;> rfl

theorem sendEarly_only (h : Hub) (l : Line) (tid : Byte) : h.SendsOnly (h.sendEarly l tid) := by
  unfold Hub.sendEarly
  split
  · rfl
  · split
    · rfl
    · split
      · split
        · exact sendRead_only ..
        · rfl
      · rfl

theorem Hub.SendsOnly.find {h k : Hub} (H : h.SendsOnly k) : ∀ r ∈ k.reads, ∃ q ∈ h.reads, r.unsent = q.unsent := by
  intro r mem
  have there : r.unsent ∈ List.map MemRead.unsent h.reads := H ▸ List.mem_map_of_mem mem
  obtain ⟨q, mem, same⟩ := List.mem_map.1 there
  exact ⟨q, mem, same.symm⟩

theorem Hub.SendsOnly.symm {h k : Hub} (H : h.SendsOnly k) : k.SendsOnly h := Eq.symm H

/-! ### The read that a miss demands -/

theorem newRead_idle {h : Hub} {c hs : Nat} {tag : Txid} {l : Line} {who : ReadFor} {spec crit lk : Bool} {aop : Option Req}
    (up : (h.chan c).down = false) : (h.newRead c hs tag l who spec crit lk aop).Idle l := by
  have none : (h.newRead c hs tag l who spec crit lk aop).held = none := by simp [Hub.newRead, up]
  exact ⟨undelivered none, fun _ => none⟩

/-- Of a read, what its promotion makes for a transaction (R119). -/
def MemRead.promoted (r : MemRead) (tid : Byte) (crit : Bool) (n : Nat) : MemRead := { r with
  spec := false, dec := .promoted, who := .txn tid, crit := crit, pres := r.pres.or (some n) }

/-- The read that a demand finds or issues, before its fill is noted. -/
def Hub.demanded (h : Hub) (hs : Nat) (l : Line) (tid : Byte) (crit : Bool) : Hub :=
  match h.promoteRead hs l tid crit with
  | some k => k
  | none => h.issueRead hs l (.txn tid) false crit false none

theorem demandRead_reads (h : Hub) (hs : Nat) (l : Line) (tid : Byte) (crit : Bool) (fill : Option Bool) :
    (h.demandRead hs l tid crit fill).reads =
      List.mapIf (fun r => r.line == l && r.who == .txn tid) (fun r => { r with fill := fill }) (h.demanded hs l tid crit).reads := by
  unfold Hub.demandRead
  extract_lets issued filled
  split
  · exact (show (filled.checkPressure _).reads = filled.reads by simp)
  · rfl

theorem promoteRead_finds {h : Hub} {hs : Nat} {l : Line} {tid : Byte} {crit : Bool} (there : ∃ r ∈ h.reads, r.mine l = true) :
    ∃ k, h.promoteRead hs l tid crit = some k ∧ k.reads = List.mapIf (MemRead.mine l) (fun r => r.promoted tid crit h.round) h.reads :=
  ⟨_, if_pos (List.any_eq_true.2 there), rfl⟩

theorem promoteRead_none {h : Hub} {hs : Nat} {l : Line} {tid : Byte} {crit : Bool} (off : ∀ r ∈ h.reads, r.line ≠ l) :
    h.promoteRead hs l tid crit = none := by
  refine if_neg fun any => ?_
  obtain ⟨r, mem, mine⟩ := List.any_eq_true.1 any
  simp [off r mem] at mine

theorem fetches_fill {h k : Hub} {l : Line} {tid : Byte} {p : MemRead → Bool} {fill : Option Bool} (H : h.Fetches l tid)
    (reads : k.reads = List.mapIf p (fun r => { r with fill := fill }) h.reads) : k.Fetches l tid := by
  obtain ⟨quiet, r, mem, line, who, spec⟩ := H
  refine ⟨fun q there => ?_, if p r then { r with fill := fill } else r, ?_, ?_⟩
  · rw [reads] at there
    obtain ⟨o, mem, rfl⟩ := List.mem_map.1 there
    split
    · exact quiet o mem
    · exact quiet o mem
  · rw [reads]
    exact List.mem_map_of_mem (f := fun r => if p r then { r with fill := fill } else r) mem
  · split
    · exact ⟨line, who, spec⟩
    · exact ⟨line, who, spec⟩

theorem fetches_promoted {h : Hub} {hs : Nat} {l : Line} {tid : Byte} {crit : Bool} (idle : ∀ r ∈ h.reads, r.Idle l)
    (there : ∃ r ∈ h.reads, r.mine l = true) : (h.demanded hs l tid crit).Fetches l tid := by
  obtain ⟨k, promotes, reads⟩ := promoteRead_finds (hs := hs) (tid := tid) (crit := crit) there
  have lines : ∀ r : MemRead, r.mine l = true → r.line = l := fun r mine => by
    simp only [MemRead.mine, Bool.and_eq_true, beq_iff_eq] at mine
    obtain ⟨⟨⟨⟨line, -⟩, -⟩, -⟩, -⟩ := mine
    exact line
  obtain ⟨r, mem, mine⟩ := there
  unfold Hub.demanded
  rw [promotes]
  refine ⟨fun q there => ?_, r.promoted tid crit h.round, ?_, lines r mine, rfl, rfl⟩
  · rw [reads] at there
    obtain ⟨o, mem, rfl⟩ := List.mem_map.1 there
    obtain ⟨rests, held⟩ := idle o mem
    split
    · next mine => exact undelivered (held (lines o mine))
    · exact rests
  · rw [reads]
    refine List.mem_map.2 ⟨r, mem, ?_⟩
    rw [if_pos mine]

theorem fetches_issued {h : Hub} {hs c : Nat} {l : Line} {tid : Byte} {crit : Bool} (quiet : noHeldData h)
    (off : ∀ r ∈ h.reads, r.line ≠ l) (chan : h.readChan l = some c) (up : (h.chan c).down = false) :
    (h.demanded hs l tid crit).Fetches l tid := by
  obtain ⟨tag, reads⟩ := issueRead_reads (hs := hs) chan (.txn tid) false crit false none
  unfold Hub.demanded
  rw [promoteRead_none off]
  refine ⟨fun q there => ?_, h.newRead c hs tag l (.txn tid) false crit false none, ?_, rfl, rfl, rfl⟩
  · rw [reads] at there
    rcases List.mem_append.1 there with old | new
    · exact quiet q old
    · rw [List.mem_singleton.1 new]
      exact (newRead_idle up).1
  · rw [reads]
    exact List.mem_append_right _ (List.mem_singleton.2 rfl)

end Sys2Proof.Machine
end

section
/-!
SUPPORT. The source of an `RD_SHARED` that misses (R61, R111, R118), and the worst close that its lookup then finds (R40).
-/
namespace Sys2Proof.Machine
open Sys2Proof.Safety

/-- The transaction waits for its memory read. -/
def Txn.fromMemory (y : Txn) : Txn := { y with
  memRead := true
  lock := false
  gate := { y.gate with prepSrc := .memory } }

/-! ### The read that is demanded -/

section
variable {h : Hub} {hs c : Nat} {l : Line} {tid : Byte} {crit : Bool} (quiet : noHeldData h) (off : ∀ r ∈ h.reads, r.line ≠ l)
  (chan : h.readChan l = some c) (up : (h.chan c).down = false)
include quiet off chan up

/-- A speculative read is there to be promoted, sent or not. -/
theorem speculative_mine {k : Hub} (sends : (h.issueRead hs l (.txn tid) true crit false none).SendsOnly k) :
    (∀ r ∈ k.reads, r.Idle l) ∧ ∃ r ∈ k.reads, r.mine l = true := by
  obtain ⟨tag, reads⟩ := issueRead_reads (hs := hs) chan (.txn tid) true crit false none
  have new : (h.newRead c hs tag l (.txn tid) true crit false none).mine l = true := by
    simp [MemRead.mine, Hub.newRead]
  constructor
  · intro r mem
    obtain ⟨q, there, same⟩ := sends.find r mem
    refine idle_unsent same ?_
    rw [reads] at there
    rcases List.mem_append.1 there with old | issued
    · exact ⟨quiet q old, fun line => absurd line (off q old)⟩
    · rw [List.mem_singleton.1 issued]
      exact newRead_idle up
  · obtain ⟨q, there, same⟩ := sends.symm.find (h.newRead c hs tag l (.txn tid) true crit false none)
      (reads ▸ List.mem_append_right _ (List.mem_singleton.2 rfl))
    exact ⟨q, there, mine_unsent same.symm new⟩

end

/-- A line that is nowhere is read from memory, whether its read went out before or not. -/
theorem prepare_misses {h : Hub} {hs c : Nat} {t : Txn} (nothing : h.wbFind hs t.req.line = none)
    (cold : (h.slice hs).hcValue t.req.line = none) (still : noHeldData h) (off : ∀ r ∈ h.reads, r.line ≠ t.req.line)
    (chan : h.readChan t.req.line = some c) (up : (h.chan c).down = false) (op : t.req.op = .rdShared) (quiet spec sent : Bool) :
    ∃ j, Hub.Seeks hs h j ∧ j.Fetches t.req.line t.tid ∧
      h.prepare hs t true quiet spec sent = (j.onTxn hs t.tid Txn.fromMemory).nextLine t.req.line t.req.stream := by
  unfold Hub.prepare
  extract_lets l s issued speculated touched cancel give stream lock miss
  let begun := if sent && (issued.wbFind hs l).isNone then issued.sendEarly l t.tid else issued
  have issues : Hub.Seeks hs h issued := seeks_issueRead ..
  have begins : Hub.Seeks hs issued begun ∧ issued.SendsOnly begun := by
    unfold begun
    split
    · exact ⟨seeks_sendEarly .., sendEarly_only ..⟩
    · exact ⟨.refl hs issued, rfl⟩
  obtain ⟨goes, sends⟩ := begins
  have speculates : Hub.Seeks hs h speculated := by
    unfold speculated
    split
    · exact issues.trans goes
    · exact .refl hs h
  have touches : Hub.Seeks hs speculated touched ∧ touched.reads = speculated.reads := by
    unfold touched
    split
    · exact ⟨seeks_hcTouch .., by simp⟩
    · exact ⟨.refl hs speculated, rfl⟩
  obtain ⟨marks, same⟩ := touches
  let counted := touched.count 0x011 l.ls.toNat 1
  have seeks : Hub.Seeks hs h counted := (speculates.trans marks).trans (seeks_count ..)
  have reads : counted.reads = speculated.reads := Eq.trans (by simp [counted]) same
  have demands : (counted.demanded hs l t.tid t.req.crit).Fetches l t.tid := by
    cases on : spec with
    | true =>
      obtain ⟨idle, there⟩ := speculative_mine (tid := t.tid) (crit := t.req.crit) still off chan up sends
      have begun : counted.reads = begun.reads := reads.trans (by simp [speculated, on, begun])
      exact fetches_promoted (by rwa [begun]) (by rwa [begun])
    | false =>
      have none : counted.reads = h.reads := reads.trans (by simp [speculated, on])
      have down : (counted.chan c).down = false := by
        rw [← up]
        exact congrArg (·.1) (seeks.aims.chan c)
      refine fetches_issued (fun r mem => still r (none ▸ mem)) (fun r mem => off r (none ▸ mem)) ((seeks.aims.readChan l).trans chan) down
  refine ⟨counted.demandRead hs l t.tid t.req.crit (some t.req.stream), seeks.trans (seeks_demandRead ..),
    fetches_fill demands (demandRead_reads ..), ?_⟩
  have missing : touched.wbFind hs l = none := ((speculates.trans marks).wbFind l).trans nothing
  have value : s.hcValue l = none := cold
  have unlocked : lock = false := by simp [lock, op]
  simp only [Bool.not_true, Bool.false_eq_true, if_false, missing]
  unfold miss
  rw [value, unlocked]
  simp only [op, ReqOp.needsBase, Bool.false_eq_true, if_false]
  rfl

/-! ### The miss of a lookup -/

theorem eases_nextLine (h : Hub) (l : Line) (stream : Bool) : h.Eases (h.nextLine l stream) := by
  unfold Hub.nextLine
  exact eases_ite (.refl h) (eases_of_eq rfl rfl rfl rfl rfl (by simp))

theorem aims_nextLine (h : Hub) (l : Line) (stream : Bool) : h.Aims (h.nextLine l stream) :=
  aims_of_eq (by simp) (by simp) (by simp) (by simp)

/-- The line that the lookup of `x` is for is nowhere, and a channel that is up can read it. -/
structure Hub.Misses (h : Hub) (hs c : Nat) (x : Txn) : Prop where
  op : x.req.op = .rdShared
  view : (h.slice hs).homeView x.req.line = .unc
  nothing : h.wbFind hs x.req.line = none
  cold : (h.slice hs).hcValue x.req.line = none
  unread : h.readOut x.req.line = false
  still : noHeldData h
  chan : h.readChan x.req.line = some c
  up : (h.chan c).down = false

section
variable {h : Hub} {hs c : Nat} {x : Txn} (miss : h.Misses hs c x)
include miss

theorem sharedSourced_miss (sent : Bool) : ∃ j, Hub.Seeks hs (h.sharedFound hs x) j ∧ j.Fetches x.req.line x.tid ∧
    h.sharedSourced hs x sent = (j.onTxn hs x.tid Txn.fromMemory).nextLine x.req.line x.req.stream := by
  obtain ⟨nru, used, back, helds, slice⟩ := sharedFound_slice miss.view
  obtain ⟨sl, form⟩ := sharedFound_form miss.view
  have aims : h.Aims (h.sharedFound hs x) := by
    rw [form]
    exact aims_of_eq rfl rfl rfl rfl
  have reads : (h.sharedFound hs x).reads = h.reads := by rw [form]
  have up : ((h.sharedFound hs x).chan c).down = false := by
    rw [form]
    exact miss.up
  have off : ∀ r ∈ (h.sharedFound hs x).reads, r.line ≠ x.req.line := by
    rw [reads]
    intro r mem
    simpa using List.any_eq_false.1 miss.unread r mem
  refine prepare_misses (t := h.lookedTxn hs x x) ((sharedFound_wbFind miss.view _).trans miss.nothing) ?_ ?_ off
    ((aims.readChan _).trans miss.chan) up miss.op true _ sent
  · rw [slice]
    exact miss.cold
  · intro r mem
    exact miss.still r (reads ▸ mem)

theorem aims_sharedSourced (sent : Bool) : h.Aims (h.sharedSourced hs x sent) := by
  obtain ⟨j, seeks, -, sources⟩ := sharedSourced_miss miss sent
  obtain ⟨sl, form⟩ := sharedFound_form miss.view
  have found : h.Aims (h.sharedFound hs x) := by
    rw [form]
    exact aims_of_eq rfl rfl rfl rfl
  have marks : j.Aims (j.onTxn hs x.tid Txn.fromMemory) := aims_of_eq rfl rfl rfl rfl
  rw [sources]
  exact ((found.trans seeks.aims).trans marks).trans (aims_nextLine ..)

theorem eases_sharedSourced_miss (sent : Bool) : h.Eases (h.sharedSourced hs x sent) := by
  obtain ⟨j, seeks, -, sources⟩ := sharedSourced_miss miss sent
  have marks := eases_onTxn j hs x.tid Txn.fromMemory fun _ => rfl
  rw [sources]
  exact (((eases_sharedFound miss.view).trans seeks.eases).trans marks).trans (eases_nextLine ..)

theorem sharedSourced_miss_txn (found : h.txn hs x.tid = some x) (sent : Bool) :
    (h.sharedSourced hs x sent).txn hs x.tid = some (h.lookedTxn hs x x).fromMemory := by
  obtain ⟨j, seeks, -, sources⟩ := sharedSourced_miss miss sent
  have there := txn_onTxn_self ((seeks.txn x.tid).trans (sharedFound_txn miss.view found)) Txn.fromMemory rfl
  rw [sources]
  refine (txn_congr ?_ x.tid).trans there
  rw [Hub.slice_congr _ (j.onTxn hs x.tid Txn.fromMemory) hs (by simp)]

theorem fetches_sharedBound (sent : Bool) : (h.sharedBound hs x sent).Fetches x.req.line x.tid := by
  obtain ⟨j, -, ⟨still, there⟩, sources⟩ := sharedSourced_miss miss sent
  have sourced : (h.sharedSourced hs x sent).reads = j.reads := by
    rw [sources]
    simp
  have entered : (h.sharedBound hs x sent).reads = j.reads := by
    rw [← sourced]
    change (h.sharedEntered hs x sent).reads = _
    unfold Hub.sharedEntered
    split
    · simp
    · rfl
  exact ⟨fun r mem => still r (entered ▸ mem), entered ▸ there⟩

theorem sharedWorst_miss (sent : Bool) : h.sharedWorst hs x sent true = x.acc + 6 + h.boundOf x.req.line := by
  have entered : (h.sharedSourced hs x sent).Aims (h.sharedEntered hs x sent) := by
    unfold Hub.sharedEntered
    split
    · exact aims_putEntry ..
    · exact .refl _
  have opened : (h.sharedEntered hs x sent).Aims ((h.sharedEntered hs x sent).onTxn hs x.tid Txn.unhubbed) := aims_of_eq rfl rfl rfl rfl
  have bound := (((aims_sharedSourced miss sent).trans entered).trans opened).boundOf x.req.line
  rw [Hub.sharedWorst, Hub.worstFound, bound, if_pos rfl, Nat.add_assoc]

end

end Sys2Proof.Machine
end

section
/-!
SUPPORT. What waited for a lookup leaves the transaction that it found and the reads (R84, R128, R217).
-/
namespace Sys2Proof.Machine
open Sys2Proof.Safety

/-- A transaction that waits for no way and for no predecessor, and the reads, are as they were. -/
structure Hub.Stays (hs : Nat) (tid : Byte) (h k : Hub) : Prop where
  reads : k.reads = h.reads
  txn : ∀ y : Txn, ¬y.Waits → h.txn hs tid = some y → k.txn hs tid = some y

section
variable {hs : Nat} {tid : Byte}

theorem Hub.Stays.refl (h : Hub) : Hub.Stays hs tid h h := ⟨rfl, fun _ _ found => found⟩

theorem Hub.Stays.trans {h k m : Hub} (first : Hub.Stays hs tid h k) (second : Hub.Stays hs tid k m) : Hub.Stays hs tid h m :=
  ⟨second.reads.trans first.reads, fun y busy found => second.txn y busy (first.txn y busy found)⟩

theorem stays_of_steadies {h k : Hub} {n : Nat} (H : Hub.Steadies n h k) (reads : k.reads = h.reads) : Hub.Stays hs tid h k :=
  ⟨reads, fun _ busy found => steady_txn (H.slice hs) busy found⟩

theorem stays_of_txns {h k : Hub} (txns : (k.slice hs).txns = (h.slice hs).txns) (reads : k.reads = h.reads) : Hub.Stays hs tid h k :=
  ⟨reads, fun _ _ found => (txn_congr txns tid).trans found⟩

theorem stays_onSlice (h : Hub) (n : Nat) (f : Slice → Slice) (kept : (f (h.slice n)).txns = (h.slice n).txns) :
    Hub.Stays hs tid h (h.onSlice n f) := by
  refine stays_of_txns ?_ rfl
  rw [Hub.slice_onSlice]
  split
  · next own => rw [own, kept]
  · rfl

theorem stays_foldl {α : Type} {g : Hub → α → Hub} (step : ∀ (h : Hub) x, Hub.Stays hs tid h (g h x)) (l : List α) :
    ∀ h : Hub, Hub.Stays hs tid h (l.foldl g h) := by
  induction l with
  | nil => exact .refl
  | cons x l ih => exact fun h => (step h x).trans (ih _)

theorem stays_putSd (h : Hub) (n : Nat) (set : BitVec 12) (way : Nat) (w : Word) : Hub.Stays hs tid h (h.putSd n set way w) := by
  have puts : ∀ a : Slice, (a.putSd set way w).txns = a.txns := by
    intro a
    unfold Slice.putSd
    dsimp only
    split <;> split <;> rfl
  unfold Hub.putSd Hub.onMirrored
  split
  · exact (stays_onSlice _ _ _ (puts _)).trans (stays_onSlice _ _ _ (puts _))
  · exact stays_onSlice _ _ _ (puts _)

theorem stays_putHub (h : Hub) (n : Nat) (l : Line) (w : Nat) (v : HView) : Hub.Stays hs tid h (h.putHub n l w v) := by
  refine (stays_putSd ..).trans (stays_of_steadies (steadies_onSlice _ _ ?_) rfl)
  refine (Slice.Tended.trans ?_ (tended_checkSdRun ..)).steady
  split
  · exact tended_of_bare rfl rfl
  · exact (tended_dropHWay ..).trans (tended_serveHubClaims ..)

theorem stays_hubNotice (h : Hub) (n : Nat) (l : Line) (x : HubNo) (keep : Bool) : Hub.Stays hs tid h (h.hubNotice n l x keep) := by
  unfold Hub.hubNotice
  extract_lets s isReq
  clear_value isReq
  split
  · dsimp only
    split
    · exact .refl h
    · exact stays_putHub ..
  · exact .refl h

theorem stays_ackWb (h : Hub) (p : BitVec 4) (n : Nat) (la : La) (l : Line) (t : Txid) : Hub.Stays hs tid h (h.ackWb p n la l t) := by
  have same : (h.ackWb p n la l t).slices = h.slices ∧ (h.ackWb p n la l t).reads = h.reads := by simp
  obtain ⟨slices, reads⟩ := same
  exact stays_of_txns (by rw [Hub.slice_congr _ h hs slices]) reads

theorem stays_toHub (h : Hub) (dest : HubNo) (opc : BitVec 6) (f : Flit) (d : Option Payload) (operand : Option (BitVec 256)) :
    Hub.Stays hs tid h (h.toHub dest opc f d operand) :=
  stays_of_txns (by rw [Hub.slice_congr _ h hs (by simp)]) (by simp)

theorem stays_onWb (h : Hub) (n : Nat) (l : Line) (f : WbLine → WbLine) : Hub.Stays hs tid h (h.onWb n l f) :=
  stays_of_steadies (steadies_onWb ..) (by simp)

theorem stays_proxyFlush (h : Hub) (n : Nat) (l : Line) (gone : Bool) : Hub.Stays hs tid h (h.proxyFlush n l gone) := by
  unfold Hub.proxyFlush
  split
  · exact .refl h
  · split
    · exact .refl h
    · dsimp only
      split
      · split
        · split
          · exact (stays_onWb ..).trans (stays_toHub ..)
          · exact .refl h
        · exact (stays_onWb ..).trans (stays_toHub ..)
      · split
        · exact stays_toHub ..
        · exact .refl h

theorem stays_noticeEntry (h : Hub) (p : BitVec 4) (n : Nat) (la : La) (l : Line) (t : Txid) (dirty : Bool) :
    Hub.Stays hs tid h (h.noticeEntry p n la l t dirty) := by
  have removes : Hub.Stays hs tid h (h.removeWriter n l la) := stays_of_steadies (keeps_removeWriter ..).steadies (by simp)
  exact (removes.trans (stays_ackWb ..)).trans (stays_proxyFlush ..)

theorem stays_runWbWaits (h : Hub) (n : Nat) (l : Line) : Hub.Stays hs tid h (h.runWbWaits n l) := by
  unfold Hub.runWbWaits
  extract_lets mine taken
  have takes : Hub.Stays hs tid h taken := stays_onSlice _ _ _ rfl
  refine takes.trans (stays_foldl (fun h x => ?_) _ taken)
  split
  · exact stays_hubNotice ..
  · exact stays_noticeEntry ..

theorem stays_ticketWaiting {h : Hub} {n : Nat} {l : Line} (alone : ∀ q ∈ (h.slice n).refused, q.req.line ≠ l) :
    Hub.Stays hs tid h (h.ticketWaiting n l) := by
  have none : ((h.slice n).refused.filter fun p => p.req.line == l) = [] :=
    List.filter_eq_nil_iff.2 fun q mem => by simpa using alone q mem
  unfold Hub.ticketWaiting
  rw [none]
  exact stays_onSlice _ _ _ rfl

theorem stays_lookupEnd (h : Hub) (l : Line) : Hub.Stays hs tid h ((h.chainEnd hs l).checkLine hs l) := by
  have reads : ((h.chainEnd hs l).checkLine hs l).reads = h.reads := by simp
  exact stays_of_steadies (keeps_lookupEnd ..).steadies reads

/-- With no read that an edge router delivers, what follows a lookup leaves the transaction that it found and the reads. -/
theorem stays_afterLookup {h : Hub} {l : Line} (still : noHeldData h) (alone : ∀ q ∈ (h.slice hs).refused, q.req.line ≠ l) :
    Hub.Stays hs tid h (h.afterLookup hs l) := by
  have waits : Hub.Stays hs tid h (h.runWbWaits hs l) := stays_runWbWaits ..
  have tickets : Hub.Stays hs tid (h.runWbWaits hs l) ((h.runWbWaits hs l).ticketWaiting hs l) :=
    stays_ticketWaiting fun q mem => alone q (((eases_runWbWaits h hs l).slice hs).refused q mem)
  have both := waits.trans tickets
  unfold Hub.afterLookup Hub.flushHeld
  rw [both.reads, List.filter_eq_nil_iff.2 fun r mem => by simp [still r mem]]
  exact both

end

end Sys2Proof.Machine
end

section
/-!
CERTIFICATE. What the lookup of an accepted home request brings where nobody is named (R61, R109, R111, R122, R178).
-/
namespace Sys2Proof.Machine
open Sys2Proof.Safety

/-! ### The transaction that waits for its memory read -/

/-- The transaction as the settling finds it that waits for its memory read. -/
def Txn.missedWith (x : Txn) (wbData : Bool) (due worst : Nat) : Txn := (x.looksUp wbData due x).fromMemory.sharedOpen worst

section
variable {x : Txn} (fresh : x.gate = Gate.init) (wbData : Bool) (due worst : Nat)
include fresh

theorem missedWith_unasked (plain : x.Plain) : (x.missedWith wbData due worst).Unasked := by
  refine ⟨⟨plain.local_, plain.here, plain.live, rfl, rfl, rfl, rfl⟩, rfl, ?_, rfl, ?_, fun b => .inr ?_, fun s => ?_, .inr (.inr rfl), ?_⟩
  · exact congrArg (·.judged) fresh
  · exact congrArg (·.fwdWait) fresh
  · exact fun absurd => SView.noConfusion absurd
  · have view : (x.missedWith wbData due worst).view = .unc := rfl
    simp [Slice.lossOf, view]
  · exact congrArg (·.released) fresh

theorem missedWith_lacks : (x.missedWith wbData due worst).judgedPlain.gateReady = false := by
  have need : (x.missedWith wbData due worst).judgedPlain.gate.need = true := rfl
  have fwd : (x.missedWith wbData due worst).judgedPlain.gate.fwd = none := congrArg (·.fwd) fresh
  have wb : (x.missedWith wbData due worst).judgedPlain.gate.wbGate = none := congrArg (·.wbGate) fresh
  have cross : (x.missedWith wbData due worst).judgedPlain.gate.cross = none := congrArg (·.cross) fresh
  have span : (x.missedWith wbData due worst).judgedPlain.gate.spanData = none := congrArg (·.spanData) fresh
  have home : (x.missedWith wbData due worst).judgedPlain.gate.homeData = none := congrArg (·.homeData) fresh
  have prep : (x.missedWith wbData due worst).judgedPlain.gate.prep = none := congrArg (·.prep) fresh
  have choice : (x.missedWith wbData due worst).judgedPlain.gate.choose = none := by simp [Gate.choose, fwd, wb, cross, span, home, prep]
  simp [Txn.gateReady, need, choice]

end

/-- A transaction that waits for its memory read stays at its settling. -/
theorem settle_misses {k : Hub} {hs : Nat} {x : Txn} (plain : x.Plain) (fresh : x.gate = Gate.init) {wbData : Bool} {due worst : Nat}
    (found : k.txn hs x.tid = some (x.missedWith wbData due worst)) :
    (k.settle hs x.tid).txn hs x.tid = some (x.missedWith wbData due worst).judgedPlain ∧ (k.settle hs x.tid).reads = k.reads := by
  rw [settle_waits found (missedWith_unasked fresh wbData due worst plain) (missedWith_lacks fresh wbData due worst)]
  exact ⟨txn_onTxn_self found Txn.judgedPlain rfl, rfl⟩

theorem sliceLookup_misses {s : State} {ls : BitVec 6} {tid : Byte} {e : LookupErr} {x : Txn} {c : Nat} (due : LookupDue s.hub ls tid x)
    (clean : cleanLookup s.hub x.req.line e) (miss : s.hub.Misses (s.hub.hsOf ls) c x)
    (hview : (s.hub.slice (s.hub.hsOf ls)).hubView x.req.line = .none) (sent : Bool) :
    ∃ t, exec (.sliceLookup ls tid e sent) s = .next t ∧ onlyIn lookupParts s t ∧
      (∃ y, t.hub.txn (s.hub.hsOf ls) tid = some y ∧ y.phase = .looked ∧ y.memRead = true ∧ y.gate.need = true ∧ y.gate.released = false ∧
        y.worst = x.acc + 6 + s.hub.boundOf x.req.line) ∧
      ∃ r ∈ t.hub.reads, r.line = x.req.line ∧ r.who = .txn tid ∧ r.spec = false := by
  obtain ⟨fresh, -⟩ := due.fresh
  have same := txn_tid due.txn
  have found := due.txn
  rw [← same] at found ⊢
  have row := sliceLookup_serves due clean sent (by simp [miss.op])
  have alone := due.alone
  generalize s.hub.hsOf ls = hs at row found alone miss hview ⊢
  rw [serve_shared miss.op miss.view hview due.here due.local_, ← same] at row
  have bound := (eases_sharedSourced_miss miss sent).trans (eases_sharedBound s.hub hs x sent)
  have there := sharedBound_txn (sharedSourced_miss_txn miss found sent) rfl
  obtain ⟨still, r, mem, here⟩ := fetches_sharedBound miss sent
  obtain ⟨waits, reads⟩ := settle_misses (lookupDue_plain due) fresh there
  have settled := eases_settle (s.hub.sharedBound hs x sent) hs x.tid
  have worst := sharedWorst_miss miss sent
  generalize (s.hub.sharedBound hs x sent).settle hs x.tid = j at row settled waits reads
  have ended := eases_lookupEnd j hs x.req.line
  have kept : Hub.Stays hs x.tid j _ := stays_lookupEnd j x.req.line
  generalize (j.chainEnd hs x.req.line).checkLine hs x.req.line = m at row ended kept
  have before := (bound.trans settled).trans ended
  have quiet : noHeldData m := fun r mem => still r (reads ▸ kept.reads ▸ mem)
  have free : ∀ q ∈ (m.slice hs).refused, q.req.line ≠ x.req.line := fun q mem => alone q ((before.slice hs).refused q mem)
  have stays := kept.trans (stays_afterLookup quiet free)
  have frame := (before.trans (eases_afterLookup free)).still
  refine ⟨_, row, onlyIn_lookup frame, ⟨_, stays.txn _ (looked_busy rfl) waits, rfl, rfl, rfl, ?_, worst⟩, r, ?_, here⟩
  · exact congrArg (·.released) fresh
  · change r ∈ (m.afterLookup hs x.req.line).reads
    rw [stays.reads, reads]
    exact mem

/-- Settles O15: nobody is named, so the lookup of an `RD_SHARED` finds its data in the write buffer or reads memory, and a store whose reservation is
gone fails at once. -/
theorem lookupsServeReadsAndFailStores : Obligations.LookupsServeReadsAndFailStores := by
  unfold Obligations.LookupsServeReadsAndFailStores
  intro s ls tid e sent x w c due clean
  refine ⟨?_, ?_, ?_⟩
  · intro op view hview held whole heard quiet
    exact sliceLookup_served due clean op view hview held whole heard quiet sent
  · intro op view hview nothing cold unread still chan up
    exact sliceLookup_misses due clean ⟨op, view, nothing, cold, unread, still, chan, up⟩ hview sent
  · intro op lacks heard
    exact sliceLookup_storeFails due clean op lacks heard sent

end Sys2Proof.Machine
end

section
/-!
SUPPORT. What the mark of an uncorrectable snoop-filter way leaves (R97, R102): the other slices, and how far a reclaim walk has come (R146).
-/
namespace Sys2Proof.Machine
open Sys2Proof.Safety

/-- How far the walk of a slice has come: the agents it looks for, its next set and the sets it has left. -/
def Slice.course (s : Slice) : Option (BitVec 128 × BitVec 14 × Nat) := s.walk.map fun w => (w.mask, w.set, w.left)

/-- The walk of the slice has come as far as before. -/
def Slice.Abreast (a b : Slice) : Prop := b.course = a.course

theorem Slice.Abreast.refl (a : Slice) : a.Abreast a := rfl
theorem Slice.Abreast.trans {a b c : Slice} (first : a.Abreast b) (second : b.Abreast c) : a.Abreast c := Eq.trans second first
theorem abreast_of_walk {a b : Slice} (walk : b.walk = a.walk) : a.Abreast b := by rw [Slice.Abreast, Slice.course, walk, Slice.course]

theorem Slice.Steady.walk {a b : Slice} (H : a.Steady b) : b.walk = a.walk := congrArg (fun s => s.walk) H.scant

/-- No walk of a slice has moved, and what is apart from the slices has had reports of events alone. -/
abbrev Hub.Marks (hs : Nat) (h k : Hub) : Prop := h.Tends Slice.Abreast hs k

theorem Hub.Marks.trans {hs : Nat} {h k m : Hub} (first : Hub.Marks hs h k) (second : Hub.Marks hs k m) : Hub.Marks hs h m :=
  ⟨fun n => (first.slice n).trans (second.slice n), otherArrays_trans first.newt first.others second.others, second.rot.trans first.rot,
    first.told.trans second.told⟩

theorem Hub.Steadies.marks {hs : Nat} {h k : Hub} (H : Hub.Steadies hs h k) : Hub.Marks hs h k := H.mono fun s => abreast_of_walk s.walk

theorem slice_raise (h : Hub) (r : Raise) (m : Nat) : (h.raise r).slice m = h.slice m := Hub.slice_congr _ _ m (by simp)

theorem marks_refl (hs : Nat) (h : Hub) : Hub.Marks hs h h := (steadies_refl hs h).marks
theorem marks_raise (hs : Nat) (h : Hub) (r : Raise) : Hub.Marks hs h (h.raise r) := (steadies_raise hs h r).marks
theorem marks_onSlice {hs : Nat} (h : Hub) (f : Slice → Slice) (H : (f (h.slice hs)).walk = (h.slice hs).walk) :
    Hub.Marks hs h (h.onSlice hs f) := tends_onSlice Slice.Abreast.refl h f (abreast_of_walk H)

@[simp] theorem queueSweep_walk (s : Slice) (span : Bool) (set : BitVec 14) (way : Nat) : (s.queueSweep span set way).walk = s.walk := by
  unfold Slice.queueSweep
  dsimp only
  split
  · split <;> rfl
  · rfl

@[simp] theorem queueSweep_sf (s : Slice) (span : Bool) (set : BitVec 14) (way : Nat) : (s.queueSweep span set way).sf = s.sf := by
  unfold Slice.queueSweep
  dsimp only
  split
  · split <;> rfl
  · rfl

theorem marks_raiseMalformed (h : Hub) (hs : Nat) (set : BitVec 14) (way : Nat) (bad : Bool) :
    Hub.Marks hs h (h.raiseMalformed hs set way bad) := by
  unfold Hub.raiseMalformed
  split
  · exact marks_raise ..
  · exact marks_refl ..

/-- A way's sweep is queued, marked with the agent that a walk still looks for (R102, R144). -/
def Slice.queueDeg (s : Slice) (set : BitVec 14) (way : Nat) : Slice :=
  let s := s.queueSweep false set way
  { s with
    sweeps := List.mapIf (fun x => !x.span && x.set == set && x.way.toNat == way)
      (fun x => { x with loss := x.loss.or (s.walkLoss set) }) s.sweeps }

/-- The hub that has met an uncorrectable snoop-filter way and counted it. -/
def Hub.metDeg (h : Hub) (hs : Nat) (set : BitVec 14) (way : Nat) : Hub :=
  (h.raiseMalformed hs set way ((h.slice hs).viewAt set way).isNone).onSlice hs fun s => { s with errs := s.errs.addUeSf }

/-- A transaction that has looked up, or a back-invalidation, holds the way of a line and will write it (R97). -/
def Slice.willWrite (s : Slice) (l : Line) : Bool :=
  match s.txnOn l with
  | some t => t.phase == .looked
  | none => (s.backOn l).isSome

/-- An uncorrectable way is left to what will write it, or gets a word of its own and a sweep (R97). -/
theorem markDeg_eq (h : Hub) (hs : Nat) (set : BitVec 14) (way : Nat) (tagRead : BitVec 32) :
    h.markDeg hs set way tagRead =
      (if (h.slice hs).willWrite ((h.slice hs).lineAt set way) then h.metDeg hs set way
        else
          let l := (h.slice hs).lineAt set way
          let exact := (h.slice hs).chained l || (h.slice hs).held l (h.metDeg hs set way).round || ((h.slice hs).txnOn l).isSome
          ((h.metDeg hs set way).putSf hs set way ((SView.deg exact).word (if exact then l.sfTag else tagRead))).onSlice hs fun s =>
            s.queueDeg set way).raise { rz evSfDeg hs with sw := some (set, BitVec.ofNat 4 way) } := rfl

theorem marks_metDeg (h : Hub) (hs : Nat) (set : BitVec 14) (way : Nat) : Hub.Marks hs h (h.metDeg hs set way) :=
  (marks_raiseMalformed ..).trans (marks_onSlice _ _ rfl)

theorem marks_markDeg (h : Hub) (hs : Nat) (set : BitVec 14) (way : Nat) (tagRead : BitVec 32) :
    Hub.Marks hs h (h.markDeg hs set way tagRead) := by
  rw [markDeg_eq]
  refine Hub.Marks.trans ((marks_metDeg h hs set way).trans ?_) (marks_raise ..)
  split
  · exact marks_refl ..
  · exact (keeps_putSf ..).steadies.marks.trans (marks_onSlice _ _ (queueSweep_walk ..))

theorem markDeg_raises (h : Hub) (hs : Nat) (set : BitVec 14) (way : Nat) (tagRead : BitVec 32) :
    raised (h.markDeg hs set way tagRead) evSfDeg := by
  rw [markDeg_eq]
  exact raised_raise _ { rz evSfDeg hs with sw := some (set, BitVec.ofNat 4 way) }

theorem willWrite_of_free {s : Slice} {l : Line} {n : Nat} (free : s.pinned l n = false) : s.willWrite l = false := by
  simp only [Slice.pinned, Slice.isOpen, Bool.or_eq_false_iff, Option.isSome_eq_false_iff, Option.isNone_iff_eq_none] at free
  obtain ⟨⟨⟨noTxn, noBack⟩, -⟩, -⟩ := free
  simp [Slice.willWrite, noTxn, noBack]

/-- A way whose line nothing pins becomes `DEG` with its tag as read (R97). -/
theorem markDeg_sf {h : Hub} {hs : Nat} {set : BitVec 14} {way : Nat} (free : (h.slice hs).pinned ((h.slice hs).lineAt set way) h.round = false)
    (tagRead : BitVec 32) : ((h.markDeg hs set way tagRead).slice hs).sfAt set way = (SView.deg false).word tagRead := by
  have round : (h.metDeg hs set way).round = h.round := by simp [Hub.metDeg, Hub.onSlice]
  have inexact : ((h.slice hs).chained ((h.slice hs).lineAt set way) || (h.slice hs).held ((h.slice hs).lineAt set way) h.round ||
      ((h.slice hs).txnOn ((h.slice hs).lineAt set way)).isSome) = false := by
    simp only [Slice.pinned, Slice.isOpen, Bool.or_eq_false_iff] at free ⊢
    obtain ⟨⟨⟨noTxn, -⟩, noTicket⟩, noHold⟩ := free
    exact ⟨⟨noTicket, noHold⟩, noTxn⟩
  have word : h.markDeg hs set way tagRead =
      (((h.metDeg hs set way).putSf hs set way ((SView.deg false).word tagRead)).onSlice hs fun s => s.queueDeg set way).raise
        { rz evSfDeg hs with sw := some (set, BitVec.ofNat 4 way) } := by
    simp [markDeg_eq, willWrite_of_free free, round, inexact]
  rw [word, slice_raise, Hub.slice_onSlice_self]
  exact (sfAt_congr (queueSweep_sf ..) set way).trans (putSf_sf _ hs set way _)

end Sys2Proof.Machine
end

section
/-!
CERTIFICATE. What the reads of the scrub find (R97, R333, R339, R340, R346).
-/
namespace Sys2Proof.Machine
open Sys2Proof.Safety

theorem onlyIn_onSlice (s : State) (hs : Nat) (f : Slice → Slice) : onlyIn [.slices] s (s.withHub fun h => h.onSlice hs f) := by
  intro q hq
  cases q <;> simp at hq <;> rfl

theorem otherSlices_onSlice (h : Hub) (hs : Nat) (f : Slice → Slice) : otherSlices h (h.onSlice hs f) hs :=
  fun m other => Hub.slice_onSlice_ne h hs m f other

theorem onlyIn_markDeg (s : State) (hs : Nat) (set : BitVec 14) (way : Nat) (tagRead : BitVec 32) :
    onlyIn ([Part.slices] ++ eventParts) s (s.withHub fun h => h.markDeg hs set way tagRead) := by
  intro q hq
  cases q <;> simp [eventParts] at hq <;> simp [Part.same, State.withHub]

theorem stopExists_of_hsExists {n : BitVec 7} (ex : hsExists n = true) : stopExists n = true := by
  simp only [hsExists, stopExists, decide_eq_true_eq] at ex ⊢
  omega

/-- The scrub read of a target that exists. -/
theorem scrubRead_row {t : ScrubTarget} (wf : t.wf = true) (e : Err) (s : State) :
    exec (.scrubRead t e) s = .next (s.withHub fun h => h.scrub t e) := if_pos wf

theorem scrubPassLate_row {stop : BitVec 7} (ex : stopExists stop = true) (s : State) :
    exec (.scrubPassLate stop) s = .next (s.withHub fun h =>
      if hsExists stop then
        let k := (h.slice stop.toNat).scrub
        if k.late || h.round < k.due then h
        else (h.onSlice stop.toNat fun s => { s with scrub := { s.scrub with late := true } }).raise (rz evHubScrubLate stop.toNat)
      else h.raise (rz evHubScrubLate stop.toNat)) := if_pos ex

/-! ### A fatal error (R346) -/

theorem raised_congr {h k : Hub} (events : k.events = h.events) {e : BitVec 10} (up : raised h e) : raised k e := by
  rw [raised, Hub.evStatus, events]
  exact up

theorem raised_stopTest {h : Hub} {e : BitVec 10} (up : raised h e) : raised h.stopTest e := by
  unfold Hub.stopTest
  split
  · exact up
  · split
    · exact raised_mono_raise _ _ e up
    · exact up

/-- The first fatal error of a serving hub stops it. -/
theorem stopFatal_stops {h : Hub} (serving : h.start.phase = .serving) (first : h.start.fatal = false) (source : BitVec 10) (inst : Byte)
    (synd : BitVec 16) : (h.stopFatal source inst synd).start = { h.start with fatal := true, fatalAt := h.round, phase := .stopped } := by
  simp [Hub.stopFatal, first, serving]

theorem raised_stopFatal {h : Hub} {e : BitVec 10} (up : raised h e) (source : BitVec 10) (inst : Byte) (synd : BitVec 16) :
    raised (h.stopFatal source inst synd) e := by
  unfold Hub.stopFatal
  split
  · exact up
  · exact raised_stopTest (raised_congr (by simp) up)

theorem stopFatal_faultN {h : Hub} (first : h.start.fatal = false) (source : BitVec 10) (inst : Byte) (synd : BitVec 16) :
    (h.stopFatal source inst synd).pins.faultN = false := by
  simp [Hub.stopFatal, first]

/-- The parts that a fatal error writes. -/
def stopParts : List Part := [Part.pins, .rot, .slices, .spanReps, .spanBacks, .waitSnoops, .start] ++ eventParts

theorem onlyIn_fatal (s : State) (source : BitVec 10) (inst : Byte) (synd : BitVec 16) :
    onlyIn stopParts s (s.withHub fun h => h.fatal source inst synd) := by
  intro q hq
  cases q <;> simp [stopParts, eventParts] at hq <;> simp [Part.same, State.withHub]

/-! ### The obligation -/

theorem scrub_marks {s : State} {hs : BitVec 7} {set : BitVec 14} {way : BitVec 4} (ex : hsExists hs = true)
    (idle : (s.hub.slice hs.toNat).walk = none)
    (free : (s.hub.slice hs.toNat).pinned ((s.hub.slice hs.toNat).lineAt set way.toNat) s.hub.round = false) (flip : BitVec 32) :
    ∃ t, exec (.scrubRead (.sf hs set way flip) .uncorrectable) s = .next t ∧ onlyIn ([Part.slices] ++ eventParts) s t ∧
      otherArrays s.hub t.hub hs.toNat ∧ raised t.hub evSfDeg ∧
      (t.hub.slice hs.toNat).sfAt set way.toNat =
        (SView.deg false).word (sfWordTag ((s.hub.slice hs.toNat).sfAt set way.toNat) ^^^ flip) := by
  have row : exec (.scrubRead (.sf hs set way flip) .uncorrectable) s = .next (s.withHub fun h =>
      h.markDeg hs.toNat set way.toNat (sfWordTag ((s.hub.slice hs.toNat).sfAt set way.toNat) ^^^ flip)) := by
    rw [scrubRead_row (t := .sf hs set way flip) ex]
    simp [State.withHub, Hub.scrub, Hub.scrubFree, idle, Hub.scrubSf]
  exact ⟨_, row, onlyIn_markDeg s hs.toNat set _ _, (marks_markDeg s.hub hs.toNat set _ _).others, markDeg_raises s.hub hs.toNat set _ _,
    markDeg_sf free _⟩

theorem scrub_refreshes {s : State} {stop : BitVec 7} {pid : BitVec 16} {found : Word} (ex : stopExists stop = true)
    (other : found ≠ s.hub.pw pid.toNat) (e : Err) :
    ∃ t, exec (.scrubRead (.configWord stop pid found) e) s = .next t ∧ onlyIn eventParts s t ∧ raised t.hub evHubCfgRefresh := by
  refine ⟨s.withHub fun h => h.raise (rz evHubCfgRefresh stop.toNat), ?_, onlyIn_raise s _, raised_raise ..⟩
  rw [scrubRead_row (t := .configWord stop pid found) ex]
  simp [State.withHub, Hub.scrub, other]

/-- The hub that has counted an uncorrectable control word of a slice. -/
def Hub.controlUe (h : Hub) (hs : Nat) : Hub := h.onSlice hs fun s => { s with errs := { s.errs with ueCtl := satAdd 15 s.errs.ueCtl 1 } }

/-- A fatal error of a slice raises `EVT_HUB_FATAL` before it stops the hub (R452). -/
theorem fatal_raises (h : Hub) (source : BitVec 10) (inst : Byte) (synd : BitVec 16) : raised (h.fatal source inst synd) evHubFatal :=
  raised_stopFatal (raised_raise _ { rz evHubFatal inst.toNat with synd := synd }) source inst synd

/-- The first fatal error of a serving hub stops it with `FAULT_N` low (R346). -/
theorem fatal_stops {h : Hub} (serving : h.start.phase = .serving) (first : h.start.fatal = false) (source : BitVec 10) (inst : Byte)
    (synd : BitVec 16) : (h.fatal source inst synd).start.phase = .stopped ∧ (h.fatal source inst synd).start.fatal = true ∧
      (h.fatal source inst synd).pins.faultN = false := by
  have same : (({ h with pins := { h.pins with faultN := false } } : Hub).raise { rz evHubFatal inst.toNat with synd := synd }).start = h.start := by
    simp
  have stops := stopFatal_stops (by rwa [same]) (by rwa [same]) source inst synd
  exact ⟨congrArg Start.phase stops, congrArg Start.fatal stops, stopFatal_faultN (by rwa [same]) source inst synd⟩

theorem scrub_stops {s : State} {hs : BitVec 7} (ex : hsExists hs = true) (idle : (s.hub.slice hs.toNat).walk = none)
    (serving : s.hub.start.phase = .serving) (first : s.hub.start.fatal = false) :
    ∃ t, exec (.scrubRead (.control hs) .uncorrectable) s = .next t ∧ onlyIn stopParts s t ∧
      t.hub.start.phase = .stopped ∧ t.hub.start.fatal = true ∧ t.hub.pins.faultN = false ∧ raised t.hub evHubFatal := by
  have row : exec (.scrubRead (.control hs) .uncorrectable) s =
      .next ((s.withHub fun h => h.controlUe hs.toNat).withHub fun h => h.fatal evHubFatal (BitVec.ofNat 8 hs.toNat) 0) := by
    rw [scrubRead_row (t := .control hs) ex]
    simp [State.withHub, Hub.scrub, Hub.scrubFree, idle, Hub.scrubControl, Hub.controlUe]
  obtain ⟨phase, fatal, low⟩ := fatal_stops (h := s.hub.controlUe hs.toNat) serving first evHubFatal (BitVec.ofNat 8 hs.toNat) 0
  exact ⟨_, row, onlyIn_trans (onlyIn_mono (by decide) (onlyIn_onSlice s hs.toNat _)) (onlyIn_fatal _ evHubFatal _ 0), phase, fatal, low,
    fatal_raises ..⟩

theorem scrub_startsPass {s : State} {hs : BitVec 7} (ex : hsExists hs = true) (whole : (s.hub.slice hs.toNat).scrub.sdPos = 4096) (e : Err) :
    ∃ t, exec (.scrubRead (.passEnd hs) e) s = .next t ∧ onlyIn [.slices] s t ∧ otherSlices s.hub t.hub hs.toNat ∧
      (t.hub.slice hs.toNat).scrub = ⟨s.hub.round + 250000 * s.hub.p 0x901, 0, [], false⟩ := by
  rw [scrubRead_row (t := .passEnd hs) ex]
  simp only [Hub.scrub, Hub.endPass, State.withHub, whole, if_true]
  exact ⟨_, rfl, onlyIn_onSlice s _ _, otherSlices_onSlice s.hub _ _, by rw [Hub.slice_onSlice_self]⟩

/-- The hub whose slice's pass is marked late. -/
def Hub.passLate (h : Hub) (hs : Nat) : Hub := h.onSlice hs fun s => { s with scrub := { s.scrub with late := true } }

theorem scrubLate_slice {s : State} {hs : BitVec 7} (ex : hsExists hs = true) (fresh : (s.hub.slice hs.toNat).scrub.late = false)
    (due : (s.hub.slice hs.toNat).scrub.due ≤ s.hub.round) :
    ∃ t, exec (.scrubPassLate hs) s = .next t ∧ onlyIn ([Part.slices] ++ eventParts) s t ∧ otherSlices s.hub t.hub hs.toNat ∧
      raised t.hub evHubScrubLate ∧ (t.hub.slice hs.toNat).scrub = { (s.hub.slice hs.toNat).scrub with late := true } := by
  have row : exec (.scrubPassLate hs) s =
      .next ((s.withHub fun h => h.passLate hs.toNat).withHub fun h => h.raise (rz evHubScrubLate hs.toNat)) := by
    rw [scrubPassLate_row (stopExists_of_hsExists ex)]
    simp [State.withHub, ex, fresh, Nat.not_lt.2 due, Hub.passLate]
  refine ⟨_, row, ?_, fun m other => ?_, raised_raise .., ?_⟩
  · exact onlyIn_trans (onlyIn_mono (by decide) (onlyIn_onSlice s hs.toNat _)) (onlyIn_mono (by decide) (onlyIn_raise _ _))
  · exact (slice_raise _ _ m).trans (Hub.slice_onSlice_ne _ _ _ _ other)
  · exact congrArg Slice.scrub ((slice_raise _ _ hs.toNat).trans (Hub.slice_onSlice_self ..))

theorem scrubLate_stop {s : State} {stop : BitVec 7} (ex : stopExists stop = true) (apart : hsExists stop = false) :
    ∃ t, exec (.scrubPassLate stop) s = .next t ∧ onlyIn eventParts s t ∧ raised t.hub evHubScrubLate := by
  refine ⟨s.withHub fun h => h.raise (rz evHubScrubLate stop.toNat), ?_, onlyIn_raise s _, raised_raise ..⟩
  rw [scrubPassLate_row ex]
  simp [apart]

/-- Settles O14: each kind of read by what its target shows, and the two ends of a pass (assumption log 30). -/
theorem scrubReadsRepairOrReport : Obligations.ScrubReadsRepairOrReport := by
  unfold Obligations.ScrubReadsRepairOrReport
  intro s hs stop set way flip e pid found
  exact ⟨fun ex idle free => scrub_marks ex idle free flip, fun ex other => scrub_refreshes ex other e, scrub_stops,
    fun ex whole => scrub_startsPass ex whole e, scrubLate_slice, scrubLate_stop⟩

end Sys2Proof.Machine
end

section
/-!
CERTIFICATE. The answer of `SD_READ_ENTRY` for an uncorrectable way that a transaction still claims (R97, R225, R390).
-/
namespace Sys2Proof.Machine
open Sys2Proof.Safety

/-! ### The machine of the counterexample

Way 1 of set 5 of slice HS5's span directory is reserved for the line of tag 1, which nothing pins; its entry is of the line of tag 2, which a
transaction that has looked up holds. The mark goes by the line that the way is reserved for and writes `HUB_DEG`; the answer goes by the
entry's own line and is the word that the transaction will write. -/

/-- The line of a tag in set 5 of the span directory. -/
def lineOfTag (tag : BitVec 34) : Line := sdLine tag 5

/-- A looked-up transaction that will write the entry of the line of tag 2 as owned by hub 8. -/
def writerOfTag2 : Txn := { openOn5 .rdShared .unc Gate.init with
  req := Hub.cold.reqOf .rdShared (Flit.plain (Gaid.mk Hub.cold.num 3) 7 (lineOfTag 2) 0) 0
  hview := .own 9
  hentry := some (.own 8) }

/-- The entry of the line of tag 2, owned by hub 9. -/
def entryOfTag2 : Word := (HView.own 9).word 2

/-- Slice HS5 with that entry in the way that is reserved for the line of tag 1. -/
def claimedSlice : Slice := { Slice.init with
  txns := [writerOfTag2]
  rsvHWays := [(lineOfTag 1, 1)]
  sd := [(sdKey 5 1, entryOfTag2)] }

/-- The hub in service in round 100 with that slice, and a command in mailbox 0. -/
def claimedHub : Hub := { Hub.cold with
  round := 100
  start := { Start.init with phase := .serving, step := 12 }
  mbx := [(0, { Mbx.init with cmdTail := 1 })]
  slices := [(5, claimedSlice)] }

/-- The command `SD_READ_ENTRY` of way 1 of set 5 of slice HS5, with tag 1, in mailbox 0's ring. -/
def readWay1 : Memory := Memory.writeWord (Memory.writeWord [] (cmdSlot 0 0) 0x0032000100000000) (cmdSlot 0 0 + 8) 0x100050005

/-- The machine with that hub and that command. -/
def claimedState : State := ⟨[], Otp.shipped, readWay1, claimedHub⟩

theorem claimedState_takes : Takes claimedState 0 0x32 1 (claimedState.desc 0) where
  ready := by decide +kernel
  served := by decide +kernel
  desc := rfl
  code := by decide +kernel
  allowed := by decide +kernel
  used := ⟨_, rfl, by decide +kernel⟩
  ring := by decide +kernel
  flushed := rfl

/-- The line that the way is reserved for is neither open nor chained, and no hold runs on it. -/
theorem claimedState_unpinned : (claimedState.hub.slice 5).txnOn ((claimedState.hub.slice 5).hlineAt 5 1) = none ∧
    (claimedState.hub.slice 5).backOn ((claimedState.hub.slice 5).hlineAt 5 1) = none ∧
    (claimedState.hub.slice 5).chained ((claimedState.hub.slice 5).hlineAt 5 1) = false ∧
    (claimedState.hub.slice 5).held ((claimedState.hub.slice 5).hlineAt 5 1) claimedState.hub.round = false :=
  ⟨by decide +kernel, by decide +kernel, by decide +kernel, by decide +kernel⟩

/-- The answer is the word that the transaction will write. -/
theorem claimedState_answers (t : State) (row : exec (.sdReadEntry 0 ⟨.uncorrectable, 0⟩) claimedState = .next t) :
    t.ring.word (rspSlot 0 (claimedState.hub.mb 0).rspTail + 8) = (HView.own 8).word 2 := by
  obtain rfl : _ = t := Host.Outcome.next.inj row
  decide +kernel

/-- Refutes O58: its clause of `SD_READ_ENTRY` asks that nothing pins the line that the way is reserved for, and lets the way become `HUB_DEG` and
be answered so. The model answers by the line of the way's entry (assumption log 59): where a transaction that has looked up holds that line,
it answers the word that the transaction will write. -/
theorem not_maintenanceCommandsActOnTheHubCache : ¬Obligations.MaintenanceCommandsActOnTheHubCache := by
  intro claim
  obtain ⟨-, -, -, reads, -⟩ :=
    claim claimedState 0 (claimedState.desc 0) 0 0 0 0 (.sdReadEntry 0 ⟨.clean, 0⟩) 1 0 5 ⟨0, 0, false, .commit⟩ 0 [] 5
  obtain ⟨-, marks⟩ := reads claimedState_takes (by decide +kernel) (by decide +kernel) (by decide +kernel)
  obtain ⟨noTxn, noBack, noTicket, noHold⟩ := claimedState_unpinned
  obtain ⟨t, row, answered, -⟩ := marks noTxn noBack noTicket noHold 0 _ rfl
  have both := (claimedState_answers t row).symm.trans answered.second
  exact absurd both (by decide +kernel)

end Sys2Proof.Machine
end

section
/-!
SUPPORT. What the visits of a reclaim walk leave: the walks' own progress, and all but the slices, the write buffers and reports (R146, R147).
-/
namespace Sys2Proof.Machine
open Sys2Proof.Safety

/-- Two hubs agree on all that no visit of a reclaim walk writes. -/
@[simp] abbrev Hub.sameVisit (h k : Hub) : Prop :=
  Hub.sameConfig h k ∧ Hub.sameFlow h k ∧ k.pins = h.pins ∧ k.mirror = h.mirror ∧ k.records = h.records ∧ k.lapses = h.lapses ∧
  k.epoch = h.epoch

/-- `k` is `h` after visits of ways: no walk has moved on. -/
structure Hub.Visits (h k : Hub) : Prop where
  course : ∀ m, (k.slice m).course = (h.slice m).course
  frame : Hub.sameVisit h k

/-- The parts that a visit may write. -/
def visitParts : List Part := [Part.slices, .spill, .reads, .sps, .rot] ++ eventParts

theorem onlyIn_visit {s : State} {k : Hub} (H : Hub.sameVisit s.hub k) : onlyIn visitParts s { s with hub := k } := by
  intro q hq
  cases q <;> simp [visitParts, eventParts] at hq <;> simp_all [Part.same]

theorem Hub.sameVisit.trans {h k m : Hub} (first : Hub.sameVisit h k) (second : Hub.sameVisit k m) : Hub.sameVisit h m := by
  simp only [Hub.sameVisit, Hub.sameConfig, Hub.sameFlow] at first second ⊢
  simp only [first, second, and_self]

theorem Hub.Visits.refl (h : Hub) : h.Visits h := ⟨fun _ => rfl, by simp⟩
theorem Hub.Visits.trans {h k m : Hub} (first : h.Visits k) (second : k.Visits m) : h.Visits m :=
  ⟨fun n => (second.course n).trans (first.course n), first.frame.trans second.frame⟩

theorem Hub.Marks.visits {hs : Nat} {h k : Hub} (H : Hub.Marks hs h k) (frame : Hub.sameVisit h k) : h.Visits k := ⟨H.slice, frame⟩

/-- A fold of steps of a relation that chains is such a step. -/
theorem foldl_related {α : Type} {R : Hub → Hub → Prop} (refl : ∀ h, R h h) (trans : ∀ {a b c}, R a b → R b c → R a c)
    {g : Hub → α → Hub} (step : ∀ h x, R h (g h x)) : ∀ (l : List α) (h : Hub), R h (l.foldl g h)
  | [], h => refl h
  | x :: l, h => trans (step h x) (foldl_related refl trans step l _)

theorem visits_foldl {α : Type} {g : Hub → α → Hub} (step : ∀ (h : Hub) x, h.Visits (g h x)) (l : List α) (h : Hub) :
    h.Visits (l.foldl g h) := foldl_related .refl .trans step l h

theorem visits_ite {h a b : Hub} {c : Prop} [Decidable c] (yes : h.Visits a) (no : h.Visits b) : h.Visits (if c then a else b) := by
  split
  · exact yes
  · exact no

theorem visits_of_slices {h k : Hub} (slices : k.slices = h.slices) (frame : Hub.sameVisit h k) : h.Visits k :=
  ⟨fun m => by rw [Hub.slice_congr k h m slices], frame⟩

theorem visits_onSlice (h : Hub) (hs : Nat) (f : Slice → Slice) (H : (f (h.slice hs)).course = (h.slice hs).course) :
    h.Visits (h.onSlice hs f) := by
  refine ⟨fun m => ?_, by simp⟩
  rw [Hub.slice_onSlice]
  split
  · next e => exact e ▸ H
  · rfl

theorem visits_raise (h : Hub) (r : Raise) : h.Visits (h.raise r) := visits_of_slices (by simp) (by simp)

theorem visits_putEntry (h : Hub) (hs : Nat) (l : Line) (w : Nat) (v : SView) : h.Visits (h.putEntry hs l w v) :=
  (keeps_putEntry ..).steadies.marks.visits (by simp)

theorem visits_ownerLost (h : Hub) (hs : Nat) (l : Line) (a : La) : h.Visits (h.ownerLost hs l a) :=
  (steadies_ownerLost ..).marks.visits (by simp)

theorem visits_toHub (h : Hub) (dest : HubNo) (opc : BitVec 6) (f : Flit) (d : Option Payload) (operand : Option (BitVec 256)) :
    h.Visits (h.toHub dest opc f d operand) := visits_of_slices (by simp) (by simp)

theorem visits_onWb (h : Hub) (hs : Nat) (l : Line) (f : WbLine → WbLine) : h.Visits (h.onWb hs l f) :=
  (steadies_onWb ..).marks.visits (by simp)

theorem visits_proxyFlush (h : Hub) (hs : Nat) (l : Line) (gone : Bool) : h.Visits (h.proxyFlush hs l gone) := by
  unfold Hub.proxyFlush
  split
  · exact .refl h
  · split
    · exact .refl h
    · dsimp only
      split
      · split
        · exact visits_ite ((visits_onWb ..).trans (visits_toHub ..)) (.refl h)
        · exact (visits_onWb ..).trans (visits_toHub ..)
      · exact visits_ite (visits_toHub ..) (.refl h)

/-! ### The read of a set (R97, R345) -/

theorem visits_markDeg (h : Hub) (hs : Nat) (set : BitVec 14) (way : Nat) (tagRead : BitVec 32) : h.Visits (h.markDeg hs set way tagRead) :=
  (marks_markDeg ..).visits (by simp)

theorem visits_raiseStorm (h : Hub) (hs : Nat) : h.Visits (h.raiseStorm hs) := by
  unfold Hub.raiseStorm
  exact visits_ite (visits_raise ..) ((visits_raise ..).trans (visits_of_slices rfl (by simp)))

theorem visits_count (h : Hub) (ev unit n : Nat) : h.Visits (h.count ev unit n) := visits_of_slices (by simp) (by simp)

theorem visits_stormCount (h : Hub) (hs n : Nat) : h.Visits (h.stormCount hs n) := by
  have counts (st : Nat × Nat) (unit : Nat) : h.Visits ((h.onSlice hs fun s => { s with storm := st }).count 0x060 unit n) :=
    (visits_onSlice h hs (fun s => { s with storm := st }) rfl).trans (visits_count ..)
  unfold Hub.stormCount
  exact visits_ite (.refl h) (visits_ite ((counts ..).trans (visits_raiseStorm ..)) (counts ..))

theorem visits_corrected (h : Hub) (hs : Nat) (a : ErrArray) (n : Nat) : h.Visits (h.corrected hs a n) := by
  have counts (f : ErrCount → ErrCount) : h.Visits (h.onSlice hs fun s => { s with errs := f s.errs }) :=
    visits_onSlice h hs (fun s => { s with errs := f s.errs }) rfl
  unfold Hub.corrected
  extract_lets f
  exact visits_ite (.refl h) ((counts f).trans (visits_stormCount _ hs n))

theorem visits_nruParity (h : Hub) (hs : Nat) (set : BitVec 14) (r : Raise) :
    h.Visits ((h.onSlice hs fun s => { s with nru := s.nru.drop set.toNat }).raise r) :=
  (visits_onSlice h hs (fun s => { s with nru := s.nru.drop set.toNat }) rfl).trans (visits_raise ..)

theorem visits_readSfSet (h : Hub) (hs : Nat) (set : BitVec 14) (e : LookupErr) : h.Visits (h.readSfSet hs set e none) := by
  unfold Hub.readSfSet
  extract_lets s ue marked counted
  have marks : h.Visits marked := visits_foldl (fun h w => visits_markDeg h hs set w (s.sfTagRead set w e)) _ h
  have counts : h.Visits counted := marks.trans (visits_corrected ..)
  exact visits_ite (counts.trans (visits_nruParity ..)) counts

/-! ### The visit of a way (R146) -/

/-- A walk comes no further by what it lists for a revisit. -/
theorem course_onWalk {s : Slice} {f : Walk → Walk} (same : ∀ w, ((f w).mask, (f w).set, (f w).left) = (w.mask, w.set, w.left)) :
    Slice.course { s with walk := s.walk.map f } = s.course := by
  simp only [Slice.course, Option.map_map]
  exact congrArg (fun g => s.walk.map g) (funext same)

/-- The walk of a slice as it lists a pinned way for a revisit. -/
theorem visits_listed (h : Hub) (hs : Nat) (x : BitVec 14 × BitVec 4) : h.Visits (h.onSlice hs fun s => { s with
    walk := s.walk.map fun w => if w.revisit.contains x then w else { w with revisit := w.revisit ++ [x] } }) := by
  refine visits_onSlice _ _ _ (course_onWalk fun w => ?_)
  split <;> rfl

theorem visits_lossMarked (h : Hub) (hs : Nat) (p : Sweep → Bool) (f : Sweep → Sweep) :
    h.Visits (h.onSlice hs fun s => { s with sweeps := List.mapIf p f s.sweeps }) :=
  visits_onSlice h hs (fun s => { s with sweeps := List.mapIf p f s.sweeps }) rfl

theorem visits_visitWay (h : Hub) (hs : Nat) (mask : BitVec 128) (set : BitVec 14) (way : Nat) : h.Visits (h.visitWay hs mask set way) := by
  unfold Hub.visitWay
  dsimp only
  split
  · exact visits_lossMarked ..
  · refine visits_ite (.refl h) (visits_ite (visits_listed ..) ?_)
    split
    · exact visits_ite (((visits_ownerLost ..).trans (visits_putEntry ..)).trans (visits_proxyFlush ..)) (.refl h)
    · exact (visits_putEntry ..).trans (visits_proxyFlush ..)

theorem visits_walked (h : Hub) (n : Nat) (w : Walk) (e : LookupErr) : h.Visits (walked h n w e) :=
  (visits_readSfSet ..).trans (visits_foldl (fun _ _ => visits_visitWay ..) _ _)

end Sys2Proof.Machine
end

section
/-!
SUPPORT. The three parts of a walk's step (R146, R147): the visit of its set, the ways that have come unpinned, and its end.
-/
namespace Sys2Proof.Machine
open Sys2Proof.Safety

/-- The walk moves to its next set. -/
def Hub.walkOn (h : Hub) (n : Nat) : Hub :=
  h.onSlice n fun s => { s with walk := s.walk.map fun w => { w with set := w.set + 1, left := w.left - 1 } }

/-- The hub after the walk's visit of its set, which a service write repeats and a way without a place holds up. -/
def Hub.setVisited (h : Hub) (n : Nat) (w : Walk) (e : LookupErr) (intervened : Bool) : Hub :=
  if w.left = 0 || intervened then h
  else if (upTo 16).any fun k => (walked h n w e).walkWaits n w.mask w.set k then walked h n w e
  else (walked h n w e).walkOn n

/-- The ways that the walk visits again now. -/
def Hub.revisitsDue (h : Hub) (n : Nat) : List (BitVec 14 × BitVec 4) :=
  match (h.slice n).walk with
  | some w => ((h.slice n).unpinnedRevisits w h.round).filter fun (x : BitVec 14 × BitVec 4) => !h.walkWaits n w.mask x.1 x.2.toNat
  | none => []

/-- The walk visits a way again, which leaves its list. -/
def Hub.revisit (h : Hub) (n : Nat) (mask : BitVec 128) (x : BitVec 14 × BitVec 4) : Hub :=
  (h.onSlice n fun s => { s with walk := s.walk.map fun w => { w with revisit := w.revisit.filter fun y => y != x } }).visitWay
    n mask x.1 x.2.toNat

/-- The walk visits all of them. -/
def Hub.revisited (h : Hub) (n : Nat) (mask : BitVec 128) : Hub := (h.revisitsDue n).foldl (fun h x => h.revisit n mask x) h

/-- The walk ends where it has nothing left. -/
def Hub.tryEndWalk (h : Hub) (n : Nat) : Hub :=
  match (h.slice n).walk with
  | some w => if w.left = 0 && w.revisit.isEmpty then h.endWalk n else h
  | none => h

theorem reclaimWalkVisit_row {s : State} {hs : BitVec 7} {w : Walk} (ex : hsExists hs = true) (walk : (s.hub.slice hs.toNat).walk = some w)
    (e : LookupErr) (intervened : Bool) : exec (.reclaimWalkVisit hs e intervened) s =
      .next (s.withHub fun h => ((h.setVisited hs.toNat w e intervened).revisited hs.toNat w.mask).tryEndWalk hs.toNat) := by
  refine (if_pos ex).trans (congrArg (fun h => Host.Outcome.next { s with hub := h }) ?_)
  simp only [walk]
  rfl

/-! ### Progress -/

theorem visits_revisited (h : Hub) (n : Nat) (mask : BitVec 128) : h.Visits (h.revisited n mask) := by
  refine visits_foldl (fun h x => ?_) _ h
  refine Hub.Visits.trans ?_ (visits_visitWay _ n mask x.1 x.2.toNat)
  exact visits_onSlice _ _ _ (course_onWalk fun _ => rfl)

/-- A walk that has sets left does not end. -/
theorem tryEndWalk_left {h : Hub} {n : Nat} {mask : BitVec 128} {set : BitVec 14} {left : Nat} (some : 0 < left)
    (course : (h.slice n).course = .some (mask, set, left)) : h.tryEndWalk n = h := by
  simp only [Slice.course, Option.map_eq_some_iff, Prod.mk.injEq] at course
  obtain ⟨w, walk, -, -, rfl⟩ := course
  simp [Hub.tryEndWalk, walk, Nat.ne_of_gt some]

/-- The walk of a slice stands at a set, with sets left. -/
theorem walk_of_course {s : Slice} {mask : BitVec 128} {set : BitVec 14} {left : Nat} (course : s.course = some (mask, set, left)) :
    ∃ v, s.walk = some v ∧ v.mask = mask ∧ v.set = set ∧ v.left = left := by
  simpa only [Slice.course, Option.map_eq_some_iff, Prod.mk.injEq] using course

theorem course_of_walk {s : Slice} {w : Walk} (walk : s.walk = some w) : s.course = some (w.mask, w.set, w.left) := by simp [Slice.course, walk]

theorem course_walkOn {h : Hub} {n : Nat} {mask : BitVec 128} {set : BitVec 14} {left : Nat}
    (course : (h.slice n).course = some (mask, set, left)) : ((h.walkOn n).slice n).course = some (mask, set + 1, left - 1) := by
  obtain ⟨v, walk, rfl, rfl, rfl⟩ := walk_of_course course
  simp [Hub.walkOn, Slice.course, walk]

/-- Where the walk stands after the visit of its set. -/
theorem setVisited_course {h : Hub} {n : Nat} {w : Walk} (walk : (h.slice n).walk = some w) (some : 0 < w.left) (e : LookupErr) :
    ((h.setVisited n w e false).slice n).course =
      if (upTo 16).any fun k => (walked h n w e).walkWaits n w.mask w.set k then .some (w.mask, w.set, w.left)
      else .some (w.mask, w.set + 1, w.left - 1) := by
  have stays := ((visits_walked h n w e).course n).trans (course_of_walk walk)
  rw [Hub.setVisited, if_neg (by simp; omega)]
  split
  · exact stays
  · exact course_walkOn stays

theorem setVisited_frame (h : Hub) (n : Nat) (w : Walk) (e : LookupErr) (intervened : Bool) :
    Hub.sameVisit h (h.setVisited n w e intervened) := by
  unfold Hub.setVisited
  split
  · simp
  · have frame := (visits_walked h n w e).frame
    split
    · exact frame
    · exact frame.trans (by simp [Hub.walkOn])

/-- A step of a walk that has sets left afterwards ends with its revisits. -/
theorem reclaimWalkVisit_goes {s : State} {hs : BitVec 7} {w : Walk} (ex : hsExists hs = true)
    (walk : (s.hub.slice hs.toNat).walk = some w) (e : LookupErr) (intervened : Bool) {set : BitVec 14} {left : Nat} (some : 0 < left)
    (course : ((s.hub.setVisited hs.toNat w e intervened).slice hs.toNat).course = .some (w.mask, set, left)) :
    ∃ t, exec (.reclaimWalkVisit hs e intervened) s = .next t ∧ onlyIn visitParts s t ∧
      ∃ v, (t.hub.slice hs.toNat).walk = .some v ∧ v.mask = w.mask ∧ v.set = set ∧ v.left = left := by
  have again := visits_revisited (s.hub.setVisited hs.toNat w e intervened) hs.toNat w.mask
  have stands := (again.course hs.toNat).trans course
  have row := reclaimWalkVisit_row ex walk e intervened
  simp only [State.withHub, tryEndWalk_left some stands] at row
  have frame := setVisited_frame s.hub hs.toNat w e intervened
  exact ⟨_, row, onlyIn_trans (onlyIn_visit frame) (onlyIn_visit (s := { s with hub := _ }) again.frame), walk_of_course stands⟩

/-! ### The end -/

/-- The parts that the end of a walk writes. -/
theorem onlyIn_endWalk (s : State) (n : Nat) : onlyIn ([Part.slices] ++ eventParts) s (s.withHub fun h => h.endWalk n) := by
  intro q hq
  cases q <;> simp [eventParts] at hq <;> simp [Part.same, State.withHub]

theorem endWalk_slice (h : Hub) (n m : Nat) : (h.endWalk n).slice m = (h.onSlice n fun s => { s with walk := none }).slice m :=
  slice_raise ..

theorem reclaimWalkVisit_ends {s : State} {hs : BitVec 7} {w : Walk} (ex : hsExists hs = true)
    (walk : (s.hub.slice hs.toNat).walk = some w) (nothing : w.left = 0) (listed : w.revisit = []) (e : LookupErr) :
    ∃ t, exec (.reclaimWalkVisit hs e false) s = .next t ∧ onlyIn ([Part.slices] ++ eventParts) s t ∧
      otherSlices s.hub t.hub hs.toNat ∧ (t.hub.slice hs.toNat).walk = none ∧ raised t.hub evSfReclaimDone := by
  have row : exec (.reclaimWalkVisit hs e false) s = .next (s.withHub fun h => h.endWalk hs.toNat) := by
    rw [reclaimWalkVisit_row ex walk]
    have due : s.hub.revisitsDue hs.toNat = [] := by simp [Hub.revisitsDue, walk, Slice.unpinnedRevisits, listed]
    simp [State.withHub, Hub.setVisited, Hub.revisited, due, Hub.tryEndWalk, walk, nothing, listed]
  refine ⟨_, row, onlyIn_endWalk s _, fun m other => ?_, ?_, raised_raise ..⟩
  · exact (endWalk_slice ..).trans (Hub.slice_onSlice_ne _ _ _ _ other)
  · exact congrArg Slice.walk ((endWalk_slice ..).trans (Hub.slice_onSlice_self ..))

end Sys2Proof.Machine
end

section
/-!
SUPPORT. The start of a back-invalidation (R94, R102): its snoops, and that it waits for the agent that it has snooped.
-/
namespace Sys2Proof.Machine
open Sys2Proof.Safety

/-! ### Snoops -/

/-- `k` is `h` after snoops have been sent: nothing but the agent ports, the counters and what was sent has changed, and no snoop has left a port. -/
structure Hub.Snoops (h k : Hub) : Prop where
  apart : k = { h with aps := k.aps, pmc := k.pmc, freeCtr := k.freeCtr, out := k.out }
  kept : ∀ p, ∀ n ∈ (h.ap p).snoops, n ∈ (k.ap p).snoops

theorem Hub.Snoops.refl (h : Hub) : h.Snoops h := ⟨rfl, fun _ _ mem => mem⟩

theorem Hub.Snoops.trans {h k m : Hub} (first : h.Snoops k) (second : k.Snoops m) : h.Snoops m := by
  refine ⟨?_, fun p n mem => second.kept p n (first.kept p n mem)⟩
  have last := second.apart
  rw [first.apart] at last
  exact last

section
variable {h k : Hub} (H : h.Snoops k)
include H

theorem Hub.Snoops.agents : k.agents = h.agents := by rw [H.apart]
theorem Hub.Snoops.agent (a : La) : k.agent a = h.agent a := by rw [Hub.agent, H.agents, Hub.agent]
theorem Hub.Snoops.round : k.round = h.round := by rw [H.apart]
theorem Hub.Snoops.slice (m : Nat) : k.slice m = h.slice m := Hub.slice_congr _ _ m (by rw [H.apart])
theorem Hub.Snoops.snoopable (a : La) : Safety.snoopable k a ↔ Safety.snoopable h a := by rw [Safety.snoopable, H.agent, Safety.snoopable]

end

theorem snoops_ite {h a b : Hub} {c : Prop} [Decidable c] (yes : h.Snoops a) (no : h.Snoops b) : h.Snoops (if c then a else b) := by
  split
  · exact yes
  · exact no

theorem snoops_foldl {α : Type} {g : Hub → α → Hub} (step : ∀ (h : Hub) x, h.Snoops (g h x)) (l : List α) (h : Hub) :
    h.Snoops (l.foldl g h) := foldl_related .refl .trans step l h

theorem snoops_count (h : Hub) (ev unit n : Nat) : h.Snoops (h.count ev unit n) := by
  unfold Hub.count
  exact snoops_ite (.refl h) ⟨rfl, fun _ _ mem => mem⟩

theorem snoops_emit (h : Hub) (m : OutMsg) : h.Snoops (h.emit m) := ⟨rfl, fun _ _ mem => mem⟩
theorem snoops_moved (h : Hub) (src dst : Nat) (data : Bool) (n : Nat) : h.Snoops (h.moved src dst data n) := ⟨rfl, fun _ _ mem => mem⟩
theorem snoops_ejected (h : Hub) (dst : Nat) (data : Bool) (n : Nat) : h.Snoops (h.ejected dst data n) := ⟨rfl, fun _ _ mem => mem⟩

theorem snoops_onAp (h : Hub) (p : BitVec 4) (f : ApPort → ApPort) (H : ∀ n ∈ (h.ap p).snoops, n ∈ (f (h.ap p)).snoops) :
    h.Snoops (h.onAp p f) := by
  refine ⟨rfl, fun q n mem => ?_⟩
  by_cases same : q = p
  · subst same
    rw [Hub.ap_onAp_self]
    exact H n mem
  · rwa [Hub.ap_onAp_ne h p q f same]

theorem snoops_passMsg (h : Hub) (p : BitVec 4) (src : Nat) (m : AgentMsg) : h.Snoops (h.passMsg p src m) := by
  have passed : h.Snoops ((h.onAp p fun a => { a.spend m with frame := a.frame.queue m.units }).emit (.agent p m)) :=
    (snoops_onAp h p (fun a => { a.spend m with frame := a.frame.queue m.units }) fun _ mem => mem).trans (snoops_emit ..)
  exact snoops_ite passed (passed.trans (snoops_moved ..))

theorem snoops_passOrStall (h : Hub) (p : BitVec 4) (src : Nat) (m : AgentMsg) : h.Snoops (h.passOrStall p src m).1 := by
  unfold Hub.passOrStall
  split
  · exact snoops_passMsg ..
  · exact snoops_onAp h p (fun a => { a with stalled := a.stalled ++ [(src, m)] }) fun _ mem => mem

/-- A snoop without a credit waits, and no event reports that (R249). -/
theorem snoops_toAgent (h : Hub) (src : Nat) {m : AgentMsg} (snp : m.cls = .snp) (bare : m.takesDat = false) : h.Snoops (h.toAgent src m) := by
  have silent (p : BitVec 4) : (h.passOrStall p src m).2 = false := by
    unfold Hub.passOrStall
    dsimp only
    split
    · rfl
    · simp [snp, bare]
  unfold Hub.toAgent
  simp only [silent, Bool.false_eq_true, if_false]
  exact snoops_ite (.refl h) (snoops_passOrStall ..)

theorem msgClass_snp (op : SnpOp) : msgClass op.opc = .snp := by
  cases op <;> rfl

/-- The message of a snoop. -/
def Snoop.msg (sn : Snoop) (la : La) (crit : Bool) : AgentMsg := { agentMsg sn.op.opc sn.gaid sn.txid sn.line la with once := sn.once, crit := crit }

theorem Snoop.msg_cls (sn : Snoop) (la : La) (crit : Bool) : (sn.msg la crit).cls = .snp := by
  simp [AgentMsg.cls, AgentMsg.takesDat, Snoop.msg, agentMsg, msgClass_snp]

/-- A snoop as an agent's port keeps it. -/
def Snoop.sentTo (sn : Snoop) (h : Hub) (la : La) : Snoop := { sn with la := la, port := (h.agent la).port, offered := h.round + 1 }

/-- An agent that takes snoops is sent one. -/
theorem snoopOne_sent {h : Hub} {la : La} (can : snoopable h la) (hs : Nat) (sn : Snoop) (crit : Bool) :
    h.snoopOne hs sn crit la = (((((h.count 0x020 sn.ls.toNat 1).onAp (h.agent la).port fun p => { p with
      snoops := p.snoops ++ [sn.sentTo (h.count 0x020 sn.ls.toNat 1) la] }).toAgent hs (sn.msg la crit)).count 0x020
        (0x50 + (h.agent la).port.toNat) 1), none) := by
  obtain ⟨online, live, caches, awake⟩ := can
  have same : (h.count 0x020 sn.ls.toNat 1).agent la = h.agent la := (snoops_count ..).agent la
  simp only [Hub.snoopOne, online, live, caches, awake, Snoop.sentTo, same, Bool.not_true, Bool.or_self, Bool.false_eq_true, if_false]
  rfl

/-- Another is answered for (R142, R253, R412). -/
theorem snoopOne_answered {h : Hub} {la : La} (cannot : ¬snoopable h la) (hs : Nat) (sn : Snoop) (crit : Bool) :
    ∃ dead, h.snoopOne hs sn crit la = (h.count 0x020 sn.ls.toNat 1, some ⟨la, .i, 0, dead⟩) := by
  unfold Hub.snoopOne
  dsimp only
  split
  · exact ⟨_, rfl⟩
  · split
    · exact ⟨_, rfl⟩
    · next live awake =>
        simp only [Bool.not_eq_true, Bool.or_eq_false_iff, Bool.not_eq_false'] at live awake
        exact absurd ⟨live.1, live.2, awake.1, awake.2⟩ cannot

theorem snoops_snoopOne (h : Hub) (hs : Nat) (sn : Snoop) (crit : Bool) (la : La) : h.Snoops (h.snoopOne hs sn crit la).1 := by
  by_cases can : snoopable h la
  · rw [snoopOne_sent can]
    have listed := snoops_onAp (h.count 0x020 sn.ls.toNat 1) (h.agent la).port (fun p => { p with
      snoops := p.snoops ++ [sn.sentTo (h.count 0x020 sn.ls.toNat 1) la] }) fun _ mem => List.mem_append_left _ mem
    exact (((snoops_count ..).trans listed).trans (snoops_toAgent _ hs (sn.msg_cls la crit) rfl)).trans (snoops_count _ _ _ 1)
  · obtain ⟨dead, eq⟩ := snoopOne_answered can hs sn crit
    rw [eq]
    exact snoops_count h _ _ 1

/-- The snoop of an agent that takes it stands at the agent's port. -/
theorem snoopOne_listed {h : Hub} {la : La} (can : snoopable h la) (hs : Nat) (sn : Snoop) (crit : Bool) :
    sn.sentTo h la ∈ ((h.snoopOne hs sn crit la).1.ap (h.agent la).port).snoops := by
  have counted := snoops_count h 0x020 sn.ls.toNat 1
  have same : sn.sentTo (h.count 0x020 sn.ls.toNat 1) la = sn.sentTo h la := by
    rw [Snoop.sentTo, counted.agent, counted.round, Snoop.sentTo]
  rw [snoopOne_sent can]
  refine ((snoops_toAgent _ _ (sn.msg_cls la crit) rfl).trans (snoops_count ..)).kept _ _ ?_
  rw [Hub.ap_onAp_self, same]
  exact List.mem_append_right _ (List.mem_singleton.2 rfl)

/-! ### Snoops of a list of agents -/

theorem snoops_snoopEach (hs : Nat) (sn : Snoop) (crit : Bool) (las : List La) : ∀ h : Hub, h.Snoops (Hub.snoopEach hs sn crit las h).1 := by
  induction las with
  | nil => exact .refl
  | cons la las ih =>
    intro h
    have first := snoops_snoopOne h hs sn crit la
    unfold Hub.snoopEach
    dsimp only
    split
    · exact first.trans (ih _)
    · exact first.trans (ih _)

/-- Only agents that take no snoops are answered for. -/
theorem snoopEach_answers (hs : Nat) (sn : Snoop) (crit : Bool) (las : List La) :
    ∀ h : Hub, ∀ a ∈ (Hub.snoopEach hs sn crit las h).2, ¬snoopable h a.la := by
  induction las with
  | nil => exact fun h a mem => absurd mem List.not_mem_nil
  | cons la las ih =>
    intro h a mem
    have first := snoops_snoopOne h hs sn crit la
    have later (old : a ∈ (Hub.snoopEach hs sn crit las (h.snoopOne hs sn crit la).1).2) : ¬snoopable h a.la :=
      fun can => ih _ a old ((first.snoopable a.la).2 can)
    unfold Hub.snoopEach at mem
    by_cases can : snoopable h la
    · rw [snoopOne_sent can] at mem later
      exact later mem
    · obtain ⟨dead, eq⟩ := snoopOne_answered can hs sn crit
      rw [eq] at mem later
      rcases List.mem_cons.1 mem with rfl | old
      · exact can
      · exact later old

/-- Every agent of the list that takes snoops has one at its port. -/
theorem snoopEach_listed (hs : Nat) (sn : Snoop) (crit : Bool) {la : La} (las : List La) : ∀ h : Hub, la ∈ las → snoopable h la →
    sn.sentTo h la ∈ ((Hub.snoopEach hs sn crit las h).1.ap (h.agent la).port).snoops := by
  induction las with
  | nil => exact fun h mem => absurd mem List.not_mem_nil
  | cons b las ih =>
    intro h mem can
    have first := snoops_snoopOne h hs sn crit b
    have rest : (Hub.snoopEach hs sn crit (b :: las) h).1 = (Hub.snoopEach hs sn crit las (h.snoopOne hs sn crit b).1).1 := by
      rw [Hub.snoopEach]
      split <;> rfl
    rw [rest]
    rcases List.mem_cons.1 mem with rfl | later
    · exact (snoops_snoopEach hs sn crit las _).kept _ _ (snoopOne_listed can hs sn crit)
    · have sent := ih _ later ((first.snoopable la).2 can)
      rwa [Snoop.sentTo, first.agent, first.round] at sent

theorem snoops_multicast (h : Hub) (hs : Nat) (las : List La) : h.Snoops (h.multicast hs las) := by
  unfold Hub.multicast
  dsimp only
  split
  · exact .refl h
  · exact (snoops_moved ..).trans (snoops_foldl (fun _ _ => snoops_ejected ..) _ _)

theorem snoops_snoopAll (hs : Nat) (sn : Snoop) (crit : Bool) (las : List La) (h : Hub) : h.Snoops (Hub.snoopAll hs sn crit las h).1 :=
  (snoops_snoopEach ..).trans (snoops_multicast ..)

theorem snoopAll_listed (hs : Nat) (sn : Snoop) (crit : Bool) {la : La} {las : List La} {h : Hub} (mem : la ∈ las) (can : snoopable h la) :
    sn.sentTo h la ∈ ((Hub.snoopAll hs sn crit las h).1.ap (h.agent la).port).snoops :=
  (snoops_multicast ..).kept _ _ (snoopEach_listed hs sn crit las h mem can)

theorem snoopAll_answers (hs : Nat) (sn : Snoop) (crit : Bool) (las : List La) (h : Hub) :
    ∀ a ∈ (Hub.snoopAll hs sn crit las h).2, ¬snoopable h a.la := snoopEach_answers hs sn crit las h

/-! ### The in-flight entry -/

/-- A slice's back-invalidation of a line, in an entry of its engine, that waits for agents of a list, `la` among them. -/
structure Slice.Awaits (s : Slice) (l : Line) (idx : BitVec 2) (kind : BackKind) (las : List La) (la : La) (b : BackInv) : Prop where
  found : s.backOn l = some b
  entry : b.idx = idx
  purpose : b.kind = kind
  waits : la ∈ b.expect
  asked : b.expect.Sublist las

theorem Slice.Awaits.line {s : Slice} {l : Line} {idx : BitVec 2} {kind : BackKind} {las : List La} {la : La} {b : BackInv}
    (H : s.Awaits l idx kind las la b) : b ∈ s.backs ∧ b.line = l :=
  ⟨List.mem_of_find?_eq_some H.found, by simpa using List.find?_some H.found⟩

/-- `k` is `h` but for one slice, whose back-invalidation of a line waits, and for snoops that have been sent. -/
structure Hub.BackWaits (h k : Hub) (hs : Nat) (l : Line) (idx : BitVec 2) (kind : BackKind) (las : List La) (la : La) : Prop where
  apart : k = { h with slices := k.slices, aps := k.aps, pmc := k.pmc, freeCtr := k.freeCtr, out := k.out }
  kept : ∀ p, ∀ n ∈ (h.ap p).snoops, n ∈ (k.ap p).snoops
  others : otherSlices h k hs
  back : ∃ b, (k.slice hs).Awaits l idx kind las la b

section
variable {h k m : Hub} {hs : Nat} {l : Line} {idx : BitVec 2} {kind : BackKind} {las : List La} {la : La}

theorem Hub.BackWaits.refl {b : BackInv} (waits : (h.slice hs).Awaits l idx kind las la b) : h.BackWaits h hs l idx kind las la :=
  ⟨rfl, fun _ _ mem => mem, fun _ _ => rfl, b, waits⟩

theorem Hub.BackWaits.trans (first : h.BackWaits k hs l idx kind las la) (second : k.BackWaits m hs l idx kind las la) :
    h.BackWaits m hs l idx kind las la := by
  refine ⟨?_, fun p n mem => second.kept p n (first.kept p n mem), fun n other => (second.others n other).trans (first.others n other),
    second.back⟩
  have last := second.apart
  rw [first.apart] at last
  exact last

theorem Hub.BackWaits.snoops (H : h.BackWaits k hs l idx kind las la) (sent : k.Snoops m) : h.BackWaits m hs l idx kind las la := by
  obtain ⟨b, waits⟩ := H.back
  refine H.trans ⟨?_, sent.kept, fun n _ => sent.slice n, b, by rwa [sent.slice]⟩
  rw [sent.apart]

/-- A change of the slice after which the back-invalidation still waits. -/
theorem backWaits_onSlice {b : BackInv} {f : Slice → Slice} (still : (f (k.slice hs)).Awaits l idx kind las la b) :
    k.BackWaits (k.onSlice hs f) hs l idx kind las la :=
  ⟨rfl, fun _ _ mem => mem, fun n other => Hub.slice_onSlice_ne k hs n f other, b, by rwa [Hub.slice_onSlice_self]⟩

/-- It stays open while it waits. -/
theorem tryBack_waits (H : h.BackWaits k hs l idx kind las la) : k.tryBack hs l = k := by
  obtain ⟨b, waits⟩ := H.back
  have open_ : b.expect.isEmpty = false := by
    rw [List.isEmpty_eq_false_iff]
    exact List.ne_nil_of_mem waits.waits
  simp [Hub.tryBack, waits.found, open_]

/-- A change of the line's entries that strikes out another agent leaves one that waits. -/
theorem Slice.Awaits.struck {s : Slice} {b : BackInv} (H : s.Awaits l idx kind las la b) {f : BackInv → BackInv} {a : La} (other : a ≠ la)
    (same : ∀ x, (f x).line = x.line ∧ (f x).idx = x.idx ∧ (f x).kind = x.kind)
    (strikes : ∀ x, (f x).expect = x.expect.filter fun k => k != a) :
    Slice.Awaits { s with backs := List.mapIf (fun x => x.line == l) f s.backs } l idx kind las la (f b) := by
  obtain ⟨-, entry, purpose⟩ := same b
  refine ⟨find?_mapIf_self H.found (by simp [H.line.2]) fun x _ => by rw [(same x).1], entry.trans H.entry, purpose.trans H.purpose, ?_, ?_⟩
  · rw [strikes]
    exact List.mem_filter.2 ⟨H.waits, by simpa using Ne.symm other⟩
  · rw [strikes]
    exact (List.filter_sublist ..).trans H.asked

/-- The answer for another agent leaves it waiting. -/
theorem backAnswer_waits (H : h.BackWaits k hs l idx kind las la) {a : Answer} (other : a.la ≠ la) :
    h.BackWaits (k.backAnswer hs idx l a none) hs l idx kind las la := by
  unfold Hub.backAnswer
  split
  · exact H
  · obtain ⟨b, waits⟩ := H.back
    have after (f : BackInv → BackInv) (same : ∀ x, (f x).line = x.line ∧ (f x).idx = x.idx ∧ (f x).kind = x.kind)
        (strikes : ∀ x, (f x).expect = x.expect.filter fun k => k != a.la) : h.BackWaits
          ((k.onSlice hs fun s => { s with backs := List.mapIf (fun x => x.line == l) f s.backs }).tryBack hs l) hs l idx kind las la := by
      have step := H.trans (backWaits_onSlice (f := fun s => { s with backs := List.mapIf (fun x => x.line == l) f s.backs })
        (waits.struck other same strikes))
      rwa [tryBack_waits step]
    exact after _ (fun _ => ⟨rfl, rfl, rfl⟩) fun _ => rfl

theorem backAnswers_wait (answers : List Answer) : ∀ k, h.BackWaits k hs l idx kind las la → (∀ a ∈ answers, a.la ≠ la) →
    h.BackWaits (answers.foldl (fun h a => h.backAnswer hs idx l a none) k) hs l idx kind las la := by
  induction answers with
  | nil => exact fun k H _ => H
  | cons a answers ih =>
    exact fun k H others => ih _ (backAnswer_waits H (others a List.mem_cons_self)) fun b mem => others b (List.mem_cons_of_mem _ mem)

end

/-! ### The start (R94, R102) -/

/-- A new in-flight entry. -/
def BackInv.started (idx : BitVec 2) (kind : BackKind) (l : Line) (round : Nat) (v : SView) (las : List La) : BackInv :=
  { idx := idx, kind := kind, line := l, start := round, view := v, expect := las, hubs := [], data := false, due := 0, deadOwner := none }

/-- The hub with a new in-flight entry of a slice. -/
def Hub.addBack (h : Hub) (hs : Nat) (b : BackInv) : Hub := h.onSlice hs fun s => { s with backs := s.backs ++ [b] }

/-- The snoop of a back-invalidation. -/
def Hub.backSnoop (h : Hub) (idx : BitVec 2) (l : Line) (data : Bool) : Snoop :=
  Snoop.blank (if data then .data else .inv) l.ls (Gaid.mk h.num 0) (BitVec.ofNat 12 (l.ls.toNat * 4 + idx.toNat)) l (.backInv idx)

theorem addBack_awaits {s : Slice} {idx : BitVec 2} {kind : BackKind} {l : Line} {v : SView} {la : La} {las : List La} (round : Nat)
    (mem : la ∈ las) (free : s.backOn l = none) : Slice.Awaits { s with backs := s.backs ++ [BackInv.started idx kind l round v las] } l idx kind
      las la (BackInv.started idx kind l round v las) := by
  refine ⟨?_, rfl, rfl, mem, List.Sublist.refl _⟩
  rw [Slice.backOn] at free ⊢
  simp [List.find?_append, free, BackInv.started]

/-- The hub that has opened the entry of a back-invalidation and counted it. -/
def Hub.backBegun (h : Hub) (hs : Nat) (idx : BitVec 2) (kind : BackKind) (l : Line) (v : SView) (las : List La) : Hub :=
  (h.addBack hs (BackInv.started idx kind l h.round v las)).count 0x022 l.ls.toNat 1

section
variable {h : Hub} {hs : Nat} {idx : BitVec 2} {kind : BackKind} {l : Line} {v : SView} {la : La} {las : List La} {data : Bool}

theorem startBack_eq (targets : h.backTargets v l = (las, data)) : h.startBack hs idx kind l v =
    ((Hub.snoopAll hs (h.backSnoop idx l data) false las (h.backBegun hs idx kind l v las)).2.foldl (fun h a => h.backAnswer hs idx l a none)
      (Hub.snoopAll hs (h.backSnoop idx l data) false las (h.backBegun hs idx kind l v las)).1).tryBack hs l := by
  simp only [Hub.startBack, targets]
  rfl

/-- A back-invalidation that snoops an agent waits for it; its snoop stands at the agent's port. -/
theorem startBack_snoops (targets : h.backTargets v l = (las, data)) (mem : la ∈ las) (can : snoopable h la)
    (free : (h.slice hs).backOn l = none) : h.BackWaits (h.startBack hs idx kind l v) hs l idx kind las la ∧
      (h.backSnoop idx l data).sentTo h la ∈ ((h.startBack hs idx kind l v).ap (h.agent la).port).snoops := by
  have counted : (h.addBack hs (BackInv.started idx kind l h.round v las)).Snoops (h.backBegun hs idx kind l v las) := snoops_count ..
  have opened : h.BackWaits (h.addBack hs (BackInv.started idx kind l h.round v las)) hs l idx kind las la :=
    backWaits_onSlice (addBack_awaits h.round mem free)
  have able : snoopable (h.backBegun hs idx kind l v las) la := (counted.snoopable la).2 can
  have begun := (opened.snoops counted).snoops (snoops_snoopAll hs (h.backSnoop idx l data) false las _)
  have listed := snoopAll_listed hs (h.backSnoop idx l data) false mem able
  rw [Snoop.sentTo, counted.agent, counted.round] at listed
  obtain ⟨b, waits⟩ := begun.back
  have collected := backAnswers_wait _ _ (.refl waits) fun a answered same =>
    snoopAll_answers hs (h.backSnoop idx l data) false las (h.backBegun hs idx kind l v las) a answered (same ▸ able)
  rw [startBack_eq targets, tryBack_waits collected]
  exact ⟨begun.trans collected, collected.kept _ _ listed⟩

end

end Sys2Proof.Machine
end

section
/-!
CERTIFICATE. The reclaim walk, run-ahead and the sweeps of degraded ways (R93, R94, R102, R146, R147).
-/
namespace Sys2Proof.Machine
open Sys2Proof.Safety

/-! ### Run-ahead -/

theorem victim_backs (s : Slice) (set : BitVec 14) (n : Nat) : (s.victim set n).2.backs = s.backs ∧ (s.victim set n).2.sf = s.sf := by
  unfold Slice.victim
  dsimp only
  split
  · exact ⟨rfl, rfl⟩
  · exact ⟨rfl, rfl⟩

theorem victim_eligible {s : Slice} {set : BitVec 14} {n k : Nat} (victim : (s.victim set n).1 = some k) : k ∈ s.eligible set n := by
  unfold Slice.victim at victim
  dsimp only at victim
  split at victim
  · next w found =>
      cases victim
      exact List.mem_of_find?_eq_some found
  · exact List.mem_of_head? victim

/-- A victim's line is not pinned, so no back-invalidation runs on it (R90, R95). -/
theorem victim_free {s : Slice} {set : BitVec 14} {n k : Nat} (victim : (s.victim set n).1 = some k) :
    s.backOn (sfLine (sfWordTag (s.sfAt set k)) set) = none := by
  have eligible := (List.mem_filter.1 (victim_eligible victim)).2
  have free : s.pinned (sfLine (sfWordTag (s.sfAt set k)) set) n = false := by
    split at eligible <;> simp_all
  simp only [Slice.pinned, Slice.isOpen, Bool.or_eq_false_iff, Option.isSome_eq_false_iff, Option.isNone_iff_eq_none] at free
  exact free.1.1.2

/-- A trimmed slice differs in its queues alone. -/
theorem trimQueues_backWaits {h k : Hub} {hs : Nat} {l : Line} {idx : BitVec 2} {kind : BackKind} {las : List La} {la : La}
    (H : h.BackWaits k hs l idx kind las la) : h.BackWaits (k.trimQueues hs) hs l idx kind las la := by
  obtain ⟨b, waits⟩ := H.back
  exact H.trans (backWaits_onSlice (f := fun s => { s with
    runQ := s.runQ.filter fun x => decide (k.p 0x80 < s.usedWays x)
    sdRunQ := s.sdRunQ.filter fun x => decide (k.p 0x185 < s.usedHWays x) }) ⟨waits.found, waits.entry, waits.purpose, waits.waits, waits.asked⟩)

/-- The hub whose slice has chosen the victim of a queued set. -/
def Hub.victimChosen (h : Hub) (hs : Nat) (set : BitVec 14) : Hub :=
  (h.trimQueues hs).onSlice hs fun _ => (((h.trimQueues hs).slice hs).victim set h.round).2

/-- The choice of a victim depends on no queue. -/
theorem victim_queues (s : Slice) (q : List (BitVec 14)) (q' : List (BitVec 12)) (set : BitVec 14) (n : Nat) :
    (Slice.victim { s with runQ := q, sdRunQ := q' } set n).1 = (s.victim set n).1 := by
  have same : Slice.eligible { s with runQ := q, sdRunQ := q' } set n = s.eligible set n := rfl
  unfold Slice.victim
  dsimp only
  rw [same]
  split <;> rfl

theorem trimQueues_victim (h : Hub) (hs : Nat) (set : BitVec 14) (n : Nat) :
    (((h.trimQueues hs).slice hs).victim set n).1 = ((h.slice hs).victim set n).1 := by
  rw [Hub.trimQueues, Hub.slice_onSlice_self, victim_queues]

theorem trimQueues_freeBack (h : Hub) (hs : Nat) : (h.trimQueues hs).freeBack hs = h.freeBack hs := by
  unfold Hub.freeBack Hub.trimQueues
  rw [Hub.slice_onSlice_self]
  rfl

theorem victimChosen_slice (h : Hub) (hs : Nat) (set : BitVec 14) :
    ((h.victimChosen hs set).slice hs).sf = (h.slice hs).sf ∧ ((h.victimChosen hs set).slice hs).backs = (h.slice hs).backs := by
  rw [Hub.victimChosen, Hub.slice_onSlice_self, (victim_backs ..).1, (victim_backs ..).2, Hub.trimQueues, Hub.slice_onSlice_self]
  exact ⟨rfl, rfl⟩

/-- The parts that the start of a back-invalidation writes. -/
def backParts : List Part := [.slices, .aps, .pmc, .freeCtr, .out]

theorem onlyIn_backWaits {s : State} {k : Hub} {hs : Nat} {l : Line} {idx : BitVec 2} {kind : BackKind} {las : List La} {la : La}
    (H : s.hub.BackWaits k hs l idx kind las la) : onlyIn backParts s { s with hub := k } := by
  intro q hq
  have apart := H.apart
  cases q <;> simp [backParts] at hq <;> rw [Part.same, apart]

/-- What the start of a back-invalidation leaves, after changes of its slice. -/
theorem startBack_after {s : State} {m k : Hub} {hs : Nat} {idx : BitVec 2} {kind : BackKind} {l : Line} {las : List La} {la : La}
    (H : m.BackWaits k hs l idx kind las la) (frame : onlyIn [.slices] s { s with hub := m }) (others : otherSlices s.hub m hs) :
    onlyIn backParts s { s with hub := k } ∧ otherSlices s.hub k hs :=
  ⟨onlyIn_trans (onlyIn_mono (by decide) frame) (onlyIn_backWaits (s := { s with hub := m }) H),
    fun n other => (H.others n other).trans (others n other)⟩

theorem victimChosen_frame (s : State) (hs : Nat) (set : BitVec 14) :
    onlyIn [.slices] s { s with hub := s.hub.victimChosen hs set } ∧ otherSlices s.hub (s.hub.victimChosen hs set) hs :=
  ⟨onlyIn_trans (onlyIn_onSlice s hs _) (onlyIn_onSlice { s with hub := s.hub.trimQueues hs } hs _),
    fun m other => (Hub.slice_onSlice_ne _ hs m _ other).trans (Hub.slice_onSlice_ne _ hs m _ other)⟩

section
variable {s : State} {ls : BitVec 6} {idx : BitVec 2} {set : BitVec 14} {sets : List (BitVec 14)} {sets' : List (BitVec 12)} {k : Nat} {la : La}
  {l : Line} (idle : (s.hub.slice (s.hub.hsOf ls)).walk = none) (serves : s.hub.drains (s.hub.hsOf ls) s.hub.round = false)
  (entry : s.hub.freeBack (s.hub.hsOf ls) = some idx)
  (queued : (s.hub.trimQueues (s.hub.hsOf ls)).aheadSets (s.hub.hsOf ls) = (set :: sets, sets'))
  (victim : ((s.hub.slice (s.hub.hsOf ls)).victim set s.hub.round).1 = some k)
  (owned : (s.hub.slice (s.hub.hsOf ls)).viewAt set k = some (.own la))
include idle serves entry queued victim owned

theorem runahead_row : exec (.runaheadSelection ls) s = .next { s with
    hub := ((s.hub.victimChosen (s.hub.hsOf ls) set).startBack (s.hub.hsOf ls) idx .runAhead
      (sfLine (sfWordTag ((s.hub.slice (s.hub.hsOf ls)).sfAt set k)) set) (.own la)).trimQueues (s.hub.hsOf ls) } := by
  refine congrArg (fun h => Host.Outcome.next { s with hub := h }) ?_
  have sf := sfAt_congr (victimChosen_slice s.hub (s.hub.hsOf ls) set).1 set k
  have chosen := (trimQueues_victim s.hub (s.hub.hsOf ls) set s.hub.round).trans victim
  have view : SView.ofWord ((s.hub.slice (s.hub.hsOf ls)).sfAt set k) = some (.own la) := owned
  simp only [idle, serves, trimQueues_freeBack, entry, queued, Option.isSome_none, Bool.or_self, Bool.false_eq_true, if_false,
    show (s.hub.trimQueues (s.hub.hsOf ls)).round = s.hub.round from rfl, chosen]
  rw [← Hub.victimChosen, sf, view]
  rfl

/-- Run-ahead snoops the owner of its victim with `SNP_DATA` (R94). -/
theorem runahead_starts (can : snoopable s.hub la)
    (line : l = sfLine (sfWordTag ((s.hub.slice (s.hub.hsOf ls)).sfAt set k)) set) :
    ∃ t, exec (.runaheadSelection ls) s = .next t ∧ onlyIn backParts s t ∧ otherSlices s.hub t.hub (s.hub.hsOf ls) ∧
      (∃ b ∈ (t.hub.slice (s.hub.hsOf ls)).backs, b.line = l ∧ b.idx = idx ∧ b.kind = .runAhead ∧ b.expect = [la]) ∧
      ∃ n ∈ (t.hub.ap (s.hub.agent la).port).snoops, n.la = la ∧ n.line = l ∧ n.op = .data ∧ n.offered = s.hub.round + 1 := by
  have row := runahead_row idle serves entry queued victim owned
  have chosen := victimChosen_slice s.hub (s.hub.hsOf ls) set
  have free := victim_free victim
  rw [← line] at row free
  generalize s.hub.hsOf ls = hs at row chosen free ⊢
  have free' : ((s.hub.victimChosen hs set).slice hs).backOn l = none := by rwa [Slice.backOn, chosen.2]
  obtain ⟨begun, listed⟩ := startBack_snoops (idx := idx) (kind := .runAhead) (h := s.hub.victimChosen hs set) (v := .own la) rfl
    List.mem_cons_self can free'
  have waits := trimQueues_backWaits begun
  obtain ⟨b, found⟩ := waits.back
  have asked : b.expect = [la] := found.asked.eq_of_length_le (List.length_pos_of_mem found.waits)
  obtain ⟨sliced, others⟩ := victimChosen_frame s hs set
  obtain ⟨frame, apart⟩ := startBack_after waits sliced others
  exact ⟨_, row, frame, apart, ⟨b, found.line.1, found.line.2, found.entry, found.purpose, asked⟩, _, listed, rfl, rfl, rfl, rfl⟩

end

/-! ### Sweeps (R102) -/

/-- What a sweep's next move does to the hub (R102). -/
def Hub.sweepMoved (h : Hub) (hs : Nat) (set : BitVec 14) (way : BitVec 4) (x : Sweep) : SweepMove → Hub
  | .wait => h
  | .ended => h.endSweeps hs
  | .pass => (h.advanceSweep hs x false false).endSweeps hs
  | .list => h.advanceSweep hs x true false
  | .start l =>
    match h.freeBack hs with
    | none => h
    | some idx =>
      if !(h.aheadSets hs).1.isEmpty || !(h.aheadSets hs).2.isEmpty then h
      else (h.advanceSweep hs x false true).startBack hs idx (.sweep set way) l (.deg false)

/-- A sweep whose pointer has moved on, past a candidate that it lists or has started. -/
theorem advanceSweep_sweepOf {h : Hub} {hs : Nat} {set : BitVec 14} {way : BitVec 4} {x : Sweep}
    (found : (h.slice hs).sweepOf false set way.toNat = some x) (skip live : Bool) :
    ((h.advanceSweep hs x skip live).slice hs).sweepOf false set way.toNat = some { x with
      ptr := x.ptr + 1
      skip := if skip then x.skip ++ [x.ptr] else x.skip
      live := if live then x.live + 1 else x.live } := by
  rw [Hub.advanceSweep, Hub.slice_onSlice_self]
  exact find?_mapIf_self found (by simp) fun y _ => rfl

theorem advanceSweep_backOn (h : Hub) (hs : Nat) (x : Sweep) (skip live : Bool) (l : Line) :
    ((h.advanceSweep hs x skip live).slice hs).backOn l = (h.slice hs).backOn l := by
  rw [Hub.advanceSweep, Hub.slice_onSlice_self]
  rfl

theorem advanceSweep_domain (h : Hub) (hs : Nat) (x : Sweep) (skip live : Bool) (l : Line) :
    (h.advanceSweep hs x skip live).domain l = h.domain l := by
  simp only [Hub.domain, Hub.domainMask, classify_congr (h := h) (k := h.advanceSweep hs x skip live) rfl rfl]
  rfl

section
variable {s : State} {ls : BitVec 6} {set : BitVec 14} {way : BitVec 4} {x : Sweep} (idle : (s.hub.slice (s.hub.hsOf ls)).walk = none)
  (serves : s.hub.drains (s.hub.hsOf ls) s.hub.round = false) (found : (s.hub.slice (s.hub.hsOf ls)).sweepOf false set way.toNat = some x)
include idle serves found

theorem sweepStep_row : exec (.sweepStep ls false set way) s = .next { s with
    hub := s.hub.sweepMoved (s.hub.hsOf ls) set way x (s.hub.sweepMove (s.hub.hsOf ls) ls x) } := by
  refine congrArg (fun h => Host.Outcome.next { s with hub := h }) ?_
  simp only [found, idle, serves, Option.isSome_none, Bool.or_self, Bool.false_eq_true, if_false]
  cases s.hub.sweepMove (s.hub.hsOf ls) ls x <;> rfl

theorem sweepStep_waits (move : s.hub.sweepMove (s.hub.hsOf ls) ls x = .wait) : exec (.sweepStep ls false set way) s = .next s := by
  rw [sweepStep_row idle serves found, move, Hub.sweepMoved]

theorem sweepStep_lists (move : s.hub.sweepMove (s.hub.hsOf ls) ls x = .list) :
    ∃ t, exec (.sweepStep ls false set way) s = .next t ∧ onlyIn [.slices] s t ∧ otherSlices s.hub t.hub (s.hub.hsOf ls) ∧
      (t.hub.slice (s.hub.hsOf ls)).sweepOf false set way.toNat = some { x with ptr := x.ptr + 1, skip := x.skip ++ [x.ptr] } := by
  have row := sweepStep_row idle serves found
  rw [move, Hub.sweepMoved] at row
  exact ⟨_, row, onlyIn_onSlice s _ _, otherSlices_onSlice s.hub _ _, advanceSweep_sweepOf found true false⟩

/-- A sweep searches its candidate's owner among the agents of the line's domain (R102). -/
theorem sweepStep_starts {idx : BitVec 2} {l : Line} {la : La} (move : s.hub.sweepMove (s.hub.hsOf ls) ls x = .start l)
    (entry : s.hub.freeBack (s.hub.hsOf ls) = some idx) (quiet : s.hub.aheadSets (s.hub.hsOf ls) = ([], [])) (mem : la ∈ s.hub.domain l)
    (can : snoopable s.hub la) (free : (s.hub.slice (s.hub.hsOf ls)).backOn l = none) :
    ∃ t, exec (.sweepStep ls false set way) s = .next t ∧ onlyIn backParts s t ∧ otherSlices s.hub t.hub (s.hub.hsOf ls) ∧
      (∃ b ∈ (t.hub.slice (s.hub.hsOf ls)).backs, b.line = l ∧ b.kind = .sweep set way ∧ la ∈ b.expect) ∧
      ∃ n ∈ (t.hub.ap (s.hub.agent la).port).snoops, n.la = la ∧ n.line = l ∧ n.op = .data := by
  have row := sweepStep_row idle serves found
  simp only [Hub.sweepMoved, move, entry, quiet, List.isEmpty_nil, Bool.not_true, Bool.or_self, Bool.false_eq_true, if_false] at row
  generalize s.hub.hsOf ls = hs at row free ⊢
  have there : la ∈ (s.hub.advanceSweep hs x false true).domain l := by rwa [advanceSweep_domain]
  obtain ⟨waits, listed⟩ := startBack_snoops (idx := idx) (kind := .sweep set way) (v := .deg false) rfl there can
    ((advanceSweep_backOn s.hub ..).trans free)
  obtain ⟨b, open_⟩ := waits.back
  obtain ⟨frame, apart⟩ := startBack_after waits (onlyIn_onSlice s hs _) (otherSlices_onSlice s.hub hs _)
  exact ⟨_, row, frame, apart, ⟨b, open_.line.1, open_.line.2, open_.purpose, open_.waits⟩, _, listed, rfl, rfl, rfl⟩

end

/-! ### The obligation -/

/-- Where a walk's step leaves it, by whether a way of its set has to wait. -/
theorem reclaimWalkVisit_steps {s : State} {hs : BitVec 7} {w : Walk} (ex : hsExists hs = true)
    (walk : (s.hub.slice hs.toNat).walk = some w) (more : 1 < w.left) (e : LookupErr) :
    ∃ t, exec (.reclaimWalkVisit hs e false) s = .next t ∧ onlyIn visitParts s t ∧
      ∃ v, (t.hub.slice hs.toNat).walk = some v ∧ v.mask = w.mask ∧
        ((∀ k, k < 16 → (walked s.hub hs.toNat w e).walkWaits hs.toNat w.mask w.set k = false) →
          v.set = w.set + 1 ∧ v.left = w.left - 1) ∧
        ∀ k, k < 16 → (walked s.hub hs.toNat w e).walkWaits hs.toNat w.mask w.set k = true → v.set = w.set ∧ v.left = w.left := by
  have course := setVisited_course walk (by omega) e
  by_cases waits : ((upTo 16).any fun k => (walked s.hub hs.toNat w e).walkWaits hs.toNat w.mask w.set k) = true
  · rw [if_pos waits] at course
    obtain ⟨t, row, frame, v, there, mask, set, left⟩ := reclaimWalkVisit_goes ex walk e false (by omega) course
    refine ⟨t, row, frame, v, there, mask, fun none => ?_, fun k _ _ => ⟨set, left⟩⟩
    obtain ⟨k, mem, wait⟩ := List.any_eq_true.1 waits
    exact absurd wait (by simp [none k (List.mem_range.1 mem)])
  · rw [if_neg waits] at course
    obtain ⟨t, row, frame, v, there, mask, set, left⟩ := reclaimWalkVisit_goes ex walk e false (by omega) course
    refine ⟨t, row, frame, v, there, mask, fun _ => ⟨set, left⟩, fun k lt wait => ?_⟩
    exact absurd (List.any_eq_true.2 ⟨k, List.mem_range.2 lt, wait⟩) waits

/-- A step that a service write came between leaves the walk at its set. -/
theorem reclaimWalkVisit_repeats {s : State} {hs : BitVec 7} {w : Walk} (ex : hsExists hs = true)
    (walk : (s.hub.slice hs.toNat).walk = some w) (more : 0 < w.left) (e : LookupErr) :
    ∃ t, exec (.reclaimWalkVisit hs e true) s = .next t ∧ onlyIn visitParts s t ∧
      ∃ v, (t.hub.slice hs.toNat).walk = some v ∧ v.set = w.set ∧ v.left = w.left ∧ v.mask = w.mask := by
  have course : ((s.hub.setVisited hs.toNat w e true).slice hs.toNat).course = some (w.mask, w.set, w.left) := by
    simpa [Hub.setVisited] using course_of_walk walk
  obtain ⟨t, row, frame, v, there, mask, set, left⟩ := reclaimWalkVisit_goes ex walk e true more course
  exact ⟨t, row, frame, v, there, set, left, mask⟩

/-- Settles O13: the walk by what its set makes it wait for, run-ahead by its victim, a sweep by its next move (assumption logs 24 and 80). -/
theorem backgroundWalksAdvance : Obligations.BackgroundWalksAdvance := by
  unfold Obligations.BackgroundWalksAdvance
  intro s hs e w ls idx set sets sets' k la way x l
  refine ⟨fun ex walk more => reclaimWalkVisit_steps ex walk more e, fun ex walk more => reclaimWalkVisit_repeats ex walk more e,
    fun ex walk nothing listed => reclaimWalkVisit_ends ex walk nothing listed e, runahead_starts, fun idle serves found => ⟨?_, ?_, ?_⟩⟩
  · exact sweepStep_waits idle serves found
  · exact sweepStep_lists idle serves found
  · exact sweepStep_starts idle serves found

end Sys2Proof.Machine
end
